-- ==== Sys2Proof/Word.lean ====
section
/-! DEFINITION. The word types of the D9 and the plainest arithmetic on them (00_scope.md R3). -/

namespace Sys2Proof

/-- One byte of memory. -/
abbrev Byte := BitVec 8
/-- One 32-bit register or instruction word. -/
abbrev Word := BitVec 32
/-- One 64-bit value: a register pair or a reference. -/
abbrev Dword := BitVec 64

/-- Two 32-bit halves as one 64-bit value, low word in the even register (R28). -/
def joinWords (hi lo : Word) : Dword := hi ++ lo

/-- The low word of a pair. -/
def loWord (x : Dword) : Word := x.setWidth 32

/-- The high word of a pair. -/
def hiWord (x : Dword) : Word := (x >>> 32).setWidth 32

/-- Ceiling division of naturals. -/
def ceilDiv (a b : Nat) : Nat := (a + b - 1) / b

end Sys2Proof
end

