-- ==== Sys2Proof/Syntax.lean ====
section
/-! DEFINITION. The ONE inductive of instructions: one constructor per row of spec/opcode_table.json. A core word and a
near-bank word carry the bit fields of their encoding (02_encoding.md, 24_nearmem.md R408); an event carries the
parameters of the engine step it names (95_what_each_step_holds.md). -/

namespace Sys2Proof

/-- One step of the D9: an Unmir word, a near-bank microcode word, or an event of an engine. -/
inductive Instr where
  /-- R144: Lane add modulo 2^32 of two sources into a v register. -/
  | add (g : BitVec 4) (d : BitVec 7) (a : BitVec 7) (b : BitVec 7)
  /-- R144: Lane subtract modulo 2^32. -/
  | sub (g : BitVec 4) (d : BitVec 7) (a : BitVec 7) (b : BitVec 7)
  /-- R144: Lane multiply, low 32 bits. -/
  | mul (g : BitVec 4) (d : BitVec 7) (a : BitVec 7) (b : BitVec 7)
  /-- R144: Lane signed multiply, high 32 bits. -/
  | mulhi (g : BitVec 4) (d : BitVec 7) (a : BitVec 7) (b : BitVec 7)
  /-- R144: Lane unsigned multiply, high 32 bits. -/
  | mulhn (g : BitVec 4) (d : BitVec 7) (a : BitVec 7) (b : BitVec 7)
  /-- R144: Lane bitwise AND. -/
  | and (g : BitVec 4) (d : BitVec 7) (a : BitVec 7) (b : BitVec 7)
  /-- R144: Lane bitwise OR. -/
  | or (g : BitVec 4) (d : BitVec 7) (a : BitVec 7) (b : BitVec 7)
  /-- R144: Lane bitwise XOR. -/
  | xor (g : BitVec 4) (d : BitVec 7) (a : BitVec 7) (b : BitVec 7)
  /-- R144: Lane shift left by b<7:0>, zero for counts of 32 or more. -/
  | shl (g : BitVec 4) (d : BitVec 7) (a : BitVec 7) (b : BitVec 7)
  /-- R144: Lane logical shift right. -/
  | shrn (g : BitVec 4) (d : BitVec 7) (a : BitVec 7) (b : BitVec 7)
  /-- R144: Lane arithmetic shift right. -/
  | shri (g : BitVec 4) (d : BitVec 7) (a : BitVec 7) (b : BitVec 7)
  /-- R144: Lane signed minimum. -/
  | mini (g : BitVec 4) (d : BitVec 7) (a : BitVec 7) (b : BitVec 7)
  /-- R144: Lane signed maximum. -/
  | maxi (g : BitVec 4) (d : BitVec 7) (a : BitVec 7) (b : BitVec 7)
  /-- R144: Lane unsigned minimum. -/
  | minn (g : BitVec 4) (d : BitVec 7) (a : BitVec 7) (b : BitVec 7)
  /-- R144: Lane unsigned maximum. -/
  | maxn (g : BitVec 4) (d : BitVec 7) (a : BitVec 7) (b : BitVec 7)
  /-- R144: Unguarded lane select of a or b by the predicate named in g4. -/
  | sel (p : BitVec 4) (d : BitVec 7) (a : BitVec 7) (b : BitVec 7)
  /-- R158: FP32 add rounded by rne. -/
  | fadd32 (g : BitVec 4) (d : BitVec 7) (a : BitVec 7) (b : BitVec 7)
  /-- R158: FP32 multiply rounded by rne. -/
  | fmul32 (g : BitVec 4) (d : BitVec 7) (a : BitVec 7) (b : BitVec 7)
  /-- R158: FP32 fused multiply-add into d. -/
  | ffma32 (g : BitVec 4) (d : BitVec 7) (a : BitVec 7) (b : BitVec 7)
  /-- R158: FP32 subtract rounded by rne. -/
  | fsub32 (g : BitVec 4) (d : BitVec 7) (a : BitVec 7) (b : BitVec 7)
  /-- R158: FP64 add on register pairs. -/
  | fadd64 (g : BitVec 4) (d : BitVec 7) (a : BitVec 7) (b : BitVec 7)
  /-- R158: FP64 multiply on register pairs. -/
  | fmul64 (g : BitVec 4) (d : BitVec 7) (a : BitVec 7) (b : BitVec 7)
  /-- R158: FP64 fused multiply-add on register pairs. -/
  | ffma64 (g : BitVec 4) (d : BitVec 7) (a : BitVec 7) (b : BitVec 7)
  /-- R159: Packed FP16 fused multiply-add on both halves. -/
  | ffma2h (g : BitVec 4) (d : BitVec 7) (a : BitVec 7) (b : BitVec 7)
  /-- R174: Lane 4-byte memory load at a reference plus scaled offset, tracked on seta. -/
  | ld32 (g : BitVec 4) (d : BitVec 7) (a : BitVec 7) (o : BitVec 7)
  /-- R174: Lane 8-byte memory load into a pair. -/
  | ld64 (g : BitVec 4) (d : BitVec 7) (a : BitVec 7) (o : BitVec 7)
  /-- R174: Lane 16-byte memory load into a quad. -/
  | ld128 (g : BitVec 4) (d : BitVec 7) (a : BitVec 7) (o : BitVec 7)
  /-- R174: Lane 4-byte memory store entering the warp's store queue. -/
  | st32 (g : BitVec 4) (d : BitVec 7) (a : BitVec 7) (o : BitVec 7)
  /-- R174: Lane 8-byte memory store from a pair. -/
  | st64 (g : BitVec 4) (d : BitVec 7) (a : BitVec 7) (o : BitVec 7)
  /-- R174: Lane 16-byte memory store from a quad. -/
  | st128 (g : BitVec 4) (d : BitVec 7) (a : BitVec 7) (o : BitVec 7)
  /-- R174: Lane 4-byte Lantern load at an allocation offset. -/
  | lds (g : BitVec 4) (d : BitVec 7) (a : BitVec 7) (o : BitVec 7)
  /-- R174: Lane 4-byte Lantern store. -/
  | sts (g : BitVec 4) (d : BitVec 7) (a : BitVec 7) (o : BitVec 7)
  /-- R146: Lane register move. -/
  | mov (g : BitVec 4) (d : BitVec 7) (a : BitVec 7)
  /-- R146: Lane bitwise complement. -/
  | not (g : BitVec 4) (d : BitVec 7) (a : BitVec 7)
  /-- R146: Lane two's-complement negate. -/
  | neg (g : BitVec 4) (d : BitVec 7) (a : BitVec 7)
  /-- R146: Lane absolute value modulo 2^32. -/
  | abs (g : BitVec 4) (d : BitVec 7) (a : BitVec 7)
  /-- R146: Lane population count. -/
  | popc (g : BitVec 4) (d : BitVec 7) (a : BitVec 7)
  /-- R146: Lane count of leading zeros. -/
  | clz (g : BitVec 4) (d : BitVec 7) (a : BitVec 7)
  /-- R146: Lane count of trailing zeros. -/
  | ctz (g : BitVec 4) (d : BitVec 7) (a : BitVec 7)
  /-- R146: Lane bit reversal. -/
  | brev (g : BitVec 4) (d : BitVec 7) (a : BitVec 7)
  /-- R146: Lane sign extension of the low byte. -/
  | sext8 (g : BitVec 4) (d : BitVec 7) (a : BitVec 7)
  /-- R146: Lane sign extension of the low half. -/
  | sext16 (g : BitVec 4) (d : BitVec 7) (a : BitVec 7)
  /-- R146: Destructive d AND NOT a. -/
  | andn (g : BitVec 4) (d : BitVec 7) (a : BitVec 7)
  /-- R146: Destructive d OR NOT a. -/
  | orn (g : BitVec 4) (d : BitVec 7) (a : BitVec 7)
  /-- R146: Destructive rotate left by a<4:0>. -/
  | rotl (g : BitVec 4) (d : BitVec 7) (a : BitVec 7)
  /-- R146: Destructive rotate right by a<4:0>. -/
  | rotr (g : BitVec 4) (d : BitVec 7) (a : BitVec 7)
  /-- R146: Destructive signed saturating add. -/
  | addsi (g : BitVec 4) (d : BitVec 7) (a : BitVec 7)
  /-- R146: Destructive signed saturating subtract. -/
  | subsi (g : BitVec 4) (d : BitVec 7) (a : BitVec 7)
  /-- R146: Destructive unsigned saturating add. -/
  | addsn (g : BitVec 4) (d : BitVec 7) (a : BitVec 7)
  /-- R146: Destructive unsigned saturating subtract. -/
  | subsn (g : BitVec 4) (d : BitVec 7) (a : BitVec 7)
  /-- R147: Extract a zero-extended bit field of d. -/
  | bfxn (g : BitVec 4) (d : BitVec 7) (a : BitVec 7)
  /-- R147: Extract a sign-extended bit field of d. -/
  | bfxi (g : BitVec 4) (d : BitVec 7) (a : BitVec 7)
  /-- R147: Insert V[a] into a bit field of d specified by V[a+1]. -/
  | bfi (g : BitVec 4) (d : BitVec 7) (a : BitVec 7)
  /-- R146: Lane 64-bit pair move. -/
  | mov64 (g : BitVec 4) (d : BitVec 7) (a : BitVec 7)
  /-- R146: Lane 64-bit negate. -/
  | neg64 (g : BitVec 4) (d : BitVec 7) (a : BitVec 7)
  /-- R146: Sign-extend a 32-bit register into a pair. -/
  | sext64 (g : BitVec 4) (d : BitVec 7) (a : BitVec 7)
  /-- R146: Destructive 64-bit add. -/
  | add64 (g : BitVec 4) (d : BitVec 7) (a : BitVec 7)
  /-- R146: Destructive 64-bit subtract. -/
  | sub64 (g : BitVec 4) (d : BitVec 7) (a : BitVec 7)
  /-- R146: Destructive 64-bit multiply, low 64 bits. -/
  | mul64 (g : BitVec 4) (d : BitVec 7) (a : BitVec 7)
  /-- R146: Destructive 64-bit shift left. -/
  | shl64 (g : BitVec 4) (d : BitVec 7) (a : BitVec 7)
  /-- R146: Destructive 64-bit logical shift right. -/
  | shrn64 (g : BitVec 4) (d : BitVec 7) (a : BitVec 7)
  /-- R146: Destructive 64-bit arithmetic shift right. -/
  | shri64 (g : BitVec 4) (d : BitVec 7) (a : BitVec 7)
  /-- R146: Destructive 64-bit signed minimum. -/
  | mini64 (g : BitVec 4) (d : BitVec 7) (a : BitVec 7)
  /-- R146: Destructive 64-bit signed maximum. -/
  | maxi64 (g : BitVec 4) (d : BitVec 7) (a : BitVec 7)
  /-- R146: Destructive 64-bit unsigned minimum. -/
  | minn64 (g : BitVec 4) (d : BitVec 7) (a : BitVec 7)
  /-- R146: Destructive 64-bit unsigned maximum. -/
  | maxn64 (g : BitVec 4) (d : BitVec 7) (a : BitVec 7)
  /-- R146: Signed widening 32x32 multiply into a pair. -/
  | mulwi (g : BitVec 4) (d : BitVec 7) (a : BitVec 7)
  /-- R146: Unsigned widening 32x32 multiply into a pair. -/
  | mulwn (g : BitVec 4) (d : BitVec 7) (a : BitVec 7)
  /-- R146: Population count of a pair. -/
  | popc64 (g : BitVec 4) (d : BitVec 7) (a : BitVec 7)
  /-- R146: Leading zero count of a pair. -/
  | clz64 (g : BitVec 4) (d : BitVec 7) (a : BitVec 7)
  /-- R152: Lanes whose guard holds become exited at the end of the clause. -/
  | exit (g : BitVec 4)
  /-- R150: Indirect lane branch to V[a]. -/
  | brr (g : BitVec 4) (a : BitVec 7)
  /-- R150: Indirect lane call writing the link pair. -/
  | callr (g : BitVec 4) (d : BitVec 7) (a : BitVec 7)
  /-- R153: Set the lane meeting register from V[a]. -/
  | meetr (g : BitVec 4) (a : BitVec 7)
  /-- R161: FP32 minimum treating -0 below +0 and preferring non-NaN. -/
  | fmin32 (g : BitVec 4) (d : BitVec 7) (a : BitVec 7)
  /-- R161: FP32 maximum. -/
  | fmax32 (g : BitVec 4) (d : BitVec 7) (a : BitVec 7)
  /-- R161: FP64 minimum. -/
  | fmin64 (g : BitVec 4) (d : BitVec 7) (a : BitVec 7)
  /-- R161: FP64 maximum. -/
  | fmax64 (g : BitVec 4) (d : BitVec 7) (a : BitVec 7)
  /-- R162: Tracked FP32 division d/a. -/
  | fdiv32 (g : BitVec 4) (d : BitVec 7) (a : BitVec 7)
  /-- R162: Tracked FP64 division. -/
  | fdiv64 (g : BitVec 4) (d : BitVec 7) (a : BitVec 7)
  /-- R162: Tracked FP32 square root. -/
  | fsqrt32 (g : BitVec 4) (d : BitVec 7) (a : BitVec 7)
  /-- R162: Tracked FP64 square root. -/
  | fsqrt64 (g : BitVec 4) (d : BitVec 7) (a : BitVec 7)
  /-- R162: Tracked FP32 reciprocal square root. -/
  | frsqrt32 (g : BitVec 4) (d : BitVec 7) (a : BitVec 7)
  /-- R162: Tracked FP64 reciprocal square root. -/
  | frsqrt64 (g : BitVec 4) (d : BitVec 7) (a : BitVec 7)
  /-- R162: Tracked FP32 reciprocal. -/
  | frcp32 (g : BitVec 4) (d : BitVec 7) (a : BitVec 7)
  /-- R162: Tracked FP64 reciprocal. -/
  | frcp64 (g : BitVec 4) (d : BitVec 7) (a : BitVec 7)
  /-- R163: Tracked FP32 base-2 exponential. -/
  | fexp2 (g : BitVec 4) (d : BitVec 7) (a : BitVec 7)
  /-- R163: Tracked FP32 base-2 logarithm. -/
  | flog2 (g : BitVec 4) (d : BitVec 7) (a : BitVec 7)
  /-- R165: Invert the FP32 sign bit. -/
  | fneg32 (g : BitVec 4) (d : BitVec 7) (a : BitVec 7)
  /-- R165: Clear the FP32 sign bit. -/
  | fabs32 (g : BitVec 4) (d : BitVec 7) (a : BitVec 7)
  /-- R165: Invert the FP64 sign bit. -/
  | fneg64 (g : BitVec 4) (d : BitVec 7) (a : BitVec 7)
  /-- R165: Clear the FP64 sign bit. -/
  | fabs64 (g : BitVec 4) (d : BitVec 7) (a : BitVec 7)
  /-- R159: Packed BF16 fused multiply-add of V[a] and V[a+1] into d. -/
  | ffma2b (g : BitVec 4) (d : BitVec 7) (a : BitVec 7)
  /-- R164: FP32 class mask. -/
  | fclass32 (g : BitVec 4) (d : BitVec 7) (a : BitVec 7)
  /-- R164: FP64 class mask. -/
  | fclass64 (g : BitVec 4) (d : BitVec 7) (a : BitVec 7)
  /-- R164: FP16 class mask. -/
  | fclass16 (g : BitVec 4) (d : BitVec 7) (a : BitVec 7)
  /-- R168: Conversion of one of 32 format pairs under sat and rounding fields. -/
  | cvt (p : BitVec 5) (s : BitVec 1) (r : BitVec 2) (g : BitVec 4) (d : BitVec 7) (a : BitVec 7)
  /-- R175: Zero-extending byte memory load. -/
  | ld8n (g : BitVec 4) (d : BitVec 7) (a : BitVec 7)
  /-- R175: Sign-extending byte memory load. -/
  | ld8i (g : BitVec 4) (d : BitVec 7) (a : BitVec 7)
  /-- R175: Zero-extending half memory load. -/
  | ld16n (g : BitVec 4) (d : BitVec 7) (a : BitVec 7)
  /-- R175: Sign-extending half memory load. -/
  | ld16i (g : BitVec 4) (d : BitVec 7) (a : BitVec 7)
  /-- R175: Byte memory store. -/
  | st8 (g : BitVec 4) (d : BitVec 7) (a : BitVec 7)
  /-- R175: Half memory store. -/
  | st16 (g : BitVec 4) (d : BitVec 7) (a : BitVec 7)
  /-- R175: Zero-extending byte Lantern load. -/
  | lds8n (g : BitVec 4) (d : BitVec 7) (a : BitVec 7)
  /-- R175: Sign-extending byte Lantern load. -/
  | lds8i (g : BitVec 4) (d : BitVec 7) (a : BitVec 7)
  /-- R175: Zero-extending half Lantern load. -/
  | lds16n (g : BitVec 4) (d : BitVec 7) (a : BitVec 7)
  /-- R175: Sign-extending half Lantern load. -/
  | lds16i (g : BitVec 4) (d : BitVec 7) (a : BitVec 7)
  /-- R175: Byte Lantern store. -/
  | sts8 (g : BitVec 4) (d : BitVec 7) (a : BitVec 7)
  /-- R175: Half Lantern store. -/
  | sts16 (g : BitVec 4) (d : BitVec 7) (a : BitVec 7)
  /-- R175: 8-byte Lantern load into a pair. -/
  | lds64 (g : BitVec 4) (d : BitVec 7) (a : BitVec 7)
  /-- R175: 16-byte Lantern load into a quad. -/
  | lds128 (g : BitVec 4) (d : BitVec 7) (a : BitVec 7)
  /-- R175: 8-byte Lantern store. -/
  | sts64 (g : BitVec 4) (d : BitVec 7) (a : BitVec 7)
  /-- R175: 16-byte Lantern store. -/
  | sts128 (g : BitVec 4) (d : BitVec 7) (a : BitVec 7)
  /-- R181: Gather-reduce add per HBM bank through near-bank units. -/
  | gredAdd (g : BitVec 4) (d : BitVec 7) (a : BitVec 7)
  /-- R181: Gather-reduce FP32 add. -/
  | gredFadd32 (g : BitVec 4) (d : BitVec 7) (a : BitVec 7)
  /-- R181: Gather-reduce signed minimum. -/
  | gredMini (g : BitVec 4) (d : BitVec 7) (a : BitVec 7)
  /-- R181: Gather-reduce signed maximum. -/
  | gredMaxi (g : BitVec 4) (d : BitVec 7) (a : BitVec 7)
  /-- R181: Gather-reduce unsigned minimum. -/
  | gredMinn (g : BitVec 4) (d : BitVec 7) (a : BitVec 7)
  /-- R181: Gather-reduce unsigned maximum. -/
  | gredMaxn (g : BitVec 4) (d : BitVec 7) (a : BitVec 7)
  /-- R180: Lantern atomic add returning the old value. -/
  | latomAdd (g : BitVec 4) (d : BitVec 7) (a : BitVec 7)
  /-- R180: Lantern atomic AND. -/
  | latomAnd (g : BitVec 4) (d : BitVec 7) (a : BitVec 7)
  /-- R180: Lantern atomic OR. -/
  | latomOr (g : BitVec 4) (d : BitVec 7) (a : BitVec 7)
  /-- R180: Lantern atomic XOR. -/
  | latomXor (g : BitVec 4) (d : BitVec 7) (a : BitVec 7)
  /-- R180: Lantern atomic signed minimum. -/
  | latomMini (g : BitVec 4) (d : BitVec 7) (a : BitVec 7)
  /-- R180: Lantern atomic signed maximum. -/
  | latomMaxi (g : BitVec 4) (d : BitVec 7) (a : BitVec 7)
  /-- R180: Lantern atomic unsigned minimum. -/
  | latomMinn (g : BitVec 4) (d : BitVec 7) (a : BitVec 7)
  /-- R180: Lantern atomic unsigned maximum. -/
  | latomMaxn (g : BitVec 4) (d : BitVec 7) (a : BitVec 7)
  /-- R180: Lantern atomic swap. -/
  | latomSwap (g : BitVec 4) (d : BitVec 7) (a : BitVec 7)
  /-- R180: Lantern atomic compare and swap. -/
  | latomCas (g : BitVec 4) (d : BitVec 7) (a : BitVec 7)
  /-- R180: Lantern atomic 64-bit add. -/
  | latomAdd64 (g : BitVec 4) (d : BitVec 7) (a : BitVec 7)
  /-- R180: Lantern atomic 64-bit swap. -/
  | latomSwap64 (g : BitVec 4) (d : BitVec 7) (a : BitVec 7)
  /-- R180: Lantern atomic 64-bit compare and swap. -/
  | latomCas64 (g : BitVec 4) (d : BitVec 7) (a : BitVec 7)
  /-- R180: Lantern atomic FP32 add. -/
  | latomFadd32 (g : BitVec 4) (d : BitVec 7) (a : BitVec 7)
  /-- R180: Global atomic add at the point of its scope. -/
  | atomAdd (s : BitVec 3) (r : BitVec 2) (g : BitVec 4) (d : BitVec 7) (a : BitVec 7)
  /-- R180: Global atomic AND. -/
  | atomAnd (s : BitVec 3) (r : BitVec 2) (g : BitVec 4) (d : BitVec 7) (a : BitVec 7)
  /-- R180: Global atomic OR. -/
  | atomOr (s : BitVec 3) (r : BitVec 2) (g : BitVec 4) (d : BitVec 7) (a : BitVec 7)
  /-- R180: Global atomic XOR. -/
  | atomXor (s : BitVec 3) (r : BitVec 2) (g : BitVec 4) (d : BitVec 7) (a : BitVec 7)
  /-- R180: Global atomic signed minimum. -/
  | atomMini (s : BitVec 3) (r : BitVec 2) (g : BitVec 4) (d : BitVec 7) (a : BitVec 7)
  /-- R180: Global atomic signed maximum. -/
  | atomMaxi (s : BitVec 3) (r : BitVec 2) (g : BitVec 4) (d : BitVec 7) (a : BitVec 7)
  /-- R180: Global atomic unsigned minimum. -/
  | atomMinn (s : BitVec 3) (r : BitVec 2) (g : BitVec 4) (d : BitVec 7) (a : BitVec 7)
  /-- R180: Global atomic unsigned maximum. -/
  | atomMaxn (s : BitVec 3) (r : BitVec 2) (g : BitVec 4) (d : BitVec 7) (a : BitVec 7)
  /-- R180: Global atomic swap. -/
  | atomSwap (s : BitVec 3) (r : BitVec 2) (g : BitVec 4) (d : BitVec 7) (a : BitVec 7)
  /-- R180: Global atomic compare and swap of 32-bit values. -/
  | atomCas (s : BitVec 3) (r : BitVec 2) (g : BitVec 4) (d : BitVec 7) (a : BitVec 7)
  /-- R180: Global atomic 64-bit add. -/
  | atomAdd64 (s : BitVec 3) (r : BitVec 2) (g : BitVec 4) (d : BitVec 7) (a : BitVec 7)
  /-- R180: Global atomic 64-bit swap. -/
  | atomSwap64 (s : BitVec 3) (r : BitVec 2) (g : BitVec 4) (d : BitVec 7) (a : BitVec 7)
  /-- R180: Global atomic 64-bit compare and swap. -/
  | atomCas64 (s : BitVec 3) (r : BitVec 2) (g : BitVec 4) (d : BitVec 7) (a : BitVec 7)
  /-- R180: Global atomic FP32 add. -/
  | atomFadd32 (s : BitVec 3) (r : BitVec 2) (g : BitVec 4) (d : BitVec 7) (a : BitVec 7)
  /-- R148: Signed 32-bit compare writing two predicates by ctype. -/
  | cmpI32 (c : BitVec 2) (t : BitVec 3) (x : BitVec 3) (y : BitVec 3) (a : BitVec 7) (b : BitVec 7)
  /-- R148: Unsigned 32-bit compare. -/
  | cmpN32 (c : BitVec 2) (t : BitVec 3) (x : BitVec 3) (y : BitVec 3) (a : BitVec 7) (b : BitVec 7)
  /-- R148: Signed 64-bit compare on pairs. -/
  | cmpI64 (c : BitVec 2) (t : BitVec 3) (x : BitVec 3) (y : BitVec 3) (a : BitVec 7) (b : BitVec 7)
  /-- R166: FP32 compare with unordered handling. -/
  | fcmpF32 (c : BitVec 2) (t : BitVec 3) (x : BitVec 3) (y : BitVec 3) (a : BitVec 7) (b : BitVec 7)
  /-- R166: FP64 compare on pairs. -/
  | fcmpF64 (c : BitVec 2) (t : BitVec 3) (x : BitVec 3) (y : BitVec 3) (a : BitVec 7) (b : BitVec 7)
  /-- R148: Signed compare against a 7-bit immediate. -/
  | cmpiI32 (c : BitVec 2) (t : BitVec 3) (x : BitVec 3) (y : BitVec 3) (a : BitVec 7) (i : BitVec 7)
  /-- R166: FP16 compare of the low halves. -/
  | fcmpF16 (c : BitVec 2) (t : BitVec 3) (x : BitVec 3) (y : BitVec 3) (a : BitVec 7) (b : BitVec 7)
  /-- R148: Bit test compare. -/
  | testb (c : BitVec 2) (t : BitVec 3) (x : BitVec 3) (y : BitVec 3) (a : BitVec 7) (b : BitVec 7)
  /-- R145: Move a sign-extended 14-bit immediate. -/
  | movi (g : BitVec 4) (d : BitVec 7) (i : BitVec 14)
  /-- R145: Add a sign-extended immediate in place. -/
  | addi (g : BitVec 4) (d : BitVec 7) (i : BitVec 14)
  /-- R145: AND with a sign-extended immediate in place. -/
  | andi (g : BitVec 4) (d : BitVec 7) (i : BitVec 14)
  /-- R145: OR with a sign-extended immediate in place. -/
  | ori (g : BitVec 4) (d : BitVec 7) (i : BitVec 14)
  /-- R145: XOR with a sign-extended immediate in place. -/
  | xori (g : BitVec 4) (d : BitVec 7) (i : BitVec 14)
  /-- R150: Direct lane branch by a word displacement. -/
  | brl (g : BitVec 4) (i : BitVec 14)
  /-- R153: Set the meeting register to a clause header and return the old value. -/
  | meet (g : BitVec 4) (d : BitVec 7) (i : BitVec 14)
  /-- R150: Direct lane call writing the link pair. -/
  | calll (g : BitVec 4) (d : BitVec 7) (i : BitVec 14)
  /-- R184: Warp-wide mask of members whose predicate holds. -/
  | ballot (p : BitVec 3) (m : BitVec 6) (d : BitVec 7)
  /-- R184: Warp-wide all or any vote over members. -/
  | vote (p : BitVec 3) (m : BitVec 6) (d : BitVec 7) (w : BitVec 1)
  /-- R184: Warp-wide mask of members with equal values. -/
  | matchMembers (m : BitVec 6) (d : BitVec 7) (a : BitVec 7) (w : BitVec 1)
  /-- R185: Shuffle from an indexed lane. -/
  | shflIdx (m : BitVec 6) (d : BitVec 7) (a : BitVec 7) (w : BitVec 1)
  /-- R185: Shuffle from a lower lane. -/
  | shflUp (m : BitVec 6) (d : BitVec 7) (a : BitVec 7) (w : BitVec 1)
  /-- R185: Shuffle from a higher lane. -/
  | shflDown (m : BitVec 6) (d : BitVec 7) (a : BitVec 7) (w : BitVec 1)
  /-- R185: Shuffle from lane l XOR t. -/
  | shflXor (m : BitVec 6) (d : BitVec 7) (a : BitVec 7) (w : BitVec 1)
  /-- R184: Warp-wide sum over members. -/
  | reduceAdd (m : BitVec 6) (d : BitVec 7) (a : BitVec 7) (w : BitVec 1)
  /-- R184: Warp-wide signed minimum. -/
  | reduceMin (m : BitVec 6) (d : BitVec 7) (a : BitVec 7) (w : BitVec 1)
  /-- R184: Warp-wide signed maximum. -/
  | reduceMax (m : BitVec 6) (d : BitVec 7) (a : BitVec 7) (w : BitVec 1)
  /-- R184: Warp-wide AND. -/
  | reduceAnd (m : BitVec 6) (d : BitVec 7) (a : BitVec 7) (w : BitVec 1)
  /-- R184: Warp-wide OR. -/
  | reduceOr (m : BitVec 6) (d : BitVec 7) (a : BitVec 7) (w : BitVec 1)
  /-- R184: Warp-wide XOR. -/
  | reduceXor (m : BitVec 6) (d : BitVec 7) (a : BitVec 7) (w : BitVec 1)
  /-- R184: Warp-wide inclusive prefix sum. -/
  | scanAdd (m : BitVec 6) (d : BitVec 7) (a : BitVec 7) (w : BitVec 1)
  /-- R184: Warp-wide inclusive prefix minimum. -/
  | scanMin (m : BitVec 6) (d : BitVec 7) (a : BitVec 7) (w : BitVec 1)
  /-- R184: Warp-wide inclusive prefix maximum. -/
  | scanMax (m : BitVec 6) (d : BitVec 7) (a : BitVec 7) (w : BitVec 1)
  /-- R190: Uniform add. -/
  | uadd (k : BitVec 3) (d : BitVec 5) (a : BitVec 5) (b : BitVec 5)
  /-- R190: Uniform subtract. -/
  | usub (k : BitVec 3) (d : BitVec 5) (a : BitVec 5) (b : BitVec 5)
  /-- R190: Uniform multiply low. -/
  | umul (k : BitVec 3) (d : BitVec 5) (a : BitVec 5) (b : BitVec 5)
  /-- R190: Uniform signed multiply high. -/
  | umulhi (k : BitVec 3) (d : BitVec 5) (a : BitVec 5) (b : BitVec 5)
  /-- R190: Uniform AND. -/
  | uand (k : BitVec 3) (d : BitVec 5) (a : BitVec 5) (b : BitVec 5)
  /-- R190: Uniform OR. -/
  | uor (k : BitVec 3) (d : BitVec 5) (a : BitVec 5) (b : BitVec 5)
  /-- R190: Uniform XOR. -/
  | uxor (k : BitVec 3) (d : BitVec 5) (a : BitVec 5) (b : BitVec 5)
  /-- R190: Uniform shift left. -/
  | ushl (k : BitVec 3) (d : BitVec 5) (a : BitVec 5) (b : BitVec 5)
  /-- R190: Uniform logical shift right. -/
  | ushrn (k : BitVec 3) (d : BitVec 5) (a : BitVec 5) (b : BitVec 5)
  /-- R190: Uniform arithmetic shift right. -/
  | ushri (k : BitVec 3) (d : BitVec 5) (a : BitVec 5) (b : BitVec 5)
  /-- R190: Uniform signed minimum. -/
  | umini (k : BitVec 3) (d : BitVec 5) (a : BitVec 5) (b : BitVec 5)
  /-- R190: Uniform signed maximum. -/
  | umaxi (k : BitVec 3) (d : BitVec 5) (a : BitVec 5) (b : BitVec 5)
  /-- R190: Uniform select by a k predicate. -/
  | usel (k : BitVec 3) (d : BitVec 5) (a : BitVec 5) (b : BitVec 5) (p : BitVec 2) (n : BitVec 1)
  /-- R190: Uniform 64-bit add. -/
  | uadd64 (k : BitVec 3) (d : BitVec 5) (a : BitVec 5) (b : BitVec 5)
  /-- R190: Uniform 64-bit subtract. -/
  | usub64 (k : BitVec 3) (d : BitVec 5) (a : BitVec 5) (b : BitVec 5)
  /-- R192: Uniform signed compare writing two k predicates. -/
  | ucmpI32 (k : BitVec 3) (x : BitVec 2) (y : BitVec 2) (a : BitVec 5) (b : BitVec 5) (c : BitVec 2)
  /-- R192: Uniform unsigned compare. -/
  | ucmpN32 (k : BitVec 3) (x : BitVec 2) (y : BitVec 2) (a : BitVec 5) (b : BitVec 5) (c : BitVec 2)
  /-- R192: Uniform signed 64-bit compare. -/
  | ucmpI64 (k : BitVec 3) (x : BitVec 2) (y : BitVec 2) (a : BitVec 5) (b : BitVec 5) (c : BitVec 2)
  /-- R193: Uniform 4-byte memory load. -/
  | uld32 (k : BitVec 3) (d : BitVec 5) (a : BitVec 5) (o : BitVec 5)
  /-- R193: Uniform 8-byte memory load. -/
  | uld64 (k : BitVec 3) (d : BitVec 5) (a : BitVec 5) (o : BitVec 5)
  /-- R193: Uniform 4-byte memory store. -/
  | ust32 (k : BitVec 3) (d : BitVec 5) (a : BitVec 5) (o : BitVec 5)
  /-- R193: Uniform 8-byte memory store. -/
  | ust64 (k : BitVec 3) (d : BitVec 5) (a : BitVec 5) (o : BitVec 5)
  /-- R193: Uniform 4-byte Lantern load. -/
  | ulds (k : BitVec 3) (d : BitVec 5) (a : BitVec 5) (o : BitVec 5)
  /-- R193: Uniform 4-byte Lantern store. -/
  | usts (k : BitVec 3) (d : BitVec 5) (a : BitVec 5) (o : BitVec 5)
  /-- R194: Read a special register into a uniform register. -/
  | usrd (k : BitVec 3) (d : BitVec 5) (n : BitVec 10)
  /-- R194: Write a special register such as prio, a group word or a trap register. -/
  | uswr (k : BitVec 3) (a : BitVec 5) (n : BitVec 10)
  /-- R200: Barrier sync, arrive or wait at a scope and index. -/
  | bar (k : BitVec 3) (m : BitVec 2) (s : BitVec 3) (i : BitVec 4)
  /-- R204: Switch the group from prologue to full register allotment. -/
  | acquire (k : BitVec 3)
  /-- R205: Spin-demote the gang's path. -/
  | yield (k : BitVec 3)
  /-- R314: Park until none of the named dependency slots is busy. -/
  | mwait (k : BitVec 3) (a : BitVec 5)
  /-- R212: Software trap entering the handler with cause 0x0A. -/
  | trap (k : BitVec 3) (a : BitVec 5) (c : BitVec 5)
  /-- R103: One-clk fence marking a pairing point for FENCE.FAR. -/
  | fenceNear (k : BitVec 3) (s : BitVec 3)
  /-- R105: Fence serialising every store queue within its scope. -/
  | fenceFar (k : BitVec 3) (s : BitVec 3)
  /-- R103: Acquire fence; drops L1 lines for scopes wider than core. -/
  | fenceAcq (k : BitVec 3) (s : BitVec 3)
  /-- R103: Release fence waiting for earlier stores to reach the scope's point. -/
  | fenceRel (k : BitVec 3) (s : BitVec 3)
  /-- R103: Acquire-release fence. -/
  | fenceAr (k : BitVec 3) (s : BitVec 3)
  /-- R104: Sequentially consistent fence joining the total FENCE.SC order. -/
  | fenceSc (k : BitVec 3) (s : BitVec 3)
  /-- R213: Return from trap handler in retry or skip mode. -/
  | rtt (k : BitVec 3) (m : BitVec 1)
  /-- R219: Handler read of a lane register. -/
  | lread (k : BitVec 3) (d : BitVec 5) (a : BitVec 5) (b : BitVec 5)
  /-- R219: Handler write of a lane register. -/
  | lwrite (k : BitVec 3) (d : BitVec 5) (a : BitVec 5) (b : BitVec 5)
  /-- R219: Handler read of a lane's predicates. -/
  | pread (k : BitVec 3) (d : BitVec 5) (a : BitVec 5)
  /-- R219: Handler write of a lane's predicates. -/
  | pwrite (k : BitVec 3) (d : BitVec 5) (a : BitVec 5)
  /-- R219: Handler read of a lane's PC or meeting register. -/
  | mread (k : BitVec 3) (d : BitVec 5) (a : BitVec 5) (s : BitVec 1)
  /-- R220: Handler write of a lane's PC or meeting register. -/
  | mwrite (k : BitVec 3) (d : BitVec 5) (a : BitVec 5) (s : BitVec 1)
  /-- R222: Handler read of a barrier field. -/
  | barrd (k : BitVec 3) (d : BitVec 5) (a : BitVec 5) (s : BitVec 2)
  /-- R222: Handler write of a barrier field, possibly advancing it. -/
  | barwr (k : BitVec 3) (d : BitVec 5) (a : BitVec 5) (s : BitVec 2)
  /-- R280: Park until a synchronisation word's generation differs from a value. -/
  | swait (k : BitVec 3) (d : BitVec 5) (a : BitVec 5) (b : BitVec 5)
  /-- R315: Read matrix tile flag, busy slots, error word or pending count. -/
  | mquery (k : BitVec 3) (d : BitVec 5) (a : BitVec 5) (s : BitVec 2)
  /-- R359: Enter the die's waiter list to take an Orrery worker call. -/
  | otake (k : BitVec 3) (d : BitVec 5) (a : BitVec 5) (m : BitVec 1)
  /-- R357: Park until an orbit is no longer running. -/
  | owait (k : BitVec 3) (d : BitVec 5) (a : BitVec 5)
  /-- R358: Read a selected orbit value. -/
  | ostat (k : BitVec 3) (d : BitVec 5) (a : BitVec 5) (s : BitVec 4)
  /-- R393: Pop a record from a Vesper queue into a lumen slot, waiting or polling. -/
  | qpop (k : BitVec 3) (d : BitVec 5) (a : BitVec 5) (m : BitVec 1) (l : BitVec 2)
  /-- R394: Wait until a vigil is quiet, optionally giving back a slot first. -/
  | vwaitq (k : BitVec 3) (d : BitVec 5) (a : BitVec 5) (g : BitVec 1) (l : BitVec 2)
  /-- R395: Read a selected Vesper object or slot value. -/
  | vstat (k : BitVec 3) (d : BitVec 5) (a : BitVec 5) (s : BitVec 5)
  /-- R191: Uniform move of a sign-extended 17-bit immediate. -/
  | umovi (k : BitVec 3) (d : BitVec 5) (i : BitVec 17)
  /-- R191: Uniform load of imm17 shifted left by 15. -/
  | ului (k : BitVec 3) (d : BitVec 5) (i : BitVec 17)
  /-- R191: Uniform add of a sign-extended immediate. -/
  | uaddi (k : BitVec 3) (d : BitVec 5) (i : BitVec 17)
  /-- R191: Uniform AND with a zero-extended immediate. -/
  | uandi (k : BitVec 3) (d : BitVec 5) (i : BitVec 17)
  /-- R191: Uniform OR with a zero-extended immediate. -/
  | uori (k : BitVec 3) (d : BitVec 5) (i : BitVec 17)
  /-- R191: Uniform compare against an 11-bit immediate writing two k predicates. -/
  | ucmpi (k : BitVec 3) (d : BitVec 5) (c : BitVec 2) (x : BitVec 2) (y : BitVec 2) (i : BitVec 11)
  /-- R47: Clause header framing 1-15 words with wait mask and seta/setb flags; checked at fetch. -/
  | clause (l : BitVec 4) (w : BitVec 12) (a : BitVec 4) (b : BitVec 4)
  /-- R197: Uniform branch of the whole gang. -/
  | bra (k : BitVec 3) (d : BitVec 21)
  /-- R197: Uniform call writing s30 and s31. -/
  | call (k : BitVec 3) (d : BitVec 21)
  /-- R197: Uniform indexed branch by s29. -/
  | brx (k : BitVec 3) (d : BitVec 21)
  /-- R197: Uniform return to s30. -/
  | ret (k : BitVec 3)
  /-- R303: Set the expect set of a convergence register. -/
  | cset (k : BitVec 3) (c : BitVec 4) (a : BitVec 5)
  /-- R306: Sign into a convergence collection for a bit-serial matrix multiply-accumulate. -/
  | mma (k : BitVec 3) (c : BitVec 4) (s : BitVec 3) (w : BitVec 8) (o : BitVec 5) (z : BitVec 1)
  /-- R309: Post an entry marking local macros stationary. -/
  | mstat (k : BitVec 3) (s : BitVec 3) (w : BitVec 8) (a : BitVec 5)
  /-- R309: Post an entry clearing stationary marks. -/
  | munstat (k : BitVec 3) (s : BitVec 3) (w : BitVec 8) (a : BitVec 5)
  /-- R310: Post an entry zeroing an accumulator tile. -/
  | mzero (k : BitVec 3) (t : BitVec 3) (s : BitVec 3) (w : BitVec 8)
  /-- R312: Post an entry scaling accumulator rows into FP32 or BF16 output. -/
  | scac (k : BitVec 3) (s : BitVec 3) (w : BitVec 8) (a : BitVec 5)
  /-- R313: Post an entry copying accumulator rows into the Lantern store. -/
  | mtread (k : BitVec 3) (t : BitVec 3) (s : BitVec 3) (w : BitVec 8) (a : BitVec 5)
  /-- R273: Copy a box from memory into a Lantern image. -/
  | tcopy (k : BitVec 3) (c : BitVec 5) (d : BitVec 5) (n : BitVec 1) (q : BitVec 1) (r : BitVec 1) (s : BitVec 3)
  /-- R273: Store a Lantern image box to memory. -/
  | tstore (k : BitVec 3) (c : BitVec 5) (d : BitVec 5) (n : BitVec 1) (q : BitVec 1) (r : BitVec 1) (s : BitVec 3)
  /-- R276: Multicast one box into every quad of a mask. -/
  | tmcast (k : BitVec 3) (c : BitVec 5) (d : BitVec 5) (n : BitVec 1) (q : BitVec 1) (r : BitVec 1) (s : BitVec 3) (m : BitVec 5)
  /-- R277: Post or take a Lantern transfer between quads. -/
  | tnotice (k : BitVec 3) (c : BitVec 5) (d : BitVec 5) (n : BitVec 1) (q : BitVec 1) (r : BitVec 1) (s : BitVec 3) (m : BitVec 1)
  /-- R279: Set a synchronisation word's target, optionally resetting it. -/
  | sarm (k : BitVec 3) (a : BitVec 5) (b : BitVec 5) (r : BitVec 1)
  /-- R273: Prefetch a box's lines into their home L2 slices. -/
  | tpref (k : BitVec 3) (c : BitVec 5) (d : BitVec 5) (n : BitVec 1) (q : BitVec 1) (r : BitVec 1) (s : BitVec 3)
  /-- R234: Send a launch block to the die's work distributor. -/
  | launch (k : BitVec 3) (l : BitVec 5) (d : BitVec 5) (n : BitVec 1) (q : BitVec 1) (r : BitVec 1) (s : BitVec 3)
  /-- R352: Allocate and load an orbit from its record. -/
  | oload (k : BitVec 3) (a : BitVec 5) (d : BitVec 5) (n : BitVec 1) (q : BitVec 1) (r : BitVec 1) (s : BitVec 3)
  /-- R353: Make the issuing group the orbit's binding group and set its page list. -/
  | obind (k : BitVec 3) (a : BitVec 5) (d : BitVec 5) (n : BitVec 1) (q : BitVec 1) (r : BitVec 1) (s : BitVec 3)
  /-- R354: Start a full run of an idle bound orbit. -/
  | orun (k : BitVec 3) (a : BitVec 5) (d : BitVec 5) (n : BitVec 1) (q : BitVec 1) (r : BitVec 1) (s : BitVec 3)
  /-- R354: Start one step of an idle bound orbit. -/
  | ostep (k : BitVec 3) (a : BitVec 5) (d : BitVec 5) (n : BitVec 1) (q : BitVec 1) (r : BitVec 1) (s : BitVec 3)
  /-- R362: Answer an outstanding Orrery call with success or failure. -/
  | odone (k : BitVec 3) (a : BitVec 5) (d : BitVec 5) (n : BitVec 1) (q : BitVec 1) (r : BitVec 1) (s : BitVec 3)
  /-- R356: Query dense output of the open window at a time. -/
  | odense (k : BitVec 3) (a : BitVec 5) (d : BitVec 5) (n : BitVec 1) (q : BitVec 1) (r : BitVec 1) (s : BitVec 3)
  /-- R355: Stop an orbit and optionally free it. -/
  | ostop (k : BitVec 3) (a : BitVec 5) (d : BitVec 5) (n : BitVec 1) (q : BitVec 1) (r : BitVec 1) (s : BitVec 3) (f : BitVec 1)
  /-- R391: Create a vigil, queue or bin. -/
  | vnew (k : BitVec 3) (a : BitVec 5) (d : BitVec 5) (q : BitVec 1) (s : BitVec 3) (t : BitVec 2) (l : BitVec 2)
  /-- R391: Free a quiet vigil, or a queue or bin abandoning its records. -/
  | vfree (k : BitVec 3) (a : BitVec 5) (d : BitVec 5) (n : BitVec 1)
  /-- R391: Launch groups with lumen shares split from a slot. -/
  | vspawn (k : BitVec 3) (a : BitVec 5) (d : BitVec 5) (n : BitVec 1) (q : BitVec 1) (s : BitVec 3) (l : BitVec 2) (m : BitVec 1)
  /-- R391: Send a record with lumens to a queue or bin on any package. -/
  | vsend (k : BitVec 3) (a : BitVec 5) (d : BitVec 5) (n : BitVec 1) (q : BitVec 1) (s : BitVec 3) (l : BitVec 2) (m : BitVec 1)
  /-- R391: Push a record with lumens onto a queue of the package. -/
  | qpush (k : BitVec 3) (a : BitVec 5) (d : BitVec 5) (n : BitVec 1) (q : BitVec 1) (s : BitVec 3) (l : BitVec 2) (m : BitVec 1)
  /-- R391: Send a record with lumens into a bin of the package. -/
  | bsend (k : BitVec 3) (a : BitVec 5) (d : BitVec 5) (n : BitVec 1) (q : BitVec 1) (s : BitVec 3) (l : BitVec 2) (m : BitVec 1)
  /-- R391: Return all or part of a slot's lumens to the root. -/
  | vgive (k : BitVec 3) (a : BitVec 5) (d : BitVec 5) (n : BitVec 1) (r : BitVec 1) (s : BitVec 3) (l : BitVec 2) (m : BitVec 1)
  /-- R391: Borrow lumens from the vigil's purse into a slot. -/
  | vborrow (k : BitVec 3) (a : BitVec 5) (d : BitVec 5) (n : BitVec 1) (l : BitVec 2)
  /-- R411: Near-bank load of a chunk or scalar bit-sliced into 32 slice registers. -/
  | nbSld (r : BitVec 1) (s : BitVec 7) (c : BitVec 3)
  /-- R411: Near-bank store of 32 slice registers to valid columns of a chunk. -/
  | nbSst (r : BitVec 1) (s : BitVec 7) (b : BitVec 2)
  /-- R411: Set key bits for up to three slices. -/
  | nbKey (a : BitVec 9) (b : BitVec 9) (c : BitVec 9)
  /-- R411: Select up to three slices for CMP and WR. -/
  | nbMask (a : BitVec 9) (b : BitVec 9) (c : BitVec 9)
  /-- R411: Near-bank search of masked slices against the key into a tag. -/
  | nbCmp (m : BitVec 2) (t : BitVec 1)
  /-- R411: Write key bits into masked slices of tagged columns. -/
  | nbWr (t : BitVec 1)
  /-- R411: AND two tags. -/
  | nbTagand (d : BitVec 1) (a : BitVec 1) (b : BitVec 1)
  /-- R411: OR two tags. -/
  | nbTagor (d : BitVec 1) (a : BitVec 1) (b : BitVec 1)
  /-- R411: Complement a tag. -/
  | nbTagnot (d : BitVec 1) (a : BitVec 1)
  /-- R411: Shift a tag across columns. -/
  | nbTagsh (d : BitVec 1) (a : BitVec 1) (n : BitVec 9)
  /-- R411: Open a counted near-bank loop. -/
  | nbLoop (n : BitVec 9)
  /-- R411: Close a loop iteration or end the pass. -/
  | nbEnd
  /-- R138: Fetch of a whole clause, parking the gang on a non-resident page. -/
  | clauseFetch (warp : Nat) (pc : BitVec 32)
  /-- R243: Per-clk choice of the candidate gang whose clause starts. -/
  | issueChoice (core : Nat)
  /-- R243: A gang waiting 64 clk as candidate is promoted. -/
  | gangPromotion (core : Nat) (warp : Nat) (pc : BitVec 32)
  /-- R11: An engine takes a command from the core's command buffer into its queue, lowering setb. -/
  | engineCommandAccept (core : Nat) (cmd : Nat)
  /-- R14: A tracked operation completes and its completion flag count falls. -/
  | trackedOpComplete (warp : Nat) (op : Nat)
  /-- R91: A store leaves the warp's store queue into core order. -/
  | storeQueueLeave (warp : Nat)
  /-- R134: A write to a watched span ends a path's demotion. -/
  | spinDemotionEnd (warp : Nat) (header : BitVec 32)
  /-- R134: Demotion ends 4,096 clk after it began. -/
  | spinDemotionTimeout (warp : Nat) (header : BitVec 32)
  /-- R127: A warp ends once all slices exited, its queue drained and tracked operations completed. -/
  | warpEnd (warp : Nat)
  /-- R179: Lanes that received poison enter the handler at the next clause boundary. -/
  | poisonTrap (warp : Nat)
  /-- R215: Beacon posts a debug configuration block loaded at the warp's next clause boundary. -/
  | debugConfigPost (launch : Nat) (block : List (BitVec 32))
  /-- R295: A complete convergence collection is posted to the reservation table. -/
  | collectionPost (group : Nat) (reg : Nat)
  /-- R296: A collection not posted within 2^cvtime clk is discarded with a trap. -/
  | convergenceTimeout (group : Nat) (reg : Nat)
  /-- R223: Save of a whole group to its context image. -/
  | preemptionRequest (group : Nat)
  /-- R226: Restore of a saved group on any admitting core. -/
  | groupRestore (group : Nat) (core : Nat)
  /-- R239: A distributor admits a group to a core when resources fit. -/
  | groupAdmit (die : Nat)
  /-- R236: After 1,048,576 clk without fitting, later groups are held back. -/
  | admissionStarvation (die : Nat)
  /-- R234: Control message passing an accepted launch to the other distributors. -/
  | launchForward (launch : Nat) (die : Nat)
  /-- R235: Host tail write to a launch queue doorbell; entries are taken and the head written. -/
  | hostQueueDoorbell (queue : Nat) (tail : BitVec 64)
  /-- R237: Steal request of a dry distributor handled indivisibly by the victim. -/
  | stealRequest (thief : Nat)
  /-- R237: Reply granting groups to the thief. -/
  | stealReply (thief : Nat)
  /-- R237: Distributors report unissued remainders to each other. -/
  | remainderReport (die : Nat)
  /-- R242: Every 256 clk the distributor recomputes congested regions. Of each router the counts of the request class stand in
  one list, those of the reply and control classes in the other (R26). -/
  | congestionSample (die : Nat) (request : List Nat) (others : List (Nat × Nat))
  /-- R246: A request checked at the memory port, performed or parked. -/
  | memoryRequest (req : Nat)
  /-- R253: Fault service makes a page resident and replays parked requests. -/
  | pageServiceComplete (ctx : Nat) (buf : Nat) (page : Nat) (stack : Nat) (frame : Nat)
  /-- R251: Walker fill of a translation setting accessed and dirty bits. -/
  | walkerFill (die : Nat) (ctx : Nat) (buf : Nat) (page : Nat) (write : Bool)
  /-- R251: Indivisible pte change sending invalidations to dies with accessed bits. -/
  | pageEntryChange (ctx : Nat) (buf : Nat) (page : Nat) (pte : BitVec 64)
  /-- R251: Invalidation of a page's translations at a die or package. -/
  | translationInvalidation (die : Nat) (change : Nat)
  /-- R251: Acknowledgement completing a page entry change. -/
  | invalidationAck (die : Nat) (change : Nat)
  /-- R252: Privileged shoot-down of a buffer table entry. -/
  | bufferShootdown (ctx : Nat) (buf : Nat) (entry : List (BitVec 64))
  /-- R255: Every AGEPER the fault unit clears accessed bits of evictable pages. -/
  | agingVisit (die : Nat)
  /-- R255: Eviction of a page to the compressed zone or capacity tier below FREELOW. -/
  | pageEviction (ctx : Nat) (buf : Nat) (page : Nat) (handle : Nat) (fits : Bool)
  /-- R257: Start of a page migration with line copy under a bitmap. -/
  | pageMigration (ctx : Nat) (buf : Nat) (page : Nat) (stack : Nat) (frame : Nat)
  /-- R257: Switch-over to the new frame once every line is copied. -/
  | migrationSwitch (ctx : Nat) (buf : Nat) (page : Nat)
  /-- R259: Scrubber pass over a stack every SCRUBPER. -/
  | scrub (stack : Nat)
  /-- R260: Row copy into a spare or reserve row finishes and waiting accesses proceed. -/
  | rowCopyComplete (stack : Nat) (bank : Nat) (row : Nat)
  /-- R264: Write to a privileged register without a row of its own, ignored outside limits. -/
  | registerWrite (die : Nat) (reg : Nat) (value : BitVec 64)
  /-- R272: Tile transfer engine starts a command after checks. -/
  | tileCommandStart (quad : Nat) (cmd : Nat)
  /-- R268: Walk-ahead TLB translates a command's pages early. -/
  | walkAheadFill (quad : Nat) (cmd : Nat) (page : Nat)
  /-- R274: A sector is written, bitmapped and counted in one Lantern update. -/
  | sectorDeliver (quad : Nat) (cmd : Nat) (sector : Nat)
  /-- R276: Ready message completing a multicast rendezvous. -/
  | tmcastReady (src : Nat) (dst : Nat) (cmd : Nat)
  /-- R276: A gathered multicast sector arrives at a named quad. -/
  | tmcastSector (quad : Nat) (cmd : Nat) (sector : Nat)
  /-- R277: A post is placed in a free slot of the receiver quad. -/
  | noticePostPlace (quad : Nat) (cmd : Nat)
  /-- R277: A take matches a notice and starts reading the source. -/
  | noticeMatch (quad : Nat) (cmd : Nat)
  /-- R277: Acknowledgement counting the post at the sender. -/
  | noticeAck (quad : Nat) (cmd : Nat)
  /-- R298: Arbiter grants the next row pass to a ready entry. -/
  | matrixPassGrant (quad : Nat)
  /-- R292: A row's result lands in the tile; the entry may complete. -/
  | matrixRowResult (quad : Nat) (entry : Nat)
  /-- R289: MSTAT entry marks macros once earlier stores and copies are done. -/
  | macroMark (quad : Nat) (entry : Nat)
  /-- R289: MUNSTAT entry clears marks after earlier passes finish. -/
  | macroUnmark (quad : Nat) (entry : Nat)
  /-- R338: A combination finishes and the step machine takes its next transition. -/
  | orreryCombinationDone (die : Nat) (orbit : Nat)
  /-- R360: A ready Orrery call is handed to the oldest matching waiter. -/
  | callHandoff (die : Nat) (orbit : Nat)
  /-- R382: Return message adding lumens to the root pool. -/
  | lumenReturn (die : Nat) (msg : Nat)
  /-- R381: Purse draw message carrying lumens from the root. -/
  | purseDraw (die : Nat) (msg : Nat)
  /-- R383: Recall sent to every purse of a watched vigil. -/
  | purseRecall (die : Nat) (num : Nat)
  /-- R391: A VSEND record message reaches its target, taken or refused. -/
  | vsendMessage (die : Nat) (msg : Nat)
  /-- R388: Bin timer expiry launches every held record as a batch. -/
  | binTimer (die : Nat) (num : Nat)
  /-- R416: Kick to a Lamplighter from an 8-byte store to the kick buffer. -/
  | kick (stack : Nat)
  /-- R418: Lamplighter starts the next queued kernel after its checks. -/
  | nbuKernelStart (stack : Nat)
  /-- R420: A near-bank pass over one chunk ends. -/
  | nbuPassEnd (stack : Nat) (chunk : Nat)
  /-- R422: Refresh kick re-reads the page list and resumes the kernel. -/
  | listRefresh (stack : Nat)
  /-- R412: Driver installation of .nbu kernels into the Lamplighter table. -/
  | nbuInstall (stack : Nat) (ctx : Nat) (kid : Nat) (words : List (BitVec 32))
  /-- R426: Destruction of a context completing its kernels with 0x04. -/
  | contextDestroy (ctx : Nat)
  /-- R109: Host or peer write into device memory through BAR2. -/
  | hostWrite (ctx : Nat) (ref : BitVec 64) (bytes : List (BitVec 8))
  /-- R434: ATS invalidation request dropping a host-window translation. -/
  | atsInvalidation (ctx : Nat) (buf : Nat) (page : Nat)
  /-- R434: Host response to a Page Request Interface request. -/
  | pageRequestResponse (ctx : Nat) (buf : Nat) (page : Nat) (granted : Bool) (busPage : Nat)
  /-- R437: A remote access packet performed at the owning package. -/
  | remoteAccess (pkg : Nat) (ctx : Nat) (ref : BitVec 64) (kind : Nat) (bytes : List (BitVec 8))
  /-- R438: Pod barrier arrival control packet at the home package. -/
  | podBarrierArrival (key : Nat) (index : Nat)
  /-- R438: Multicast advance of a pod barrier. -/
  | podBarrierAdvance (key : Nat) (index : Nat)
  /-- R440: A Meridian port fails and traffic reroutes or becomes poisoned. -/
  | meridianPortFailure (port : Nat) (unreachable : List Nat)
  /-- R441: Host checkpoint command saving the package to the safe tier. -/
  | checkpoint
  /-- R441: Restore of a checkpoint image into a package. -/
  | checkpointRestore
  /-- R442: Driver writes the negotiated feature word. -/
  | featureWordWrite (word : BitVec 128)
  /-- R443: Boot ROM verification of the signed firmware image at reset. -/
  | boot (signatureOk : Bool) (version : Nat)
  /-- R444: Signed attestation report for a verifier nonce. -/
  | attestationRequest (nonce : BitVec 256)
  /-- R445: 1 ms sampling of temperature, voltage and process monitors. -/
  | monitorSample (die : Nat) (temps : List Nat) (others : List Nat)
  /-- R446: Write of the package power limit. -/
  | powerLimitWrite (watts : Nat)
  /-- R446: Power manager lowers or raises the compute clock by 26 MHz. -/
  | powerClockStep (die : Nat) (raise : Bool)
  /-- R446: Die at 105 °C drops to 0.65 GHz with a thermal event. -/
  | thermalThrottle (die : Nat)
  /-- R446: At 115 °C the package stops all clocks. -/
  | thermalShutdown
  /-- R214: The host ends a group whose gang is parked on a debug event with no debug entry. -/
  | hostEndGroup (group : Nat)
  /-- R433: A PCI Express AtomicOp (FetchAdd, Swap or CAS) from the host or a peer is completed on device memory. -/
  | hostAtomicop (ctx : Nat) (ref : BitVec 64) (kind : Nat) (wide : Bool) (a : BitVec 64) (b : BitVec 64)
  /-- R255: The compression or copy of an evicted page finishes and its frame is freed. -/
  | evictionComplete (ctx : Nat) (buf : Nat) (page : Nat)
  /-- R312: A matrix entry without row passes (MZERO, SCAC, MTREAD) finishes its work and completes, freeing its slot and table entry. -/
  | matrixEntryComplete (quad : Nat) (entry : Nat)
  deriving DecidableEq, Repr

end Sys2Proof
end

