-- ==== Sys2Proof/WellFormed.lean ====
section
/-! DEFINITION. Which instructions are well-formed: sub-field values assigned, conditionally reserved fields zero,
register fields legal whatever the state, predicates not in conflict (02_encoding.md R29, R36–R50 and the tables of
illegal uses of each chapter). What also depends on the state (allotment, handler, granted counts) is checked at
issue. -/

namespace Sys2Proof

/-- A scope field of R43 is assigned. -/
def scopeOk (s : BitVec 3) : Bool := decide (s.toNat ≤ 5)

/-- The special registers that USRD reads outside a handler (R194). -/
def srReadable (n : Nat) : Bool := decide (n ≤ 0x13) || n == 0x100 || n == 0x101

/-- The special registers that USWR writes outside a handler (R194). -/
def srWritable (n : Nat) : Bool := n == 0x0E || (decide (0x10 ≤ n) && decide (n ≤ 0x13))

/-- The trap registers, reachable inside a handler (R209). -/
def srTrap (n : Nat) : Bool := decide (0x20 ≤ n) && decide (n ≤ 0x30)

/-- The trap registers that USWR writes (R209). -/
def srTrapWritable (n : Nat) : Bool := n == 0x21 || (decide (0x2D ≤ n) && decide (n ≤ 0x30))

/-- Every sub-field value is assigned: sub-cause 2 of R50 otherwise. -/
def subfieldOk : Instr → Bool
  | .atomAdd s .. | .atomAnd s .. | .atomOr s .. | .atomXor s .. | .atomMini s .. | .atomMaxi s .. | .atomMinn s ..
  | .atomMaxn s .. | .atomSwap s .. | .atomCas s .. | .atomAdd64 s .. | .atomSwap64 s .. | .atomCas64 s ..
  | .atomFadd32 s .. => scopeOk s
  | .testb c .. => decide (c ≠ 3)
  | .usrd _ _ n => srReadable n.toNat || srTrap n.toNat
  | .uswr _ _ n => srWritable n.toNat || srTrapWritable n.toNat
  | .bar _ m s _ => decide (m ≠ 3) && decide (s.toNat ≤ 4)
  | .fenceNear _ s | .fenceFar _ s | .fenceAcq _ s | .fenceRel _ s | .fenceAr _ s | .fenceSc _ s => scopeOk s
  | .barrd _ _ _ s | .barwr _ _ _ s => decide (s ≠ 3)
  | .vstat _ _ _ s => decide (s.toNat ≤ 3) || (decide (8 ≤ s.toNat) && decide (s.toNat ≤ 19))
  | .tcopy _ _ _ _ _ _ s | .tstore _ _ _ _ _ _ s | .tpref _ _ _ _ _ _ s => scopeOk s
  | .tmcast _ _ _ _ _ _ s _ | .tnotice _ _ _ _ _ _ s _ => scopeOk s
  | .launch _ _ _ _ _ _ s => scopeOk s
  | .oload _ _ _ _ _ _ s | .obind _ _ _ _ _ _ s | .orun _ _ _ _ _ _ s | .ostep _ _ _ _ _ _ s
  | .odone _ _ _ _ _ _ s | .odense _ _ _ _ _ _ s => scopeOk s
  | .ostop _ _ _ _ _ _ s _ => scopeOk s
  | .vnew _ _ _ _ s t _ => decide (t ≠ 3) && scopeOk s
  | .vspawn _ _ _ _ _ s _ _ | .vsend _ _ _ _ _ s _ _ | .qpush _ _ _ _ _ s _ _ | .bsend _ _ _ _ _ s _ _ => scopeOk s
  | .vgive _ _ _ _ _ s _ _ => scopeOk s
  | _ => true

/-- Conversion pairs that map every source value exactly (R167). -/
def cvtExact (p : Nat) : Bool := [1, 3, 5, 15, 16, 17, 18, 19, 20, 21, 27, 31].contains p

/-- A status destination is 0 where no status is asked for (R234, R269, R349, R389). -/
def nostatOk (n : BitVec 1) (d : BitVec 5) : Bool := n == 0 || d == 0

/-- Fields reserved under other fields are 0: sub-cause 3 of R50 otherwise. -/
def reservedOk : Instr → Bool
  | .cvt p s r _ _ _ => !cvtExact p.toNat || (s == 0 && r == 0)
  | .mquery _ _ a s => s == 0 || a == 0
  | .tcopy _ _ d n .. | .tstore _ _ d n .. | .tmcast _ _ d n .. | .tnotice _ _ d n .. | .tpref _ _ d n ..
  | .launch _ _ d n .. | .oload _ _ d n .. | .obind _ _ d n .. | .orun _ _ d n .. | .ostep _ _ d n ..
  | .odone _ _ d n .. | .odense _ _ d n .. | .ostop _ _ d n .. | .vfree _ _ d n | .vspawn _ _ d n .. | .vsend _ _ d n ..
  | .qpush _ _ d n .. | .bsend _ _ d n .. | .vborrow _ _ d n _ => nostatOk n d
  | .vnew _ _ _ q _ t l => (t == 0 && q == 0) || (t != 0 && l == 0)
  | .vgive _ a d n _ _ _ m => nostatOk n d && (m == 1 || a == 0)
  | _ => true

/-- A use of a lane register field: code, number of registers, written. -/
structure LaneUse where
  code : Nat
  count : Nat := 1
  dst : Bool := false
  deriving DecidableEq, Repr

/-- A destination field. -/
def useD (c : BitVec 7) (n : Nat := 1) : LaneUse := ⟨c.toNat, n, true⟩
/-- A source field. -/
def useS (c : BitVec 7) (n : Nat := 1) : LaneUse := ⟨c.toNat, n, false⟩
/-- Register count of a value of 32 or 64 bits, by the mode bit (R40). -/
def wCount (w : BitVec 1) : Nat := if w = 0 then 1 else 2
/-- The member-mask pair v(2m) of an LW word (R40). -/
def useM (m : BitVec 6) : LaneUse := ⟨2 * m.toNat, 2, false⟩

/-- Conversion pairs whose destination is a register pair, and whose source is one (R167). -/
def cvtDstPair (p : Nat) : Bool := [1, 27, 28, 29, 31].contains p
def cvtSrcPair (p : Nat) : Bool := [0, 6, 7, 26, 28, 29, 30].contains p

/-- The lane register fields that a word reads or writes (R28, R29 and each instruction's entry). -/
def laneUses : Instr → List LaneUse
  | .add _ d a b | .sub _ d a b | .mul _ d a b | .mulhi _ d a b | .mulhn _ d a b | .and _ d a b | .or _ d a b
  | .xor _ d a b | .shl _ d a b | .shrn _ d a b | .shri _ d a b | .mini _ d a b | .maxi _ d a b | .minn _ d a b
  | .maxn _ d a b | .sel _ d a b | .fadd32 _ d a b | .fmul32 _ d a b | .ffma32 _ d a b | .fsub32 _ d a b
  | .ffma2h _ d a b => [useD d, useS a, useS b]
  | .fadd64 _ d a b | .fmul64 _ d a b | .ffma64 _ d a b => [useD d 2, useS a 2, useS b 2]
  | .ld32 _ d a _ => [useD d, useS a 2]
  | .ld64 _ d a _ => [useD d 2, useS a 2]
  | .ld128 _ d a _ => [useD d 4, useS a 2]
  | .st32 _ d a _ => [useS d, useS a 2]
  | .st64 _ d a _ => [useS d 2, useS a 2]
  | .st128 _ d a _ => [useS d 4, useS a 2]
  | .lds _ d a _ => [useD d, useS a]
  | .sts _ d a _ => [useS d, useS a]
  | .mov _ d a | .not _ d a | .neg _ d a | .abs _ d a | .popc _ d a | .clz _ d a | .ctz _ d a | .brev _ d a
  | .sext8 _ d a | .sext16 _ d a | .andn _ d a | .orn _ d a | .rotl _ d a | .rotr _ d a | .addsi _ d a | .subsi _ d a
  | .addsn _ d a | .subsn _ d a | .bfxn _ d a | .bfxi _ d a => [useD d, useS a]
  | .bfi _ d a => [useD d, useS a 2]
  | .mov64 _ d a | .neg64 _ d a | .add64 _ d a | .sub64 _ d a | .mul64 _ d a | .mini64 _ d a | .maxi64 _ d a
  | .minn64 _ d a | .maxn64 _ d a => [useD d 2, useS a 2]
  | .sext64 _ d a | .shl64 _ d a | .shrn64 _ d a | .shri64 _ d a | .mulwi _ d a | .mulwn _ d a => [useD d 2, useS a]
  | .popc64 _ d a | .clz64 _ d a => [useD d, useS a 2]
  | .brr _ a | .meetr _ a => [useS a]
  | .callr _ d a => [useD d 2, useS a]
  | .fmin32 _ d a | .fmax32 _ d a | .fdiv32 _ d a | .fsqrt32 _ d a | .frsqrt32 _ d a | .frcp32 _ d a | .fexp2 _ d a
  | .flog2 _ d a | .fneg32 _ d a | .fabs32 _ d a | .fclass32 _ d a | .fclass16 _ d a => [useD d, useS a]
  | .fmin64 _ d a | .fmax64 _ d a | .fdiv64 _ d a | .fsqrt64 _ d a | .frsqrt64 _ d a | .frcp64 _ d a | .fneg64 _ d a
  | .fabs64 _ d a => [useD d 2, useS a 2]
  | .ffma2b _ d a | .fclass64 _ d a => [useD d, useS a 2]
  | .cvt p _ _ _ d a => [useD d (if cvtDstPair p.toNat then 2 else 1), useS a (if cvtSrcPair p.toNat then 2 else 1)]
  | .ld8n _ d a | .ld8i _ d a | .ld16n _ d a | .ld16i _ d a => [useD d, useS a 2]
  | .st8 _ d a | .st16 _ d a => [useS d, useS a 2]
  | .lds8n _ d a | .lds8i _ d a | .lds16n _ d a | .lds16i _ d a => [useD d, useS a]
  | .sts8 _ d a | .sts16 _ d a => [useS d, useS a]
  | .lds64 _ d a => [useD d 2, useS a]
  | .lds128 _ d a => [useD d 4, useS a]
  | .sts64 _ d a => [useS d 2, useS a]
  | .sts128 _ d a => [useS d 4, useS a]
  | .gredAdd _ d a | .gredFadd32 _ d a | .gredMini _ d a | .gredMaxi _ d a | .gredMinn _ d a | .gredMaxn _ d a =>
    [useD d, useS a 2]
  | .latomAdd _ d a | .latomAnd _ d a | .latomOr _ d a | .latomXor _ d a | .latomMini _ d a | .latomMaxi _ d a
  | .latomMinn _ d a | .latomMaxn _ d a | .latomSwap _ d a | .latomFadd32 _ d a => [useD d, useS a]
  | .latomCas _ d a | .latomAdd64 _ d a | .latomSwap64 _ d a => [useD d 2, useS a]
  | .latomCas64 _ d a => [useD d 4, useS a]
  | .atomAdd _ _ _ d a | .atomAnd _ _ _ d a | .atomOr _ _ _ d a | .atomXor _ _ _ d a | .atomMini _ _ _ d a
  | .atomMaxi _ _ _ d a | .atomMinn _ _ _ d a | .atomMaxn _ _ _ d a | .atomSwap _ _ _ d a | .atomFadd32 _ _ _ d a =>
    [useD d, useS a 2]
  | .atomCas _ _ _ d a | .atomAdd64 _ _ _ d a | .atomSwap64 _ _ _ d a => [useD d 2, useS a 2]
  | .atomCas64 _ _ _ d a => [useD d 4, useS a 2]
  | .cmpI32 c _ _ _ a b | .cmpN32 c _ _ _ a b => if c = 3 then [useS a] else [useS a, useS b]
  | .cmpI64 c _ _ _ a b => if c = 3 then [useS a 2] else [useS a 2, useS b 2]
  | .fcmpF32 _ _ _ _ a b | .fcmpF16 _ _ _ _ a b => [useS a, useS b]
  | .fcmpF64 _ _ _ _ a b => [useS a 2, useS b 2]
  | .cmpiI32 _ _ _ _ a _ => [useS a]
  | .testb _ _ _ _ a b => [useS a, useS b]
  | .movi _ d _ | .addi _ d _ | .andi _ d _ | .ori _ d _ | .xori _ d _ | .meet _ d _ => [useD d]
  | .calll _ d _ => [useD d 2]
  | .ballot _ m d => [useM m, useD d 2]
  | .vote _ m d _ => [useM m, useD d]
  | .matchMembers m d a w => [useM m, useD d 2, useS a (wCount w)]
  | .shflIdx m d a w | .shflUp m d a w | .shflDown m d a w | .shflXor m d a w | .reduceAdd m d a w | .reduceMin m d a w
  | .reduceMax m d a w | .reduceAnd m d a w | .reduceOr m d a w | .reduceXor m d a w | .scanAdd m d a w
  | .scanMin m d a w | .scanMax m d a w => [useM m, useD d (wCount w), useS a (wCount w)]
  | _ => []

/-- A lane register field is legal whatever the allotment (R29): a destination is a v register, a pair is even, a quad a
multiple of 4. -/
def useOk (u : LaneUse) : Bool := (!u.dst || decide (u.code < 96)) && u.code % u.count == 0

/-- A pair field of the uniform registers is even. -/
def evenU (r : BitVec 5) : Bool := r.toNat % 2 == 0

/-- The uniform register fields are legal (R190–R193, R207, R234, R284, R317, R369, R400). -/
def uniRegsOk : Instr → Bool
  | .uadd64 _ d a b | .usub64 _ d a b => evenU d && evenU a && evenU b
  | .ucmpI64 _ _ _ a b c => evenU a && (c == 3 || evenU b)
  | .uld32 _ _ a _ | .ust32 _ _ a _ => evenU a
  | .uld64 _ d a _ | .ust64 _ d a _ => evenU d && evenU a
  | .mtread _ _ _ _ a => evenU a
  | .tcopy _ c .. | .tstore _ c .. | .tnotice _ c .. | .tpref _ c .. => evenU c && decide (c.toNat ≤ 22)
  | .tmcast _ c _ _ _ _ _ m => evenU c && decide (c.toNat ≤ 22) && m.toNat % 4 == 0
  | .launch _ l .. => evenU l
  | .oload _ a .. | .odone _ a .. => evenU a
  | .obind _ a .. => evenU a && decide (a.toNat ≤ 28)
  | .odense _ a .. => evenU a && decide (a.toNat ≤ 26)
  | .otake _ d _ _ => d == 0 || d == 16
  | .vnew _ a _ _ _ t _ => t == 0 || evenU a
  | .vspawn _ a .. => evenU a && decide (a.toNat ≤ 28)
  | .vsend _ a .. | .qpush _ a .. | .bsend _ a .. => evenU a && decide (a.toNat ≤ 20)
  | .vgive _ a .. => evenU a
  | .vborrow _ a .. => evenU a
  | .qpop _ d .. => decide (d.toNat ≤ 22)
  | _ => true

/-- Every register field is legal whatever the state: sub-cause 4 of R50 otherwise. -/
def regsOk (i : Instr) : Bool := (laneUses i).all useOk && uniRegsOk i

/-- No two destination predicates other than p0 or k0 coincide: sub-cause 5 of R50 otherwise (R38, R42, R44). -/
def predsOk : Instr → Bool
  | .cmpI32 _ _ x y .. | .cmpN32 _ _ x y .. | .cmpI64 _ _ x y .. | .fcmpF32 _ _ x y .. | .fcmpF64 _ _ x y ..
  | .cmpiI32 _ _ x y .. | .fcmpF16 _ _ x y .. | .testb _ _ x y .. => x != y || x == 0
  | .ucmpI32 _ x y .. | .ucmpN32 _ x y .. | .ucmpI64 _ x y .. => x != y || x == 0
  | .ucmpi _ _ _ x y _ => x != y || x == 0
  | _ => true

/-- A slice code of a near-bank word: 0–95, or 127 for none where allowed (R409). -/
def sliceOk (c : BitVec 9) (none : Bool) : Bool :=
  decide ((c.extractLsb' 0 7).toNat < 96) || (none && (c.extractLsb' 0 7) == 127)

/-- A near-bank word's fields are legal at installation (R409, R412). -/
def nearOk : Instr → Bool
  | .nbSld r s _ => decide (s.toNat < 96) && (r == 1 || decide (s.toNat ≤ 64))
  | .nbSst r s _ => decide (s.toNat < 96) && (r == 1 || decide (s.toNat ≤ 64))
  | .nbKey a b c => sliceOk a true && sliceOk b true && sliceOk c true
  | .nbMask a b c =>
    sliceOk a true && sliceOk b true && sliceOk c true &&
      a.extractLsb' 7 1 == 0 && b.extractLsb' 7 1 == 0 && c.extractLsb' 7 1 == 0
  | .nbCmp m _ => m != 3
  | .nbLoop n => n != 0
  | _ => true

/-- A well-formed core or near-bank instruction. An event is no instruction word and carries no such rule. -/
def WellFormed (i : Instr) : Bool := subfieldOk i && reservedOk i && regsOk i && predsOk i && nearOk i

end Sys2Proof
end

