-- ==== Sys2Proof/Decode.lean ====
section
/-! DEFINITION. Decoding of Unmir words (02_encoding.md R27–R48 and the engine chapters) and of near-bank words
(24_nearmem.md R408–R410), total and rejecting by name, and after it the encoder. A definition that builds a constructor
with operands past the 244th is noncomputable: Lean's compiler has no tag for it. The kernel evaluates it like any other. -/

namespace Sys2Proof

/-- n bits of a word from bit lo upward. -/
def fld (w : Word) (lo n : Nat) : BitVec n := w.extractLsb' lo n

/-- Why a word is no instruction (R50). -/
inductive DecodeError where
  /-- Unassigned opcode (sub-cause 2). -/
  | unassigned
  /-- Unassigned sub-field value (sub-cause 2). -/
  | subfield
  /-- Nonzero reserved field (sub-cause 3). -/
  | reserved
  /-- Register field (sub-cause 4). -/
  | register
  /-- Predicate conflict (sub-cause 5). -/
  | predicate
  deriving DecidableEq, Repr

/-- The LR form by op5 (R33, R34). -/
def decodeLR (w : Word) : Option Instr :=
  match (fld w 25 5).toNat with
  | 0 => some (.add (fld w 21 4) (fld w 14 7) (fld w 7 7) (fld w 0 7))
  | 1 => some (.sub (fld w 21 4) (fld w 14 7) (fld w 7 7) (fld w 0 7))
  | 2 => some (.mul (fld w 21 4) (fld w 14 7) (fld w 7 7) (fld w 0 7))
  | 3 => some (.mulhi (fld w 21 4) (fld w 14 7) (fld w 7 7) (fld w 0 7))
  | 4 => some (.mulhn (fld w 21 4) (fld w 14 7) (fld w 7 7) (fld w 0 7))
  | 5 => some (.and (fld w 21 4) (fld w 14 7) (fld w 7 7) (fld w 0 7))
  | 6 => some (.or (fld w 21 4) (fld w 14 7) (fld w 7 7) (fld w 0 7))
  | 7 => some (.xor (fld w 21 4) (fld w 14 7) (fld w 7 7) (fld w 0 7))
  | 8 => some (.shl (fld w 21 4) (fld w 14 7) (fld w 7 7) (fld w 0 7))
  | 9 => some (.shrn (fld w 21 4) (fld w 14 7) (fld w 7 7) (fld w 0 7))
  | 10 => some (.shri (fld w 21 4) (fld w 14 7) (fld w 7 7) (fld w 0 7))
  | 11 => some (.mini (fld w 21 4) (fld w 14 7) (fld w 7 7) (fld w 0 7))
  | 12 => some (.maxi (fld w 21 4) (fld w 14 7) (fld w 7 7) (fld w 0 7))
  | 13 => some (.minn (fld w 21 4) (fld w 14 7) (fld w 7 7) (fld w 0 7))
  | 14 => some (.maxn (fld w 21 4) (fld w 14 7) (fld w 7 7) (fld w 0 7))
  | 15 => some (.sel (fld w 21 4) (fld w 14 7) (fld w 7 7) (fld w 0 7))
  | 16 => some (.fadd32 (fld w 21 4) (fld w 14 7) (fld w 7 7) (fld w 0 7))
  | 17 => some (.fmul32 (fld w 21 4) (fld w 14 7) (fld w 7 7) (fld w 0 7))
  | 18 => some (.ffma32 (fld w 21 4) (fld w 14 7) (fld w 7 7) (fld w 0 7))
  | 19 => some (.fsub32 (fld w 21 4) (fld w 14 7) (fld w 7 7) (fld w 0 7))
  | 20 => some (.fadd64 (fld w 21 4) (fld w 14 7) (fld w 7 7) (fld w 0 7))
  | 21 => some (.fmul64 (fld w 21 4) (fld w 14 7) (fld w 7 7) (fld w 0 7))
  | 22 => some (.ffma64 (fld w 21 4) (fld w 14 7) (fld w 7 7) (fld w 0 7))
  | 23 => some (.ffma2h (fld w 21 4) (fld w 14 7) (fld w 7 7) (fld w 0 7))
  | 24 => some (.ld32 (fld w 21 4) (fld w 14 7) (fld w 7 7) (fld w 0 7))
  | 25 => some (.ld64 (fld w 21 4) (fld w 14 7) (fld w 7 7) (fld w 0 7))
  | 26 => some (.ld128 (fld w 21 4) (fld w 14 7) (fld w 7 7) (fld w 0 7))
  | 27 => some (.st32 (fld w 21 4) (fld w 14 7) (fld w 7 7) (fld w 0 7))
  | 28 => some (.st64 (fld w 21 4) (fld w 14 7) (fld w 7 7) (fld w 0 7))
  | 29 => some (.st128 (fld w 21 4) (fld w 14 7) (fld w 7 7) (fld w 0 7))
  | 30 => some (.lds (fld w 21 4) (fld w 14 7) (fld w 7 7) (fld w 0 7))
  | 31 => some (.sts (fld w 21 4) (fld w 14 7) (fld w 7 7) (fld w 0 7))
  | _ => none

/-- The global atomics by op4 (R36). -/
def decodeAtom (w : Word) : Option Instr :=
  match (fld w 23 4).toNat with
  | 0 => some (.atomAdd (fld w 20 3) (fld w 18 2) (fld w 14 4) (fld w 7 7) (fld w 0 7))
  | 1 => some (.atomAnd (fld w 20 3) (fld w 18 2) (fld w 14 4) (fld w 7 7) (fld w 0 7))
  | 2 => some (.atomOr (fld w 20 3) (fld w 18 2) (fld w 14 4) (fld w 7 7) (fld w 0 7))
  | 3 => some (.atomXor (fld w 20 3) (fld w 18 2) (fld w 14 4) (fld w 7 7) (fld w 0 7))
  | 4 => some (.atomMini (fld w 20 3) (fld w 18 2) (fld w 14 4) (fld w 7 7) (fld w 0 7))
  | 5 => some (.atomMaxi (fld w 20 3) (fld w 18 2) (fld w 14 4) (fld w 7 7) (fld w 0 7))
  | 6 => some (.atomMinn (fld w 20 3) (fld w 18 2) (fld w 14 4) (fld w 7 7) (fld w 0 7))
  | 7 => some (.atomMaxn (fld w 20 3) (fld w 18 2) (fld w 14 4) (fld w 7 7) (fld w 0 7))
  | 8 => some (.atomSwap (fld w 20 3) (fld w 18 2) (fld w 14 4) (fld w 7 7) (fld w 0 7))
  | 9 => some (.atomCas (fld w 20 3) (fld w 18 2) (fld w 14 4) (fld w 7 7) (fld w 0 7))
  | 10 => some (.atomAdd64 (fld w 20 3) (fld w 18 2) (fld w 14 4) (fld w 7 7) (fld w 0 7))
  | 11 => some (.atomSwap64 (fld w 20 3) (fld w 18 2) (fld w 14 4) (fld w 7 7) (fld w 0 7))
  | 12 => some (.atomCas64 (fld w 20 3) (fld w 18 2) (fld w 14 4) (fld w 7 7) (fld w 0 7))
  | 13 => some (.atomFadd32 (fld w 20 3) (fld w 18 2) (fld w 14 4) (fld w 7 7) (fld w 0 7))
  | _ => none

/-- The LX form below the conversions by ext10 (R36, R146, R155, R160, R175, R180, R181). -/
def decodeLXlow (w : Word) : Option Instr :=
  match (fld w 18 10).toNat with
  | 0 => some (.mov (fld w 14 4) (fld w 7 7) (fld w 0 7))
  | 1 => some (.not (fld w 14 4) (fld w 7 7) (fld w 0 7))
  | 2 => some (.neg (fld w 14 4) (fld w 7 7) (fld w 0 7))
  | 3 => some (.abs (fld w 14 4) (fld w 7 7) (fld w 0 7))
  | 4 => some (.popc (fld w 14 4) (fld w 7 7) (fld w 0 7))
  | 5 => some (.clz (fld w 14 4) (fld w 7 7) (fld w 0 7))
  | 6 => some (.ctz (fld w 14 4) (fld w 7 7) (fld w 0 7))
  | 7 => some (.brev (fld w 14 4) (fld w 7 7) (fld w 0 7))
  | 8 => some (.sext8 (fld w 14 4) (fld w 7 7) (fld w 0 7))
  | 9 => some (.sext16 (fld w 14 4) (fld w 7 7) (fld w 0 7))
  | 16 => some (.andn (fld w 14 4) (fld w 7 7) (fld w 0 7))
  | 17 => some (.orn (fld w 14 4) (fld w 7 7) (fld w 0 7))
  | 18 => some (.rotl (fld w 14 4) (fld w 7 7) (fld w 0 7))
  | 19 => some (.rotr (fld w 14 4) (fld w 7 7) (fld w 0 7))
  | 20 => some (.addsi (fld w 14 4) (fld w 7 7) (fld w 0 7))
  | 21 => some (.subsi (fld w 14 4) (fld w 7 7) (fld w 0 7))
  | 22 => some (.addsn (fld w 14 4) (fld w 7 7) (fld w 0 7))
  | 23 => some (.subsn (fld w 14 4) (fld w 7 7) (fld w 0 7))
  | 24 => some (.bfxn (fld w 14 4) (fld w 7 7) (fld w 0 7))
  | 25 => some (.bfxi (fld w 14 4) (fld w 7 7) (fld w 0 7))
  | 26 => some (.bfi (fld w 14 4) (fld w 7 7) (fld w 0 7))
  | 32 => some (.mov64 (fld w 14 4) (fld w 7 7) (fld w 0 7))
  | 33 => some (.neg64 (fld w 14 4) (fld w 7 7) (fld w 0 7))
  | 34 => some (.sext64 (fld w 14 4) (fld w 7 7) (fld w 0 7))
  | 36 => some (.add64 (fld w 14 4) (fld w 7 7) (fld w 0 7))
  | 37 => some (.sub64 (fld w 14 4) (fld w 7 7) (fld w 0 7))
  | 38 => some (.mul64 (fld w 14 4) (fld w 7 7) (fld w 0 7))
  | 40 => some (.shl64 (fld w 14 4) (fld w 7 7) (fld w 0 7))
  | 41 => some (.shrn64 (fld w 14 4) (fld w 7 7) (fld w 0 7))
  | 42 => some (.shri64 (fld w 14 4) (fld w 7 7) (fld w 0 7))
  | 44 => some (.mini64 (fld w 14 4) (fld w 7 7) (fld w 0 7))
  | 45 => some (.maxi64 (fld w 14 4) (fld w 7 7) (fld w 0 7))
  | 46 => some (.minn64 (fld w 14 4) (fld w 7 7) (fld w 0 7))
  | 47 => some (.maxn64 (fld w 14 4) (fld w 7 7) (fld w 0 7))
  | 48 => some (.mulwi (fld w 14 4) (fld w 7 7) (fld w 0 7))
  | 49 => some (.mulwn (fld w 14 4) (fld w 7 7) (fld w 0 7))
  | 50 => some (.popc64 (fld w 14 4) (fld w 7 7) (fld w 0 7))
  | 51 => some (.clz64 (fld w 14 4) (fld w 7 7) (fld w 0 7))
  | 64 => some (.exit (fld w 14 4))
  | 65 => some (.brr (fld w 14 4) (fld w 0 7))
  | 66 => some (.callr (fld w 14 4) (fld w 7 7) (fld w 0 7))
  | 67 => some (.meetr (fld w 14 4) (fld w 0 7))
  | 128 => some (.fmin32 (fld w 14 4) (fld w 7 7) (fld w 0 7))
  | 129 => some (.fmax32 (fld w 14 4) (fld w 7 7) (fld w 0 7))
  | 130 => some (.fmin64 (fld w 14 4) (fld w 7 7) (fld w 0 7))
  | 131 => some (.fmax64 (fld w 14 4) (fld w 7 7) (fld w 0 7))
  | 132 => some (.fdiv32 (fld w 14 4) (fld w 7 7) (fld w 0 7))
  | 133 => some (.fdiv64 (fld w 14 4) (fld w 7 7) (fld w 0 7))
  | 134 => some (.fsqrt32 (fld w 14 4) (fld w 7 7) (fld w 0 7))
  | 135 => some (.fsqrt64 (fld w 14 4) (fld w 7 7) (fld w 0 7))
  | 136 => some (.frsqrt32 (fld w 14 4) (fld w 7 7) (fld w 0 7))
  | 137 => some (.frsqrt64 (fld w 14 4) (fld w 7 7) (fld w 0 7))
  | 138 => some (.frcp32 (fld w 14 4) (fld w 7 7) (fld w 0 7))
  | 139 => some (.frcp64 (fld w 14 4) (fld w 7 7) (fld w 0 7))
  | 140 => some (.fexp2 (fld w 14 4) (fld w 7 7) (fld w 0 7))
  | 141 => some (.flog2 (fld w 14 4) (fld w 7 7) (fld w 0 7))
  | 144 => some (.fneg32 (fld w 14 4) (fld w 7 7) (fld w 0 7))
  | 145 => some (.fabs32 (fld w 14 4) (fld w 7 7) (fld w 0 7))
  | 146 => some (.fneg64 (fld w 14 4) (fld w 7 7) (fld w 0 7))
  | 147 => some (.fabs64 (fld w 14 4) (fld w 7 7) (fld w 0 7))
  | 148 => some (.ffma2b (fld w 14 4) (fld w 7 7) (fld w 0 7))
  | 152 => some (.fclass32 (fld w 14 4) (fld w 7 7) (fld w 0 7))
  | 153 => some (.fclass64 (fld w 14 4) (fld w 7 7) (fld w 0 7))
  | 154 => some (.fclass16 (fld w 14 4) (fld w 7 7) (fld w 0 7))
  | 192 => some (.ld8n (fld w 14 4) (fld w 7 7) (fld w 0 7))
  | 193 => some (.ld8i (fld w 14 4) (fld w 7 7) (fld w 0 7))
  | 194 => some (.ld16n (fld w 14 4) (fld w 7 7) (fld w 0 7))
  | 195 => some (.ld16i (fld w 14 4) (fld w 7 7) (fld w 0 7))
  | 196 => some (.st8 (fld w 14 4) (fld w 7 7) (fld w 0 7))
  | 197 => some (.st16 (fld w 14 4) (fld w 7 7) (fld w 0 7))
  | 200 => some (.lds8n (fld w 14 4) (fld w 7 7) (fld w 0 7))
  | 201 => some (.lds8i (fld w 14 4) (fld w 7 7) (fld w 0 7))
  | 202 => some (.lds16n (fld w 14 4) (fld w 7 7) (fld w 0 7))
  | 203 => some (.lds16i (fld w 14 4) (fld w 7 7) (fld w 0 7))
  | 204 => some (.sts8 (fld w 14 4) (fld w 7 7) (fld w 0 7))
  | 205 => some (.sts16 (fld w 14 4) (fld w 7 7) (fld w 0 7))
  | 206 => some (.lds64 (fld w 14 4) (fld w 7 7) (fld w 0 7))
  | 207 => some (.lds128 (fld w 14 4) (fld w 7 7) (fld w 0 7))
  | 208 => some (.sts64 (fld w 14 4) (fld w 7 7) (fld w 0 7))
  | 209 => some (.sts128 (fld w 14 4) (fld w 7 7) (fld w 0 7))
  | 216 => some (.gredAdd (fld w 14 4) (fld w 7 7) (fld w 0 7))
  | 217 => some (.gredFadd32 (fld w 14 4) (fld w 7 7) (fld w 0 7))
  | 218 => some (.gredMini (fld w 14 4) (fld w 7 7) (fld w 0 7))
  | 219 => some (.gredMaxi (fld w 14 4) (fld w 7 7) (fld w 0 7))
  | 220 => some (.gredMinn (fld w 14 4) (fld w 7 7) (fld w 0 7))
  | 221 => some (.gredMaxn (fld w 14 4) (fld w 7 7) (fld w 0 7))
  | 224 => some (.latomAdd (fld w 14 4) (fld w 7 7) (fld w 0 7))
  | 225 => some (.latomAnd (fld w 14 4) (fld w 7 7) (fld w 0 7))
  | 226 => some (.latomOr (fld w 14 4) (fld w 7 7) (fld w 0 7))
  | 227 => some (.latomXor (fld w 14 4) (fld w 7 7) (fld w 0 7))
  | 228 => some (.latomMini (fld w 14 4) (fld w 7 7) (fld w 0 7))
  | 229 => some (.latomMaxi (fld w 14 4) (fld w 7 7) (fld w 0 7))
  | 230 => some (.latomMinn (fld w 14 4) (fld w 7 7) (fld w 0 7))
  | 231 => some (.latomMaxn (fld w 14 4) (fld w 7 7) (fld w 0 7))
  | 232 => some (.latomSwap (fld w 14 4) (fld w 7 7) (fld w 0 7))
  | 233 => some (.latomCas (fld w 14 4) (fld w 7 7) (fld w 0 7))
  | 234 => some (.latomAdd64 (fld w 14 4) (fld w 7 7) (fld w 0 7))
  | 235 => some (.latomSwap64 (fld w 14 4) (fld w 7 7) (fld w 0 7))
  | 236 => some (.latomCas64 (fld w 14 4) (fld w 7 7) (fld w 0 7))
  | 237 => some (.latomFadd32 (fld w 14 4) (fld w 7 7) (fld w 0 7))
  | _ => none

/-- The LX form (R35, R36). -/
def decodeLX (w : Word) : Option Instr :=
  match (fld w 26 2).toNat with
  | 0 => decodeLXlow w
  | 1 => some (.cvt (fld w 21 5) (fld w 20 1) (fld w 18 2) (fld w 14 4) (fld w 7 7) (fld w 0 7))
  | _ => decodeAtom w

/-- The LC form by cop3 (R37). -/
def decodeLC (w : Word) : Option Instr :=
  match (fld w 25 3).toNat with
  | 0 => some (.cmpI32 (fld w 23 2) (fld w 20 3) (fld w 17 3) (fld w 14 3) (fld w 7 7) (fld w 0 7))
  | 1 => some (.cmpN32 (fld w 23 2) (fld w 20 3) (fld w 17 3) (fld w 14 3) (fld w 7 7) (fld w 0 7))
  | 2 => some (.cmpI64 (fld w 23 2) (fld w 20 3) (fld w 17 3) (fld w 14 3) (fld w 7 7) (fld w 0 7))
  | 3 => some (.fcmpF32 (fld w 23 2) (fld w 20 3) (fld w 17 3) (fld w 14 3) (fld w 7 7) (fld w 0 7))
  | 4 => some (.fcmpF64 (fld w 23 2) (fld w 20 3) (fld w 17 3) (fld w 14 3) (fld w 7 7) (fld w 0 7))
  | 5 => some (.cmpiI32 (fld w 23 2) (fld w 20 3) (fld w 17 3) (fld w 14 3) (fld w 7 7) (fld w 0 7))
  | 6 => some (.fcmpF16 (fld w 23 2) (fld w 20 3) (fld w 17 3) (fld w 14 3) (fld w 7 7) (fld w 0 7))
  | 7 => some (.testb (fld w 23 2) (fld w 20 3) (fld w 17 3) (fld w 14 3) (fld w 7 7) (fld w 0 7))
  | _ => none

/-- The LI form by op3 (R39). -/
def decodeLI (w : Word) : Option Instr :=
  match (fld w 25 3).toNat with
  | 0 => some (.movi (fld w 21 4) (fld w 14 7) (fld w 0 14))
  | 1 => some (.addi (fld w 21 4) (fld w 14 7) (fld w 0 14))
  | 2 => some (.andi (fld w 21 4) (fld w 14 7) (fld w 0 14))
  | 3 => some (.ori (fld w 21 4) (fld w 14 7) (fld w 0 14))
  | 4 => some (.xori (fld w 21 4) (fld w 14 7) (fld w 0 14))
  | 5 => some (.brl (fld w 21 4) (fld w 0 14))
  | 6 => some (.meet (fld w 21 4) (fld w 14 7) (fld w 0 14))
  | 7 => some (.calll (fld w 21 4) (fld w 14 7) (fld w 0 14))
  | _ => none

/-- The LW form by wop4; BALLOT with mode1 = 1 is unassigned (R40). -/
def decodeLW (w : Word) : Option Instr :=
  match (fld w 24 4).toNat with
  | 0 => if fld w 0 1 = 0 then some (.ballot (fld w 21 3) (fld w 15 6) (fld w 8 7)) else none
  | 1 => some (.vote (fld w 21 3) (fld w 15 6) (fld w 8 7) (fld w 0 1))
  | 2 => some (.matchMembers (fld w 15 6) (fld w 8 7) (fld w 1 7) (fld w 0 1))
  | 3 => some (.shflIdx (fld w 15 6) (fld w 8 7) (fld w 1 7) (fld w 0 1))
  | 4 => some (.shflUp (fld w 15 6) (fld w 8 7) (fld w 1 7) (fld w 0 1))
  | 5 => some (.shflDown (fld w 15 6) (fld w 8 7) (fld w 1 7) (fld w 0 1))
  | 6 => some (.shflXor (fld w 15 6) (fld w 8 7) (fld w 1 7) (fld w 0 1))
  | 7 => some (.reduceAdd (fld w 15 6) (fld w 8 7) (fld w 1 7) (fld w 0 1))
  | 8 => some (.reduceMin (fld w 15 6) (fld w 8 7) (fld w 1 7) (fld w 0 1))
  | 9 => some (.reduceMax (fld w 15 6) (fld w 8 7) (fld w 1 7) (fld w 0 1))
  | 10 => some (.reduceAnd (fld w 15 6) (fld w 8 7) (fld w 1 7) (fld w 0 1))
  | 11 => some (.reduceOr (fld w 15 6) (fld w 8 7) (fld w 1 7) (fld w 0 1))
  | 12 => some (.reduceXor (fld w 15 6) (fld w 8 7) (fld w 1 7) (fld w 0 1))
  | 13 => some (.scanAdd (fld w 15 6) (fld w 8 7) (fld w 1 7) (fld w 0 1))
  | 14 => some (.scanMin (fld w 15 6) (fld w 8 7) (fld w 1 7) (fld w 0 1))
  | 15 => some (.scanMax (fld w 15 6) (fld w 8 7) (fld w 1 7) (fld w 0 1))
  | _ => none

/-- The UR form by op6 (R41, R42). -/
def decodeUR (w : Word) : Option Instr :=
  match (fld w 23 6).toNat with
  | 0 => some (.uadd (fld w 20 3) (fld w 15 5) (fld w 10 5) (fld w 5 5))
  | 1 => some (.usub (fld w 20 3) (fld w 15 5) (fld w 10 5) (fld w 5 5))
  | 2 => some (.umul (fld w 20 3) (fld w 15 5) (fld w 10 5) (fld w 5 5))
  | 3 => some (.umulhi (fld w 20 3) (fld w 15 5) (fld w 10 5) (fld w 5 5))
  | 4 => some (.uand (fld w 20 3) (fld w 15 5) (fld w 10 5) (fld w 5 5))
  | 5 => some (.uor (fld w 20 3) (fld w 15 5) (fld w 10 5) (fld w 5 5))
  | 6 => some (.uxor (fld w 20 3) (fld w 15 5) (fld w 10 5) (fld w 5 5))
  | 7 => some (.ushl (fld w 20 3) (fld w 15 5) (fld w 10 5) (fld w 5 5))
  | 8 => some (.ushrn (fld w 20 3) (fld w 15 5) (fld w 10 5) (fld w 5 5))
  | 9 => some (.ushri (fld w 20 3) (fld w 15 5) (fld w 10 5) (fld w 5 5))
  | 10 => some (.umini (fld w 20 3) (fld w 15 5) (fld w 10 5) (fld w 5 5))
  | 11 => some (.umaxi (fld w 20 3) (fld w 15 5) (fld w 10 5) (fld w 5 5))
  | 12 => some (.usel (fld w 20 3) (fld w 15 5) (fld w 10 5) (fld w 5 5) (fld w 1 2) (fld w 0 1))
  | 13 => some (.uadd64 (fld w 20 3) (fld w 15 5) (fld w 10 5) (fld w 5 5))
  | 14 => some (.usub64 (fld w 20 3) (fld w 15 5) (fld w 10 5) (fld w 5 5))
  | 16 => some (.ucmpI32 (fld w 20 3) (fld w 17 2) (fld w 15 2) (fld w 10 5) (fld w 5 5) (fld w 0 2))
  | 17 => some (.ucmpN32 (fld w 20 3) (fld w 17 2) (fld w 15 2) (fld w 10 5) (fld w 5 5) (fld w 0 2))
  | 18 => some (.ucmpI64 (fld w 20 3) (fld w 17 2) (fld w 15 2) (fld w 10 5) (fld w 5 5) (fld w 0 2))
  | 19 => some (.uld32 (fld w 20 3) (fld w 15 5) (fld w 10 5) (fld w 0 5))
  | 20 => some (.uld64 (fld w 20 3) (fld w 15 5) (fld w 10 5) (fld w 0 5))
  | 21 => some (.ust32 (fld w 20 3) (fld w 15 5) (fld w 10 5) (fld w 0 5))
  | 22 => some (.ust64 (fld w 20 3) (fld w 15 5) (fld w 10 5) (fld w 0 5))
  | 23 => some (.ulds (fld w 20 3) (fld w 15 5) (fld w 10 5) (fld w 0 5))
  | 24 => some (.usts (fld w 20 3) (fld w 15 5) (fld w 10 5) (fld w 0 5))
  | 25 => some (.usrd (fld w 20 3) (fld w 15 5) (fld w 0 10))
  | 26 => some (.uswr (fld w 20 3) (fld w 10 5) (fld w 0 10))
  | 27 => some (.bar (fld w 20 3) (fld w 18 2) (fld w 15 3) (fld w 0 4))
  | 28 => some (.acquire (fld w 20 3))
  | 29 => some (.yield (fld w 20 3))
  | 30 => some (.mwait (fld w 20 3) (fld w 10 5))
  | 31 => some (.trap (fld w 20 3) (fld w 10 5) (fld w 0 5))
  | 32 => some (.fenceNear (fld w 20 3) (fld w 0 3))
  | 33 => some (.fenceFar (fld w 20 3) (fld w 0 3))
  | 34 => some (.fenceAcq (fld w 20 3) (fld w 0 3))
  | 35 => some (.fenceRel (fld w 20 3) (fld w 0 3))
  | 36 => some (.fenceAr (fld w 20 3) (fld w 0 3))
  | 37 => some (.fenceSc (fld w 20 3) (fld w 0 3))
  | 38 => some (.rtt (fld w 20 3) (fld w 0 1))
  | 39 => some (.lread (fld w 20 3) (fld w 15 5) (fld w 10 5) (fld w 5 5))
  | 40 => some (.lwrite (fld w 20 3) (fld w 15 5) (fld w 10 5) (fld w 5 5))
  | 41 => some (.pread (fld w 20 3) (fld w 15 5) (fld w 10 5))
  | 42 => some (.pwrite (fld w 20 3) (fld w 15 5) (fld w 10 5))
  | 43 => some (.mread (fld w 20 3) (fld w 15 5) (fld w 10 5) (fld w 0 1))
  | 44 => some (.mwrite (fld w 20 3) (fld w 15 5) (fld w 10 5) (fld w 0 1))
  | 45 => some (.barrd (fld w 20 3) (fld w 15 5) (fld w 10 5) (fld w 0 2))
  | 46 => some (.barwr (fld w 20 3) (fld w 15 5) (fld w 10 5) (fld w 0 2))
  | 47 => some (.swait (fld w 20 3) (fld w 15 5) (fld w 10 5) (fld w 5 5))
  | 48 => some (.mquery (fld w 20 3) (fld w 15 5) (fld w 10 5) (fld w 0 2))
  | 49 => some (.otake (fld w 20 3) (fld w 15 5) (fld w 10 5) (fld w 0 1))
  | 50 => some (.owait (fld w 20 3) (fld w 15 5) (fld w 10 5))
  | 51 => some (.ostat (fld w 20 3) (fld w 15 5) (fld w 10 5) (fld w 0 4))
  | 52 => some (.qpop (fld w 20 3) (fld w 15 5) (fld w 10 5) (fld w 2 1) (fld w 0 2))
  | 53 => some (.vwaitq (fld w 20 3) (fld w 15 5) (fld w 10 5) (fld w 2 1) (fld w 0 2))
  | 54 => some (.vstat (fld w 20 3) (fld w 15 5) (fld w 10 5) (fld w 0 5))
  | _ => none

/-- The UI form by op4 (R44). -/
def decodeUI (w : Word) : Option Instr :=
  match (fld w 25 4).toNat with
  | 0 => some (.umovi (fld w 22 3) (fld w 17 5) (fld w 0 17))
  | 1 => some (.ului (fld w 22 3) (fld w 17 5) (fld w 0 17))
  | 2 => some (.uaddi (fld w 22 3) (fld w 17 5) (fld w 0 17))
  | 3 => some (.uandi (fld w 22 3) (fld w 17 5) (fld w 0 17))
  | 4 => some (.uori (fld w 22 3) (fld w 17 5) (fld w 0 17))
  | 5 => some (.ucmpi (fld w 22 3) (fld w 17 5) (fld w 15 2) (fld w 13 2) (fld w 11 2) (fld w 0 11))
  | _ => none

/-- The UB form by op5 (R45). -/
def decodeUB (w : Word) : Option Instr :=
  match (fld w 24 5).toNat with
  | 0 => some (.clause (fld w 20 4) (fld w 8 12) (fld w 4 4) (fld w 0 4))
  | 1 => some (.bra (fld w 21 3) (fld w 0 21))
  | 2 => some (.call (fld w 21 3) (fld w 0 21))
  | 3 => some (.brx (fld w 21 3) (fld w 0 21))
  | 4 => some (.ret (fld w 21 3))
  | _ => none

/-- The UE form by eop5 (R46). -/
noncomputable def decodeUE (w : Word) : Option Instr :=
  match (fld w 24 5).toNat with
  | 0 => some (.cset (fld w 21 3) (fld w 17 4) (fld w 12 5))
  | 1 => some (.mma (fld w 21 3) (fld w 17 4) (fld w 14 3) (fld w 6 8) (fld w 1 5) (fld w 0 1))
  | 2 => some (.mstat (fld w 21 3) (fld w 14 3) (fld w 6 8) (fld w 1 5))
  | 3 => some (.munstat (fld w 21 3) (fld w 14 3) (fld w 6 8) (fld w 1 5))
  | 4 => some (.mzero (fld w 21 3) (fld w 17 3) (fld w 14 3) (fld w 6 8))
  | 5 => some (.scac (fld w 21 3) (fld w 14 3) (fld w 6 8) (fld w 1 5))
  | 6 => some (.mtread (fld w 21 3) (fld w 17 3) (fld w 14 3) (fld w 6 8) (fld w 1 5))
  | 8 => some (.tcopy (fld w 21 3) (fld w 16 5) (fld w 11 5) (fld w 10 1) (fld w 9 1) (fld w 8 1) (fld w 5 3))
  | 9 => some (.tstore (fld w 21 3) (fld w 16 5) (fld w 11 5) (fld w 10 1) (fld w 9 1) (fld w 8 1) (fld w 5 3))
  | 10 => some (.tmcast (fld w 21 3) (fld w 16 5) (fld w 11 5) (fld w 10 1) (fld w 9 1) (fld w 8 1) (fld w 5 3) (fld w 0 5))
  | 11 => some (.tnotice (fld w 21 3) (fld w 16 5) (fld w 11 5) (fld w 10 1) (fld w 9 1) (fld w 8 1) (fld w 5 3) (fld w 0 1))
  | 12 => some (.sarm (fld w 21 3) (fld w 16 5) (fld w 11 5) (fld w 10 1))
  | 13 => some (.tpref (fld w 21 3) (fld w 16 5) (fld w 11 5) (fld w 10 1) (fld w 9 1) (fld w 8 1) (fld w 5 3))
  | 14 => some (.launch (fld w 21 3) (fld w 16 5) (fld w 11 5) (fld w 10 1) (fld w 9 1) (fld w 8 1) (fld w 5 3))
  | 16 => some (.oload (fld w 21 3) (fld w 16 5) (fld w 11 5) (fld w 10 1) (fld w 9 1) (fld w 8 1) (fld w 5 3))
  | 17 => some (.obind (fld w 21 3) (fld w 16 5) (fld w 11 5) (fld w 10 1) (fld w 9 1) (fld w 8 1) (fld w 5 3))
  | 18 => some (.orun (fld w 21 3) (fld w 16 5) (fld w 11 5) (fld w 10 1) (fld w 9 1) (fld w 8 1) (fld w 5 3))
  | 19 => some (.ostep (fld w 21 3) (fld w 16 5) (fld w 11 5) (fld w 10 1) (fld w 9 1) (fld w 8 1) (fld w 5 3))
  | 20 => some (.odone (fld w 21 3) (fld w 16 5) (fld w 11 5) (fld w 10 1) (fld w 9 1) (fld w 8 1) (fld w 5 3))
  | 21 => some (.odense (fld w 21 3) (fld w 16 5) (fld w 11 5) (fld w 10 1) (fld w 9 1) (fld w 8 1) (fld w 5 3))
  | 22 => some (.ostop (fld w 21 3) (fld w 16 5) (fld w 11 5) (fld w 10 1) (fld w 9 1) (fld w 8 1) (fld w 5 3) (fld w 0 1))
  | 23 => some (.vnew (fld w 21 3) (fld w 16 5) (fld w 11 5) (fld w 9 1) (fld w 5 3) (fld w 3 2) (fld w 1 2))
  | 24 => some (.vfree (fld w 21 3) (fld w 16 5) (fld w 11 5) (fld w 10 1))
  | 25 => some (.vspawn (fld w 21 3) (fld w 16 5) (fld w 11 5) (fld w 10 1) (fld w 9 1) (fld w 5 3) (fld w 3 2) (fld w 2 1))
  | 26 => some (.vsend (fld w 21 3) (fld w 16 5) (fld w 11 5) (fld w 10 1) (fld w 9 1) (fld w 5 3) (fld w 3 2) (fld w 2 1))
  | 27 => some (.qpush (fld w 21 3) (fld w 16 5) (fld w 11 5) (fld w 10 1) (fld w 9 1) (fld w 5 3) (fld w 3 2) (fld w 2 1))
  | 28 => some (.bsend (fld w 21 3) (fld w 16 5) (fld w 11 5) (fld w 10 1) (fld w 9 1) (fld w 5 3) (fld w 3 2) (fld w 2 1))
  | 29 => some (.vgive (fld w 21 3) (fld w 16 5) (fld w 11 5) (fld w 10 1) (fld w 8 1) (fld w 5 3) (fld w 3 2) (fld w 2 1))
  | 30 => some (.vborrow (fld w 21 3) (fld w 16 5) (fld w 11 5) (fld w 10 1) (fld w 3 2))
  | _ => none

/-- The instruction whose opcode a word holds, reserved fields unread (R27). -/
noncomputable def decodeOpcode (w : Word) : Option Instr :=
  match (fld w 28 4).toNat with
  | 0 | 1 | 2 | 3 => decodeLR w
  | 4 => decodeLX w
  | 5 => decodeLC w
  | 6 => decodeLI w
  | 7 => decodeLW w
  | 8 | 9 => decodeUR w
  | 10 | 11 => decodeUI w
  | 12 | 13 => decodeUB w
  | _ => decodeUE w

/-- The word of a core instruction, every reserved field 0; an event has none. -/
def encodeCore : Instr → Option Word
  | .add g d a b => some (0#7 ++ g ++ d ++ a ++ b)
  | .sub g d a b => some (1#7 ++ g ++ d ++ a ++ b)
  | .mul g d a b => some (2#7 ++ g ++ d ++ a ++ b)
  | .mulhi g d a b => some (3#7 ++ g ++ d ++ a ++ b)
  | .mulhn g d a b => some (4#7 ++ g ++ d ++ a ++ b)
  | .and g d a b => some (5#7 ++ g ++ d ++ a ++ b)
  | .or g d a b => some (6#7 ++ g ++ d ++ a ++ b)
  | .xor g d a b => some (7#7 ++ g ++ d ++ a ++ b)
  | .shl g d a b => some (8#7 ++ g ++ d ++ a ++ b)
  | .shrn g d a b => some (9#7 ++ g ++ d ++ a ++ b)
  | .shri g d a b => some (10#7 ++ g ++ d ++ a ++ b)
  | .mini g d a b => some (11#7 ++ g ++ d ++ a ++ b)
  | .maxi g d a b => some (12#7 ++ g ++ d ++ a ++ b)
  | .minn g d a b => some (13#7 ++ g ++ d ++ a ++ b)
  | .maxn g d a b => some (14#7 ++ g ++ d ++ a ++ b)
  | .sel p d a b => some (15#7 ++ p ++ d ++ a ++ b)
  | .fadd32 g d a b => some (16#7 ++ g ++ d ++ a ++ b)
  | .fmul32 g d a b => some (17#7 ++ g ++ d ++ a ++ b)
  | .ffma32 g d a b => some (18#7 ++ g ++ d ++ a ++ b)
  | .fsub32 g d a b => some (19#7 ++ g ++ d ++ a ++ b)
  | .fadd64 g d a b => some (20#7 ++ g ++ d ++ a ++ b)
  | .fmul64 g d a b => some (21#7 ++ g ++ d ++ a ++ b)
  | .ffma64 g d a b => some (22#7 ++ g ++ d ++ a ++ b)
  | .ffma2h g d a b => some (23#7 ++ g ++ d ++ a ++ b)
  | .ld32 g d a o => some (24#7 ++ g ++ d ++ a ++ o)
  | .ld64 g d a o => some (25#7 ++ g ++ d ++ a ++ o)
  | .ld128 g d a o => some (26#7 ++ g ++ d ++ a ++ o)
  | .st32 g d a o => some (27#7 ++ g ++ d ++ a ++ o)
  | .st64 g d a o => some (28#7 ++ g ++ d ++ a ++ o)
  | .st128 g d a o => some (29#7 ++ g ++ d ++ a ++ o)
  | .lds g d a o => some (30#7 ++ g ++ d ++ a ++ o)
  | .sts g d a o => some (31#7 ++ g ++ d ++ a ++ o)
  | .mov g d a => some (4096#14 ++ g ++ d ++ a)
  | .not g d a => some (4097#14 ++ g ++ d ++ a)
  | .neg g d a => some (4098#14 ++ g ++ d ++ a)
  | .abs g d a => some (4099#14 ++ g ++ d ++ a)
  | .popc g d a => some (4100#14 ++ g ++ d ++ a)
  | .clz g d a => some (4101#14 ++ g ++ d ++ a)
  | .ctz g d a => some (4102#14 ++ g ++ d ++ a)
  | .brev g d a => some (4103#14 ++ g ++ d ++ a)
  | .sext8 g d a => some (4104#14 ++ g ++ d ++ a)
  | .sext16 g d a => some (4105#14 ++ g ++ d ++ a)
  | .andn g d a => some (4112#14 ++ g ++ d ++ a)
  | .orn g d a => some (4113#14 ++ g ++ d ++ a)
  | .rotl g d a => some (4114#14 ++ g ++ d ++ a)
  | .rotr g d a => some (4115#14 ++ g ++ d ++ a)
  | .addsi g d a => some (4116#14 ++ g ++ d ++ a)
  | .subsi g d a => some (4117#14 ++ g ++ d ++ a)
  | .addsn g d a => some (4118#14 ++ g ++ d ++ a)
  | .subsn g d a => some (4119#14 ++ g ++ d ++ a)
  | .bfxn g d a => some (4120#14 ++ g ++ d ++ a)
  | .bfxi g d a => some (4121#14 ++ g ++ d ++ a)
  | .bfi g d a => some (4122#14 ++ g ++ d ++ a)
  | .mov64 g d a => some (4128#14 ++ g ++ d ++ a)
  | .neg64 g d a => some (4129#14 ++ g ++ d ++ a)
  | .sext64 g d a => some (4130#14 ++ g ++ d ++ a)
  | .add64 g d a => some (4132#14 ++ g ++ d ++ a)
  | .sub64 g d a => some (4133#14 ++ g ++ d ++ a)
  | .mul64 g d a => some (4134#14 ++ g ++ d ++ a)
  | .shl64 g d a => some (4136#14 ++ g ++ d ++ a)
  | .shrn64 g d a => some (4137#14 ++ g ++ d ++ a)
  | .shri64 g d a => some (4138#14 ++ g ++ d ++ a)
  | .mini64 g d a => some (4140#14 ++ g ++ d ++ a)
  | .maxi64 g d a => some (4141#14 ++ g ++ d ++ a)
  | .minn64 g d a => some (4142#14 ++ g ++ d ++ a)
  | .maxn64 g d a => some (4143#14 ++ g ++ d ++ a)
  | .mulwi g d a => some (4144#14 ++ g ++ d ++ a)
  | .mulwn g d a => some (4145#14 ++ g ++ d ++ a)
  | .popc64 g d a => some (4146#14 ++ g ++ d ++ a)
  | .clz64 g d a => some (4147#14 ++ g ++ d ++ a)
  | .exit g => some (4160#14 ++ g ++ 0#14)
  | .brr g a => some (4161#14 ++ g ++ 0#7 ++ a)
  | .callr g d a => some (4162#14 ++ g ++ d ++ a)
  | .meetr g a => some (4163#14 ++ g ++ 0#7 ++ a)
  | .fmin32 g d a => some (4224#14 ++ g ++ d ++ a)
  | .fmax32 g d a => some (4225#14 ++ g ++ d ++ a)
  | .fmin64 g d a => some (4226#14 ++ g ++ d ++ a)
  | .fmax64 g d a => some (4227#14 ++ g ++ d ++ a)
  | .fdiv32 g d a => some (4228#14 ++ g ++ d ++ a)
  | .fdiv64 g d a => some (4229#14 ++ g ++ d ++ a)
  | .fsqrt32 g d a => some (4230#14 ++ g ++ d ++ a)
  | .fsqrt64 g d a => some (4231#14 ++ g ++ d ++ a)
  | .frsqrt32 g d a => some (4232#14 ++ g ++ d ++ a)
  | .frsqrt64 g d a => some (4233#14 ++ g ++ d ++ a)
  | .frcp32 g d a => some (4234#14 ++ g ++ d ++ a)
  | .frcp64 g d a => some (4235#14 ++ g ++ d ++ a)
  | .fexp2 g d a => some (4236#14 ++ g ++ d ++ a)
  | .flog2 g d a => some (4237#14 ++ g ++ d ++ a)
  | .fneg32 g d a => some (4240#14 ++ g ++ d ++ a)
  | .fabs32 g d a => some (4241#14 ++ g ++ d ++ a)
  | .fneg64 g d a => some (4242#14 ++ g ++ d ++ a)
  | .fabs64 g d a => some (4243#14 ++ g ++ d ++ a)
  | .ffma2b g d a => some (4244#14 ++ g ++ d ++ a)
  | .fclass32 g d a => some (4248#14 ++ g ++ d ++ a)
  | .fclass64 g d a => some (4249#14 ++ g ++ d ++ a)
  | .fclass16 g d a => some (4250#14 ++ g ++ d ++ a)
  | .cvt p s r g d a => some (17#6 ++ p ++ s ++ r ++ g ++ d ++ a)
  | .ld8n g d a => some (4288#14 ++ g ++ d ++ a)
  | .ld8i g d a => some (4289#14 ++ g ++ d ++ a)
  | .ld16n g d a => some (4290#14 ++ g ++ d ++ a)
  | .ld16i g d a => some (4291#14 ++ g ++ d ++ a)
  | .st8 g d a => some (4292#14 ++ g ++ d ++ a)
  | .st16 g d a => some (4293#14 ++ g ++ d ++ a)
  | .lds8n g d a => some (4296#14 ++ g ++ d ++ a)
  | .lds8i g d a => some (4297#14 ++ g ++ d ++ a)
  | .lds16n g d a => some (4298#14 ++ g ++ d ++ a)
  | .lds16i g d a => some (4299#14 ++ g ++ d ++ a)
  | .sts8 g d a => some (4300#14 ++ g ++ d ++ a)
  | .sts16 g d a => some (4301#14 ++ g ++ d ++ a)
  | .lds64 g d a => some (4302#14 ++ g ++ d ++ a)
  | .lds128 g d a => some (4303#14 ++ g ++ d ++ a)
  | .sts64 g d a => some (4304#14 ++ g ++ d ++ a)
  | .sts128 g d a => some (4305#14 ++ g ++ d ++ a)
  | .gredAdd g d a => some (4312#14 ++ g ++ d ++ a)
  | .gredFadd32 g d a => some (4313#14 ++ g ++ d ++ a)
  | .gredMini g d a => some (4314#14 ++ g ++ d ++ a)
  | .gredMaxi g d a => some (4315#14 ++ g ++ d ++ a)
  | .gredMinn g d a => some (4316#14 ++ g ++ d ++ a)
  | .gredMaxn g d a => some (4317#14 ++ g ++ d ++ a)
  | .latomAdd g d a => some (4320#14 ++ g ++ d ++ a)
  | .latomAnd g d a => some (4321#14 ++ g ++ d ++ a)
  | .latomOr g d a => some (4322#14 ++ g ++ d ++ a)
  | .latomXor g d a => some (4323#14 ++ g ++ d ++ a)
  | .latomMini g d a => some (4324#14 ++ g ++ d ++ a)
  | .latomMaxi g d a => some (4325#14 ++ g ++ d ++ a)
  | .latomMinn g d a => some (4326#14 ++ g ++ d ++ a)
  | .latomMaxn g d a => some (4327#14 ++ g ++ d ++ a)
  | .latomSwap g d a => some (4328#14 ++ g ++ d ++ a)
  | .latomCas g d a => some (4329#14 ++ g ++ d ++ a)
  | .latomAdd64 g d a => some (4330#14 ++ g ++ d ++ a)
  | .latomSwap64 g d a => some (4331#14 ++ g ++ d ++ a)
  | .latomCas64 g d a => some (4332#14 ++ g ++ d ++ a)
  | .latomFadd32 g d a => some (4333#14 ++ g ++ d ++ a)
  | .atomAdd s r g d a => some (144#9 ++ s ++ r ++ g ++ d ++ a)
  | .atomAnd s r g d a => some (145#9 ++ s ++ r ++ g ++ d ++ a)
  | .atomOr s r g d a => some (146#9 ++ s ++ r ++ g ++ d ++ a)
  | .atomXor s r g d a => some (147#9 ++ s ++ r ++ g ++ d ++ a)
  | .atomMini s r g d a => some (148#9 ++ s ++ r ++ g ++ d ++ a)
  | .atomMaxi s r g d a => some (149#9 ++ s ++ r ++ g ++ d ++ a)
  | .atomMinn s r g d a => some (150#9 ++ s ++ r ++ g ++ d ++ a)
  | .atomMaxn s r g d a => some (151#9 ++ s ++ r ++ g ++ d ++ a)
  | .atomSwap s r g d a => some (152#9 ++ s ++ r ++ g ++ d ++ a)
  | .atomCas s r g d a => some (153#9 ++ s ++ r ++ g ++ d ++ a)
  | .atomAdd64 s r g d a => some (154#9 ++ s ++ r ++ g ++ d ++ a)
  | .atomSwap64 s r g d a => some (155#9 ++ s ++ r ++ g ++ d ++ a)
  | .atomCas64 s r g d a => some (156#9 ++ s ++ r ++ g ++ d ++ a)
  | .atomFadd32 s r g d a => some (157#9 ++ s ++ r ++ g ++ d ++ a)
  | .cmpI32 c t x y a b => some (40#7 ++ c ++ t ++ x ++ y ++ a ++ b)
  | .cmpN32 c t x y a b => some (41#7 ++ c ++ t ++ x ++ y ++ a ++ b)
  | .cmpI64 c t x y a b => some (42#7 ++ c ++ t ++ x ++ y ++ a ++ b)
  | .fcmpF32 c t x y a b => some (43#7 ++ c ++ t ++ x ++ y ++ a ++ b)
  | .fcmpF64 c t x y a b => some (44#7 ++ c ++ t ++ x ++ y ++ a ++ b)
  | .cmpiI32 c t x y a i => some (45#7 ++ c ++ t ++ x ++ y ++ a ++ i)
  | .fcmpF16 c t x y a b => some (46#7 ++ c ++ t ++ x ++ y ++ a ++ b)
  | .testb c t x y a b => some (47#7 ++ c ++ t ++ x ++ y ++ a ++ b)
  | .movi g d i => some (48#7 ++ g ++ d ++ i)
  | .addi g d i => some (49#7 ++ g ++ d ++ i)
  | .andi g d i => some (50#7 ++ g ++ d ++ i)
  | .ori g d i => some (51#7 ++ g ++ d ++ i)
  | .xori g d i => some (52#7 ++ g ++ d ++ i)
  | .brl g i => some (53#7 ++ g ++ 0#7 ++ i)
  | .meet g d i => some (54#7 ++ g ++ d ++ i)
  | .calll g d i => some (55#7 ++ g ++ d ++ i)
  | .ballot p m d => some (112#8 ++ p ++ m ++ d ++ 0#8)
  | .vote p m d w => some (113#8 ++ p ++ m ++ d ++ 0#7 ++ w)
  | .matchMembers m d a w => some (912#11 ++ m ++ d ++ a ++ w)
  | .shflIdx m d a w => some (920#11 ++ m ++ d ++ a ++ w)
  | .shflUp m d a w => some (928#11 ++ m ++ d ++ a ++ w)
  | .shflDown m d a w => some (936#11 ++ m ++ d ++ a ++ w)
  | .shflXor m d a w => some (944#11 ++ m ++ d ++ a ++ w)
  | .reduceAdd m d a w => some (952#11 ++ m ++ d ++ a ++ w)
  | .reduceMin m d a w => some (960#11 ++ m ++ d ++ a ++ w)
  | .reduceMax m d a w => some (968#11 ++ m ++ d ++ a ++ w)
  | .reduceAnd m d a w => some (976#11 ++ m ++ d ++ a ++ w)
  | .reduceOr m d a w => some (984#11 ++ m ++ d ++ a ++ w)
  | .reduceXor m d a w => some (992#11 ++ m ++ d ++ a ++ w)
  | .scanAdd m d a w => some (1000#11 ++ m ++ d ++ a ++ w)
  | .scanMin m d a w => some (1008#11 ++ m ++ d ++ a ++ w)
  | .scanMax m d a w => some (1016#11 ++ m ++ d ++ a ++ w)
  | .uadd k d a b => some (256#9 ++ k ++ d ++ a ++ b ++ 0#5)
  | .usub k d a b => some (257#9 ++ k ++ d ++ a ++ b ++ 0#5)
  | .umul k d a b => some (258#9 ++ k ++ d ++ a ++ b ++ 0#5)
  | .umulhi k d a b => some (259#9 ++ k ++ d ++ a ++ b ++ 0#5)
  | .uand k d a b => some (260#9 ++ k ++ d ++ a ++ b ++ 0#5)
  | .uor k d a b => some (261#9 ++ k ++ d ++ a ++ b ++ 0#5)
  | .uxor k d a b => some (262#9 ++ k ++ d ++ a ++ b ++ 0#5)
  | .ushl k d a b => some (263#9 ++ k ++ d ++ a ++ b ++ 0#5)
  | .ushrn k d a b => some (264#9 ++ k ++ d ++ a ++ b ++ 0#5)
  | .ushri k d a b => some (265#9 ++ k ++ d ++ a ++ b ++ 0#5)
  | .umini k d a b => some (266#9 ++ k ++ d ++ a ++ b ++ 0#5)
  | .umaxi k d a b => some (267#9 ++ k ++ d ++ a ++ b ++ 0#5)
  | .usel k d a b p n => some (268#9 ++ k ++ d ++ a ++ b ++ 0#2 ++ p ++ n)
  | .uadd64 k d a b => some (269#9 ++ k ++ d ++ a ++ b ++ 0#5)
  | .usub64 k d a b => some (270#9 ++ k ++ d ++ a ++ b ++ 0#5)
  | .ucmpI32 k x y a b c => some (272#9 ++ k ++ 0#1 ++ x ++ y ++ a ++ b ++ 0#3 ++ c)
  | .ucmpN32 k x y a b c => some (273#9 ++ k ++ 0#1 ++ x ++ y ++ a ++ b ++ 0#3 ++ c)
  | .ucmpI64 k x y a b c => some (274#9 ++ k ++ 0#1 ++ x ++ y ++ a ++ b ++ 0#3 ++ c)
  | .uld32 k d a o => some (275#9 ++ k ++ d ++ a ++ 0#5 ++ o)
  | .uld64 k d a o => some (276#9 ++ k ++ d ++ a ++ 0#5 ++ o)
  | .ust32 k d a o => some (277#9 ++ k ++ d ++ a ++ 0#5 ++ o)
  | .ust64 k d a o => some (278#9 ++ k ++ d ++ a ++ 0#5 ++ o)
  | .ulds k d a o => some (279#9 ++ k ++ d ++ a ++ 0#5 ++ o)
  | .usts k d a o => some (280#9 ++ k ++ d ++ a ++ 0#5 ++ o)
  | .usrd k d n => some (281#9 ++ k ++ d ++ 0#5 ++ n)
  | .uswr k a n => some (282#9 ++ k ++ 0#5 ++ a ++ n)
  | .bar k m s i => some (283#9 ++ k ++ m ++ s ++ 0#11 ++ i)
  | .acquire k => some (284#9 ++ k ++ 0#20)
  | .yield k => some (285#9 ++ k ++ 0#20)
  | .mwait k a => some (286#9 ++ k ++ 0#5 ++ a ++ 0#10)
  | .trap k a c => some (287#9 ++ k ++ 0#5 ++ a ++ 0#5 ++ c)
  | .fenceNear k s => some (288#9 ++ k ++ 0#17 ++ s)
  | .fenceFar k s => some (289#9 ++ k ++ 0#17 ++ s)
  | .fenceAcq k s => some (290#9 ++ k ++ 0#17 ++ s)
  | .fenceRel k s => some (291#9 ++ k ++ 0#17 ++ s)
  | .fenceAr k s => some (292#9 ++ k ++ 0#17 ++ s)
  | .fenceSc k s => some (293#9 ++ k ++ 0#17 ++ s)
  | .rtt k m => some (294#9 ++ k ++ 0#19 ++ m)
  | .lread k d a b => some (295#9 ++ k ++ d ++ a ++ b ++ 0#5)
  | .lwrite k d a b => some (296#9 ++ k ++ d ++ a ++ b ++ 0#5)
  | .pread k d a => some (297#9 ++ k ++ d ++ a ++ 0#10)
  | .pwrite k d a => some (298#9 ++ k ++ d ++ a ++ 0#10)
  | .mread k d a s => some (299#9 ++ k ++ d ++ a ++ 0#9 ++ s)
  | .mwrite k d a s => some (300#9 ++ k ++ d ++ a ++ 0#9 ++ s)
  | .barrd k d a s => some (301#9 ++ k ++ d ++ a ++ 0#8 ++ s)
  | .barwr k d a s => some (302#9 ++ k ++ d ++ a ++ 0#8 ++ s)
  | .swait k d a b => some (303#9 ++ k ++ d ++ a ++ b ++ 0#5)
  | .mquery k d a s => some (304#9 ++ k ++ d ++ a ++ 0#8 ++ s)
  | .otake k d a m => some (305#9 ++ k ++ d ++ a ++ 0#9 ++ m)
  | .owait k d a => some (306#9 ++ k ++ d ++ a ++ 0#10)
  | .ostat k d a s => some (307#9 ++ k ++ d ++ a ++ 0#6 ++ s)
  | .qpop k d a m l => some (308#9 ++ k ++ d ++ a ++ 0#7 ++ m ++ l)
  | .vwaitq k d a g l => some (309#9 ++ k ++ d ++ a ++ 0#7 ++ g ++ l)
  | .vstat k d a s => some (310#9 ++ k ++ d ++ a ++ 0#5 ++ s)
  | .umovi k d i => some (80#7 ++ k ++ d ++ i)
  | .ului k d i => some (81#7 ++ k ++ d ++ i)
  | .uaddi k d i => some (82#7 ++ k ++ d ++ i)
  | .uandi k d i => some (83#7 ++ k ++ d ++ i)
  | .uori k d i => some (84#7 ++ k ++ d ++ i)
  | .ucmpi k d c x y i => some (85#7 ++ k ++ d ++ c ++ x ++ y ++ i)
  | .clause l w a b => some (192#8 ++ l ++ w ++ a ++ b)
  | .bra k d => some (193#8 ++ k ++ d)
  | .call k d => some (194#8 ++ k ++ d)
  | .brx k d => some (195#8 ++ k ++ d)
  | .ret k => some (196#8 ++ k ++ 0#21)
  | .cset k c a => some (224#8 ++ k ++ c ++ a ++ 0#12)
  | .mma k c s w o z => some (225#8 ++ k ++ c ++ s ++ w ++ o ++ z)
  | .mstat k s w a => some (226#8 ++ k ++ 0#4 ++ s ++ w ++ a ++ 0#1)
  | .munstat k s w a => some (227#8 ++ k ++ 0#4 ++ s ++ w ++ a ++ 0#1)
  | .mzero k t s w => some (228#8 ++ k ++ 0#1 ++ t ++ s ++ w ++ 0#6)
  | .scac k s w a => some (229#8 ++ k ++ 0#4 ++ s ++ w ++ a ++ 0#1)
  | .mtread k t s w a => some (230#8 ++ k ++ 0#1 ++ t ++ s ++ w ++ a ++ 0#1)
  | .tcopy k c d n q r s => some (232#8 ++ k ++ c ++ d ++ n ++ q ++ r ++ s ++ 0#5)
  | .tstore k c d n q r s => some (233#8 ++ k ++ c ++ d ++ n ++ q ++ r ++ s ++ 0#5)
  | .tmcast k c d n q r s m => some (234#8 ++ k ++ c ++ d ++ n ++ q ++ r ++ s ++ m)
  | .tnotice k c d n q r s m => some (235#8 ++ k ++ c ++ d ++ n ++ q ++ r ++ s ++ 0#4 ++ m)
  | .sarm k a b r => some (236#8 ++ k ++ a ++ b ++ r ++ 0#10)
  | .tpref k c d n q r s => some (237#8 ++ k ++ c ++ d ++ n ++ q ++ r ++ s ++ 0#5)
  | .launch k l d n q r s => some (238#8 ++ k ++ l ++ d ++ n ++ q ++ r ++ s ++ 0#5)
  | .oload k a d n q r s => some (240#8 ++ k ++ a ++ d ++ n ++ q ++ r ++ s ++ 0#5)
  | .obind k a d n q r s => some (241#8 ++ k ++ a ++ d ++ n ++ q ++ r ++ s ++ 0#5)
  | .orun k a d n q r s => some (242#8 ++ k ++ a ++ d ++ n ++ q ++ r ++ s ++ 0#5)
  | .ostep k a d n q r s => some (243#8 ++ k ++ a ++ d ++ n ++ q ++ r ++ s ++ 0#5)
  | .odone k a d n q r s => some (244#8 ++ k ++ a ++ d ++ n ++ q ++ r ++ s ++ 0#5)
  | .odense k a d n q r s => some (245#8 ++ k ++ a ++ d ++ n ++ q ++ r ++ s ++ 0#5)
  | .ostop k a d n q r s f => some (246#8 ++ k ++ a ++ d ++ n ++ q ++ r ++ s ++ 0#4 ++ f)
  | .vnew k a d q s t l => some (247#8 ++ k ++ a ++ d ++ 0#1 ++ q ++ 0#1 ++ s ++ t ++ l ++ 0#1)
  | .vfree k a d n => some (248#8 ++ k ++ a ++ d ++ n ++ 0#10)
  | .vspawn k a d n q s l m => some (249#8 ++ k ++ a ++ d ++ n ++ q ++ 0#1 ++ s ++ l ++ m ++ 0#2)
  | .vsend k a d n q s l m => some (250#8 ++ k ++ a ++ d ++ n ++ q ++ 0#1 ++ s ++ l ++ m ++ 0#2)
  | .qpush k a d n q s l m => some (251#8 ++ k ++ a ++ d ++ n ++ q ++ 0#1 ++ s ++ l ++ m ++ 0#2)
  | .bsend k a d n q s l m => some (252#8 ++ k ++ a ++ d ++ n ++ q ++ 0#1 ++ s ++ l ++ m ++ 0#2)
  | .vgive k a d n r s l m => some (253#8 ++ k ++ a ++ d ++ n ++ 0#1 ++ r ++ s ++ l ++ m ++ 0#2)
  | .vborrow k a d n l => some (254#8 ++ k ++ a ++ d ++ n ++ 0#5 ++ l ++ 0#3)
  | _ => none

/-- Decodes one Unmir word, or names the first fault that its bits alone show, in the order of R50. -/
noncomputable def decodeWord (w : Word) : Except DecodeError Instr :=
  match decodeOpcode w with
  | none => .error .unassigned
  | some i =>
    if subfieldOk i = false then .error .subfield
    else if encodeCore i ≠ some w || reservedOk i = false then .error .reserved
    else if regsOk i = false then .error .register
    else if predsOk i = false then .error .predicate
    else .ok i

/-- Decodes a near-bank word: assigned op5, every reserved bit 0, mode assigned, slice fields in range (R408–R412). -/
noncomputable def decodeNear (w : Word) : Option Instr :=
  match (fld w 27 5).toNat with
  | 1 => some (.nbSld (fld w 26 1) (fld w 18 7) (fld w 9 3))
  | 2 => some (.nbSst (fld w 26 1) (fld w 18 7) (fld w 9 2))
  | 3 => some (.nbKey (fld w 18 9) (fld w 9 9) (fld w 0 9))
  | 4 => some (.nbMask (fld w 18 9) (fld w 9 9) (fld w 0 9))
  | 5 => some (.nbCmp (fld w 19 2) (fld w 18 1))
  | 6 => some (.nbWr (fld w 18 1))
  | 7 => some (.nbTagand (fld w 18 1) (fld w 9 1) (fld w 0 1))
  | 8 => some (.nbTagor (fld w 18 1) (fld w 9 1) (fld w 0 1))
  | 9 => some (.nbTagnot (fld w 18 1) (fld w 9 1))
  | 10 => some (.nbTagsh (fld w 18 1) (fld w 9 1) (fld w 0 9))
  | 11 => some (.nbLoop (fld w 18 9))
  | 12 => some .nbEnd
  | _ => none

/-- The word of a near-bank instruction. -/
def encodeNear : Instr → Option Word
  | .nbSld r s c => some (1#5 ++ r ++ 0#1 ++ s ++ 0#6 ++ c ++ 0#9)
  | .nbSst r s b => some (2#5 ++ r ++ 0#1 ++ s ++ 0#7 ++ b ++ 0#9)
  | .nbKey a b c => some (3#5 ++ a ++ b ++ c)
  | .nbMask a b c => some (4#5 ++ a ++ b ++ c)
  | .nbCmp m t => some (320#11 ++ m ++ t ++ 0#18)
  | .nbWr t => some (1536#13 ++ t ++ 0#18)
  | .nbTagand d a b => some (1792#13 ++ d ++ 0#8 ++ a ++ 0#8 ++ b)
  | .nbTagor d a b => some (2048#13 ++ d ++ 0#8 ++ a ++ 0#8 ++ b)
  | .nbTagnot d a => some (2304#13 ++ d ++ 0#8 ++ a ++ 0#9)
  | .nbTagsh d a n => some (2560#13 ++ d ++ 0#8 ++ a ++ n)
  | .nbLoop n => some (11#5 ++ n ++ 0#18)
  | .nbEnd => some (1610612736#32)
  | _ => none

/-- A near-bank word as the Lamplighter accepts it at installation (R412). -/
noncomputable def decodeNearWord (w : Word) : Option Instr :=
  match decodeNear w with
  | none => none
  | some i => if encodeNear i = some w && nearOk i then some i else none

/-- Decodes the bytes at the front of a list: one word of 4 bytes, little-endian (R27), and the rest. -/
noncomputable def decode : List Byte → Except DecodeError (Instr × List Byte)
  | b0 :: b1 :: b2 :: b3 :: rest =>
    match decodeWord (b3 ++ b2 ++ b1 ++ b0) with
    | .ok i => .ok (i, rest)
    | .error e => .error e
  | _ => .error .unassigned

/-- The words of a well-formed instruction: one word for a core or near-bank instruction, none for an event. -/
def encode (i : Instr) : List Word :=
  match encodeCore i with
  | some w => [w]
  | none =>
    match encodeNear i with
    | some w => [w]
    | none => []

/-- The instruction the decoder reads from an instruction whose bits are w, numbered as spec/opcode_table.json numbers
them. Every table row is one 32-bit word; near-bank words share their bits with Unmir words: a word that the core's decoder
refuses is read as a near-bank word (log 12). -/
noncomputable def decodeTableWord (nbits w : Nat) : Option Instr :=
  if nbits ≤ 32 then
    match decodeWord (BitVec.ofNat 32 w) with
    | .ok i => some i
    | .error _ => decodeNearWord (BitVec.ofNat 32 w)
  else none

end Sys2Proof
end

