-- ==== Sys2Proof/Machine/Tab.lean ====
section
/-! DEFINITION. Sparse tables by a natural key, as lists of pairs in one canonical form (keys strictly rising), and the
byte memory built on them: no entry equals what an unlisted address reads as. -/

namespace Sys2Proof.Machine

/-- A sparse table: pairs of key and value, keys strictly rising. -/
abbrev Tab (α : Type) := List (Nat × α)

/-- The entry at a key. -/
def tabFind {α : Type} : Tab α → Nat → Option α
  | [], _ => none
  | (k, v) :: t, q => if k = q then some v else tabFind t q

/-- The entry at a key, or a default where none is listed. -/
def tabGet {α : Type} (d : α) (t : Tab α) (q : Nat) : α := (tabFind t q).getD d

/-- Removes the entry at a key. -/
def tabErase {α : Type} : Tab α → Nat → Tab α
  | [], _ => []
  | (k, v) :: t, q => if k = q then tabErase t q else (k, v) :: tabErase t q

/-- Places an entry, keeping the keys rising. -/
def tabPut {α : Type} : Tab α → Nat → α → Tab α
  | [], q, x => [(q, x)]
  | (k, v) :: t, q, x =>
    if q < k then (q, x) :: (k, v) :: t
    else if q = k then (q, x) :: t
    else (k, v) :: tabPut t q x

/-- Writes a value at a key of a table whose unlisted keys read `d`: writing `d` removes the entry. -/
def tabSet {α : Type} [DecidableEq α] (d : α) (t : Tab α) (q : Nat) (x : α) : Tab α :=
  if x = d then tabErase t q else tabPut t q x

/-- Every key of the table is above a bound, and the keys rise strictly. -/
def tabRising {α : Type} : Option Nat → Tab α → Bool
  | _, [] => true
  | none, (k, _) :: t => tabRising (some k) t
  | some b, (k, _) :: t => decide (b < k) && tabRising (some k) t

/-- The canonical form: keys strictly rising and no entry equal to the default. -/
def tabWf {α : Type} [DecidableEq α] (d : α) (t : Tab α) : Bool :=
  tabRising none t && t.all (fun e => decide (e.2 ≠ d))

/-- A byte memory: the listed cells, addresses strictly rising. -/
abbrev Memory := List Host.Cell

/-- What an unlisted address reads as: zero (log 4: DESIGN CHOICE, the manual gives no contents of memory after
power-on; an absent page is filled with zeros, R247). -/
def Memory.blank : Byte := 0

/-- Reads one byte. -/
def Memory.read (m : Memory) (a : Nat) : Byte := tabGet Memory.blank m a

/-- Writes one byte, keeping the canonical form. -/
def Memory.write (m : Memory) (a : Nat) (b : Byte) : Memory := tabSet Memory.blank m a b

/-- The canonical form of a memory. -/
def Memory.wf (m : Memory) : Bool := tabWf Memory.blank m

/-- Reads n bytes from address a upward. -/
def Memory.readBytes (m : Memory) (a : Nat) : Nat → List Byte
  | 0 => []
  | n + 1 => m.read a :: Memory.readBytes m (a + 1) n

/-- Writes a list of bytes from address a upward. -/
def Memory.writeBytes (m : Memory) (a : Nat) : List Byte → Memory
  | [] => m
  | b :: bs => Memory.writeBytes (m.write a b) (a + 1) bs

/-- The value of bytes in little-endian order (R27, R53). -/
def leNat : List Byte → Nat
  | [] => 0
  | b :: bs => b.toNat + 256 * leNat bs

/-- The n little-endian bytes of a value. -/
def leBytes (x : Nat) : Nat → List Byte
  | 0 => []
  | n + 1 => BitVec.ofNat 8 x :: leBytes (x / 256) n

/-- Replaces the element at an index. -/
def listSet {α : Type} : List α → Nat → α → List α
  | [], _, _ => []
  | _ :: t, 0, x => x :: t
  | h :: t, n + 1, x => h :: listSet t n x

/-- Changes the element at an index. -/
def listModify {α : Type} (f : α → α) : List α → Nat → List α
  | [], _ => []
  | h :: t, 0 => f h :: t
  | h :: t, n + 1 => h :: listModify f t n

/-- Maps with the element's index, from index i. -/
def mapFrom {α β : Type} (f : Nat → α → β) : Nat → List α → List β
  | _, [] => []
  | i, h :: t => f i h :: mapFrom f (i + 1) t

end Sys2Proof.Machine
end

