-- ==== Sys2Proof/Machine/Num.lean ====
section
/-! DEFINITION. Number formats and exact arithmetic (04_numbers.md R69–R85, 08_core_float.md R156–R168): exact values as
dyadics, one rounding to a format, conversion, division, roots, FEXP2 and FLOG2. -/

namespace Sys2Proof.Machine

/-- The element kinds and integer targets (R69, R71, R77). -/
inductive Kind where
  | f64 | f32 | f16 | bf16 | e5m2 | e4m3 | e3m2 | e2m3 | e2m1 | i8 | dm8 | i32 | n32 | i64
  deriving DecidableEq, Repr

/-- An exact value: NaN with its mantissa field and the field's width, infinity, or (−1)^s · m · 2^e. -/
inductive FVal where
  | nan (s : Bool) (man : Nat) (mb : Nat)
  | inf (s : Bool)
  | fin (s : Bool) (m : Nat) (e : Int)
  deriving DecidableEq, Repr

/-- A floating format: exponent bits, mantissa bits, bias, largest finite magnitude sig · 2^exp, infinity, NaN code
(R69, R71). -/
structure Fmt where
  eb : Nat
  mb : Nat
  bias : Nat
  maxSig : Nat
  maxExp : Int
  hasInf : Bool
  canon : Nat
  deriving DecidableEq, Repr

def Kind.fmt : Kind → Fmt
  | .f64 => ⟨11, 52, 1023, 2 ^ 53 - 1, 971, true, 0x7FF8000000000000⟩
  | .f32 => ⟨8, 23, 127, 2 ^ 24 - 1, 104, true, 0x7FC00000⟩
  | .f16 => ⟨5, 10, 15, 2 ^ 11 - 1, 5, true, 0x7E00⟩
  | .bf16 => ⟨8, 7, 127, 2 ^ 8 - 1, 120, true, 0x7FC0⟩
  | .e5m2 => ⟨5, 2, 15, 7, 13, true, 0x7E⟩
  | .e4m3 => ⟨4, 3, 7, 14, 5, false, 0x7F⟩
  | .e3m2 => ⟨3, 2, 3, 7, 2, false, 0⟩
  | .e2m3 => ⟨2, 3, 1, 15, -1, false, 0⟩
  | .e2m1 => ⟨2, 1, 1, 3, 1, false, 0⟩
  | _ => ⟨0, 0, 0, 0, 0, false, 0⟩

/-- Bit length of a natural: the least n with x < 2^n. -/
def bitLen (x : Nat) : Nat := if x = 0 then 0 else Nat.log2 x + 1

/-- Magnitude of a DM8 code in units of 2^−11, for x = bits 6:0 (R73, R74). -/
def dm8Mag (x : Nat) : Nat :=
  if x = 0 then 0
  else
    let m := Nat.log2 x
    let a := ([0, 1, 2, 2, 2, 2, 1][m]?).getD 0
    let fb := m - a
    let e := (x - 2 ^ m) / 2 ^ fb
    let f := (x - 2 ^ m) % 2 ^ fb
    let lists : List (List Nat) :=
      [[0], [1, 20], [2, 3, 18, 19], [4, 5, 16, 17], [6, 7, 14, 15], [8, 9, 12, 13], [10, 11]]
    let b := (((lists[m]?).getD [])[e]?).getD 0
    (2 ^ fb + f) * 2 ^ b / 2 ^ fb

/-- Number of fraction bits of a DM8 code (R73). -/
def dm8FracBits (x : Nat) : Nat :=
  if x = 0 then 0 else Nat.log2 x - ([0, 1, 2, 2, 2, 2, 1][Nat.log2 x]?).getD 0

/-- Two's-complement value of the low n bits. -/
def sInt (n x : Nat) : Int := if x % 2 ^ n < 2 ^ (n - 1) then (x % 2 ^ n : Nat) else (x % 2 ^ n : Nat) - (2 ^ n : Nat)

/-- The low n bits of an integer. -/
def ofInt (n : Nat) (x : Int) : Nat := (x % (2 ^ n : Nat)).toNat

/-- The exact value of a code of a floating format with an all-ones exponent field holding specials when hasInf. -/
def decFloat (f : Fmt) (x : Nat) : FVal :=
  let man := x % 2 ^ f.mb
  let ef := x / 2 ^ f.mb % 2 ^ f.eb
  let s := decide (x / 2 ^ (f.eb + f.mb) % 2 = 1)
  if f.hasInf && ef = 2 ^ f.eb - 1 then (if man = 0 then .inf s else .nan s man f.mb)
  else if ef = 0 then .fin s man (1 - (f.bias : Int) - f.mb)
  else .fin s (2 ^ f.mb + man) ((ef : Int) - f.bias - f.mb)

/-- The exact value of a code (R69–R74). -/
def dec (k : Kind) (x : Nat) : FVal :=
  match k with
  | .i8 => .fin (decide (sInt 8 x < 0)) (sInt 8 x).natAbs 0
  | .i32 => .fin (decide (sInt 32 x < 0)) (sInt 32 x).natAbs 0
  | .i64 => .fin (decide (sInt 64 x < 0)) (sInt 64 x).natAbs 0
  | .n32 => .fin false (x % 2 ^ 32) 0
  | .dm8 => if x % 256 = 0x80 then .nan true 1 1 else .fin (decide (128 ≤ x % 256)) (dm8Mag (x % 128)) (-11)
  | .e4m3 => if x % 128 = 127 then .nan (decide (128 ≤ x % 256)) 7 3 else decFloat Kind.e4m3.fmt x
  | k => decFloat k.fmt x

/-! ## Rounding (R75) -/

/-- Rounds the magnitude m · 2^e (strictly above it, by less than 2^e, when sticky) to a multiple of 2^q:
the rounded multiple. rnd: 0 rne, 1 rz, 2 ru, 3 rd. -/
def roundQ (rnd : Nat) (s : Bool) (m : Nat) (e q : Int) (sticky : Bool) : Nat :=
  if q ≤ e then
    let base := m * 2 ^ (e - q).toNat
    if sticky && ((rnd = 2 && !s) || (rnd = 3 && s)) then base + 1 else base
  else
    let k := (q - e).toNat
    let lo := m / 2 ^ k
    let r := 2 * (m % 2 ^ k)
    let inexact := sticky || r != 0
    let up :=
      if rnd = 0 then decide (2 ^ k < r) || (r = 2 ^ k && (sticky || lo % 2 = 1))
      else inexact && ((rnd = 2 && !s) || (rnd = 3 && s))
    if up then lo + 1 else lo

/-- Rounds to the significands of a format with unlimited exponent range upward: multiple and its exponent. -/
def roundSig (f : Fmt) (rnd : Nat) (s : Bool) (m : Nat) (e : Int) (sticky : Bool) : Nat × Int :=
  let q := max (e + bitLen m - (f.mb + 1)) (1 - (f.bias : Int) - f.mb)
  (roundQ rnd s m e q sticky, q)

/-- The code of ±n · 2^q, where n · 2^q is representable. -/
def encFin (f : Fmt) (s : Bool) (n : Nat) (q : Int) : Nat :=
  let sg := if s then 2 ^ (f.eb + f.mb) else 0
  if n < 2 ^ f.mb then sg + n
  else
    let (n, q) := if n = 2 ^ (f.mb + 1) then (n / 2, q + 1) else (n, q)
    sg + (q + f.mb + f.bias).toNat * 2 ^ f.mb + (n - 2 ^ f.mb)

/-- Code of an infinity. -/
def encInf (f : Fmt) (s : Bool) : Nat := (if s then 2 ^ (f.eb + f.mb) else 0) + (2 ^ f.eb - 1) * 2 ^ f.mb

/-- Code of the largest finite value. -/
def encMax (f : Fmt) (s : Bool) : Nat :=
  (if s then 2 ^ (f.eb + f.mb) else 0) + (f.maxExp + f.mb + f.bias).toNat * 2 ^ f.mb + (f.maxSig - 2 ^ f.mb)

/-- n · 2^q exceeds the largest finite magnitude. -/
def overMax (f : Fmt) (n : Nat) (q : Int) : Bool :=
  if q ≤ f.maxExp then decide (f.maxSig * 2 ^ (f.maxExp - q).toNat < n)
  else decide (f.maxSig < n * 2 ^ (q - f.maxExp).toNat)

/-- A vector result: rne to a wide format, overflow to infinity (R75, R157). -/
def roundNE (f : Fmt) (s : Bool) (m : Nat) (e : Int) (sticky : Bool) : Nat :=
  let (n, q) := roundSig f 0 s m e sticky
  if overMax f n q then encInf f s else encFin f s n q

/-! ## Conversion (R77, R78) -/

/-- Payload move (R78). -/
def nanMove (f : Fmt) (s : Bool) (man mb : Nat) : Nat :=
  let p := if mb ≤ f.mb then man * 2 ^ (f.mb - mb) else man / 2 ^ (mb - f.mb)
  encInf f s + (if p = 0 then 1 else p)

/-- Overflow goes to infinity, not to the largest finite value (table of R77). -/
def overInf (rnd : Nat) (s : Bool) : Bool := rnd = 0 || (rnd = 2 && !s) || (rnd = 3 && s)

/-- Rounds |x| = m · 2^e to DM8: the code's bits 6:0, or 128 for 1,024 and more (R76). -/
def dm8Round (rnd : Nat) (s : Bool) (m : Nat) (e : Int) : Nat :=
  let k := (-(e + 11)).toNat
  let a := m * 2 ^ (e + 11).toNat
  let mag (c : Nat) : Nat := (if c = 128 then 1024 * 2048 else dm8Mag c) * 2 ^ k
  let codes := List.range 129
  let lo := codes.foldl (fun b c => if mag c ≤ a && mag b ≤ mag c then c else b) 0
  let hi := codes.foldl (fun b c => if a ≤ mag c && mag c ≤ mag b then c else b) 128
  let even (c : Nat) : Bool := c = 128 || dm8FracBits c = 0 || c % 2 = 0
  if mag 128 ≤ a then 128
  else if mag lo = a then lo
  else if rnd = 1 then lo
  else if rnd = 2 then (if s then lo else hi)
  else if rnd = 3 then (if s then hi else lo)
  else if 2 * a < mag lo + mag hi then lo
  else if mag lo + mag hi < 2 * a then hi
  else if even hi then hi
  else lo

/-- Least and greatest value of an integer target. -/
def intRange : Kind → Int × Int
  | .i8 => (-128, 127)
  | .i32 => (-(2 ^ 31), 2 ^ 31 - 1)
  | .n32 => (0, 2 ^ 32 - 1)
  | .i64 => (-(2 ^ 63), 2 ^ 63 - 1)
  | _ => (0, 0)

def intBits : Kind → Nat
  | .i8 => 8
  | .i64 => 64
  | _ => 32

def Kind.isInt : Kind → Bool
  | .i8 | .i32 | .n32 | .i64 => true
  | _ => false

/-- Convert of R77. -/
def convert (x : FVal) (k : Kind) (rnd : Nat) (sat : Bool) : Nat :=
  let f := k.fmt
  if k.isInt then
    let (lo, hi) := intRange k
    match x with
    | .nan .. => 0
    | .inf s => ofInt (intBits k) (if s then lo else hi)
    | .fin s m e =>
      let n : Int := roundQ rnd s m e 0 false
      let y := if s then -n else n
      ofInt (intBits k) (max lo (min hi y))
  else if k = .dm8 then
    match x with
    | .nan .. => 0x80
    | .inf s => if sat then (if s then 0x83 else 0x03) else 0x80
    | .fin s m e =>
      let c := dm8Round rnd s m e
      if c = 128 then (if sat || !overInf rnd s then (if s then 0x83 else 0x03) else 0x80)
      else if c = 0 then 0 else if s then c + 128 else c
  else
    match x with
    | .nan s man mb =>
      if k = .e4m3 then (if s then 0xFF else 0x7F)
      else if f.hasInf then nanMove f s man mb else 0
    | .inf s =>
      if sat || !(f.hasInf || k = .e4m3) then encMax f s
      else if k = .e4m3 then (if s then 0xFF else 0x7F) else encInf f s
    | .fin s m e =>
      let (n, q) := roundSig f rnd s m e false
      if !overMax f n q then encFin f s n q
      else if sat || !(f.hasInf || k = .e4m3) || !overInf rnd s then encMax f s
      else if k = .e4m3 then (if s then 0xFF else 0x7F) else encInf f s

/-! ## Vector arithmetic (R157–R165) -/

/-- Signed integer value of a finite number at a common exponent. -/
def scaled (s : Bool) (m : Nat) (e q : Int) : Int :=
  let n : Int := m * 2 ^ (e - q).toNat
  if s then -n else n

/-- Exact sum of two finite numbers, with the zero-sign rule of R158. -/
def addFin (s1 : Bool) (m1 : Nat) (e1 : Int) (s2 : Bool) (m2 : Nat) (e2 : Int) : FVal :=
  let q := min e1 e2
  let t := scaled s1 m1 e1 q + scaled s2 m2 e2 q
  if t = 0 then .fin (s1 && s2 && m1 = 0 && m2 = 0) 0 q else .fin (decide (t < 0)) t.natAbs q

def mulF : FVal → FVal → FVal
  | .nan .., _ => .nan false 0 0
  | _, .nan .. => .nan false 0 0
  | .inf s, .inf t => .inf (s != t)
  | .inf s, .fin t m _ => if m = 0 then .nan false 0 0 else .inf (s != t)
  | .fin s m _, .inf t => if m = 0 then .nan false 0 0 else .inf (s != t)
  | .fin s m e, .fin t n f => .fin (s != t) (m * n) (e + f)

def addF : FVal → FVal → FVal
  | .nan .., _ => .nan false 0 0
  | _, .nan .. => .nan false 0 0
  | .inf s, .inf t => if s = t then .inf s else .nan false 0 0
  | .inf s, _ => .inf s
  | _, .inf t => .inf t
  | .fin s m e, .fin t n f => addFin s m e t n f

def negF : FVal → FVal
  | .nan s m b => .nan (!s) m b
  | .inf s => .inf (!s)
  | .fin s m e => .fin (!s) m e

/-- The code of an exact result in a wide format: canonical NaN, infinity, or rounded by rne. -/
def fres (k : Kind) : FVal → Nat
  | .nan .. => k.fmt.canon
  | .inf s => encInf k.fmt s
  | .fin s m e => roundNE k.fmt s m e false

def fadd (k : Kind) (a b : Nat) : Nat := fres k (addF (dec k a) (dec k b))
def fsub (k : Kind) (a b : Nat) : Nat := fres k (addF (dec k a) (negF (dec k b)))
def fmul (k : Kind) (a b : Nat) : Nat := fres k (mulF (dec k a) (dec k b))
def ffma (k : Kind) (a b d : Nat) : Nat := fres k (addF (mulF (dec k a) (dec k b)) (dec k d))

/-- Two packed 16-bit fused multiply-adds (R159). -/
def ffma2 (k : Kind) (a b d : Nat) : Nat :=
  ffma k (a % 65536) (b % 65536) (d % 65536)
    + 65536 * ffma k (a / 65536 % 65536) (b / 65536 % 65536) (d / 65536 % 65536)

/-- Numeric order key of a finite or infinite value: −0 before +0 (R161). -/
def fless (zeros : Bool) : FVal → FVal → Bool
  | .inf s, .inf t => s && !t
  | .inf s, .fin .. => s
  | .fin .., .inf t => !t
  | .fin s m e, .fin t n f =>
    if m = 0 && n = 0 then zeros && s && !t
    else
      let q := min e f
      decide (scaled s m e q < scaled t n f q)
  | _, _ => false

def isNaN : FVal → Bool
  | .nan .. => true
  | _ => false

def fminmax (k : Kind) (mx : Bool) (a b : Nat) : Nat :=
  let x := dec k a
  let y := dec k b
  if isNaN x && isNaN y then k.fmt.canon
  else if isNaN x then b
  else if isNaN y then a
  else if fless true x y then (if mx then b else a)
  else if fless true y x then (if mx then a else b)
  else a

/-- Quotient of magnitudes with at least 130 significant bits and a sticky remainder. -/
def divMag (m : Nat) (e : Int) (n : Nat) (f : Int) : Nat × Int × Bool :=
  let k := 130 + bitLen n
  let a := m * 2 ^ k
  (a / n, e - f - k, a % n != 0)

def fdivF (k : Kind) (x y : FVal) : Nat :=
  let f := k.fmt
  match x, y with
  | .nan .., _ => f.canon
  | _, .nan .. => f.canon
  | .inf _, .inf _ => f.canon
  | .inf s, .fin t _ _ => encInf f (s != t)
  | .fin s _ _, .inf t => encFin f (s != t) 0 0
  | .fin s m e, .fin t n g =>
    if n = 0 then (if m = 0 then f.canon else encInf f (s != t))
    else if m = 0 then encFin f (s != t) 0 0
    else
      let (q, qe, st) := divMag m e n g
      roundNE f (s != t) q qe st

def fdiv (k : Kind) (a b : Nat) : Nat := fdivF k (dec k a) (dec k b)

/-- Integer square root by Newton steps from above; enough steps for operands below 2^1200. -/
def isqrtAux : Nat → Nat → Nat → Nat
  | 0, _, r => r
  | fuel + 1, n, r =>
    let t := (r + n / r) / 2
    if t < r then isqrtAux fuel n t else r

def isqrt (n : Nat) : Nat := if n = 0 then 0 else isqrtAux 200 n (2 ^ (bitLen n / 2 + 1))

/-- Square root of m · 2^e as significand, exponent and sticky. -/
def sqrtMag (m : Nat) (e : Int) : Nat × Int × Bool :=
  let k : Nat := if e % 2 = 0 then 260 else 261
  let a := m * 2 ^ k
  let r := isqrt a
  (r, (e - k) / 2, r * r != a)

def fsqrtF (k : Kind) (x : FVal) : Nat :=
  let f := k.fmt
  match x with
  | .nan .. => f.canon
  | .inf s => if s then f.canon else encInf f false
  | .fin s m e =>
    if m = 0 then encFin f s 0 0
    else if s then f.canon
    else
      let (r, q, st) := sqrtMag m e
      roundNE f false r q st

def fsqrt (k : Kind) (a : Nat) : Nat := fsqrtF k (dec k a)

/-- 1/√(m · 2^e) is √(2^−e / m): the floor of √(2^k/m), with the rest sticky. -/
def frsqrtF (k : Kind) (x : FVal) : Nat :=
  let f := k.fmt
  match x with
  | .nan .. => f.canon
  | .inf s => if s then f.canon else encFin f false 0 0
  | .fin s m e =>
    if m = 0 then encInf f s
    else if s then f.canon
    else
      let k0 : Nat := 300 + 2 * bitLen m
      let kk : Nat := if (e + k0) % 2 = 0 then k0 else k0 + 1
      let a := 2 ^ kk / m
      let r := isqrt a
      roundNE f false r ((-e - kk) / 2) (r * r * m != 2 ^ kk)

def frsqrt (k : Kind) (a : Nat) : Nat := frsqrtF k (dec k a)

def frcp (k : Kind) (a : Nat) : Nat := fdivF k (.fin false 1 0) (dec k a)

/-! ## FEXP2 and FLOG2 (R163; log 14) -/

/-- Terms t^(2i+1)/(2i+1) summed in fixed point with p fraction bits: 2·atanh of t. -/
def atanhSum (p : Nat) : Nat → Nat → Nat → Nat → Nat → Nat
  | 0, _, _, _, acc => 2 * acc
  | fuel + 1, i, t, t2, acc => atanhSum p fuel (i + 2) (t * t2 / 2 ^ p) t2 (acc + t / i)

/-- ln of a/b (1 ≤ a/b ≤ 2) with p fraction bits, below the true value by less than 2^10 units. -/
def lnFix (p a b : Nat) : Nat :=
  let t := (a - b) * 2 ^ p / (a + b)
  atanhSum p p 1 t (t * t / 2 ^ p) 0

def ln2Fix (p : Nat) : Nat := lnFix p 2 1

/-- e^(x/2^p) with p fraction bits by its power series. -/
def expSum (p : Nat) : Nat → Nat → Nat → Nat → Nat → Nat
  | 0, _, _, _, acc => acc
  | fuel + 1, i, x, t, acc =>
    let t := t * x / 2 ^ p / i
    expSum p fuel (i + 1) x t (acc + t)

/-- Fraction bits of the fixed-point work. -/
def fixP : Nat := 200

/-- Rounds a value known to lie in (v − 2^12, v + 2^12) units of 2^q: when both ends round alike, that result. -/
def roundNear (f : Fmt) (s : Bool) (v : Nat) (q : Int) : Nat :=
  let lo := roundNE f s (v - 4096) q true
  let hi := roundNE f s (v + 4096) q true
  if lo = hi then lo else roundNE f s v q true

/-- 2^(n/2^p), 0 ≤ n < 2^p, in fixed point. -/
def exp2Fix (p n : Nat) : Nat := expSum p p 1 (n * ln2Fix p / 2 ^ p) (2 ^ p) (2 ^ p)

/-- 2^x for exact x = ±m · 2^e with e at least −200, rounded to a format. -/
def exp2F (f : Fmt) (x : FVal) : Nat :=
  match x with
  | .nan .. => f.canon
  | .inf s => if s then 0 else encInf f false
  | .fin s m e =>
    if decide (e + bitLen m > 12) then (if s then 0 else encInf f false)
    else
      let v := scaled s m e (-(fixP : Int))
      let n : Int := v / ((2 ^ fixP : Nat) : Int)
      let fr := (v % ((2 ^ fixP : Nat) : Int)).toNat
      if decide (e ≥ 0) || (m % 2 ^ (-e).toNat = 0) then roundNE f false 1 n false
      else roundNear f false (exp2Fix fixP fr) (n - (fixP : Int))

def fexp2 (a : Nat) : Nat := exp2F Kind.f32.fmt (dec .f32 a)

/-- log2 of m · 2^e > 0, rounded to a format. -/
def log2F (f : Fmt) (m : Nat) (e : Int) : Nat :=
  let l := Nat.log2 m
  let n : Int := e + l
  if m = 2 ^ l then roundNE f (decide (n < 0)) n.natAbs 0 false
  else
    let fr : Int := (lnFix fixP m (2 ^ l) * 2 ^ fixP / ln2Fix fixP : Nat)
    let v : Int := n * ((2 ^ fixP : Nat) : Int) + fr
    roundNear f (decide (v < 0)) v.natAbs (-(fixP : Int))

def flog2 (a : Nat) : Nat :=
  let f := Kind.f32.fmt
  match dec .f32 a with
  | .nan .. => f.canon
  | .inf s => if s then f.canon else encInf f false
  | .fin s m e => if m = 0 then encInf f true else if s then f.canon else log2F f m e

/-- Class mask (R164). -/
def fclass (k : Kind) (a : Nat) : Nat :=
  let f := k.fmt
  match dec k a with
  | .inf s => if s then 1 else 2 ^ 7
  | .nan _ man mb => if man / 2 ^ (mb - 1) % 2 = 0 then 2 ^ 8 else 2 ^ 9
  | .fin s m _ =>
    if m = 0 then (if s then 2 ^ 3 else 2 ^ 4)
    else if m < 2 ^ f.mb then (if s then 2 ^ 2 else 2 ^ 5)
    else if s then 2 ^ 1 else 2 ^ 6

/-- Float condition: 0 eq, 1 lt, 2 le, 3 un (R38, R166). -/
def fcond (cond : Nat) (x y : FVal) : Bool :=
  let u := isNaN x || isNaN y
  if cond = 3 then u
  else if u then false
  else if cond = 0 then !fless false x y && !fless false y x
  else if cond = 1 then fless false x y
  else !fless false y x

end Sys2Proof.Machine
end

