-- ==== Sys2Proof/Config.lean ====
section
/-! DEFINITION. What one D9 fixes (00_scope.md R1) and the free values: opaque constants without a body, for every
value the manual leaves open among stated choices (log 1). -/

namespace Sys2Proof.Config

/-- Free choice between two outcomes the manual lists (R4): the n-th draw, at a key naming what is chosen. -/
opaque pick : Nat → Nat → Bool

/-- SHA-256 digest of a firmware image, and the package's drawn power in watts at a draw, which no rule computes (R444, R446; log 16). -/
opaque digest : Nat → BitVec 256
opaque drawn : Nat → Nat

/-- Watts below the power limit at which a drawn power is near it: R446 gives no number. -/
opaque powerMargin : Nat

/-- Free 32-bit value: where the manual states no value at all. -/
opaque word : Nat → Nat → BitVec 32

/-- Compute dies of a package (R1). -/
def dies : Nat := 4
/-- Quads of a die (R1). -/
def quadsPerDie : Nat := 128
/-- Cores of a die (R1). -/
def coresPerDie : Nat := 512
/-- HBM4 stacks of a package (R1). -/
def hbmStacks : Nat := 12
/-- Bytes of one HBM4 stack: 64 GiB (R1). -/
def stackBytes : Nat := 2 ^ 36
/-- Bytes of a quad's Lantern store: 2 MiB (R1). -/
def lanternBytes : Nat := 2 ^ 21
/-- Bytes of one Lantern macro: 16 KiB (R285). -/
def macroBytes : Nat := 2 ^ 14
/-- Slice-rows of a core's register file (R126). -/
def sliceRows : Nat := 8192
/-- Warp slots of a core (R1). -/
def warpSlots : Nat := 16
/-- Lines of a core's L1: 64 KiB (R1). -/
def l1Lines : Nat := 1024
/-- Lines of a die's L2: 64 slices of 1 MiB (R1). -/
def l2Lines : Nat := 2 ^ 20
/-- Entries of a core's TLB, of a die's translation cache for pages and for buffers, and of a quad's walk-ahead TLB (R250). -/
def coreTlb : Nat := 384
def dieTlb : Nat := 8192
def dieBufTlb : Nat := 1024
def walkTlb : Nat := 1024
/-- Meridian ports of a package and of a die (R9, R436). -/
def meridianPorts : Nat := 128
def portsPerDie : Nat := 32
/-- Supply rails and ring oscillators of a die that have a monitor: the manual gives no numbers (R445; log 10). -/
def supplyRails : Nat := 1
def ringMonitors : Nat := 1
/-- Bytes of a BAR2 window, and functions of the host link (R433). -/
def bar2Bytes : Nat := 2 ^ 36
def functions : Nat := 64
/-- Temperatures of a sample of a die's monitor (R445). -/
def monitorTemps : Nat := 64

end Sys2Proof.Config
end

