-- ==== Sys2Proof/Machine/State.lean ====
section
/-! DEFINITION. The state of one D9 package and its reset value. Every structure is plain data. Objects the part
creates as it runs (groups, warps, commands, orbits, vigils …) stand in lists that are empty after reset. -/

namespace Sys2Proof.Machine

/-- Why the machine stops. -/
inductive Fault where
  /-- Raised by `step` and by a word's meaning: all clocks of the package are stopped (R446: at 115 °C the package
  stops all clocks and requires a reset). Safe: nothing runs. -/
  | clocksStopped
  /-- Raised by a core word's meaning when no gang issues a word (no clause in progress at `cur`). `step` never runs a
  word then. Safe. -/
  | noGang
  /-- Raised by a near-bank word's meaning when no near-bank pass runs at `curPass`. `step` never runs one then. Safe. -/
  | noPass
  deriving DecidableEq, Repr

/-- Why an instruction has no meaning. -/
inductive Refusal where
  /-- Raised by an arm of `exec` for an instruction without a meaning yet. Safe. -/
  | notModelled (mnemonic : String)
  deriving DecidableEq, Repr

/-! ## Lanes -/

/-- Why a lane is parked (R115, R225). -/
inductive Park where
  | meeting | warpWide | barrier | engine | fetch | debug
  deriving DecidableEq, Repr

/-- The run state of a lane (R112, R115). -/
inductive LaneStat where
  | ready | exited
  | parked (why : Park)
  deriving DecidableEq, Repr

/-- The control transfer that set a lane's pc, kept for a trap taken at its target (R210). -/
structure Xfer where
  pc : Word
  word : Word
  index : Nat
  deriving DecidableEq, Repr

/-- One lane (R112). -/
structure Lane where
  /-- Code-buffer byte offset of the next word to issue. -/
  pc : Word := 0
  /-- Meeting register (R120). -/
  meet : Word := 0xFFFFFFFF
  /-- v registers by number; an unlisted register reads 0 (R114). -/
  v : Tab Word := []
  /-- Predicates p0–p7, bit i = pi; bit 0 reads as 1 whatever it holds (R30). -/
  preds : BitVec 8 := 1
  stat : LaneStat := .ready
  /-- Target of a transfer taken in the clause in progress. -/
  npc : Option Word := none
  /-- The transfer that set `pc`. -/
  xfer : Option Xfer := none
  /-- An EXIT of the clause in progress took effect (R125: exited at the end of the clause). -/
  exiting : Bool := false
  /-- Member mask while parked at a warp-wide word (R225). -/
  wmask : Dword := 0
  /-- Released from the meeting at its pc, which it has not left yet (R122). -/
  released : Bool := false
  deriving DecidableEq, Repr

/-! ## Accesses and tracked operations -/

/-- Where an access goes. -/
inductive Space where
  | mem | lantern
  deriving DecidableEq, Repr

/-- Lane number that names the uniform registers in a register write or access. -/
def uniLane : Nat := 64

/-- A register write that a tracked operation performs when it completes (lane 64: uniform register). -/
structure RegWrite where
  lane : Nat
  reg : Nat
  val : Word
  deriving DecidableEq, Repr

/-- What an access does at its location. -/
inductive AccKind where
  /-- Load with sign extension or zero extension. -/
  | load (signed : Bool)
  /-- Atomic op4 with scope and order, operand and compare values (R180). -/
  | atomic (op : Nat) (scope : Nat) (ord : Nat) (a b : Dword)
  deriving DecidableEq, Repr

/-- One lane's part of a load or atomic: location, size and destination register. -/
structure Access where
  lane : Nat
  space : Space
  addr : Dword
  size : Nat
  reg : Nat
  kind : AccKind
  deriving DecidableEq, Repr

/-- One lane's part of a store word. -/
structure StoreItem where
  lane : Nat
  space : Space
  addr : Dword
  bytes : List Byte
  deriving DecidableEq, Repr

/-- What a tracked operation waits for. -/
inductive OpKind where
  /-- Loads and atomics not yet performed. -/
  | accesses (items : List Access)
  /-- Gather-reduce not yet performed: op and its elements (R181). -/
  | gred (op : Nat) (items : List Access)
  /-- A warp-wide word: the lanes parked at it (each with its mask), and the results of lanes whose execution has taken
  place. -/
  | warpWide (lanes : Dword) (got : List RegWrite)
  /-- Result known: the writes are pending. -/
  | done (writes : List RegWrite)
  /-- Status of an engine command, written by the engine to uniform register d. -/
  | status (d : Nat)
  /-- Acceptance of an engine command (R11). -/
  | accept
  deriving DecidableEq, Repr

/-- A tracked operation (R14, R15): flags still counted for it, and what it will write. -/
structure TOp where
  id : Nat
  fa : Option Nat
  fb : Option Nat
  lanes : Dword
  kind : OpKind
  word : Word
  wordPc : Word
  /-- Registers, by lane and number, that keep a value an LWRITE has written since (R220). -/
  lost : List (Nat × Nat) := []
  deriving DecidableEq, Repr

/-- One entry of a warp's store queue: the stores of one word for one gang (R176). -/
structure SQEntry where
  id : Nat
  items : List StoreItem
  fb : Option Nat
  lanes : Dword
  word : Word
  wordPc : Word
  deriving DecidableEq, Repr

/-- Poison received by lanes of a warp and not yet taken as a trap (R179). -/
structure PoisonRec where
  lanes : Dword
  word : Word
  wordPc : Word
  /-- Each lane's address: of its poisoned line, or of its failed access; a uniform access has one, for all its lanes. -/
  addrs : List (Nat × Dword)
  /-- Cause of the trap to take: 6 poison; 3 or 4 for a check failed at the port (R246). -/
  cause : Nat
  deriving DecidableEq, Repr

/-! ## Traps, debug, spin monitors -/

/-- The trap registers of a warp (R209). -/
structure TrapRegs where
  cause : Word := 0
  pc : Word := 0
  word : Word := 0
  d : Word := 0
  a : Word := 0
  b : Word := 0
  imm : Word := 0
  lanes : Dword := 0
  addr : Dword := 0
  aux : Dword := 0
  hscr : List Word := [0, 0, 0, 0]
  deriving DecidableEq, Repr

/-- A warp inside a trap or debug handler (R208, R213, R220). -/
structure Handler where
  debug : Bool
  lanes : Dword
  /-- The handler executed a USWR to trappc (R213). -/
  wrotePc : Bool := false
  /-- A YIELD of the interrupted clause has executed (R135). -/
  yield : Bool := false
  /-- Lanes whose resume point MWRITE has set. -/
  resume : Tab Word := []
  /-- Flags of the interrupted clause for the words after TRAP_PC: header, seta, setb. -/
  hdr : Word := 0
  seta : Nat := 15
  setb : Nat := 15
  /-- Fetched words from the word at TRAP_PC on. -/
  rest : List Word := []
  deriving DecidableEq, Repr

/-- A trap to be taken (R208–R210). -/
structure TrapReq where
  lanes : Dword
  regs : TrapRegs
  debug : Bool
  hdr : Word
  seta : Nat
  setb : Nat
  rest : List Word
  /-- A YIELD of the clause has executed: its path is demoted at the clause's end (R135). -/
  yield : Bool := false
  deriving DecidableEq, Repr

/-- A warp's debug record (R215). -/
structure DebugRec where
  step : Bool := false
  /-- Breakpoints: offset, enable, lanes. -/
  bps : List (Word × Bool × Dword) := []
  /-- Watch ranges: reference, length, control bits 4:0, lanes. -/
  watches : List (Dword × Word × BitVec 5 × Dword) := []
  deriving DecidableEq, Repr

/-- One spin monitor (R130–R134). -/
structure Monitor where
  header : Word
  lanes : Dword
  /-- Digests of consecutive arrivals with equal lane sets, newest first. -/
  digests : List Nat
  /-- Nothing of R131 has happened since the last arrival. -/
  quiet : Bool
  /-- Quiet iterations seen in a row. -/
  quietRun : Nat
  /-- Spans of 64 bytes read since the last arrival. -/
  spans : List Nat
  lastArrival : Nat
  deriving DecidableEq, Repr

/-- A demoted path (R132–R135): lanes, watch set (none when more than eight spans), start clk. -/
structure Demotion where
  header : Word
  lanes : Dword
  watch : Option (List Nat)
  since : Nat
  hit : Bool
  deriving DecidableEq, Repr

/-- A gang that has fetched its clause and waits to be chosen (R138, R243). -/
structure Cand where
  pc : Word
  words : List Word
  /-- Ready time, once its wait mask reads clear. -/
  since : Option Nat
  promoted : Bool
  deriving DecidableEq, Repr

/-- A warp's arrival state at one barrier (R200, R225). -/
structure WarpBar where
  scope : Nat
  index : Nat
  set : Dword
  /-- Lanes that count in the next generation, parked until the advance: mask of syncs and of arrives. -/
  nextSync : Dword
  nextArr : Dword
  /-- Lanes parked on the barrier by sync or wait. -/
  parked : Dword
  /-- The warp has arrived in the current generation. -/
  arrived : Bool
  /-- Generation of the last arrival, if there was one. -/
  last : Option Word
  /-- Generation of the barrier as the group was last saved (R203). -/
  savedGen : Word := 0
  deriving DecidableEq, Repr

/-- One warp (R112). -/
structure Warp where
  id : Nat
  group : Nat
  /-- Warp number within the group. -/
  num : Nat
  /-- Warp slot of the core (R239). -/
  slot : Nat
  lanes : List Lane
  /-- Uniform registers; an unlisted register reads 0 (R233). -/
  s : Tab Word := []
  /-- Uniform predicates k0–k3; bit 0 reads as 1 (R30). -/
  k : BitVec 4 := 1
  /-- Completion flag counts f0–f11 (R14). -/
  flags : Tab Nat := []
  sq : List SQEntry := []
  ops : List TOp := []
  prio : Nat := 0
  clkCap : Dword := 0
  trap : TrapRegs := {}
  handler : Option Handler := none
  pendTraps : List TrapReq := []
  poison : List PoisonRec := []
  mons : List Monitor := []
  demoted : List Demotion := []
  cands : List Cand := []
  bars : List WarpBar := []
  dbg : DebugRec := {}
  /-- A debug record to load at the warp's next clause boundary (R215). -/
  dbgNext : Option DebugRec := none
  /-- A gang parked on a debug event with no debug entry (R214). -/
  dbgPark : Option TrapReq := none
  /-- Words that raise no breakpoint in the lanes that a debug event's return has resumed at them (R213). -/
  noBreak : List (Word × Dword) := []
  /-- A word has issued whose single-step event has not been taken (R218). -/
  stepPend : Bool := false
  ended : Bool := false
  deriving DecidableEq, Repr

/-! ## Gangs in flight -/

/-- What a gang waits for before its next word. -/
inductive Wait where
  | none
  /-- Fence op6 − 32 with its scope (R103), and a name later than those of the words issued before it. -/
  | fence (kind : Nat) (scope : Nat) (before : Nat)
  /-- Lanes parked on barriers: continues when none of its lanes is parked, with an acquire when the scope is wider than
  core. -/
  | lanes (wide : Bool)
  /-- The wait has ended; the gang's acquire, wider than core, waits until no store of its core is on its way (R101). -/
  | acquire
  /-- SWAIT: destination, Lantern offset, generation (R280). -/
  | swait (d : Nat) (off : Nat) (gen : Word)
  /-- MWAIT: slot mask (R314), and a name later than those of the commands issued before it. -/
  | mwait (mask : BitVec 8) (before : Nat)
  /-- OWAIT: destination, handle (R357). -/
  | owait (d : Nat) (handle : Nat)
  /-- The value that the wait has ended with, not yet written: destination, value (R357). -/
  | result (d : Nat) (v : Word)
  /-- OTAKE waiter: first descriptor register, tag (R359). -/
  | otake (d : Nat) (tag : Nat)
  /-- QPOP waiter: destination, slot, queue handle (R393). -/
  | qpop (d : Nat) (slot : Nat) (handle : Nat)
  /-- VWAITQ waiter: destination, vigil handle (R394). -/
  | vwaitq (d : Nat) (handle : Nat)
  /-- Signed in convergence register c (R294): the MMA word and its tracked operation. -/
  | signed (c : Nat) (word : Word) (op : Nat)
  /-- Held unsigned until register c is posted or discarded (R294). -/
  | unsigned (c : Nat) (word : Word) (op : Nat)
  deriving DecidableEq, Repr

/-- A gang inside a clause (R117): its lanes, the clause and the fetched words still to issue. -/
structure Gang where
  uid : Nat
  warp : Nat
  lanes : Dword
  hdr : Word
  /-- Index in the clause of the next word: 0 is the header. -/
  index : Nat
  rest : List Word
  seta : Nat := 15
  setb : Nat := 15
  wait : Wait := .none
  /-- A YIELD of the clause took effect (R135). -/
  yield : Bool := false
  deriving DecidableEq, Repr

/-! ## Groups and launches -/

/-- A kernel descriptor as a launch reads it (R62). -/
structure KDesc where
  entry : Word := 0
  handler : Word := 0xFFFFFFFF
  dbgentry : Word := 0xFFFFFFFF
  prolog : Nat := 16
  full : Nat := 32
  warps : Nat := 1
  tiles : Nat := 0
  lbytes : Nat := 0
  cvcount : Nat := 0
  gbars : Nat := 0
  qbars : Nat := 0
  dbars : Nat := 0
  pbars : Nat := 0
  odbars : Nat := 0
  cvtime : Nat := 24
  persistent : Bool := false
  kfeat : BitVec 128 := 0
  deriving DecidableEq, Repr

/-- A barrier (R200). -/
structure Barrier where
  exp : Word := 0
  arr : Word := 0
  gen : Word := 0
  deriving DecidableEq, Repr

/-- A barrier wider than core: scope, index and the unit that shares it (R238). -/
structure NetBar where
  scope : Nat
  index : Nat
  /-- Launch, or podkey at pod scope. -/
  key : Nat
  /-- Quad-span number or die; 0 at pkg and pod scope. -/
  part : Nat
  bar : Barrier
  /-- Pod scope: an arrival has been sent to the home and not yet counted. -/
  sent : Nat := 0
  deriving DecidableEq, Repr

/-- A convergence register (R293). -/
structure Conv where
  expect : BitVec 16 := 0
  ebits : BitVec 21 := 0
  collecting : Bool := false
  pc : Word := 0
  ob : Word := 0
  since : Nat := 0
  deriving DecidableEq, Repr

/-- A lumen slot (R378): handle and balance, or reserved by a waiting QPOP. -/
structure LSlot where
  vigil : Nat := 0
  balance : Nat := 0
  reserved : Bool := false
  deriving DecidableEq, Repr

/-- Residency of a group. -/
inductive GStat where
  | resident | saving | saved | ended
  deriving DecidableEq, Repr

/-- An engine command in a core's command buffer (R11): everything it read at issue. -/
structure Cmd where
  id : Nat
  warp : Nat
  group : Nat
  ctx : Nat
  eop : Nat
  /-- Engine bits 20:0 of the word. -/
  ebits : BitVec 21
  /-- Operand registers as read at issue. -/
  regs : List Word
  /-- Tracked operation counted on setb until acceptance. -/
  op : Option Nat
  /-- Tracked operation counted on seta until the status is written, with its register. -/
  sop : Option Nat
  lanes : Dword
  deriving DecidableEq, Repr

/-- A tile transfer command (R270, R283). -/
structure TCmd where
  id : Nat
  group : Nat
  warp : Nat
  ctx : Nat
  eop : Nat
  take : Bool
  regs : List Word
  mask : BitVec 128
  sop : Option Nat
  acq : Option Nat
  rel : Option Nat
  /-- The word's scope3, as the copy record keeps it (R283). -/
  scope3 : Nat := 0
  started : Bool := false
  record : List Byte := []
  /-- Sectors S, delivered sectors, sectors parked on pages. -/
  sectors : Nat := 0
  done : List Nat := []
  parked : List Nat := []
  poisoned : Bool := false
  /-- TMCAST: quads whose ready message has arrived, each with its matching command. -/
  ready : List (Nat × Nat) := []
  /-- TMCAST: gathered sectors on their way here: index, bytes, poisoned lines. -/
  inbound : List (Nat × List Byte × List Bool) := []
  sentReady : List Nat := []
  /-- TMCAST: sectors of its slice gathered and sent. -/
  fetched : List Nat := []
  /-- TNOTICE: the matched partner command: quad and id. -/
  partner : Option (Nat × Nat) := none
  placed : Bool := false
  /-- TNOTICE post: the take's last source read has been performed. -/
  acked : Bool := false
  /-- Code of the refusal to report (R272, order 6). -/
  code : Nat := 0
  deriving DecidableEq, Repr

/-- One group (R112). -/
structure Group where
  id : Nat
  launch : Nat
  index : Dword
  ctx : Nat
  desc : KDesc
  stat : GStat := .resident
  die : Nat
  core : Nat
  /-- Quad of the package: die·128 + quad. -/
  quad : Nat
  acquired : Bool := false
  /-- Base of the Lantern allocation in the quad's store. -/
  lbase : Nat
  gwords : Tab Word := []
  bars : List Barrier := []
  conv : List Conv := []
  /-- Quad tile numbers of a0, a1, … -/
  tiles : List Nat := []
  /-- Matrix error word: code, eop5, refusals (R315). -/
  merr : Nat × Nat × Nat := (0, 0, 0)
  slots : List LSlot := []
  /-- Launch priority. -/
  prio : Nat := 0
  /-- Scope of the launch's release, if it has one (R234). -/
  rel : Option Nat := none
  /-- Group was ended by R214. -/
  abandoned : Bool := false
  /-- Saved contents: Lantern bytes, poisoned lines, tiles, marks. -/
  saveLantern : Memory := []
  savePoison : List Nat := []
  saveTiles : Tab (BitVec 96 × BitVec 2) := []
  saveOvf : List Bool := []
  saveMarks : List Nat := []
  /-- Copy records (R283), in order. -/
  saveCmds : List TCmd := []
  /-- Arrivals of near-memory kernels held for the restore: offset, bytes, poison (R426). -/
  heldArrivals : List (Nat × Nat × Bool) := []
  /-- Vesper commands withdrawn at the save, in order (R398). -/
  saveVcmds : List Cmd := []
  deriving DecidableEq, Repr

/-- A run of groups of one launch: positions lo to hi − 1 of the sequence owned by a die (R236, R237). -/
structure Seg where
  owner : Nat
  lo : Nat
  hi : Nat
  deriving DecidableEq, Repr

/-- Where a launch's status word goes (R234, R235). -/
inductive StatusTo where
  | nowhere
  /-- Warp and tracked operation. -/
  | op (warp : Nat) (op : Nat)
  /-- Reference in memory, of a context. -/
  | mem (ctx : Nat) (ref : Dword)
  deriving DecidableEq, Repr

/-- A Vesper record (R385). -/
structure Rec where
  lumens : Nat
  vigil : Nat
  payload : List Word
  deriving DecidableEq, Repr

/-- An accepted launch (R232–R240). -/
structure Launch where
  id : Nat
  ctx : Nat
  block : Dword
  lflags : Nat
  groups : Nat
  iters : Nat
  itile : Nat
  prio : Nat
  qspan : Nat
  podkey : Nat
  podgroups : Nat
  sload : Word
  svals : List Word
  save : Dword
  savestride : Dword
  desc : KDesc
  /-- Unissued groups by die. -/
  rem : List (List Seg)
  /-- Dies that know the launch. -/
  known : List Bool
  ended : Nat := 0
  anyAbandoned : Bool := false
  status : StatusTo
  rel : Option Nat
  /-- Each group's start is an acquire of the command's scope (R106, R388). -/
  acq : Bool := false
  /-- Die of acceptance (R237 ties). -/
  home : Nat
  /-- VSPAWN: vigil and share c (R380). -/
  spawn : Option (Nat × Nat) := none
  /-- Bin batch: the records (R388). -/
  batch : List Rec := []
  /-- Debug configuration blocks installed, newest first, as words (R215). -/
  dbg : List (List Word) := []
  deriving DecidableEq, Repr

/-! ## Core, quad and die units -/

/-- A 64-byte line held apart from its home: a core's L1 or a die's L2 copy (R90, R94). -/
structure CLine where
  /-- Core (L1) or die (L2 copy). -/
  owner : Nat
  line : Nat
  bytes : List Byte
  /-- The line was poisoned when it was brought in (R259). -/
  bad : Bool
  deriving DecidableEq, Repr

/-- The memory stores of one word that have left their queue and are not yet performed at the home L2 (R91): bytes by
physical address. -/
structure WtStore where
  id : Nat
  warp : Nat
  core : Nat
  cells : Tab Byte
  deriving DecidableEq, Repr

/-- Name of a page: context, buffer index, page number. -/
structure PageKey where
  ctx : Nat
  buf : Nat
  page : Nat
  deriving DecidableEq, Repr

/-- An engine's write that waits (a page of it is not resident, R253; its package cannot be reached, R440; an atomic in the port
form is under way, R100), with the status words that follow it: warp, operation, word. -/
structure HeldWrite where
  id : Nat
  die : Nat
  ctx : Nat
  ref : Dword
  bytes : List Byte
  tells : List (Nat × Option Nat × Word)
  /-- Scope of the release that covers it. -/
  rel : Option Nat := none
  /-- A write of the fault unit's own, which no buffer right limits (R261). -/
  priv : Bool := false
  /-- A write of a base die, which sends no translation request (R10). -/
  base : Bool := false
  /-- The arrival that follows the write (R418): group, offset, bytes, poisoned data. -/
  arrival : Option (Nat × Nat × Nat × Bool) := none
  deriving DecidableEq, Repr

/-- Per-core units. -/
structure CoreU where
  wt : List WtStore := []
  /-- Page entries and buffer entries of the core TLB, newest last (R250). -/
  tlb : List PageKey := []
  cmds : List Cmd := []
  /-- The clk, plus 1, at which the core last started a clause, issued a lane word and issued a uniform word; 0 for never
  (R243). -/
  startClk : Nat := 0
  laneClk : Nat := 0
  uniClk : Nat := 0
  deriving DecidableEq, Repr

/-- An entry of the matrix reservation table (R297). -/
structure MEntry where
  id : Nat
  group : Nat
  eop : Nat
  slot : Nat
  /-- Earlier entries whose completion this one awaits. -/
  deps : List Nat
  /-- Earlier entries naming the same tile. -/
  tileDeps : List Nat
  /-- Block bytes or operand words read at posting. -/
  block : List Byte
  regs : List Word
  z : Bool
  checked : Bool := false
  /-- Rows granted so far and rows landed so far. -/
  granted : Nat := 0
  landed : Nat := 0
  /-- Results of granted rows on their way to the tile: per column, sum and tag. -/
  rows : List (List (Int × BitVec 2)) := []
  waited : Nat := 0
  promoted : Bool := false
  prio : Nat := 0
  deriving DecidableEq, Repr

/-- A notice slot of a quad (R277). -/
structure Notice where
  tag : Nat
  quad : Nat
  cmd : Nat
  src : Nat
  len : Nat
  matched : Bool := false
  deriving DecidableEq, Repr

/-- Per-quad units. -/
structure QuadU where
  lantern : Memory := []
  lpoison : List Nat := []
  /-- Stationary macros, and macros under an issue check (R309). -/
  marks : List Nat := []
  issueMarks : List Nat := []
  acc : Tab (BitVec 96 × BitVec 2) := []
  ovf : List Nat := []
  entries : List MEntry := []
  tcmds : List TCmd := []
  notices : List Notice := []
  walkTlb : List (Nat × Nat × Nat) := []
  /-- What aligned 8 bytes of the Lantern store held before each of their writes, by address / 8, newest first (R106). -/
  old : Tab (List (List Byte)) := []
  deriving DecidableEq, Repr

/-- A buffer table entry (R244). -/
structure BufEntry where
  /-- Device address of the page directory. -/
  dir : Dword := 0
  size : Nat
  ctx : Nat
  rights : BitVec 8
  pgsz : Nat
  ilv : Nat
  bflags : BitVec 8
  peer : Nat
  deriving DecidableEq, Repr

/-- State of a page (R247); state 4: a host-window page that the host refuses (R434). -/
structure PageEntry where
  state : Nat
  mig : Bool
  stack : Nat
  frame : Nat
  accDies : BitVec 4 := 0
  dirty : Bool := false
  accPkgs : Dword := 0
  /-- Accessed bits seen at the last two aging visits, newest first (R255, R256). -/
  visits : List (BitVec 4) := []
  /-- Bank placement of a page of a bank-chunked buffer, fixed at its first placement (R249): stack, F mod (8 MiB / P). -/
  place : Option (Nat × Nat) := none
  /-- Clk of the last aging visit (R255). -/
  seen : Nat := 0
  /-- Its frame is withdrawn from the allocator when the page leaves it (R263). -/
  retire : Bool := false
  deriving DecidableEq, Repr

/-- A page-entry change in progress (R251), or a shoot-down of a buffer entry (R252): units still to acknowledge, dies as 0 to 3
and package n as 4 + n, those invalidated, and the frames of the translations that it ends: buffer entry, stack, frame. -/
structure Change where
  id : Nat
  key : PageKey
  await : List Nat
  invalidated : List Nat
  old : List (BufEntry × Nat × Nat) := []
  deriving DecidableEq, Repr

/-- A migration in progress (R257). -/
structure Migration where
  key : PageKey
  oldStack : Nat
  oldFrame : Nat
  newStack : Nat
  newFrame : Nat
  /-- Lines of the page copied or written in both frames. -/
  bitmap : List Nat
  switched : Bool
  deriving DecidableEq, Repr

/-- An eviction in progress (R255). -/
structure Eviction where
  key : PageKey
  handle : Nat
  toZone : Bool
  stack : Nat
  frame : Nat
  deriving DecidableEq, Repr

/-- A parked request (R253): request id and page. -/
structure ParkReq where
  req : Nat
  key : PageKey
  deriving DecidableEq, Repr

/-- An access of another package that waits for a page here (R437): the package, and the access as `remoteAccess` names it. -/
structure RemoteReq where
  pkg : Nat
  ctx : Nat
  ref : Dword
  kind : Nat
  bytes : List Byte
  deriving DecidableEq, Repr

/-- A row copy in progress (R260). -/
structure RowCopy where
  stack : Nat
  bank : Nat
  row : Nat
  deriving DecidableEq, Repr

/-- A message that stands for an event posted to the host. -/
structure HostEvent where
  /-- What is reported. -/
  kind : String
  vals : List Nat
  deriving DecidableEq, Repr

/-- An error record (R261). -/
structure ErrRec where
  kind : Nat
  stack : Nat
  pch : Nat
  bank : Nat
  row : Nat
  loc : Nat
  bytes : Nat
  clk : Nat
  deriving DecidableEq, Repr

/-- A die's fault-unit registers (R264). -/
structure FaultRegs where
  zonesize : Nat := 65536
  freelow : Nat := 4096
  ageper : Nat := 10000
  locmig : Nat := 0
  scrubper : Nat := 86400
  cethresh : Nat := 16
  errbase : Nat := 0
  errsize : Nat := 0
  deriving DecidableEq, Repr

/-- Pool minimums and caps of one unit kind: request, reply, control (R241). -/
structure Pool where
  entries : Nat
  mins : List Nat
  caps : List Nat
  /-- Entries that each class holds. -/
  held : List Nat := [0, 0, 0]
  deriving DecidableEq, Repr

/-! ## The Orrery -/

/-- A worker call of an orbit (R359–R363): named in the order of becoming ready. -/
structure OCall where
  id : Nat
  /-- 1 RHS, 2 SOLVE, 3 EVENT, 4 SCAN, 5 FIX. -/
  kind : Nat
  /-- The sixteen descriptor words, the token's left 0 (R361). -/
  desc : List Word
  /-- SCAN, FIX: chunk. -/
  chunk : Nat := 0
  /-- Once handed: token and holding group. -/
  token : Option Word := none
  holder : Option Nat := none
  /-- What each 8 bytes of its outputs held as it was handed (R362). -/
  before : List (List Byte) := []
  deriving DecidableEq, Repr

/-- A waiter of OTAKE (R359, R360), named in order of entry. -/
structure OWaiter where
  id : Nat
  gang : Nat
  warp : Nat
  group : Nat
  ctx : Nat
  die : Nat
  tag : Nat
  d : Nat
  deriving DecidableEq, Repr

/-- One orbit (R326–R347): its records as read, and the step machine. Times, steps and norms are FP64 codes. -/
structure Orbit where
  num : Nat
  ctx : Nat
  ref : Dword
  /-- Orbit record (256 bytes) and tableau record (4 KiB) as last read. -/
  record : List Byte
  tableau : List Byte
  /-- Binding group (R348). -/
  bound : Option Nat := none
  /-- Page list of a memory orbit: buffer index, page, pte; and the entries of the buffers listed, as OBIND found them. -/
  plist : List (Nat × Nat × Dword) := []
  pbufs : List (Nat × BufEntry) := []
  /-- Code of the orbit status word (R328). -/
  status : Nat := 0
  mstate : Nat := 0
  evhit : Nat := 0
  naccept : Nat := 0
  nreject : Nat := 0
  nrhs : Nat := 0
  nsolve : Nat := 0
  nevent : Nat := 0
  nnfail : Nat := 0
  t : Nat := 0
  h : Nat := 0
  tprev : Nat := 0
  errprev : Nat := 0x3FF0000000000000
  te : Nat := 0
  /-- Stage i, nested updates m, norms ρ and ρprev, error norm. -/
  stage : Nat := 0
  m : Nat := 0
  rho : Nat := 0
  rhoprev : Nat := 0
  err : Nat := 0
  /-- The attempt's h and end time (R332), and the accepted h held aside (R338). -/
  hatt : Nat := 0
  tend : Nat := 0
  hacc : Nat := 0
  failed : Bool := false
  /-- K0 is valid (R339), and a copy of the last stage into it is due. -/
  k0 : Bool := false
  fsal : Bool := false
  /-- A byte of y has been written since the machine became idle (R339). -/
  ywrote : Bool := false
  gprevOk : Bool := false
  /-- The dense window is open, and the committed step's h (R340). -/
  window : Bool := false
  hw : Nat := 0
  /-- Event check and location: phase, passing events, those located, and the Illinois iteration (R341–R343). -/
  evPhase : Nat := 0
  passing : List Nat := []
  located : List (Nat × Nat) := []
  ta : Nat := 0
  ga : Nat := 0
  tb : Nat := 0
  gb : Nat := 0
  tc : Nat := 0
  it : Nat := 0
  oneStep : Bool := false
  /-- Status operations of the command that started the run and of the stops that wait: warp and operation. -/
  runner : List (Nat × Option Nat) := []
  stops : List (Nat × Option Nat) := []
  stopping : Bool := false
  freeing : Bool := false
  calls : List OCall := []
  /-- Calls handed since OLOAD. -/
  seq : Nat := 0
  /-- OSTAT's fail value. -/
  lastFail : Word := 0
  /-- A listed page changed: no combination until OBIND (R368). -/
  stalled : Bool := false
  /-- LINREC: scans asked for, scans answered, chunks carried, fixes answered. -/
  lrAsked : Nat := 0
  lrScanned : List Nat := []
  lrCarried : Nat := 0
  lrFixed : List Nat := []
  deriving DecidableEq, Repr

/-! ## Vesper -/

/-- A waiter at a queue or vigil (R377). -/
structure VWaiter where
  gang : Nat
  warp : Nat
  group : Nat
  d : Nat
  slot : Nat
  deriving DecidableEq, Repr

/-- A Vesper object (R376–R388). -/
structure VObj where
  num : Nat
  gen : Nat
  /-- 0 vigil, 1 queue, 2 bin. -/
  kind : Nat
  ctx : Nat
  /-- Vigil: size k, root pool P, watched, abandoned count, scope. -/
  k : Nat := 0
  pool : Nat := 0
  watched : Bool := false
  aband : Nat := 0
  scope : Nat := 3
  recs : List Rec := []
  waiters : List VWaiter := []
  spillcap : Nat := 0
  /-- Bin: N, launch block, vigil, timer, clk at which a record entered the empty bin. -/
  count : Nat := 0
  launch : Dword := 0
  vigil : Nat := 0
  timer : Nat := 0
  since : Option Nat := none
  /-- Bin: launch block and kernel descriptor as VNEW read them. -/
  block : List Byte := []
  kdesc : List Byte := []
  /-- Vigil: a recall of its purses is on its way (R381, R383). -/
  recalled : Bool := false
  deriving DecidableEq, Repr

/-- A purse (R381): lumens of a vigil kept at a die, and lumens drawn that it has asked for. -/
structure Purse where
  vigil : Nat
  balance : Nat
  deriving DecidableEq, Repr

/-- A message of Vesper in flight to a die (R379). -/
inductive VMsg where
  /-- Return to the root: vigil, amount, abandoned (R382). -/
  | ret (vigil : Nat) (amount : Nat) (aband : Bool)
  /-- Draw on its way to the purse of a die: vigil, amount (R381). -/
  | draw (vigil : Nat) (amount : Nat)
  /-- A purse on a die asks the root of a vigil of another package for a draw of at least an amount (R381, R384). -/
  | ask (vigil : Nat) (amount : Nat) (die : Nat)
  /-- A VSEND record for a target handle, its context, warp and status operation (R391). -/
  | vsend (target : Nat) (ctx : Nat) (r : Rec) (warp : Nat) (sop : Option Nat) (c : Nat)
  deriving DecidableEq, Repr

/-- A message with its name, the die it comes from and the die it travels to. -/
structure VFlight where
  id : Nat
  src : Nat
  die : Nat
  msg : VMsg
  deriving DecidableEq, Repr

/-- Per-die units. -/
structure DieU where
  clk : Nat := 0
  /-- Compute clock in MHz. -/
  mhz : Nat := 1300
  /-- The first of the admission order, a launch or a saved group, and the clk since which it has waited (R236). -/
  waiting : Option (Nat × Nat) := none
  /-- Launches and saved groups that have waited as long as R236 lets the first of the order wait. -/
  starved : List Nat := []
  /-- Remainders last reported by the dies: launch, die, unissued groups (R237). -/
  reports : List (Nat × Nat × Nat) := []
  /-- Victims that granted nothing (R237). -/
  noAsk : List Nat := []
  /-- Steal reply on its way here: launch and segments. -/
  stolen : List (Nat × List Seg) := []
  /-- Router counters of the 64 tiles by class (R26), the clk from which the next sample is due, congested regions (R242). -/
  congReq : List Nat := []
  congRep : List Nat := []
  congCtl : List Nat := []
  congDue : Nat := 256
  congested : List Nat := []
  congThresh : Nat := 48
  pools : List Pool := [⟨96, [16, 32, 8], [64, 80, 16], [0, 0, 0]⟩, ⟨256, [64, 96, 16], [192, 224, 32], [0, 0, 0]⟩,
    ⟨512, [128, 192, 32], [384, 448, 64], [0, 0, 0]⟩, ⟨64, [16, 16, 16], [40, 40, 32], [0, 0, 0]⟩]
  regs : FaultRegs := {}
  parking : List ParkReq := []
  missq : List ParkReq := []
  /-- Page entries and buffer entries (context, index) of the die's translation cache, newest last (R250). -/
  xlat : List PageKey := []
  xbuf : List (Nat × Nat) := []
  errHead : Nat := 0
  /-- Meridian ports of the die, 0 to 31, that have failed (R440). -/
  failedPorts : List Nat := []
  /-- Clk at which the next aging visit is due (R255). -/
  ageDue : Nat := 10000 * 1300
  orbits : List Orbit := []
  owaiters : List OWaiter := []
  /-- Commands taken by the Orrery and waiting there: paused orbits, commits, absent pages. -/
  ocmds : List Cmd := []
  vobjs : List VObj := []
  /-- Generation last given to each object number (R376). -/
  vgens : Tab Nat := []
  purses : List Purse := []
  /-- Commands taken by the Vesper unit and waiting there (R381). -/
  vcmds : List Cmd := []
  /-- LAUNCH commands taken by the distributor and waiting there. -/
  dcmds : List Cmd := []
  deriving DecidableEq, Repr

/-! ## Near-memory -/

/-- A kick (R416): block reference, context, group. -/
structure Kick where
  ref : Dword
  ctx : Nat
  group : Nat
  /-- Its context is destroyed: it completes with 0x04 (R426). -/
  gone : Bool := false
  deriving DecidableEq, Repr

/-- A near-bank pass in progress (R407, R420). -/
structure Pass where
  chunk : Nat
  pc : Nat := 0
  z : Tab (BitVec 2048) := []
  t0 : BitVec 2048 := 0
  t1 : BitVec 2048 := 0
  key : BitVec 96 := 0
  mask : BitVec 96 := 0
  valid : BitVec 2048 := 0
  q : BitVec 2048 := 0
  /-- Loop stack, innermost first: count, limit, return point. -/
  loops : List (Nat × Nat × Nat) := []
  /-- The pass has ended, normally or at a slice beyond 95 (R412). -/
  ended : Bool := false
  bad : Bool := false
  deriving DecidableEq, Repr

/-- A running kernel of a Lamplighter (R417–R422). -/
structure NKernel where
  kick : Kick
  block : List Byte
  plist : List (Nat × Nat × Dword)
  /-- Entries of the buffers listed, as the start or a refresh found them (R252). -/
  pbufs : List (Nat × BufEntry) := []
  passes : List Pass := []
  /-- Chunks whose pass has ended. -/
  chunks : List Nat := []
  poisoned : Nat := 0
  code : Nat := 0
  stopping : Bool := false
  stale : Bool := false
  /-- SUM32 chunk sums. -/
  sums : Tab Word := []
  deriving DecidableEq, Repr

/-- An installed near-bank kernel (R412). -/
structure NProg where
  ctx : Nat
  kid : Nat
  words : List Word
  deriving DecidableEq, Repr

/-- Per-stack units. -/
structure StackU where
  /-- Kicks in flight to the Lamplighter, in order. -/
  arriving : List Kick := []
  queue : List Kick := []
  running : Option NKernel := none
  table : List NProg := []
  /-- Spares used: rows per bank, remap entries, granules (R260). -/
  spareRows : Tab Nat := []
  remaps : Nat := 0
  granules : Nat := 0
  /-- Granules of 64 KiB that spare granules serve (R260). -/
  moved : List Nat := []
  /-- Blocks of the compressed zone withdrawn (R263). -/
  zoneLost : List Nat := []
  /-- Clk of the die at which the scrubber next ends its round (R259). -/
  scrubDue : Nat := 86400 * 1000000 * 1300
  /-- Correctable errors counted per row in the interval: bank · 65,536 + row. -/
  cerr : Tab Nat := []
  /-- Rows that have failed and are not yet replaced: bank, row (R260). -/
  failed : List (Nat × Nat) := []
  copies : List RowCopy := []
  deriving DecidableEq, Repr

/-! ## Host and package -/

/-- A host launch queue (R235). -/
structure HQueue where
  ctx : Nat
  base : Dword
  size : Nat
  home : Nat
  head : Nat := 0
  tail : Nat := 0
  deriving DecidableEq, Repr

/-- Boot and identity state (R443, R444). -/
structure BootU where
  booted : Bool := false
  recovery : Bool := false
  minVersion : Nat := 0
  version : Nat := 0
  /-- SHA-256 digest of the firmware image that runs, a free value (log 16). -/
  digest : BitVec 256 := 0
  fuseLeaf : Nat := 0
  sessLeaf : Nat := 0
  session : Bool := false
  deriving DecidableEq, Repr

/-- A sample of a die's monitors, with the die's clk (R445): temperatures, supply voltages, ring oscillators. -/
structure Sample where
  clk : Nat := 0
  temps : List Nat := List.replicate Config.monitorTemps 0
  volts : List Nat := List.replicate Config.supplyRails 0
  rings : List Nat := List.replicate Config.ringMonitors 0
  deriving DecidableEq, Repr

/-- What an attestation report holds (R444). -/
structure Report where
  nonce : BitVec 256
  digest : BitVec 256
  negotiated : BitVec 128
  minVersion : Nat
  fuseLeaf : Nat
  sessLeaf : Nat
  deriving DecidableEq, Repr

/-- Host, fabric and management. -/
structure PkgU where
  pkgid : Nat := 0
  /-- The other packages of the pod (R436). -/
  pod : List Nat := []
  offered : BitVec 128 := 0x7FF
  negotiated : BitVec 128 := 0
  boot : BootU := {}
  powerLimit : Nat := 3600
  stopped : Bool := false
  /-- Clock of the base dies in MHz (R1, R446). -/
  baseMhz : Nat := 1000
  /-- Latest sample of each die's monitors (R445). -/
  monitors : Tab Sample := (List.range 4).map fun d => (d, {})
  unreachable : List Nat := []
  /-- A checkpoint has begun, and its image is not yet taken (R441). -/
  checkpointing : Bool := false
  /-- Groups that the last checkpoint preempted. -/
  checkpointed : List Nat := []
  /-- Attestation reports signed so far. -/
  reports : List Report := []
  queues : Tab HQueue := []
  /-- Function to which each context is bound: 0 the physical one, 1 to 63 virtual (R433). -/
  ctxFn : Tab Nat := []
  /-- Buffers that BAR2 windows map: context, buffer, and offset in the window of the context's function (R433). -/
  bar2 : List (Nat × Nat × Nat) := []
  /-- Bus pages asked for through the Page Request Interface and not yet answered (R434). -/
  pageReqs : List PageKey := []
  events : List HostEvent := []
  errors : List ErrRec := []
  deriving DecidableEq, Repr

/-- What a checkpoint writes to the safe tier: device memory with its poison, the tables, the contexts, and what the dies' Orreries,
Vesper units and distributors and the stacks' Lamplighters hold (R441; log 39). -/
structure Image where
  negotiated : BitVec 128
  mem : Memory
  poison : List Nat
  bufs : List ((Nat × Nat) × BufEntry)
  pages : List (PageKey × PageEntry)
  tables : List (BufEntry × PageKey × PageEntry)
  kickidx : Tab Nat
  code : Tab Nat
  launches : List Launch
  groups : List Group
  warps : List Warp
  gangs : List Gang
  bars : List NetBar
  dieU : List DieU
  stackU : Tab StackU
  vflights : List VFlight
  nextId : Nat
  deriving DecidableEq, Repr

/-- Whose move the next step is (log 2). -/
inductive Turn where
  /-- The gang of this name issues its next word, or sees its wait end. -/
  | issue (gang : Nat)
  /-- The near-bank pass over this chunk of the stack's kernel runs its next word. -/
  | nbu (stack : Nat) (chunk : Nat)
  /-- An event of an engine. -/
  | event (e : Instr)
  /-- An invalidation of a line reaches a die (R94). -/
  | inval (die : Nat) (line : Nat)
  /-- A die's clk advances. -/
  | tick (die : Nat) (n : Nat)
  deriving DecidableEq, Repr

/-- The state of one D9 package. -/
structure State where
  /-- The agents that move next, in order; empty: the default order of `defaultTurn`. -/
  turns : List Turn := []
  /-- Name of the gang whose word issues. -/
  cur : Nat := 0
  /-- Stack and chunk of the near-bank pass whose word runs. -/
  curPass : Nat × Nat := (0, 0)
  /-- Draws taken from the free values so far. -/
  free : Nat := 0
  /-- Next unused name. -/
  nextId : Nat := 1
  gangs : List Gang := []
  warps : List Warp := []
  groups : List Group := []
  launches : List Launch := []
  bars : List NetBar := []
  cores : Tab CoreU := []
  l1 : List CLine := []
  copies : List CLine := []
  /-- Invalidations of read copies on their way: die, line (R94). -/
  invals : List (Nat × Nat) := []
  /-- What aligned 8 bytes of memory held before each of their writes, by physical number / 8, newest first (R106). -/
  old : Tab (List (List Byte)) := []
  /-- Lines written at their home slice and not yet written back: what each held before each of those writes, newest first; the
  last is what the bank holds (R423). -/
  bank : Tab (List (List Byte)) := []
  /-- Outputs of calls that were answered without an acquire that reaches the Orrery: of aligned 8 bytes what they held before the
  call, and what the worker stored, of which each of the Orrery's reads finds one (R362). -/
  loose : Tab (List Byte × List Byte) := []
  /-- Absent pages whose service a walk-ahead or a prefetch has asked for (R268, R273). -/
  wanted : List PageKey := []
  /-- Engines' writes held on absent pages, in order (R253). -/
  heldWrites : List HeldWrite := []
  /-- The operation in the port form of R100, with the bytes that it has read. -/
  portOp : Option (Nat × Tab Byte) := none
  quads : Tab QuadU := []
  dieU : List DieU := [{}, {}, {}, {}]
  stackU : Tab StackU := []
  /-- Physical bytes: HBM of every package, host and peer memory, zone contents (log 6). -/
  mem : Memory := []
  /-- Poisoned lines and lines with an uncorrectable error not yet found (R259). -/
  poison : List Nat := []
  latent : List Nat := []
  /-- Lines with a fault in the cells: it shows again after a write (R259). -/
  stuck : List Nat := []
  bufs : List ((Nat × Nat) × BufEntry) := []
  pages : List (PageKey × PageEntry) := []
  /-- Page entries of page directories that no entry names at present, by the entry that last named them (R244, R247). -/
  tables : List (BufEntry × PageKey × PageEntry) := []
  /-- Accesses of other packages that wait for a page, in order of arrival (R437). -/
  remote : List RemoteReq := []
  kickidx : Tab Nat := []
  /-- Code buffer of each context (R56). -/
  code : Tab Nat := []
  changes : List Change := []
  migrations : List Migration := []
  evictions : List Eviction := []
  /-- Frames withdrawn from the allocator (R263): buffer entry, stack, frame. -/
  withdrawn : List (BufEntry × Nat × Nat) := []
  vflights : List VFlight := []
  /-- The image of the last checkpoint in the fabric-attached safe tier (R441). -/
  safeTier : Option Image := none
  pkg : PkgU := {}
  deriving DecidableEq, Repr

/-- The package right after reset: no launch, no group, no buffer; the privileged registers at the values of R241,
R242, R264 and R446; clocks at 0 and the firmware not yet verified (R443; log 10 names every value the manual does not
state). -/
def State.reset : State := {}

end Sys2Proof.Machine
end

