-- ==== Sys2Proof/Machine/Ops.lean ====
section
/-! DEFINITION. Named operations on the state: finding and changing an object by its name, lanes and masks, registers
and predicates (02_encoding.md R28–R31, 06_core_threads.md R112–R125). -/

namespace Sys2Proof.Machine

/-- The first element with a name. -/
def lookupBy {α : Type} (key : α → Nat) : List α → Nat → Option α
  | [], _ => none
  | x :: t, n => if key x = n then some x else lookupBy key t n

/-- Changes the elements with a name. -/
def updateBy {α : Type} (key : α → Nat) (n : Nat) (f : α → α) (l : List α) : List α :=
  l.map fun x => if key x = n then f x else x

/-- Removes the elements with a name. -/
def removeBy {α : Type} (key : α → Nat) (n : Nat) (l : List α) : List α := l.filter fun x => key x != n

def State.gang (s : State) (n : Nat) : Option Gang := lookupBy Gang.uid s.gangs n
def State.warp (s : State) (n : Nat) : Option Warp := lookupBy Warp.id s.warps n
def State.group (s : State) (n : Nat) : Option Group := lookupBy Group.id s.groups n
def State.launch (s : State) (n : Nat) : Option Launch := lookupBy Launch.id s.launches n
def State.core (s : State) (n : Nat) : CoreU := tabGet {} s.cores n
def State.quad (s : State) (n : Nat) : QuadU := tabGet {} s.quads n
def State.die (s : State) (n : Nat) : DieU := (s.dieU[n]?).getD {}
def State.stack (s : State) (n : Nat) : StackU := tabGet {} s.stackU n

def State.updGang (s : State) (n : Nat) (f : Gang → Gang) : State := { s with gangs := updateBy Gang.uid n f s.gangs }
def State.delGang (s : State) (n : Nat) : State := { s with gangs := removeBy Gang.uid n s.gangs }
def State.updWarp (s : State) (n : Nat) (f : Warp → Warp) : State := { s with warps := updateBy Warp.id n f s.warps }
def State.updGroup (s : State) (n : Nat) (f : Group → Group) : State :=
  { s with groups := updateBy Group.id n f s.groups }
def State.updLaunch (s : State) (n : Nat) (f : Launch → Launch) : State :=
  { s with launches := updateBy Launch.id n f s.launches }
def State.updCore (s : State) (n : Nat) (f : CoreU → CoreU) : State :=
  { s with cores := tabSet {} s.cores n (f (s.core n)) }
def State.updQuad (s : State) (n : Nat) (f : QuadU → QuadU) : State :=
  { s with quads := tabSet {} s.quads n (f (s.quad n)) }
def State.updDie (s : State) (n : Nat) (f : DieU → DieU) : State := { s with dieU := listModify f s.dieU n }
def State.updStack (s : State) (n : Nat) (f : StackU → StackU) : State :=
  { s with stackU := tabSet {} s.stackU n (f (s.stack n)) }

/-- Takes the next unused name (log 2). -/
def State.fresh (s : State) : Nat × State := (s.nextId, { s with nextId := s.nextId + 1 })

/-- Counts one draw from the free values (log 1). -/
def State.draw (s : State) : State := { s with free := s.free + 1 }

/-- A free choice of this step, at a key. -/
def State.pick (s : State) (key : Nat) : Bool := Config.pick s.free key

/-- Package-wide core number of a group: die·512 + core. -/
def Group.coreId (g : Group) : Nat := g.die * Config.coresPerDie + g.core

/-- Registers per lane of a group: the prologue allotment until ACQUIRE, then the full one (R128). -/
def Group.allot (g : Group) : Nat := if g.acquired then g.desc.full else g.desc.prolog

/-! ## Masks -/

def inMask (m : Dword) (l : Nat) : Bool := m.getLsbD l

/-- The lanes of a mask, ascending. -/
def maskLanes (m : Dword) : List Nat := (List.range 64).filter (inMask m)

/-- The mask of a list of lanes. -/
def maskOf (l : List Nat) : Dword := l.foldl (fun m i => m ||| (1#64 <<< i)) 0#64

/-- Lowest lane of a mask (0 for none). -/
def lowLane (m : Dword) : Nat := (maskLanes m).headD 0

def maskSub (a b : Dword) : Bool := a &&& ~~~b == 0#64

/-- Mask of the lanes of a list that meet a condition, from lane l on. -/
def maskFrom (f : Nat → Lane → Bool) : Nat → List Lane → Dword
  | _, [] => 0
  | l, ln :: t => (if f l ln then 1#64 <<< l else 0#64) ||| maskFrom f (l + 1) t

/-- Lanes of a warp that meet a condition. -/
def Warp.lanesWhere (w : Warp) (f : Nat → Lane → Bool) : Dword := maskFrom f 0 w.lanes

/-- Lanes not exited. -/
def Warp.live (w : Warp) : Dword := w.lanesWhere fun _ ln => ln.stat != .exited

/-- Changes the lanes of a mask. -/
def Warp.mapLanes (w : Warp) (m : Dword) (f : Nat → Lane → Lane) : Warp :=
  { w with lanes := mapFrom (fun l ln => if inMask m l then f l ln else ln) 0 w.lanes }

def Warp.lane (w : Warp) (l : Nat) : Lane := (w.lanes[l]?).getD { stat := .exited }

/-! ## Predicates and guards (R30, R31) -/

/-- Value of a lane predicate: p0 reads as true. -/
def predBit (p : BitVec 8) (n : Nat) : Bool := n == 0 || p.getLsbD n

/-- Writes a lane predicate: a write to p0 is discarded. -/
def setPred (p : BitVec 8) (n : Nat) (b : Bool) : BitVec 8 :=
  if n = 0 then p else (p &&& ~~~(1#8 <<< n)) ||| (if b then 1#8 <<< n else 0#8)

def kBit (k : BitVec 4) (n : Nat) : Bool := n == 0 || k.getLsbD n

def setK (k : BitVec 4) (n : Nat) (b : Bool) : BitVec 4 :=
  if n = 0 then k else (k &&& ~~~(1#4 <<< n)) ||| (if b then 1#4 <<< n else 0#4)

/-- A lane guard holds: predicate in the upper three bits, inverted by the lowest. -/
def guardLane (g : BitVec 4) (ln : Lane) : Bool := predBit ln.preds (g.extractLsb' 1 3).toNat != g.getLsbD 0

/-- A uniform guard holds. -/
def guardUni (k : BitVec 3) (w : Warp) : Bool := kBit w.k (k.extractLsb' 1 2).toNat != k.getLsbD 0

/-! ## Registers (R28, R125) -/

/-- Register code c read by lane l: v(c), or s(c − 96) broadcast. -/
def readCode (w : Warp) (l c : Nat) : Word :=
  if c < 96 then tabGet 0 (w.lane l).v c else tabGet 0 w.s (c - 96)

def readPair (w : Warp) (l c : Nat) : Dword := joinWords (readCode w l (c + 1)) (readCode w l c)

def Lane.put (ln : Lane) (c : Nat) (x : Word) : Lane := { ln with v := tabSet 0 ln.v c x }

def Lane.putPair (ln : Lane) (c : Nat) (x : Dword) : Lane := (ln.put c (loWord x)).put (c + 1) (hiWord x)

def Warp.getS (w : Warp) (n : Nat) : Word := tabGet 0 w.s n

def Warp.getSPair (w : Warp) (n : Nat) : Dword := joinWords (w.getS (n + 1)) (w.getS n)

def Warp.putS (w : Warp) (n : Nat) (x : Word) : Warp := { w with s := tabSet 0 w.s n x }

def Warp.putSPair (w : Warp) (n : Nat) (x : Dword) : Warp := (w.putS n (loWord x)).putS (n + 1) (hiWord x)

/-- One write of a tracked operation: a write to an exited lane is discarded (R125). -/
def Warp.landWrite (w : Warp) (r : RegWrite) : Warp :=
  if r.lane = uniLane then w.putS r.reg r.val
  else { w with lanes := listModify (fun ln => if ln.stat = .exited then ln else ln.put r.reg r.val) w.lanes r.lane }

/-- The register writes of an operation whose result is known. -/
def TOp.writes (o : TOp) : List RegWrite :=
  match o.kind with
  | .done ws => ws.filter fun r => !o.lost.contains (r.lane, r.reg)
  | _ => []

/-- The registers of a warp as a read sees them (R16): a result that is performed and not yet written is seen or not seen,
as sees decides. R16 leaves each read one of two values; the model makes one choice for an operation and a word, the same in
every lane and in both halves of a pair (log 18). -/
def Warp.view (sees : Nat → Bool) (w : Warp) : Warp :=
  w.ops.foldl (fun v o => if sees o.id then o.writes.foldl Warp.landWrite v else v) w

/-- The registers as a word of this step reads them: which results it sees is free. -/
def readView (s : State) (w : Warp) : Warp := w.view s.pick

/-- What a word of the issuing gang sees: the gang, its warp and group, and the registers as it reads them. -/
structure Ctx where
  g : Gang
  w : Warp
  grp : Group
  /-- Registers as read (R16). -/
  rv : Warp
  deriving DecidableEq, Repr

/-- The issuing gang with its warp and group. -/
def State.ctx (s : State) : Option Ctx :=
  match s.gang s.cur with
  | none => none
  | some g =>
    match s.warp g.warp with
    | none => none
    | some w =>
      match s.group w.group with
      | none => none
      | some grp => some ⟨g, w, grp, readView s w⟩

/-- Address of the word the gang issues next. -/
def Gang.pc (g : Gang) : Word := g.hdr + BitVec.ofNat 32 (4 * g.index)

/-- The word the gang issues next. -/
def Gang.word (g : Gang) : Word := g.rest.headD 0

/-- The gang issues inside a trap or debug handler. -/
def Warp.inHandler (w : Warp) (lanes : Dword) : Bool :=
  match w.handler with
  | none => false
  | some h => maskSub lanes h.lanes

end Sys2Proof.Machine
end

