-- ==== Sys2Proof/Machine/Flags.lean ====
section
/-! DEFINITION. Completion flags (01_engines.md R14–R15), compare conditions and the combining of predicates
(02_encoding.md R38, R42; 07_core_integer.md R148; 08_core_float.md R166). -/

namespace Sys2Proof.Machine

/-! ## What a word of a clause counts (R15) -/

/-- LX words that write a register and are tracked: arithmetic, loads, gather-reduce, atomics (R157, R175, R180, R181). -/
def lxTracksA (x : Nat) : Bool :=
  (decide (0x84 ≤ x) && decide (x ≤ 0x8D)) || (decide (0xC0 ≤ x) && decide (x ≤ 0xC3)) ||
  (decide (0xC8 ≤ x) && decide (x ≤ 0xCB)) || x == 0xCE || x == 0xCF || (decide (0xD8 ≤ x) && decide (x ≤ 0xDD)) ||
  (decide (0xE0 ≤ x) && decide (x ≤ 0xED)) || decide (0x200 ≤ x)

/-- LX words that write memory and are tracked. -/
def lxTracksB (x : Nat) : Bool :=
  x == 0xC4 || x == 0xC5 || x == 0xCC || x == 0xCD || x == 0xD0 || x == 0xD1 ||
  (decide (0xE0 ≤ x) && decide (x ≤ 0xED)) || decide (0x200 ≤ x)

/-- UR words counted on seta: loads, engine special registers, MQUERY, OSTAT, VSTAT (R15, R193, R194, R315, R358,
R392). -/
def urTracksA (w : Word) : Bool :=
  let o := (fld w 23 6).toNat
  o == 19 || o == 20 || o == 23 || o == 48 || o == 51 || o == 54 ||
  (o == 25 && decide (8 ≤ (fld w 5 5).toNat))

/-- UE words that name a status destination (R234, R269, R349, R389). -/
def ueStatus (w : Word) : Bool :=
  let o := (fld w 24 5).toNat
  (decide (8 ≤ o) && o != 12 && o != 15 && o != 31) && (o == 23 || fld w 10 1 == 0)

/-- The word counts on its clause's seta flag. -/
def tracksA (w : Word) : Bool :=
  if fld w 30 2 = 0 then
    let o := (fld w 25 5).toNat
    o == 24 || o == 25 || o == 26 || o == 30
  else if fld w 28 4 = 4 then lxTracksA (fld w 18 10).toNat
  else if fld w 28 4 = 7 then true
  else if fld w 29 3 = 4 then urTracksA w
  else if fld w 29 3 = 7 then ueStatus w
  else false

/-- The word counts on its clause's setb flag. -/
def tracksB (w : Word) : Bool :=
  if fld w 30 2 = 0 then
    let o := (fld w 25 5).toNat
    o == 27 || o == 28 || o == 29 || o == 31
  else if fld w 28 4 = 4 then lxTracksB (fld w 18 10).toNat
  else if fld w 29 3 = 4 then
    let o := (fld w 23 6).toNat
    o == 21 || o == 22 || o == 24
  else if fld w 29 3 = 7 then true
  else false

/-! ## Flag counts (R14) -/

def Warp.flag (w : Warp) (f : Nat) : Nat := tabGet 0 w.flags f

/-- Raises a flag by n; a name of 12 or more means none. -/
def Warp.raise (w : Warp) (f n : Nat) : Warp :=
  if f < 12 then { w with flags := tabSet 0 w.flags f (w.flag f + n) } else w

def Warp.lower (w : Warp) (f n : Nat) : Warp :=
  if f < 12 then { w with flags := tabSet 0 w.flags f (w.flag f - n) } else w

def Warp.lowerOpt (w : Warp) (f : Option Nat) : Warp :=
  match f with
  | none => w
  | some f => w.lower f 1

def countA (ws : List Word) : Nat := (ws.filter tracksA).length
def countB (ws : List Word) : Nat := (ws.filter tracksB).length

/-- Raises the counts of the words of a clause on its flags. -/
def Warp.raiseFor (w : Warp) (seta setb : Nat) (ws : List Word) : Warp :=
  (w.raise seta (countA ws)).raise setb (countB ws)

/-- Takes back the counts of words that have not issued (log 8). -/
def Warp.lowerFor (w : Warp) (seta setb : Nat) (ws : List Word) : Warp :=
  (w.lower seta (countA ws)).lower setb (countB ws)

/-- No count passes 63 when the words' counts are added (R14). -/
def Warp.flagRoom (w : Warp) (seta setb : Nat) (ws : List Word) : Bool :=
  let w' := w.raiseFor seta setb ws
  (List.range 12).all fun f => decide (w'.flag f ≤ 63)

/-- Every flag of a wait mask reads clear. -/
def Warp.waitClear (w : Warp) (mask : BitVec 12) : Bool :=
  (List.range 12).all fun f => !mask.getLsbD f || w.flag f == 0

/-- The flag a word's register result counts on: none for a name of 12 or more. -/
def Gang.fa (g : Gang) : Option Nat := if g.seta < 12 then some g.seta else none
def Gang.fb (g : Gang) : Option Nat := if g.setb < 12 then some g.setb else none

/-! ## Conditions -/

/-- Integer condition: 0 eq, 1 lt, 2 le, 3 nz (R37, R148). -/
def condI (cond : BitVec 2) (eq lt nz : Bool) : Bool :=
  if cond = 0 then eq else if cond = 1 then lt else if cond = 2 then eq || lt else nz

def condI32 (cond : BitVec 2) (a b : Word) : Bool := condI cond (a == b) (a.slt b) (a != 0)
def condN32 (cond : BitVec 2) (a b : Word) : Bool := condI cond (a == b) (a.ult b) (a != 0)
def condI64 (cond : BitVec 2) (a b : Dword) : Bool := condI cond (a == b) (a.slt b) (a != 0)

/-- TESTB: bit, clr, any (R148). -/
def condTest (cond : BitVec 2) (a b : Word) : Bool :=
  if cond = 0 then a.getLsbD (b.toNat % 32)
  else if cond = 1 then !a.getLsbD (b.toNat % 32)
  else a &&& b != 0

/-- New values of pd1 and pd2 from the condition c, the old pd1 and whether the operands are unordered under a condition
other than un (R38), where pd1 is not p0. -/
def ctypeVals (ct : BitVec 3) (c unord old1 : Bool) : Bool × Bool :=
  match ct.toNat with
  | 0 => (c, !c)
  | 1 => if unord then (false, false) else (c, !c)
  | 2 => (old1 && c, !(old1 && c))
  | 3 => (old1 || c, !(old1 || c))
  | 4 => (old1 && !c, !(old1 && !c))
  | 5 => (old1 || !c, !(old1 || !c))
  | 6 => (c, old1)
  | _ => (old1 != c, old1 == c)

/-- The compare types whose pd2 is NOT q1 (R38). -/
def usesQ1 (ct : BitVec 3) : Bool := decide (2 ≤ ct.toNat) && ct != 6

/-- Writes both destination predicates; the old values are read first. q1 is the value that pd1 holds after the compare: p0
holds true whatever is written to it, so its complement is 0 (R30, R38). -/
def comparePreds (ct pd1 pd2 : BitVec 3) (c unord : Bool) (p : BitVec 8) : BitVec 8 :=
  let v := ctypeVals ct c unord (predBit p pd1.toNat)
  setPred (setPred p pd1.toNat v.1) pd2.toNat (v.2 && !(usesQ1 ct && pd1 == 0))

end Sys2Proof.Machine
end

