-- ==== Sys2Proof/Machine/Mem.lean ====
section
/-! DEFINITION. The memory port's view of storage: buffer table and pages (14_memory_port.md R244–R248, R447), physical
bytes and what stands in front of them (05_memory_model.md R90–R94; log 6, log 7), poison and error records (R259–R261). -/

namespace Sys2Proof.Machine

/-! ## References, buffers and pages -/

/-- Little-endian field of n bytes at an offset of a record. -/
def recField (r : List Byte) (off n : Nat) : Nat := leNat ((r.drop off).take n)

/-- Buffer index of a reference (R171). -/
def refBuf (r : Dword) : Nat := (r >>> 44).toNat

/-- Offset within the buffer. -/
def refOff (r : Dword) : Nat := r.toNat % 2 ^ 44

/-- Adds a signed byte offset to a reference: the buffer index never changes (R171). -/
def refAdd (r : Dword) (o : Int) : Dword :=
  BitVec.ofNat 64 (refBuf r * 2 ^ 44 + (((refOff r : Int) + o) % (2 ^ 44 : Nat)).toNat)

/-- Bytes of a page by its size code (R244). -/
def pageBytes (pgsz : Nat) : Nat := ([2 ^ 12, 2 ^ 16, 2 ^ 21, 2 ^ 28, 2 ^ 33][pgsz]?).getD (2 ^ 16)

/-- The rules of R245 that make an entry valid. -/
def BufEntry.valid (e : BufEntry) : Bool :=
  e.bflags.getLsbD 0 && e.bflags.extractLsb' 4 4 == 0 && e.rights.extractLsb' 6 2 == 0 &&
  decide (e.pgsz ≤ 4) && decide (e.ilv ≤ 4) && decide (e.size ≤ 2 ^ 44) && e.size % pageBytes e.pgsz == 0 &&
  ((e.pgsz == 0) == e.bflags.getLsbD 3) && (!e.bflags.getLsbD 3 || e.rights.getLsbD 5) &&
  (!e.rights.getLsbD 4 || e.ilv == 4) && (if e.bflags.getLsbD 2 then decide (e.peer < 64) else e.peer == 0)

/-- An entry is valid (R245) under the negotiated feature word: without ATS a host-window buffer is pinned, without Meridian
there is no remote one (R442). -/
def State.entryOk (s : State) (e : BufEntry) : Bool :=
  e.valid && (!e.bflags.getLsbD 3 || e.bflags.getLsbD 1 || s.pkg.negotiated.getLsbD 1) &&
    (!e.bflags.getLsbD 2 || s.pkg.negotiated.getLsbD 3)

/-- The valid entry of a context's buffer table. -/
def State.buf (s : State) (ctx idx : Nat) : Option BufEntry :=
  if idx = 0 then none
  else
    match s.bufs.find? fun e => e.1 == (ctx, idx) with
    | some e => if s.entryOk e.2 then some e.2 else none
    | none => none

/-- An absent page (R247). -/
def PageEntry.absent : PageEntry := { state := 0, mig := false, stack := 0, frame := 0 }

def State.page (s : State) (k : PageKey) : PageEntry :=
  match s.pages.find? fun e => e.1 == k with
  | some e => e.2
  | none => PageEntry.absent

def State.setPage (s : State) (k : PageKey) (p : PageEntry) : State :=
  if s.pages.any fun e => e.1 == k then
    { s with pages := s.pages.map fun e => if e.1 = k then (k, p) else e }
  else { s with pages := s.pages ++ [(k, p)] }

/-- Rights of an access (R172): R load, W store, A atomic, X fetch, N near-bank. -/
inductive Right where
  | r | w | a | x | n
  deriving DecidableEq, Repr

def hasRight (e : BufEntry) : Right → Bool
  | .r => e.rights.getLsbD 0
  | .w => e.rights.getLsbD 1
  | .a => e.rights.getLsbD 2
  | .x => e.rights.getLsbD 3
  | .n => e.rights.getLsbD 0 && e.rights.getLsbD 4 && e.ilv == 4

/-- The reference lies in the context's kick buffer (R416). -/
def State.isKick (s : State) (ctx : Nat) (r : Dword) : Bool :=
  refBuf r != 0 && tabFind s.kickidx ctx == some (refBuf r)

/-- An access touches a host-window page that the host has refused (R434). -/
def State.refusedPage (s : State) (e : BufEntry) (ctx : Nat) (r : Dword) (n : Nat) : Bool :=
  e.bflags.getLsbD 3 && n != 0 &&
    (List.range ((refOff r + n - 1) / 4096 + 1 - refOff r / 4096)).any fun i =>
      (s.page ⟨ctx, refBuf r, refOff r / 4096 + i⟩).state == 4

/-- Which row of R172 an access of n bytes meets: 0 none, 2 bounds, 3 rights. -/
def State.accessRow (s : State) (ctx : Nat) (r : Dword) (n : Nat) (rt : Right) : Nat :=
  match s.buf ctx (refBuf r) with
  | none => 2
  | some e =>
    if e.size < refOff r + n then 2
    else if e.ctx != ctx || !hasRight e rt || s.refusedPage e ctx r n then 3
    else 0

/-- Row of R172 that an engine's access meets: to an engine the kick buffer is an ordinary buffer that it may neither read nor
write (R416). -/
def State.engRow (s : State) (ctx : Nat) (r : Dword) (n : Nat) (rt : Right) : Nat :=
  let row := s.accessRow ctx r n rt
  if row = 0 ∧ s.isKick ctx r = true then 3 else row

def pageKeyOf (e : BufEntry) (ctx : Nat) (r : Dword) : PageKey := ⟨ctx, refBuf r, refOff r / pageBytes e.pgsz⟩

/-! ## Frames and physical addresses (R248, log 6) -/

/-- Stack and stack address of byte x of a class's frame space. -/
def frameAddr (ilv stk x : Nat) : Nat × Nat :=
  match ilv with
  | 0 => (x / 4096 % 12, x / (12 * 4096) * 4096 + x % 4096)
  | 1 => (x / 65536 % 12, x / (12 * 65536) * 65536 + x % 65536)
  | 2 => (3 * (stk / 3) + x / 4096 % 3, x / (3 * 4096) * 4096 + x % 4096)
  | _ => (stk, x)

/-- The class offset that a stack address holds, if the stack belongs to the frame space. -/
def frameInv (ilv stk stack a : Nat) : Option Nat :=
  match ilv with
  | 0 => some (a / 4096 * (12 * 4096) + stack * 4096 + a % 4096)
  | 1 => some (a / 65536 * (12 * 65536) + stack * 65536 + a % 65536)
  | 2 => if stack / 3 = stk / 3 then some (a / 4096 * (3 * 4096) + stack % 3 * 4096 + a % 4096) else none
  | _ => if stack = stk then some a else none

/-- First physical number of host and peer memory, and of evicted pages (log 6). -/
def hostBase : Nat := 2 ^ 60
def zoneBase : Nat := 2 ^ 70
def tierBase : Nat := 2 ^ 80

/-- Physical number of a stack address of a package. -/
def physOf (pkg stack a : Nat) : Nat := (pkg * Config.hbmStacks + stack) * Config.stackBytes + a

/-- Stack number within its package, and stack address, of a physical number below the host's. -/
def physStack (p : Nat) : Nat := p / Config.stackBytes % Config.hbmStacks
def physPkg (p : Nat) : Nat := p / Config.stackBytes / Config.hbmStacks
def physAddr (p : Nat) : Nat := p % Config.stackBytes

/-- Physical number of byte q of a resident page. -/
def pagePhys (own : Nat) (e : BufEntry) (p : PageEntry) (q : Nat) : Nat :=
  if e.bflags.getLsbD 3 then hostBase + p.frame * 4096 + q
  else
    let sa := frameAddr e.ilv p.stack (p.frame * pageBytes e.pgsz + q)
    physOf (if e.bflags.getLsbD 2 then e.peer else own) sa.1 sa.2

/-- Physical number of the byte at a reference, when its page is resident. -/
def State.phys (s : State) (ctx : Nat) (r : Dword) : Option Nat :=
  match s.buf ctx (refBuf r) with
  | none => none
  | some e =>
    let p := s.page (pageKeyOf e ctx r)
    if p.state = 1 then some (pagePhys s.pkg.pkgid e p (refOff r % pageBytes e.pgsz)) else none

/-- Physical numbers of n bytes from a reference, or the first page that is not resident. -/
def State.physList (s : State) (ctx : Nat) (r : Dword) : Nat → Except PageKey (List Nat)
  | 0 => .ok []
  | n + 1 =>
    match s.phys ctx r with
    | none =>
      .error (match s.buf ctx (refBuf r) with
        | some e => pageKeyOf e ctx r
        | none => ⟨ctx, refBuf r, 0⟩)
    | some p =>
      match State.physList s ctx (refAdd r 1) n with
      | .ok l => .ok (p :: l)
      | .error k => .error k

/-- Home die of a physical number of the own package (R10); other packages and the host have none here. -/
def State.homeDie (s : State) (p : Nat) : Option Nat :=
  if p < hostBase ∧ physPkg p = s.pkg.pkgid then some (physStack p / 3) else none

/-- Holds an entry in a cache of n entries: the oldest leaves a full one. -/
def cacheAdd {α : Type} [BEq α] (n : Nat) (x : α) (l : List α) : List α :=
  if l.contains x then l else (l ++ [x]).drop (l.length + 1 - n)

/-- A fill by a die's walker: the page is marked as accessed by the die, and dirty for a write, and its page and buffer entry are
held in the die's translation cache (R250, R251). -/
def State.fillPage (s : State) (d : Nat) (k : PageKey) (write : Bool) : State :=
  let p := s.page k
  let s := s.setPage k { p with accDies := p.accDies ||| (1#4 <<< d), dirty := p.dirty || write }
  s.updDie d fun u =>
    { u with xlat := cacheAdd Config.dieTlb k u.xlat, xbuf := cacheAdd Config.dieBufTlb (k.ctx, k.buf) u.xbuf }

/-- A translation of a page through a die's cache: a fill where the cache does not hold it (R250, R251). -/
def State.touchPage (s : State) (d : Nat) (k : PageKey) (write : Bool) : State :=
  if (s.die d).xlat.contains k then s else s.fillPage d k write

/-- Name under which a core TLB holds a buffer entry. -/
def bufKey (ctx buf : Nat) : PageKey := ⟨ctx, buf, 2 ^ 64⟩

/-- A translation of a page through a core's TLB: one that the TLB does not hold comes from the die's cache (R250). -/
def State.touchTlb (s : State) (core : Nat) (k : PageKey) (write : Bool) : State :=
  if (s.core core).tlb.contains k then s
  else
    (s.touchPage (core / Config.coresPerDie) k write).updCore core fun u =>
      { u with tlb := cacheAdd Config.coreTlb k (cacheAdd Config.coreTlb (bufKey k.ctx k.buf) u.tlb) }

/-! ## Physical bytes, migration (R257, R258) -/

/-- The byte of the new frame that mirrors a byte of a migrating page's old frame, with its line in the page. -/
def mirrorOf (s : State) (p : Nat) (m : Migration) : Option (Nat × Nat) :=
  match s.buf m.key.ctx m.key.buf with
  | none => none
  | some e =>
    if p < hostBase ∧ physPkg p = (if e.bflags.getLsbD 2 then e.peer else s.pkg.pkgid) then
      match frameInv e.ilv m.oldStack (physStack p) (physAddr p) with
      | none => none
      | some x =>
        let pb := pageBytes e.pgsz
        if m.oldFrame * pb ≤ x ∧ x < m.oldFrame * pb + pb then
          let q := x - m.oldFrame * pb
          let np : PageEntry := { state := 1, mig := false, stack := m.newStack, frame := m.newFrame }
          some (pagePhys s.pkg.pkgid e np q, q / 64)
        else none
    else none

/-- Writes one physical byte, in both frames while its page migrates. -/
def State.physWrite (s : State) (p : Nat) (b : Byte) : State :=
  let ms := s.migrations.filterMap fun m => (mirrorOf s p m).map (·.1)
  { s with
    mem := ms.foldl (fun mm q => mm.write q b) (s.mem.write p b)
    migrations := s.migrations.map fun m =>
      match mirrorOf s p m with
      | some (_, l) => if m.bitmap.contains l then m else { m with bitmap := m.bitmap ++ [l] }
      | none => m }

/-! ## Held lines (R90, R94; log 7) -/

def lineOf (p : Nat) : Nat := p / 64

def findLine (ls : List CLine) (owner line : Nat) : Option CLine :=
  ls.find? fun c => c.owner == owner && c.line == line

def dropLine (ls : List CLine) (owner line : Nat) : List CLine :=
  ls.filter fun c => !(c.owner == owner && c.line == line)

def patchLine (ls : List CLine) (owner p : Nat) (b : Byte) : List CLine :=
  ls.map fun c => if c.owner = owner ∧ c.line = lineOf p then { c with bytes := listSet c.bytes (p % 64) b } else c

/-- A physical number of a package that no path reaches (R440). -/
def State.cutOff (s : State) (p : Nat) : Bool := decide (p < hostBase) && s.pkg.unreachable.contains (physPkg p)

/-- A line reads as poisoned at its home (R259), or its package cannot be reached (R440). -/
def State.lineBad (s : State) (line : Nat) : Bool := s.poison.contains line || s.latent.contains line || s.cutOff (64 * line)

/-- A line reads as poisoned at a die: as its read copy holds it, else as the home does; a line of a package that cannot be
reached does everywhere (R440). -/
def State.dieBad (s : State) (d line : Nat) : Bool :=
  match findLine s.copies d line with
  | some c => c.bad || s.cutOff (64 * line)
  | none => s.lineBad line

/-- A byte as the L2 of a die holds it: its read copy, else the home's byte. -/
def State.dieByte (s : State) (d p : Nat) : Byte :=
  match findLine s.copies d (lineOf p) with
  | some c => (c.bytes[p % 64]?).getD 0
  | none => s.mem.read p

/-- The byte that a core's stores on their way to the L2 give, youngest first. -/
def wtByte (w : List WtStore) (p : Nat) : Option Byte :=
  w.foldl (fun a x => match tabFind x.cells p with | some b => some b | none => a) none

/-- No store of a core is on its way. A release waits for all of them, since the warp may have read the other warps' (R92, R98);
one to a package that no path reaches never arrives (R440). -/
def State.wtClear (s : State) (core : Nat) : Bool := (s.core core).wt.isEmpty

/-- No store of a core is on its way, but for those that never arrive (R440): what an acquire wider than core waits for (R101). -/
def State.wtSeen (s : State) (core : Nat) : Bool := (s.core core).wt.all fun x => x.cells.any fun c => s.cutOff c.1

/-- A byte as a core reads it: its L1 line, else its stores on their way, else its die's L2. -/
def State.coreByte (s : State) (c p : Nat) : Byte :=
  match findLine s.l1 c (lineOf p) with
  | some l => (l.bytes[p % 64]?).getD 0
  | none =>
    match wtByte (s.core c).wt p with
    | some b => b
    | none => s.dieByte (c / Config.coresPerDie) p

/-- A byte as a core reads it lies in a poisoned line, or in a package that cannot be reached (R440). A byte that a store of the
core on its way gives carries no poison, whatever the line below it holds (R179 does not say; log 7). -/
def State.coreBad (s : State) (c p : Nat) : Bool :=
  match findLine s.l1 c (lineOf p) with
  | some l => l.bad || s.cutOff p
  | none =>
    match wtByte (s.core c).wt p with
    | some _ => s.cutOff p
    | none => s.dieBad (c / Config.coresPerDie) (lineOf p)

/-- Lines that leave a core's L1 and a die's copies of lines whose invalidation arrives, at this step, by free choice. -/
def State.loosen (s : State) (c line : Nat) : State :=
  let d := c / Config.coresPerDie
  let s1 := if s.pick (2 * line) then { s with l1 := dropLine s.l1 c line } else s
  if s.pick (2 * line + 1) then { s1 with copies := dropLine s1.copies d line } else s1

/-- The lines held with a further one of an owner that holds at most n: the owner's oldest leaves when it is full (R1). -/
def addLine (n : Nat) (x : CLine) (ls : List CLine) : List CLine :=
  match ls.find? fun c => c.owner == x.owner with
  | some y => (if (ls.filter fun c => c.owner == x.owner).length < n then ls else dropLine ls y.owner y.line) ++ [x]
  | none => ls ++ [x]

/-- Distinct lines of physical numbers, in order. -/
def linesOf (ps : List Nat) : List Nat := (ps.map lineOf).eraseDups

/-- Lines of which every byte is among some numbers. -/
def fullLines (ps : List Nat) : List Nat :=
  (linesOf ps).filter fun l => decide (64 ≤ ((ps.filter fun p => lineOf p == l).eraseDups).length)

/-- Lines that the L2 of a die holds written and not yet written back to their banks (R423). -/
def State.dirtyLines (s : State) (d : Nat) : List Nat := (s.bank.map (·.1)).filter fun l => s.homeDie (64 * l) == some d

/-- Brings a line into a core's L1 and, on a die that is not its home, into that die's L2, each within its size (R1). A line that
a store of the core on its way writes whole carries no poison (R179). -/
def State.holdLine (s : State) (c line : Nat) : State :=
  let d := c / Config.coresPerDie
  let ps := (List.range 64).map (64 * line + ·)
  let s1 :=
    if s.homeDie (64 * line) = some d ∨ (findLine s.copies d line).isSome then s
    else
      { s with copies := addLine (Config.l2Lines - (s.dirtyLines d).length) ⟨d, line, ps.map s.mem.read, s.lineBad line⟩ s.copies }
  let whole := (s.core c).wt.any fun x => (fullLines (x.cells.map (·.1))).contains line
  if (findLine s1.l1 c line).isSome then s1
  else { s1 with l1 := addLine Config.l1Lines ⟨c, line, ps.map (s1.coreByte c), s1.dieBad d line && !whole⟩ s1.l1 }

/-! ## Writes performed at the home -/

/-- The die of a warp. -/
def State.warpDie (s : State) (w : Warp) : Option Nat := (s.group w.group).map Group.die

/-- Writes performed on spans end the demotions of some warps that watch them (R134). -/
def State.noteAt (s : State) (mine : Warp → Bool) (spans : List Nat) : State :=
  { s with warps := s.warps.map fun (w : Warp) =>
      { w with demoted := w.demoted.map fun d =>
          match d.watch with
          | some ws => if mine w && spans.any ws.contains then { d with hit := true } else d
          | none => d } }

/-- Writes performed at a Lantern store. -/
def State.noteWrite (s : State) (spans : List Nat) : State := s.noteAt (fun _ => true) spans

/-- Writes of lines performed at the L2 of some dies, or invalidations that reach them. -/
def State.noteDies (s : State) (dies : List Nat) (lines : List Nat) : State :=
  s.noteAt (fun w => match s.warpDie w with | some d => dies.contains d | none => false) lines

def oY (r : List Byte) : Dword := BitVec.ofNat 64 (recField r 8 8)
def oN (r : List Byte) : Nat := recField r 0x28 4
def oSize (r : List Byte) : Nat := if recField r 0x2C 1 = 0 then 8 else 4
def oLantern (r : List Byte) : Bool := recField r 0x2D 1 % 2 == 1
/-- Where reads with a listed translation go: a number in the old frame of a switched migration is served from the new one (R258). -/
def State.served (s : State) (p : Nat) : Nat :=
  ((s.migrations.filter Migration.switched).findSome? fun m => (mirrorOf s p m).map (·.1)).getD p

/-- Physical number of the byte at a reference through a page list and the entries of the buffers listed (R348, R418). -/
def State.listedPhys (s : State) (pbufs : List (Nat × BufEntry)) (plist : List (Nat × Nat × Dword)) (r : Dword) : Option Nat :=
  match pbufs.find? fun x => x.1 == refBuf r with
  | none => none
  | some (_, e) =>
    let pb := pageBytes e.pgsz
    (plist.find? fun x => x.1 == refBuf r && x.2.1 == refOff r / pb).map fun x =>
      let pte := x.2.2.toNat
      pagePhys s.pkg.pkgid e { state := 1, mig := false, stack := pte / 2 ^ 52 % 16, frame := pte % 2 ^ 52 } (refOff r % pb)

/-- Where a read through a page list is served. -/
def State.listPhys (s : State) (pbufs : List (Nat × BufEntry)) (plist : List (Nat × Nat × Dword)) (r : Dword) : Option Nat :=
  (s.listedPhys pbufs plist r).map s.served

/-- Physical number of a byte of a memory orbit, through its page list. -/
def Orbit.phys (o : Orbit) (s : State) (r : Dword) : Option Nat := s.listPhys o.pbufs o.plist r

/-- The entries of the buffers that a page list names, as they stand. -/
def State.listBufs (s : State) (ctx : Nat) (plist : List (Nat × Nat × Dword)) : List (Nat × BufEntry) :=
  ((plist.map (·.1)).eraseDups).filterMap fun i => (s.buf ctx i).map fun e => (i, e)

/-- Numbers of the bytes of a memory orbit's y, as its pages stand now: a write to it is noted wherever the page has moved since
the list was made (R339). -/
def Orbit.yBytes (o : Orbit) (s : State) : List Nat :=
  (List.range (oN o.record * oSize o.record)).filterMap fun (i : Nat) => s.phys o.ctx (refAdd (oY o.record) i)

/-- A write of bytes of memory meets y of an idle orbit (R339). -/
def State.noteY (s : State) (ps : List Nat) : State :=
  { s with dieU := s.dieU.map fun (u : DieU) =>
      { u with orbits := u.orbits.map fun o =>
          if o.mstate = 0 && !oLantern o.record && (o.yBytes s).any ps.contains then { o with ywrote := true } else o } }

/-- A write of bytes of a quad's Lantern store meets y of an idle orbit (R339). -/
def State.noteYLan (s : State) (quad : Nat) (as : List Nat) : State :=
  let hit (o : Orbit) : Bool :=
    o.mstate == 0 && oLantern o.record && (match o.bound.bind s.group with
      | some g =>
        let lo := g.lbase + (loWord (oY o.record)).toNat
        g.quad == quad && as.any fun a => decide (lo ≤ a) && decide (a < lo + oN o.record * oSize o.record)
      | none => false)
  { s with dieU := s.dieU.map fun (u : DieU) =>
      { u with orbits := u.orbits.map fun o => if hit o then { o with ywrote := true } else o } }

/-- A table of earlier contents with one more at a name, newest first. -/
def tabPush (t : Tab (List (List Byte))) (n : Nat) (bs : List Byte) : Tab (List (List Byte)) := tabPut t n (bs :: tabGet [] t n)

/-- The home slice of a line takes a write of it. When its die's L2 is full one line of the die's is written back before (R1, R423). -/
def State.bankPush (s : State) (line : Nat) (bs : List Byte) : State :=
  let crowded (d : Nat) : Bool := (tabFind s.bank line).isNone &&
    decide (Config.l2Lines ≤ (s.dirtyLines d).length + (s.copies.filter fun c => c.owner == d).length)
  let out : List Nat := ((s.homeDie (64 * line)).map fun d => if crowded d then (s.dirtyLines d).take 1 else []).getD []
  { s with bank := tabPush (s.bank.filter fun e => !out.contains e.1) line bs }

/-- Stores bytes at their home: the bytes, and what each aligned 8 bytes and each line held before (R106, R423). -/
def State.storeCells (s : State) (cells : List (Nat × Byte)) : State :=
  let ps := cells.map (·.1)
  let old := ((ps.map (· / 8)).eraseDups).foldl (fun t w => tabPush t w (s.mem.readBytes (8 * w) 8)) s.old
  let held := (linesOf ps).foldl (fun (t : State) l => t.bankPush l (s.mem.readBytes (64 * l) 64)) s
  ({ (cells.foldl (fun (s : State) (c : Nat × Byte) => s.physWrite c.1 c.2) s) with old, bank := held.bank }).noteY ps

/-- A held line takes written bytes; one that is written whole carries no poison (R179). -/
def patchLines (ls : List CLine) (owner : Nat) (cells : List (Nat × Byte)) : List CLine :=
  let full := fullLines (cells.map (·.1))
  (cells.foldl (fun ls c => patchLine ls owner c.1 c.2) ls).map fun c =>
    if c.owner = owner ∧ full.contains c.line then { c with bad := false } else c

/-- The copies of lines on dies other than one are to be invalidated (R94). -/
def State.invalidate (s : State) (keep : Option Nat) (lines : List Nat) : State :=
  let new := (s.copies.filter fun c => some c.owner != keep && lines.contains c.line).map fun c => (c.owner, c.line)
  { s with invals := s.invals ++ new.filter fun x => !s.invals.contains x }

/-- An invalidation reaches a die: its copy leaves (R94, R134). -/
def State.invalArrive (s : State) (d line : Nat) : State :=
  if s.invals.contains (d, line) then
    ({ s with copies := dropLine s.copies d line, invals := s.invals.filter (· != (d, line)) }).noteDies [d] [line]
  else s

/-- The invalidations of earlier writes of a release's scope have arrived (R103): a release of scope pkg or wider waits for them,
and its own step has them all arrive. -/
def State.acked (s : State) (scope : Nat) : State :=
  if 3 ≤ scope then
    { (s.invals.foldl (fun (s : State) (x : Nat × Nat) => s.invalArrive x.1 x.2) s) with copies := [], invals := [] }
  else s

/-- Performs stores at the home L2 from a die: home bytes and the die's own copy; the copies on other dies are invalidated
(R94). -/
def State.performCells (s : State) (d : Nat) (cells : List (Nat × Byte)) : State :=
  let ls := linesOf (cells.map (·.1))
  let s := s.storeCells cells
  let s := { s with copies := patchLines s.copies d cells }.invalidate (some d) ls
  s.noteDies (d :: ls.filterMap fun l => s.homeDie (64 * l)) ls

/-- Performs stores at the home L2 for an agent that is on no die: every die's copy is invalidated (R94). -/
def State.outsideCells (s : State) (cells : List (Nat × Byte)) : State :=
  let ls := linesOf (cells.map (·.1))
  ((s.storeCells cells).invalidate none ls).noteDies (ls.filterMap fun l => s.homeDie (64 * l)) ls

/-- One of some earlier contents, newest first, or what stands now: by free choice. -/
def State.earlier (s : State) (key : Nat) : List (List Byte) → List Byte → List Byte
  | [], now => now
  | x :: t, now => if s.pick key then State.earlier s (key + 2 ^ 200) t x else now

/-- The bytes of memory as a read without an acquire finds them: of each aligned 8 bytes, what they held before any of their
writes or what they hold, by free choice (R106). -/
def State.relaxedByte (s : State) (p : Nat) : Byte :=
  ((s.earlier (2 ^ 100 + p / 8) (tabGet [] s.old (p / 8)) (s.mem.readBytes (8 * (p / 8)) 8))[p % 8]?).getD 0

/-- A byte as an engine of a die reads it: under an acquire of scope core, quad or die as the die's L2 holds it, under a wider one
at its home (R94), and without an acquire as R106 gives. -/
def State.engByte (s : State) (d : Nat) (acq : Option Nat) (p : Nat) : Byte :=
  match acq with
  | some sc => if sc ≤ 2 then s.dieByte d p else s.mem.read p
  | none => s.relaxedByte p

/-- A byte as a near-bank pass reads it: after an acquire its home's; else its line holds what the bank holds, or a later write
performed at the home slice, by free choice (R423). -/
def State.bankByte (s : State) (acq : Bool) (p : Nat) : Byte :=
  if acq then s.mem.read p
  else
    ((s.earlier (2 ^ 105 + lineOf p) (tabGet [] s.bank (lineOf p)) (s.mem.readBytes (64 * lineOf p) 64))[p % 64]?).getD 0

/-! ## Poison, uncorrectable errors, error records (R259–R261) -/

/-- Row of a stack address: pseudo-channel, bank, row (R447). -/
def rowOf (a : Nat) : Nat × Nat × Nat :=
  let k := a / 8192
  let b := k % 1024
  (b / 16, b % 16, 8 * (k / 1024) + a % 8192 / 1024)

def State.post (s : State) (kind : String) (vals : List Nat) : State :=
  { s with pkg := { s.pkg with events := s.pkg.events ++ [⟨kind, vals⟩] } }

/-- An absent bus page is asked for through the Page Request Interface, unless it has been (R434); without ATS none is (R442). -/
def State.askHost (s : State) (k : PageKey) : State :=
  match s.buf k.ctx k.buf with
  | some e =>
    if e.bflags.getLsbD 3 && s.pkg.negotiated.getLsbD 1 && (s.page k).state == 0 && !s.pkg.pageReqs.contains k then
      { s.post "page-request" [k.ctx, k.buf, k.page] with
        pkg := { (s.post "page-request" [k.ctx, k.buf, k.page]).pkg with pageReqs := s.pkg.pageReqs ++ [k] } }
    else s
  | none => s

/-- Parks a request on a page: in the die's parking table, or in the miss queue when it is full (R253). A bus page is asked for
through the Page Request Interface, once (R434). -/
def State.park (s : State) (d req : Nat) (k : PageKey) : State :=
  (s.askHost k).updDie d fun u =>
    if u.parking.length < 2048 then { u with parking := u.parking ++ [⟨req, k⟩] }
    else { u with missq := u.missq ++ [⟨req, k⟩] }

/-- Writes bytes of a die's fault unit at a reference of the driver's, context 0; on an absent page the write is held (R253, R261). -/
def State.privWrite (s : State) (d : Nat) (r : Dword) (bs : List Byte) : State :=
  match s.physList 0 r bs.length with
  | .ok ps => s.performCells d (ps.zip bs)
  | .error k =>
    if (s.buf 0 (refBuf r)).isNone then s
    else
      let (id, s) := s.fresh
      let h : HeldWrite := { id, die := d, ctx := 0, ref := r, bytes := bs, tells := [], priv := true }
      State.park { s with heldWrites := s.heldWrites ++ [h] } d id k

/-- The 32 bytes of an error record (R261). -/
def ErrRec.bytesOf (e : ErrRec) : List Byte :=
  leBytes e.kind 1 ++ leBytes e.stack 1 ++ leBytes e.pch 1 ++ leBytes e.bank 1 ++ leBytes e.row 4 ++ leBytes e.loc 8 ++
    leBytes e.bytes 8 ++ leBytes e.clk 8

/-- Writes an error record of a die into its ring and posts the host event (R261, R264: with no ring the record is
dropped). The manual does not say what a full ring or a new base does: records go round the ring over the oldest, and the
index goes on when base or size is written (log 38). -/
def State.errRecord (s : State) (d : Nat) (e : ErrRec) : State :=
  let u := s.die d
  let e := { e with clk := u.clk }
  let s := { s.post "error-record" [e.kind, e.stack, e.row, e.loc] with
    pkg := { (s.post "error-record" [e.kind, e.stack, e.row, e.loc]).pkg with errors := s.pkg.errors ++ [e] } }
  if u.regs.errbase = 0 ∨ u.regs.errsize = 0 then s
  else
    let r := refAdd (BitVec.ofNat 64 u.regs.errbase) (32 * (u.errHead % u.regs.errsize : Nat))
    (s.privWrite d r e.bytesOf).updDie d fun u => { u with errHead := u.errHead + 1 }

/-- The record of an error in a line of the own package. -/
def lineRec (kind line : Nat) : ErrRec :=
  let p := 64 * line
  let r := rowOf (physAddr p)
  { kind, stack := physStack p, pch := r.1, bank := r.2.1, row := r.2.2, loc := physAddr p, bytes := 0, clk := 0 }

/-- A read or partial write that finds an uncorrectable error poisons the line and records it (R259). -/
def State.findError (s : State) (line kind : Nat) : State :=
  if s.latent.contains line then
    let s := { s with latent := s.latent.filter (· != line)
                      poison := if s.poison.contains line then s.poison else s.poison ++ [line] }
    let r := rowOf (physAddr (64 * line))
    let s := s.updStack (physStack (64 * line)) fun u =>
      { u with failed := if u.failed.contains (r.1 * 16 + r.2.1, r.2.2) then u.failed
                         else u.failed ++ [(r.1 * 16 + r.2.1, r.2.2)] }
    s.errRecord (physStack (64 * line) / 3) (lineRec kind line)
  else s

/-- After a write that covers given bytes: a whole line is clean again, but for a fault in its cells; a partial write keeps
poison (R179, R259). -/
def State.writePoison (s : State) (ps : List Nat) : State :=
  (linesOf ps).foldl (fun s l =>
    if decide (64 ≤ ((ps.filter fun p => lineOf p == l).eraseDups).length) then
      let latent := s.latent.filter (· != l)
      { s with poison := s.poison.filter (· != l), latent := if s.stuck.contains l then latent ++ [l] else latent }
    else s.findError l 3) s

/-- An engine of a die has read bytes at their home: their uncorrectable errors are found (R259), and older read copies of the die
leave, so that what the engine hands on is not older than what the die reads after it (R89, R94). -/
def State.engSaw (s : State) (d : Nat) (ps : List Nat) : State :=
  let ls := linesOf ps
  let s := ls.foldl (fun s l => s.findError l 3) s
  { s with copies := s.copies.filter fun c => !(c.owner == d && ls.contains c.line) }

/-- A read of a die's engine takes what the die's L2 holds: its acquire has scope core, quad or die (R94). -/
def fromDie (acq : Option Nat) : Bool := match acq with | some sc => decide (sc ≤ 2) | none => false

/-- Bytes that an engine reads are found where it reads them: a line that the die's L2 holds is not read at its home (R94, R259). -/
def State.engSeen (s : State) (d : Nat) (acq : Option Nat) (ps : List Nat) : State :=
  if fromDie acq then
    ((linesOf ps).filter fun l => (findLine s.copies d l).isNone).foldl (fun s l => s.findError l 3) s
  else s.engSaw d ps

/-- A line as an engine of a die reads it is poisoned. -/
def State.engBad (s : State) (d : Nat) (acq : Option Nat) (line : Nat) : Bool :=
  if fromDie acq then s.dieBad d line else s.lineBad line

/-- What reading a span of memory at its home does. -/
def State.findSpan (s : State) (d ctx : Nat) (r : Dword) (n : Nat) : State :=
  match s.physList ctx r n with
  | .error _ => s
  | .ok ps => s.engSaw d ps

/-! ## Reads and writes by engines -/

/-- Bytes read at their home by an engine, and whether a poisoned line is among them; none when a page is absent. -/
def State.engRead (s : State) (ctx : Nat) (r : Dword) (n : Nat) : Option (List Byte × Bool) :=
  match s.physList ctx r n with
  | .error _ => none
  | .ok ps => some (ps.map s.mem.read, (linesOf ps).any s.lineBad)

/-- Asks for the service of an absent page without a request in the parking table that waits for it (R268, R273). -/
def State.want (s : State) (k : PageKey) : State :=
  let st := (s.page k).state
  if st = 1 ∨ 4 ≤ st ∨ s.wanted.contains k then s else { s.askHost k with wanted := s.wanted ++ [k] }

def State.isParked (s : State) (req : Nat) : Bool :=
  s.dieU.any fun u => u.parking.any (fun p => p.req == req) || u.missq.any fun p => p.req == req

def State.updOp (s : State) (wid opid : Nat) (f : TOp → TOp) : State :=
  s.updWarp wid fun w => { w with ops := updateBy TOp.id opid f w.ops }

/-- The engine writes a command's status; with no operation or no warp left to receive it, it is discarded (R127). -/
def State.giveStatus (s : State) (wid : Nat) (sop : Option Nat) (v : Word) : State :=
  match sop with
  | none => s
  | some id =>
    s.updOp wid id fun o =>
      match o.kind with
      | .status d => { o with kind := .done [⟨uniLane, d, v⟩] }
      | _ => o

/-- Marks the pages an engine of a die touches. -/
def State.engTouch (s : State) (d ctx : Nat) (r : Dword) (n : Nat) (write : Bool) : State :=
  match s.buf ctx (refBuf r) with
  | none => s
  | some e =>
    let pb := pageBytes e.pgsz
    let a := refOff r / pb
    let b := (refOff r + n - 1) / pb
    (List.range (b - a + 1)).foldl (fun s i => s.touchPage d ⟨ctx, refBuf r, a + i⟩ write) s

/-- Performs an engine's write on resident pages. -/
def State.engStore (s : State) (d ctx : Nat) (r : Dword) (ps : List Nat) (bs : List Byte) : State :=
  let s := s.engTouch d ctx r bs.length true
  (s.writePoison ps).performCells d (ps.zip bs)

/-- A location of the host window: an atomic there is performed at the host's memory, whatever its scope (R94, R100). -/
def atHost (ps : List Nat) : Bool := ps.any fun p => decide (hostBase ≤ p) && decide (p < zoneBase)

/-- Device accesses to host memory wait while another operation is between its read and its write there (R100). -/
def State.portFree (s : State) (id : Nat) (ps : List Nat) : Bool :=
  match s.portOp with
  | none => true
  | some x => x.1 == id || !atHost ps

/-- A write can be performed now: its package can be reached (R440), and no atomic in the port form is under way at the host's
memory (R100). -/
def State.canStore (s : State) (id : Nat) (ps : List Nat) : Bool := !ps.any s.cutOff && s.portFree id ps

/-- Status words delivered; under a failed check each carries the code of its row instead (R246). -/
def State.tellAll (s : State) (row : Nat) (tells : List (Nat × Option Nat × Word)) : State :=
  tells.foldl (fun s x => s.giveStatus x.1 x.2.1 (if row = 0 then x.2.2 else BitVec.ofNat 32 (row * 2 ^ 24))) s

/-- Performs a base die's write on resident pages (R10). -/
def State.baseStore (s : State) (ps : List Nat) (bs : List Byte) : State := (s.writePoison ps).outsideCells (ps.zip bs)

/-- A write of an engine, checked at the port (R246), performed at its home under its release, and then the status words; one that
must wait is held, with them, under a name of its own (0 until it has one): parked while a page of it is absent (R253). -/
def State.putHeld (s : State) (h : HeldWrite) : State :=
  let row := if h.priv then 0 else s.engRow h.ctx h.ref h.bytes.length .w
  let rest := { s with heldWrites := removeBy HeldWrite.id h.id s.heldWrites }
  if row ≠ 0 ∨ (s.buf h.ctx (refBuf h.ref)).isNone then rest.tellAll row h.tells
  else
    let kept : Nat × State :=
      if h.id = 0 then (s.nextId, { s.fresh.2 with heldWrites := s.heldWrites ++ [{ h with id := s.nextId }] }) else (h.id, s)
    match s.physList h.ctx h.ref h.bytes.length with
    | .error k => if h.base then kept.2 else kept.2.park h.die kept.1 k
    | .ok ps =>
      if !s.canStore 0 ps then kept.2
      else
        let t := if h.base then rest.baseStore ps h.bytes else rest.engStore h.die h.ctx h.ref ps h.bytes
        (match h.rel with | some sc => t.acked sc | none => t).tellAll 0 h.tells

/-- Writes an engine's bytes at their home, in order, and then status words. -/
def State.engWriteThen (s : State) (d ctx : Nat) (r : Dword) (bs : List Byte) (rel : Option Nat)
    (tells : List (Nat × Option Nat × Word)) : State :=
  s.putHeld { id := 0, die := d, ctx, ref := r, bytes := bs, tells, rel }

def State.engWrite (s : State) (d ctx : Nat) (r : Dword) (bs : List Byte) : State := s.engWriteThen d ctx r bs none []

/-- Poisons the lines of a span of memory. -/
def State.engPoison (s : State) (ctx : Nat) (r : Dword) (n : Nat) : State :=
  match s.physList ctx r n with
  | .error _ => s
  | .ok ps => (linesOf ps).foldl (fun s l =>
      if s.poison.contains l then s else { s with poison := s.poison ++ [l] }) s

/-! ## Code words and clause headers (R47, R120, R121, R142) -/

def isClauseWord (w : Word) : Bool := fld w 24 8 == 192

/-- Reference of a code offset of a context. -/
def State.codeRef (s : State) (ctx : Nat) (pc : Word) : Dword :=
  BitVec.ofNat 64 (tabGet 0 s.code ctx * 2 ^ 44 + pc.toNat)

/-- A code word as the die's L2 holds it, when its page is resident. -/
def State.codeWord (s : State) (d ctx : Nat) (pc : Word) : Option Word :=
  match s.physList ctx (s.codeRef ctx pc) 4 with
  | .error _ => none
  | .ok ps => some (BitVec.ofNat 32 (leNat (ps.map (s.dieByte d))))

/-- A code offset is that of a clause header: aligned, within the code buffer, and its word a CLAUSE word on a resident page. A
lane that stands at one on an absent page arrives when its fetch has brought the page in (log 18). -/
def State.headerAt (s : State) (d ctx : Nat) (pc : Word) : Bool :=
  let r := s.codeRef ctx pc
  pc.toNat % 4 == 0 && (match s.buf ctx (refBuf r) with
    | none => false
    | some e => decide (pc.toNat + 4 ≤ e.size) && (match s.codeWord d ctx pc with
      | none => false
      | some w => isClauseWord w))

/-- A lane whose PC and meeting register hold this value arrives at a clause boundary: the value is a clause header's offset,
so neither 0xFFFF_FFFF nor any other value that no lane stands at (R120, R121). -/
def State.meets (s : State) (g : Group) (m : Word) : Bool := s.headerAt g.die g.ctx m

/-! ## The Lantern store -/

def QuadU.lread (q : QuadU) (a n : Nat) : List Byte := q.lantern.readBytes a n

def QuadU.lwrite (q : QuadU) (a : Nat) (bs : List Byte) : QuadU := { q with lantern := q.lantern.writeBytes a bs }

/-- A write of bytes; what each aligned 8 bytes held before stays for reads without an acquire (R106). -/
def QuadU.lstore (q : QuadU) (a : Nat) (bs : List Byte) : QuadU :=
  let ws := ((List.range bs.length).map fun i => (a + i) / 8).eraseDups
  { q.lwrite a bs with old := ws.foldl (fun t w => tabPush t w (q.lread (8 * w) 8)) q.old }

/-- A byte of a Lantern store as an engine reads it. Without an acquire it finds of each aligned 8 bytes what they held before any
of their writes or what they hold, by free choice (R106). -/
def State.lanByte (s : State) (acq : Bool) (quad a : Nat) : Byte :=
  let q := s.quad quad
  if acq then q.lantern.read a
  else
    ((s.earlier (2 ^ 110 + quad * 2 ^ 18 + a / 8) (tabGet [] q.old (a / 8)) (q.lread (8 * (a / 8)) 8))[a % 8]?).getD 0

/-- Macros of the quad's store that an access of n bytes touches (R285). -/
def macrosOf (a n : Nat) : List Nat :=
  (List.range ((a + n - 1) / Config.macroBytes + 1 - a / Config.macroBytes)).map (a / Config.macroBytes + ·)

/-- An access touches a macro that is stationary or under an issue check (R178, R288). -/
def QuadU.stationary (q : QuadU) (a n : Nat) : Bool :=
  (macrosOf a n).any fun m => q.marks.contains m || q.issueMarks.contains m

/-- Poison bits of Lantern lines after a write of n bytes at a: a whole line written is clean (R179). -/
def QuadU.clearLines (q : QuadU) (as : List Nat) : QuadU :=
  { q with lpoison := q.lpoison.filter fun l => decide (((as.filter fun a => a / 64 == l).eraseDups).length < 64) }

def QuadU.poisonLine (q : QuadU) (l : Nat) : QuadU :=
  if q.lpoison.contains l then q else { q with lpoison := q.lpoison ++ [l] }

/-! ## Writes of engines into a Lantern store, synchronisation words (R18–R20) -/

def QuadU.word (q : QuadU) (a : Nat) : Nat := leNat (q.lread a 4)

/-- Watch-set name of a line of a quad's Lantern store. -/
def lanternSpan (quad line : Nat) : Nat := 2 ^ 90 + quad * 32768 + line

/-- Writes bytes into a quad's Lantern store as an engine does: the watched spans change (R134). -/
def State.lanternWrite (s : State) (quad a : Nat) (bs : List Byte) : State :=
  let as := (List.range bs.length).map (a + ·)
  ((s.updQuad quad fun q => (q.lstore a bs).clearLines as).noteYLan quad as).noteWrite
    ((linesOf as).map (lanternSpan quad))

/-- Count, generations to add and overflow after n more bytes: whole targets are taken away first (R19). -/
def syncSum (target count n : Nat) : Nat × Nat × Bool :=
  if target = 0 then
    (min (count + n) (2 ^ 32 - 1), 0, decide (2 ^ 32 - 1 < count + n))
  else ((count + n) % target, (count + n) / target, false)

/-- One update of the word at quad-store address a: n bytes arrive. Bits 31:18 of the state, reserved and 0 unless an ordinary
store wrote them (R18, R20), stay as they are and are read back so: a choice of the model (log 10). -/
def State.arrive (s : State) (quad a n : Nat) (poison : Bool) : State :=
  let q := s.quad quad
  let r := syncSum (q.word a) (q.word (a + 4)) n
  let st := q.word (a + 12)
  let st := if poison then st ||| 0x10000 else st
  let st := if r.2.2 then st ||| 0x20000 else st
  s.lanternWrite quad (a + 4) (leBytes r.1 4 ++ leBytes ((q.word (a + 8) + r.2.1) % 2 ^ 32) 4 ++ leBytes st 4)

/-- The arrival of a near-memory kernel at a group's allocation: held while the group is saved, dropped when it has ended (R426). -/
def State.nearArrive (s : State) (a : Nat × Nat × Nat × Bool) : State :=
  match s.group a.1 with
  | none => s
  | some g =>
    match g.stat with
    | .ended => s
    | .saved => s.updGroup g.id fun g => { g with heldArrivals := g.heldArrivals ++ [a.2] }
    | _ => s.arrive g.quad (g.lbase + a.2.1) a.2.2.1 a.2.2.2

/-- A write that may be held, and the arrival that follows it once it is performed (R418). -/
def State.putArrive (s : State) (h : HeldWrite) : State :=
  let t := s.putHeld h
  match h.arrival with
  | none => t
  | some a => if t.heldWrites.any fun x => x.id == (if h.id = 0 then s.nextId else h.id) then t else t.nearArrive a

end Sys2Proof.Machine
end

