-- ==== Sys2Proof/Machine/Trap.lean ====
section
/-! DEFINITION. Taking a trap or debug event, and the return from one (11_core_traps.md R208–R214), as shared
operations. -/

namespace Sys2Proof.Machine

/-- The decoded fields of a word (R51): TRAP_D, TRAP_A, TRAP_B, TRAP_IMM, and the opcode field that an illegal-encoding
trap puts into TRAP_AUX. -/
structure WordFields where
  d : Word := 0
  a : Word := 0
  b : Word := 0
  imm : Word := 0
  aux : Dword := 0
  deriving DecidableEq, Repr

/-- n bits of a word from bit lo, zero-extended and shifted. -/
def zfld (w : Word) (lo n sh : Nat) : Word := (fld w lo n).setWidth 32 <<< sh

/-- R51 for every form. -/
def wordFields (w : Word) : WordFields :=
  if fld w 30 2 = 0 then
    { d := zfld w 14 7 0, a := zfld w 7 7 0, b := zfld w 0 7 0,
      imm := zfld w 25 5 0 ||| zfld w 21 4 8 ||| (((fld w 0 7).signExtend 32) <<< 16) }
  else if fld w 28 4 = 4 then
    { d := zfld w 7 7 0, a := zfld w 0 7 0, imm := zfld w 18 10 0 ||| zfld w 14 4 16 }
  else if fld w 28 4 = 5 then
    { d := zfld w 17 3 0 ||| zfld w 14 3 4, a := zfld w 7 7 0, b := zfld w 0 7 0,
      imm := zfld w 25 3 0 ||| zfld w 23 2 4 ||| zfld w 20 3 8 }
  else if fld w 28 4 = 6 then
    { d := zfld w 14 7 0, imm := (fld w 0 14).signExtend 32, aux := (zfld w 25 3 16).setWidth 64 }
  else if fld w 28 4 = 7 then
    { d := zfld w 8 7 0, a := zfld w 1 7 0, b := zfld w 15 6 0,
      imm := zfld w 24 4 0 ||| zfld w 21 3 4 ||| zfld w 0 1 8 }
  else if fld w 29 3 = 4 then
    { d := zfld w 15 5 0, a := zfld w 10 5 0, b := zfld w 5 5 0,
      imm := zfld w 23 6 0 ||| zfld w 0 5 8 ||| zfld w 20 3 16 }
  else if fld w 29 3 = 5 then
    { d := zfld w 17 5 0, imm := zfld w 0 17 0, aux := (zfld w 25 4 16).setWidth 64 }
  else if fld w 29 3 = 6 then { imm := zfld w 0 24 0, aux := (zfld w 24 5 16).setWidth 64 }
  else { imm := zfld w 0 21 0, aux := (zfld w 24 5 16).setWidth 64 }

/-- TRAP_CAUSE: cause, index of the word in its clause, debug bit (R210). -/
def trapCause (cause index : Nat) (debug : Bool) : Word :=
  BitVec.ofNat 32 (cause % 256 + 256 * (index % 16) + (if debug then 4096 else 0))

/-- What a word raises at issue. -/
structure TrapSpec where
  cause : Nat
  lanes : Dword := 0
  addr : Dword := 0
  aux : Dword := 0
  deriving DecidableEq, Repr

/-- The trap registers of an event at a word (R209, R210). -/
def trapRegsAt (pc word : Word) (index : Nat) (debug : Bool) (t : TrapSpec) : TrapRegs :=
  let f := wordFields word
  { cause := trapCause t.cause index debug, pc, word, d := f.d, a := f.a, b := f.b, imm := f.imm, lanes := t.lanes,
    addr := t.addr, aux := if t.cause = 1 then t.aux ||| f.aux else t.aux }

/-- Cause numbers of R210. -/
def causeIllegal : Nat := 1
def causeAlign : Nat := 2
def causeBounds : Nat := 3
def causeRights : Nat := 4
def causeStationary : Nat := 5
def causePoison : Nat := 6
def causeMember : Nat := 7
def causeExecute : Nat := 8
def causeConv : Nat := 9
def causeSoftware : Nat := 10
def causeBreak : Nat := 0x20
def causeWatch : Nat := 0x21
def causeStep : Nat := 0x22

/-- The trap registers as a record for the host (R214). -/
def TrapRegs.toVals (t : TrapRegs) : List Nat :=
  [t.cause.toNat, t.pc.toNat, t.word.toNat, t.d.toNat, t.a.toNat, t.b.toNat, t.imm.toNat, t.lanes.toNat, t.addr.toNat,
    t.aux.toNat] ++ t.hscr.map BitVec.toNat

/-- Something of R131 happens in the warp: no iteration in progress is quiet. -/
def Warp.unquiet (w : Warp) : Warp := { w with mons := w.mons.map fun m => { m with quiet := false } }

/-- A lane of some paths exits: no iteration of theirs is quiet (R131). -/
def Warp.unquietPath (w : Warp) (lanes : Dword) : Warp :=
  { w with mons := w.mons.map fun m => { m with quiet := m.quiet && m.lanes &&& lanes == 0 } }

/-- Ends demotions: their monitors start again at the path's next arrival (R134). -/
def Warp.endDemotions (w : Warp) (ended : Demotion → Bool) : Warp :=
  let gone := w.demoted.filter ended
  { w with
    demoted := w.demoted.filter fun d => !ended d
    mons := w.mons.map fun m =>
      if gone.any fun d => d.header == m.header then { m with digests := [], quietRun := 0 } else m }

/-- Spans that the lanes of a path have read since their last arrival at a monitored header, as far as a monitor keeps them:
each lane's from the monitor it arrived at last (R135). -/
def Warp.yieldSpans (w : Warp) (lanes : Dword) : List Nat :=
  let last (l : Nat) : List Nat :=
    match w.mons.filter fun m => inMask m.lanes l with
    | [] => []
    | m :: t => (t.foldl (fun (a b : Monitor) => if a.lastArrival ≤ b.lastArrival then b else a) m).spans
  ((maskLanes lanes).flatMap last).eraseDups

/-- A path is demoted from now on, by a YIELD (R135). -/
def Warp.demote (w : Warp) (lanes : Dword) (clk : Nat) : Warp :=
  let spans := w.yieldSpans lanes
  { w with demoted := w.demoted ++ [{ header := (w.lane (lowLane lanes)).pc, lanes,
                                      watch := if spans.length ≤ 8 then some spans else none, since := clk, hit := false }] }

/-- Lanes enter a handler: no iteration in progress is quiet, and a demoted path that one of them leaves is demoted no more
(R131, R134). -/
def Warp.interrupted (w : Warp) (lanes : Dword) : Warp := w.unquiet.endDemotions fun d => d.lanes &&& lanes != 0

/-- Ends a group (R214): its waiting gangs stop where they are, gangs inside a clause stop at its end, every other lane
exits; the host receives a record of the trap registers. -/
def State.endGroupFault (s : State) (gid : Nat) (t : TrapRegs) : State :=
  let mine (n : Nat) : Bool := match s.warp n with | some w => w.group == gid | none => false
  let stuck (g : Gang) : Bool :=
    mine g.warp && (g.wait != .none ||
      match s.warp g.warp with
      | some w => (maskLanes g.lanes).any fun l => match (w.lane l).stat with | .parked _ => true | _ => false
      | none => true)
  let gangs := s.gangs.filter fun g => !stuck g
  let flying (w : Nat) (l : Nat) : Bool := gangs.any fun g => g.warp == w && inMask g.lanes l
  let s := { s with
    gangs
    warps := s.warps.map fun (w : Warp) =>
      if w.group = gid then
        { w with
          lanes := mapFrom (fun l ln => if flying w.id l then ln else { ln with stat := .exited }) 0 w.lanes
          handler := none, pendTraps := [], cands := [], poison := [], dbgPark := none }
      else w }
  let s := s.updGroup gid fun g => { g with abandoned := true }
  s.post "group-fault" (gid :: t.toVals)

/-- A trap or debug event is taken by lanes of a warp, whose gang has already ended (R208, R214). While the warp is in a
handler, or parked on a debug event, another gang's event waits. In a group that has ended the lanes exit. An entering lane's PC leaves the header it stands at, so a
lane that was released from its meeting there arrives at it again when it returns (R122). -/
def State.deliver (s : State) (wid : Nat) (r : TrapReq) : State :=
  match s.warp wid with
  | none => s
  | some w =>
    match s.group w.group with
    | none => s
    | some grp =>
      if grp.abandoned then
        s.updWarp wid fun w =>
          w.mapLanes r.lanes fun _ ln => { ln with stat := .exited, exiting := false, npc := none, xfer := none }
      else
      let r : TrapReq := { r with regs := { r.regs with hscr := w.trap.hscr } }
      match w.handler, w.dbgPark with
      | some h, _ =>
        if maskSub r.lanes h.lanes then s.endGroupFault w.group r.regs
        else s.updWarp wid fun (w : Warp) => { w with pendTraps := w.pendTraps ++ [r] }
      | none, some _ => s.updWarp wid fun (w : Warp) => { w with pendTraps := w.pendTraps ++ [r] }
      | none, none =>
        let entry := if r.debug then grp.desc.dbgentry else grp.desc.handler
        if entry = 0xFFFFFFFF then
          if r.debug then
            (s.updWarp wid fun w => { (w.mapLanes r.lanes fun _ ln => { ln with stat := .parked .debug }).interrupted r.lanes with
              dbgPark := some r }).post "debug-event" (wid :: r.regs.toVals)
          else s.endGroupFault w.group r.regs
        else
          s.updWarp wid fun w =>
            { (w.mapLanes r.lanes fun _ ln =>
                { ln with pc := entry, npc := none, xfer := none, stat := .ready, released := false }).interrupted r.lanes with
              trap := r.regs
              handler := some { debug := r.debug, lanes := r.lanes, hdr := r.hdr, seta := r.seta, setb := r.setb,
                                rest := r.rest, yield := r.yield } }

/-- The issuing gang takes an event at its next word: the gang ends, its flag counts stay as they are (log 8), and all its
active lanes enter (R208). -/
def State.trapHere (s : State) (c : Ctx) (debug : Bool) (t : TrapSpec) : State :=
  let g := c.g
  (s.delGang g.uid).deliver g.warp
    { lanes := g.lanes, regs := trapRegsAt g.pc g.word g.index debug t, debug, hdr := g.hdr, seta := g.seta,
      setb := g.setb, rest := g.rest, yield := g.yield }

/-- Index of the word at which a handler's lanes resume: 0 when the handler wrote TRAP_PC (R213). -/
def Handler.index (h : Handler) (t : TrapRegs) : Nat := if h.wrotePc then 0 else (t.cause.extractLsb' 8 4).toNat

/-- Words left of the clause: skip mode passes over the trapping word. -/
def Handler.left (h : Handler) (t : TrapRegs) (skip : Bool) : List Word :=
  if skip && h.index t != 0 then h.rest.tail else h.rest

/-- The lanes resume inside the clause. -/
def Handler.inside (h : Handler) (t : TrapRegs) (skip : Bool) : Bool := h.index t != 0 && !(h.left t skip).isEmpty

/-- The pc at which lanes resume whose PC the handler has not set. -/
def Handler.target (h : Handler) (t : TrapRegs) (skip : Bool) : Word :=
  if h.index t = 0 then t.pc else if h.inside t skip then t.pc + (if skip then 4 else 0) else t.pc + 4

/-- A lane of a handler as it resumes: at the PC that MWRITE has set, or at the common target. At a clause boundary whose
PC is its meeting it arrives there (R121). -/
def Handler.place (h : Handler) (t : TrapRegs) (skip : Bool) (rtt : Xfer) (meets : Word → Bool) (l : Nat) (ln : Lane) :
    Lane :=
  let own := tabFind h.resume l
  let pc := own.getD (h.target t skip)
  let boundary := own.isSome || !h.inside t skip
  { ln with pc, npc := none, released := false, xfer := if own.isSome || h.wrotePc then some rtt else none
            stat := if boundary && pc == ln.meet && meets pc then .parked .meeting else .ready }

/-- Lanes of a handler that have not exited. -/
def Warp.resuming (w : Warp) (h : Handler) : Dword := w.lanesWhere fun l ln => inMask h.lanes l && ln.stat != .exited

/-- Of these, the lanes whose PC the handler has not set. -/
def Warp.together (w : Warp) (h : Handler) : Dword :=
  w.lanesWhere fun l ln => inMask h.lanes l && ln.stat != .exited && (tabFind h.resume l).isNone

/-- A warp whose handler has returned; after a debug event the first word that each lane resumes at raises no
breakpoint. -/
def Warp.resumed (w : Warp) (h : Handler) (skip : Bool) (rtt : Xfer) (meets : Word → Bool) : Warp :=
  { w.mapLanes (w.resuming h) (h.place w.trap skip rtt meets) with
    handler := none
    noBreak :=
      if h.debug then (h.target w.trap skip, w.together h) :: h.resume.map fun e => (e.2, 1#64 <<< e.1) else w.noBreak }

/-- Words of the interrupted clause that will not issue: all of them unless lanes resume inside it, else those that skip mode
passes over. -/
def Handler.dropped (h : Handler) (t : TrapRegs) (skip on : Bool) : List Word :=
  if on then h.rest.take (h.rest.length - (h.left t skip).length) else h.rest

/-- Lanes of a handler resume (R213): those whose PC MWRITE has set, and the rest at TRAP_PC; index 0, or a pc the handler
wrote, starts at a clause header, and another index continues inside the clause, after the trapping word in skip mode. The
counts of the words that will not issue fall (log 8). A pc that the handler wrote is fetched as the target of the RTT word. A
YIELD before the trap acts at the clause's end, which is now when no lane goes on inside it (R135).
An event that waited for the handler is then taken. -/
def State.resume (s : State) (wid : Nat) (skip : Bool) (rtt : Xfer) : State :=
  match s.warp wid with
  | none => s
  | some w =>
    match w.handler, s.group w.group with
    | some h, some grp =>
      let gl := w.together h
      let on := h.inside w.trap skip && gl != 0
      let w1 := (w.resumed h skip rtt (s.meets grp)).lowerFor h.seta h.setb (h.dropped w.trap skip on)
      let w1 := if h.yield && !on && gl != 0 then w1.demote gl (s.die grp.die).clk else w1
      let g : Gang := { uid := s.nextId, warp := wid, lanes := gl, hdr := h.hdr, rest := h.left w.trap skip, seta := h.seta
                        setb := h.setb, yield := h.yield, index := if skip then h.index w.trap + 1 else h.index w.trap }
      let s := if on then { s with nextId := s.nextId + 1, gangs := s.gangs ++ [g] } else s
      let s := s.updWarp wid fun _ => { w1 with pendTraps := w1.pendTraps.tail }
      match w1.pendTraps with
      | [] => s
      | r :: _ => s.deliver wid r
    | _, _ => s

end Sys2Proof.Machine
end

