-- ==== Sys2Proof/Machine/Threads.lean ====
section
/-! DEFINITION. Lanes at clause boundaries: meetings, barriers, warp-wide executions, spin monitors and the end of a clause
(06_core_threads.md R115–R135, 09_core_memory.md R183–R186, 10_core_uniform.md R200–R203). -/

namespace Sys2Proof.Machine

/-! ## Meetings (R121, R122) -/

/-- Releases every meeting all of whose members are parked. -/
def Warp.meetRelease (w : Warp) : Warp :=
  let blocked (m : Word) : Bool :=
    w.lanes.any fun ln => ln.stat != .exited && ln.meet == m && !(ln.stat == .parked .meeting && ln.pc == m)
  { w with lanes := w.lanes.map fun ln =>
      if ln.stat = .parked .meeting ∧ ¬ blocked ln.meet then { ln with stat := .ready, released := true } else ln }

/-! ## Warp-wide executions (R183–R185) -/

/-- Value of lane j's source: 32-bit values sign-extended. -/
def wwVal (w : Warp) (word : Word) (j : Nat) : Dword :=
  let a := (fld word 1 7).toNat
  if fld word 0 1 = 1 then readPair w j a else (readCode w j a).signExtend 64

/-- The combining operation of REDUCE and SCAN: 0 add, 1 signed min, 2 signed max, 3 and, 4 or, 5 xor. -/
def wwOp (op : Nat) (x y : Dword) : Dword :=
  match op with
  | 0 => x + y
  | 1 => if y.slt x then y else x
  | 2 => if x.slt y then y else x
  | 3 => x &&& y
  | 4 => x ||| y
  | _ => x ^^^ y

def wwFold (op : Nat) : List Dword → Dword
  | [] => 0
  | x :: t => t.foldl (wwOp op) x

/-- Source lane of a shuffle (R185). -/
def shflLane (wop l t : Nat) : Nat :=
  match wop with
  | 3 => t
  | 4 => if l < t then l else l - t
  | 5 => if 63 < l + t then l else l + t
  | _ => Nat.xor l t

/-- Result of lane l in an execution with given members (R184). -/
def wwResult (w : Warp) (word : Word) (mem : Dword) (l : Nat) : Dword :=
  let wop := (fld word 24 4).toNat
  let ps := (fld word 21 3).toNat
  let ms := maskLanes mem
  let p (j : Nat) : Bool := predBit (w.lane j).preds ps
  match wop with
  | 0 => maskOf (ms.filter p)
  | 1 => if (if fld word 0 1 = 0 then ms.all p else ms.any p) then 1 else 0
  | 2 => maskOf (ms.filter fun j => wwVal w word j == wwVal w word l)
  | 3 | 4 | 5 | 6 =>
    let k := shflLane wop l ((readCode w l (fld word 8 7).toNat).toNat % 64)
    if inMask mem k then wwVal w word k else 0
  | 7 | 8 | 9 | 10 | 11 | 12 => wwFold (wop - 7) (ms.map (wwVal w word))
  | _ => wwFold (wop - 13) ((ms.filter (decide <| · ≤ l)).map (wwVal w word))

/-- The result is a register pair. -/
def wwPair (word : Word) : Bool :=
  let wop := (fld word 24 4).toNat
  wop == 0 || wop == 2 || (wop != 1 && fld word 0 1 == 1)

/-- The register writes of lane l. -/
def wwWrites (w : Warp) (word : Word) (mem : Dword) (l : Nat) : List RegWrite :=
  let d := (fld word 8 7).toNat
  let x := wwResult w word mem l
  if wwPair word then [⟨l, d, loWord x⟩, ⟨l, d + 1, hiWord x⟩] else [⟨l, d, loWord x⟩]

/-- Lanes parked at a warp-wide word with a mask. -/
def wwArrived (w : Warp) (pc : Word) (mask : Dword) : Dword :=
  w.ops.foldl (fun a o =>
    match o.kind with
    | .warpWide ls _ =>
      if o.wordPc = pc then a ||| maskOf ((maskLanes ls).filter fun l => (w.lane l).wmask == mask) else a
    | _ => a) 0

/-- The execution of a word and mask is complete: every member that is not exited has arrived. -/
def wwReady (w : Warp) (pc : Word) (mask : Dword) : Bool := maskSub (mask &&& w.live) (wwArrived w pc mask)

/-- Lanes of an operation whose execution can take place. -/
def wwFire (w : Warp) (o : TOp) : List Nat :=
  match o.kind with
  | .warpWide ls _ => (maskLanes ls).filter fun l => wwReady w o.wordPc (w.lane l).wmask
  | _ => []

/-- Executes every warp-wide word all of whose members have arrived (R183); members' registers are read as R16 has it. -/
def Warp.wwEval (sees : Nat → Bool) (w : Warp) : Warp :=
  let v := w.view sees
  let freed := w.ops.flatMap (wwFire w)
  { w with
    ops := w.ops.map fun o =>
      match o.kind with
      | .warpWide ls got =>
        let f := wwFire w o
        let got := got ++ f.flatMap fun l => wwWrites v o.word ((w.lane l).wmask &&& w.live) l
        let left := ls &&& ~~~maskOf f
        { o with kind := if left = 0 then .done got else .warpWide left got }
      | _ => o
    lanes := mapFrom (fun l ln =>
      if freed.contains l && ln.stat == .parked .warpWide then { ln with stat := .ready, wmask := 0 } else ln) 0 w.lanes }

/-! ## Barriers (R200–R203) -/

/-- The unit that shares a group's barrier of a scope: key and part (R238). -/
def barUnit (s : State) (grp : Group) (scope : Nat) : Nat × Nat :=
  match s.launch grp.launch with
  | none => (grp.id, 0)
  | some ln =>
    match scope with
    | 0 => (grp.id, 0)
    | 1 => (ln.id, if ln.qspan = 0 then 0 else grp.index.toNat / ln.qspan)
    | 2 => (ln.id, grp.index.toNat / 8 % 4)
    | 3 => (ln.id, 0)
    | _ => (ln.podkey, 0)

/-- Barriers granted at a scope (R62, R199). -/
def KDesc.barCount (d : KDesc) (scope : Nat) : Nat :=
  match scope with
  | 0 => d.gbars
  | 1 => d.qbars
  | 2 => d.dbars
  | 3 => d.pbars
  | 4 => d.odbars
  | _ => 0

def isNetBar (scope idx key part : Nat) (b : NetBar) : Bool :=
  b.scope == scope && b.index == idx && b.key == key && b.part == part

def State.getBar (s : State) (grp : Group) (scope idx : Nat) : Barrier :=
  if scope = 0 then (match s.group grp.id with | some g => (g.bars[idx]?).getD {} | none => {})
  else
    let u := barUnit s grp scope
    match s.bars.find? (isNetBar scope idx u.1 u.2) with
    | some b => b.bar
    | none => {}

def State.modBar (s : State) (grp : Group) (scope idx : Nat) (f : Barrier → Barrier) : State :=
  if scope = 0 then s.updGroup grp.id fun g => { g with bars := listModify f g.bars idx }
  else
    let u := barUnit s grp scope
    { s with bars := s.bars.map fun b => if isNetBar scope idx u.1 u.2 b then { b with bar := f b.bar } else b }

def WarpBar.blank (scope idx : Nat) : WarpBar :=
  { scope, index := idx, set := 0, nextSync := 0, nextArr := 0, parked := 0, arrived := false, last := none }

def Warp.bar (w : Warp) (scope idx : Nat) : WarpBar :=
  match w.bars.find? fun b => b.scope == scope && b.index == idx with
  | some b => b
  | none => WarpBar.blank scope idx

def Warp.setBar (w : Warp) (b : WarpBar) : Warp :=
  if w.bars.any fun x => x.scope == b.scope && x.index == b.index then
    { w with bars := w.bars.map fun x => if x.scope = b.scope ∧ x.index = b.index then b else x }
  else { w with bars := w.bars ++ [b] }

/-- Groups that share a barrier of a scope with a group. -/
def State.barGroups (s : State) (grp : Group) (scope : Nat) : List Nat :=
  let u := barUnit s grp scope
  (s.groups.filter fun g => g.stat != .ended && barUnit s g scope == u).map Group.id

/-- Every warp of the group that has not ended has arrived at the barrier. -/
def State.groupArrived (s : State) (gid scope idx : Nat) : Bool :=
  (s.warps.filter fun w => w.group == gid && !w.ended).all fun w => (w.bar scope idx).arrived

/-- A warp arrives when its set holds every lane not exited (R201). A warp whose set is empty and whose lanes have all exited
does not arrive: the rule's words then hold of no lane, and its end lowers the expected count (log 18). -/
def State.tryArrive (s : State) (scope idx wid : Nat) : State :=
  match s.warp wid with
  | none => s
  | some w =>
    let b := w.bar scope idx
    if b.arrived || b.set == 0 || !maskSub w.live b.set then s
    else
      match s.group w.group with
      | none => s
      | some grp =>
        let gen := (s.getBar grp scope idx).gen
        let s := s.updWarp wid fun w => w.setBar { b with arrived := true, last := some gen }
        if scope = 0 then s.modBar grp scope idx fun x => { x with arr := x.arr + 1 }
        else if s.groupArrived grp.id scope idx then
          if scope = 4 then
            let u := barUnit s grp 4
            { s with bars := s.bars.map fun x => if isNetBar 4 idx u.1 u.2 x then { x with sent := x.sent + 1 } else x }
          else s.modBar grp scope idx fun x => { x with arr := x.arr + 1 }
        else s

/-- Lanes of a warp leave a barrier at an advance (R200, R201). -/
def Warp.barRelease (w : Warp) (scope idx : Nat) : Warp :=
  let b := w.bar scope idx
  let go := (b.parked ||| b.nextArr) &&& ~~~b.nextSync
  if w.bars.any fun x => x.scope == scope && x.index == idx then
    (w.mapLanes go fun _ ln => if ln.stat = .parked .barrier then { ln with stat := .ready } else ln).setBar
      { b with set := b.nextSync ||| b.nextArr, nextSync := 0, nextArr := 0, parked := b.nextSync, arrived := false }
  else w

/-- A scope wider than core acquires: the core's L1 lines are dropped (R103). -/
def State.dropL1 (s : State) (core : Nat) : State := { s with l1 := s.l1.filter fun c => c.owner != core }

/-- A gang acquires at a scope wider than core: at once, or once no store of its core is on its way, so that its core sees the
writes of the die in their one order (R101). -/
def State.acquireGang (s : State) (core uid : Nat) : State :=
  if s.wtSeen core then s.dropL1 core else s.updGang uid fun g => { g with wait := .acquire }

/-- The barrier advances: its lanes are released and acquire its scope (R201, R202). -/
def State.barAdvance (s : State) (grp : Group) (scope idx : Nat) (keepArr : Bool) : State :=
  let gids := s.barGroups grp scope
  let s := s.modBar grp scope idx fun x => { x with gen := x.gen + 1, arr := if keepArr then x.arr else 0 }
  let s := { s with warps := s.warps.map fun (w : Warp) =>
    if gids.contains w.group then w.barRelease scope idx else w }
  if scope = 0 then s
  else
    let cores := (s.groups.filter fun g => gids.contains g.id).map Group.coreId
    { s with l1 := s.l1.filter fun c => !cores.contains c.owner }

/-- Arrivals and advances of one barrier until nothing more happens; each round ends a generation. -/
def State.barSettle : Nat → State → Group → Nat → Nat → State
  | 0, s, _, _, _ => s
  | n + 1, s, grp, scope, idx =>
    let gids := s.barGroups grp scope
    let ws := (s.warps.filter fun w => gids.contains w.group && !w.ended).map Warp.id
    let s := ws.foldl (fun s w => s.tryArrive scope idx w) s
    let b := s.getBar grp scope idx
    if b.arr ≠ 0 ∧ b.exp.toNat ≤ b.arr.toNat ∧ scope ≠ 4 then
      State.barSettle n (s.barAdvance grp scope idx false) grp scope idx
    else s

/-- Evaluates every barrier of a warp again, after one of its lanes exits (R201). -/
def State.barPoll (s : State) (wid : Nat) : State :=
  match s.warp wid with
  | none => s
  | some w =>
    match s.group w.group with
    | none => s
    | some grp => w.bars.foldl (fun s b => s.barSettle 64 grp b.scope b.index) s

/-! ## Spin monitors (R130–R135) -/

/-- Digest over the arriving lanes' registers, predicates and meeting registers (R132; log 18). -/
def digestOf (w : Warp) (lanes : Dword) (allot : Nat) : Nat :=
  let mix (h x : Nat) : Nat := (h * 6364136223846793005 + x + 1) % 2 ^ 64
  (maskLanes lanes).foldl (fun h l =>
    let ln := w.lane l
    let h := ln.v.foldl (fun h e => if e.1 < allot then mix (mix h e.1) e.2.toNat else h) (mix h l)
    mix (mix h (ln.preds.toNat / 2)) ln.meet.toNat) 0

/-- Assigns a monitor to a header that none watches, reusing the one whose last arrival is oldest (R130). A monitor with no
arrival yet ranks by the clk of its assignment, and of equals the first is reused: the spec leaves both open (log 18). -/
def Warp.assignMonitor (w : Warp) (h : Word) (clk : Nat) : Warp :=
  if w.mons.any fun m => m.header == h then w
  else
    let m : Monitor := { header := h, lanes := 0, digests := [], quiet := false, quietRun := 0, spans := [],
                         lastArrival := clk }
    if w.mons.length < 4 then { w with mons := w.mons ++ [m] }
    else
      let old := w.mons.foldl (fun a x => min a x.lastArrival) ((w.mons.headD m).lastArrival)
      let i := w.mons.findIdx fun x => x.lastArrival == old
      { w with mons := listSet w.mons i m }

/-- An issue of a header by a gang is an arrival at its monitor (R130–R132, R134). -/
def Warp.spinArrive (w : Warp) (h : Word) (lanes : Dword) (allot clk : Nat) : Warp :=
  match w.mons.find? fun m => m.header == h with
  | none => w
  | some m =>
    let d := digestOf w lanes allot
    let run := if m.lanes = lanes ∧ m.quiet ∧ m.digests.headD (d + 1) = d then m.quietRun + 1 else 0
    let m' : Monitor := { m with lanes, digests := [d], quiet := true, quietRun := run, spans := [], lastArrival := clk }
    let demote := decide (2 ≤ run) && !(w.demoted.any fun x => x.lanes == lanes)
    { w with
      mons := w.mons.map fun x => if x.header = h then m' else x
      demoted := if demote then w.demoted ++ [{ header := h, lanes, watch := if m.spans.length ≤ 8 then some m.spans else none,
                                                since := clk, hit := false }] else w.demoted }

/-- Spans that lanes of a path read, noted at its monitors (R134). -/
def Warp.noteSpans (w : Warp) (lanes : Dword) (spans : List Nat) : Warp :=
  { w with mons := w.mons.map fun m =>
      if m.lanes &&& lanes != 0 then { m with spans := (m.spans ++ spans).eraseDups } else m }

/-- A lane of a demoted path has left it: its lanes no longer stand ready at one pc (R134). -/
def Warp.pathLeft (w : Warp) (d : Demotion) : Bool :=
  let ls := maskLanes d.lanes
  let pc := (w.lane (ls.headD 0)).pc
  !(ls.all fun l => (w.lane l).stat == .ready && (w.lane l).pc == pc)

/-- A demotion stays while the lanes of its path stand ready at one pc (R134). -/
def Warp.keepDemoted (w : Warp) : Warp := w.endDemotions w.pathLeft

/-! ## The end of a clause (R118, R121, R125) -/

/-- A lane at the end of its clause: exited, or at its next pc, parked there when it is its meeting (R121). -/
def laneEnd (next : Word) (abandoned : Bool) (meets : Word → Bool) (ln : Lane) : Lane :=
  if abandoned || ln.exiting then { ln with stat := .exited, exiting := false, npc := none, xfer := none }
  else
    let pc := ln.npc.getD next
    { ln with pc, npc := none, released := false,
              xfer := if ln.npc.isSome then ln.xfer else none
              stat := if pc == ln.meet && meets pc then .parked .meeting else .ready }

/-- Backward transfers of the clause: targets with displacement 0 or below (R130). -/
def backTargets (w : Warp) (lanes : Dword) : List Word :=
  ((maskLanes lanes).filterMap fun l =>
    match (w.lane l).npc, (w.lane l).xfer with
    | some t, some x => if (t - x.pc).toInt ≤ 0 then some t else none
    | _, _ => none).eraseDups

/-- A warp after its gang's clause has ended: the gang's lanes move on, a yield demotes their path, and meetings and
warp-wide words that waited for them are evaluated again. -/
def Warp.leave (w : Warp) (g : Gang) (grp : Group) (clk : Nat) (sees : Nat → Bool) (meets : Word → Bool) : Warp :=
  let next := g.hdr + BitVec.ofNat 32 (4 * g.index)
  let w := (backTargets w g.lanes).foldl (fun w h => w.assignMonitor h clk) w
  let exits := w.lanesWhere fun l ln => inMask g.lanes l && ln.exiting
  let w := w.mapLanes g.lanes fun _ ln => laneEnd next grp.abandoned meets ln
  let w := w.unquietPath exits
  let w := if g.yield then w.demote g.lanes clk else w
  (w.meetRelease.wwEval sees).keepDemoted

/-- The issuing gang ends: its lanes move on, and everything that waits on lanes arriving or exiting is evaluated again. -/
def State.endClause (s : State) (uid : Nat) : State :=
  match s.gang uid with
  | none => s
  | some g =>
    match s.warp g.warp with
    | none => s.delGang uid
    | some w =>
      match s.group w.group with
      | none => s.delGang uid
      | some grp =>
        ((s.delGang uid).updWarp g.warp fun _ => w.leave g grp (s.die grp.die).clk s.pick (s.meets grp)).barPoll g.warp

/-! ## Debug configuration blocks (R215) -/

/-- One debug record as 64 words (R215): single-step, breakpoints, watch ranges. -/
def debugRecord (r : List Word) : DebugRec :=
  let at' (i : Nat) : Word := (r[i]?).getD 0
  { step := (at' 0).getLsbD 0
    bps := (List.range 4).map fun i =>
      (at' (4 + 4 * i), (at' (5 + 4 * i)).getLsbD 0, joinWords (at' (7 + 4 * i)) (at' (6 + 4 * i)))
    watches := (List.range 4).map fun i =>
      (joinWords (at' (21 + 8 * i)) (at' (20 + 8 * i)), at' (22 + 8 * i), (at' (23 + 8 * i)).setWidth 5,
        joinWords (at' (25 + 8 * i)) (at' (24 + 8 * i))) }

/-- A record that the driver refuses: a reserved bit set (R215), a breakpoint offset that is not aligned, or a watch range with
enable set and length 0 (both inferred from the layout, log 43). -/
def debugReserved (r : List Word) : Bool :=
  let at' (i : Nat) : Word := (r[i]?).getD 0
  (at' 0 >>> 1 != 0) || ([1, 2, 3].any fun i => at' i != 0) ||
    ((List.range 4).any fun i => at' (5 + 4 * i) >>> 1 != 0 || fld (at' (4 + 4 * i)) 0 2 != 0) ||
    ((List.range 4).any fun i => at' (23 + 8 * i) >>> 5 != 0 || at' (26 + 8 * i) != 0 || at' (27 + 8 * i) != 0 ||
      ((at' (23 + 8 * i)).getLsbD 0 && at' (22 + 8 * i) == 0)) ||
    ((List.range 12).any fun i => at' (52 + i) != 0)

/-- Record w of a debug configuration block given as words. -/
def debugWords (block : List Word) (w : Nat) : List Word := (block.drop (16 + 64 * w)).take 64

/-- The driver refuses a debug configuration block: a reserved field set, in whichever record (R215), or another version, which
the layout gives as 1 (log 43). -/
def debugRefused (block : List Word) : Bool :=
  let at' (i : Nat) : Word := (block[i]?).getD 0
  at' 0 != 1 || at' 1 >>> 16 != 0 || ((List.range 12).any fun i => at' (4 + i) != 0) ||
    (List.range 16).any fun w => debugReserved (debugWords block w)

/-- The record that a block holds for a warp of a group: its bit of warps is set, and group names the group or all. -/
def debugFor (block : List Word) (group : Dword) (w : Nat) : Option DebugRec :=
  let g := joinWords ((block[3]?).getD 0) ((block[2]?).getD 0)
  if ((block[1]?).getD 0).getLsbD w && decide (w < 16) && (g == BitVec.allOnes 64 || g == group) then
    some (debugRecord (debugWords block w))
  else none

/-- The record that a warp loads at its launch or at a restore: that of the newest block that names it. -/
def debugLoad (blocks : List (List Word)) (group : Dword) (w : Nat) : DebugRec :=
  (blocks.findSome? fun b => debugFor b group w).getD {}

/-- A debug record that waits for the warp's clause boundary is loaded there, with no gang of the warp inside a clause; a gang
parked on a debug event then resumes at TRAP_PC (R214, R215). -/
def State.loadDebug (s : State) (wid : Nat) : State :=
  match s.warp wid with
  | none => s
  | some w =>
    match w.dbgNext with
    | none => s
    | some d =>
      if s.gangs.any fun g => g.warp == wid && g.wait == .none then s
      else
        match w.dbgPark with
        | none => s.updWarp wid fun w => { w with dbg := d, dbgNext := none }
        | some r =>
          ((s.updWarp wid fun w =>
            { w with dbg := d, dbgNext := none, dbgPark := none, trap := { r.regs with hscr := w.trap.hscr }
                     handler := some { debug := true, lanes := r.lanes, hdr := r.hdr, seta := r.seta, setb := r.setb,
                                       rest := r.rest, yield := r.yield } }).resume wid false { pc := 0, word := 0, index := 0 }).updWarp
            wid Warp.meetRelease

end Sys2Proof.Machine
end

