-- ==== Sys2Proof/Machine/Operands.lean ====
section
/-! DEFINITION. Operand forms: register operands of lane and uniform words, addresses of memory and Lantern forms, and the
checks of R172 (02_encoding.md R28–R46, 09_core_memory.md R171–R172, 10_core_uniform.md R193). -/

namespace Sys2Proof.Machine

/-- How a word reads a register code in its lane. -/
abbrev Rd := Nat → Word

def Rd.pair (rd : Rd) (c : Nat) : Dword := joinWords (rd (c + 1)) (rd c)

/-- Active lanes of the gang whose guard is true. -/
def Ctx.guarded (c : Ctx) (g : BitVec 4) : Dword := c.w.lanesWhere fun l ln => inMask c.g.lanes l && guardLane g ln

/-- Registers as lane l reads them. -/
def Ctx.rd (c : Ctx) (l : Nat) : Rd := readCode c.rv l

/-- Changes the guarded lanes of the gang: each sees its registers as read. -/
def Ctx.mapGuarded (c : Ctx) (g : BitVec 4) (f : Rd → Lane → Lane) : Warp :=
  c.w.mapLanes (c.guarded g) fun l ln => f (c.rd l) ln

/-- Changes every active lane of the gang. -/
def Ctx.mapActive (c : Ctx) (f : Rd → Lane → Lane) : Warp := c.w.mapLanes c.g.lanes fun l ln => f (c.rd l) ln

def State.setWarp (s : State) (w : Warp) : State := s.updWarp w.id fun _ => w

/-- Sign-extended immediate. -/
def simm {n : Nat} (i : BitVec n) : Word := i.signExtend 32

/-- Bytes of an operand of n bytes in register code c: 1, 2, 4, 8 or 16 bytes, lowest register first. -/
def regBytes (rd : Rd) (c n : Nat) : List Byte :=
  if n ≤ 4 then leBytes (rd c).toNat n
  else (List.range (n / 4)).flatMap fun i => leBytes (rd (c + i)).toNat 4

/-- Register writes of a loaded value of n bytes: the low registers of a pair or quad first, sub-word values extended
(R174, R175). -/
def loadWrites (lane reg n : Nat) (signed : Bool) (bs : List Byte) : List RegWrite :=
  if n < 4 then
    let x := leNat bs
    [⟨lane, reg, if signed then BitVec.ofInt 32 (sInt (8 * n) x) else BitVec.ofNat 32 x⟩]
  else (List.range (n / 4)).map fun i => ⟨lane, reg + i, BitVec.ofNat 32 (leNat ((bs.drop (4 * i)).take 4))⟩

/-! ## Addresses (R171, R193) -/

/-- Memory address: reference pair plus a signed offset in units of the access size. -/
def memEff (ref : Dword) (off : Int) (n : Nat) : Dword := refAdd ref (off * n)

/-- Lantern offset modulo 2^32. -/
def lanternEff (a : Word) (off : Int) (n : Nat) : Dword := (a + BitVec.ofInt 32 (off * n)).setWidth 64

/-! ## Checks of R172 -/

/-- What an access needs. -/
inductive AccNeed where
  | load | store | atomic | gred
  deriving DecidableEq, Repr

def AccNeed.right : AccNeed → Right
  | .load => .r
  | .store => .w
  | .atomic => .a
  | .gred => .n

/-- An access meets a row of R172: 1 alignment, 2 bounds, 3 rights, 4 stationary. The kick buffer meets none of 2 and 3. -/
def checkMeets (s : State) (grp : Group) (sp : Space) (need : AccNeed) (n : Nat) (a : Dword) (row : Nat) : Bool :=
  match row, sp with
  | 1, .mem => (need == .atomic || need == .gred) && a.toNat % n != 0
  | 1, .lantern => a.toNat % n != 0
  | 2, .mem => !s.isKick grp.ctx a && (match s.buf grp.ctx (refBuf a) with
    | none => true
    | some e => decide (e.size < refOff a + n))
  | 2, .lantern => decide (grp.desc.lbytes < a.toNat + n)
  | 3, .mem => !s.isKick grp.ctx a && (match s.buf grp.ctx (refBuf a) with
    | none => false
    | some e => e.ctx != grp.ctx || !hasRight e need.right)
  | 4, .lantern => need != .load && (s.quad grp.quad).stationary (grp.lbase + a.toNat) n
  | _, _ => false

/-- The trap of the first row that any lane meets, with the lanes that meet it and the address of the lowest (R172). -/
def checkLanes (s : State) (grp : Group) (sp : Space) (need : AccNeed) (n : Nat) (as : List (Nat × Dword)) :
    Option TrapSpec :=
  let bad (row : Nat) := as.filter fun x => checkMeets s grp sp need n x.2 row
  let row (r cause : Nat) : Option TrapSpec :=
    match bad r with
    | [] => none
    | x :: t => some { cause, lanes := maskOf ((x :: t).map (·.1)), addr := x.2 }
  (row 1 causeAlign).or ((row 2 causeBounds).or ((row 3 causeRights).or (row 4 causeStationary)))

/-- The same for a uniform access: every active lane of the gang fails with it (R189). -/
def checkUni (s : State) (c : Ctx) (sp : Space) (need : AccNeed) (n : Nat) (a : Dword) : Option TrapSpec :=
  (checkLanes s c.grp sp need n [(0, a)]).map fun t => { t with lanes := c.g.lanes }

end Sys2Proof.Machine
end

