-- ==== Sys2Proof/Machine/Issue.lean ====
section
/-! DEFINITION. The issue of one word by the gang in turn: events before the word, its checks, its effect, and what follows
(02_encoding.md R50, 11_core_traps.md R211, R216–R218). -/

namespace Sys2Proof.Machine

/-- An access of a word as watch ranges see it (R217): kind 0 read, 1 write, 2 atomic. -/
structure WatchAcc where
  lane : Nat
  space : Space
  addr : Dword
  size : Nat
  kind : Nat
  deriving DecidableEq, Repr

/-- What a word does at issue. -/
inductive Eff where
  /-- It stalls: nothing changes. -/
  | stall
  /-- It raises a trap and has no effect. -/
  | trap (t : TrapSpec)
  /-- It has ended the gang itself. -/
  | jump (s : State)
  /-- It has taken effect, with the accesses it made. -/
  | go (s : State) (acc : List WatchAcc)

/-! ## Checks at issue (R50) -/

/-- RTT and the handler accessors (R42). -/
def handlerOnly : Instr → Bool
  | .rtt .. | .lread .. | .lwrite .. | .pread .. | .pwrite .. | .mread .. | .mwrite .. | .barrd .. | .barwr .. => true
  | _ => false

/-- A trap register named outside a handler, which acts as an unlisted number (R209). -/
def trapRegOutside (i : Instr) (c : Ctx) : Bool :=
  match i with
  | .usrd _ _ n | .uswr _ _ n => srTrap n.toNat && !c.w.inHandler c.g.lanes
  | _ => false

/-- A v register at or above the current allotment (R29). -/
def beyondAllot (i : Instr) (c : Ctx) : Bool :=
  (laneUses i).any fun u => decide (u.code < 96) && decide (c.grp.allot < u.code + u.count)

/-- A barrier, tile or convergence number at or above the granted count, or a matrix word with no tile granted (R199, R302,
R317). -/
def grantBeyond (i : Instr) (c : Ctx) : Bool :=
  let d := c.grp.desc
  match i with
  | .bar _ _ scope idx => decide (d.barCount scope.toNat ≤ idx.toNat)
  | .mma _ cv .. => d.tiles == 0 || decide (d.cvcount ≤ cv.toNat)
  | .cset _ cv _ => decide (d.cvcount ≤ cv.toNat)
  | .mstat .. | .munstat .. | .scac .. => d.tiles == 0
  | .mzero _ t .. | .mtread _ t .. => decide (d.tiles ≤ t.toNat)
  | _ => false

/-- The first fault of R50 that a word with assigned opcode and clear reserved bits shows, as TRAP_AUX<7:0>. -/
def issueFault (i : Instr) (c : Ctx) : Option Nat :=
  if subfieldOk i = false ∨ trapRegOutside i c then some 2
  else if reservedOk i = false then some 3
  else if regsOk i = false ∨ beyondAllot i c ∨ grantBeyond i c then some 4
  else if predsOk i = false then some 5
  else if handlerOnly i ∧ ¬ c.w.inHandler c.g.lanes then some 6
  else none

/-- The same for a word given by its checks: sub-fields, reserved fields, registers, granted counts. -/
def checks (sub res regs : Bool) (granted : Ctx → Bool) (c : Ctx) : Option Nat :=
  if sub = false then some 2
  else if res = false then some 3
  else if regs = false ∨ granted c = false then some 4
  else none

/-! ## Debug events (R215–R218) -/

/-- A single-step event is due before the gang's next word. Where a trap is taken at a clause boundary first, the event stays
due until the handler has returned: the spec gives no order of the two (log 18). -/
def Ctx.stepDue (c : Ctx) : Bool := c.w.stepPend && !c.w.inHandler c.g.lanes

/-- The comparator that matches the gang's next word, with the matching lanes (R216). -/
def Ctx.breakpoint (c : Ctx) : Option (Nat × Dword) :=
  let pc := c.g.pc
  let lanes := c.w.noBreak.foldl (fun m e => if e.1 = pc then m &&& ~~~e.2 else m) c.g.lanes
  if c.w.inHandler c.g.lanes then none
  else
    ((mapFrom (fun i b => (i, b)) 0 c.w.dbg.bps).find? fun x =>
      x.2.2.1 && x.2.1 == pc && x.2.2.2 &&& lanes != 0).map fun x => (x.1, x.2.2.2 &&& lanes)

/-- An event that the gang takes before its next word has any effect: single-step, then breakpoint. -/
def Ctx.debugDue (c : Ctx) : Option TrapSpec :=
  if c.stepDue then some { cause := causeStep, lanes := c.g.lanes }
  else c.breakpoint.map fun x => { cause := causeBreak, lanes := x.2, aux := BitVec.ofNat 64 x.1 }

/-- Lanes of an access that a watch range sees: a uniform access counts for every active lane. -/
def watchLanes (lanes : Dword) (r : Dword × Word × BitVec 5 × Dword) (a : WatchAcc) : Dword :=
  let (wref, wlen, ctl, wl) := r
  let kindOn := ctl.getLsbD 0 && ctl.getLsbD (a.kind + 1) && ((a.space == .lantern) == ctl.getLsbD 4)
  let ref := if a.space = .lantern then wref.toNat % 2 ^ 32 else wref.toNat
  let overlap := decide (ref < a.addr.toNat + a.size) && decide (a.addr.toNat < ref + wlen.toNat)
  if kindOn && overlap then (if a.lane = uniLane then lanes else 1#64 <<< a.lane) &&& wl else 0

/-- The first watch range that the word's accesses match: range, lanes, address of the lowest lane (R217). -/
def watchHit (w : Warp) (lanes : Dword) (acc : List WatchAcc) : Option (Nat × Dword × Dword) :=
  (mapFrom (fun i r => (i, r)) 0 w.dbg.watches).findSome? fun x =>
    let m := acc.foldl (fun m a => m ||| watchLanes lanes x.2 a) 0
    if m = 0 then none
    else
      let lo := lowLane m
      some (x.1, m, ((acc.find? fun a => inMask (watchLanes lanes x.2 a) lo).map WatchAcc.addr).getD 0)

/-! ## After a word -/

/-- The gang has issued its word: it stands at the next, its lanes' pcs with it. -/
def State.popWord (s : State) (c : Ctx) : State :=
  let inH := c.w.inHandler c.g.lanes
  let s := s.updWarp c.w.id fun w =>
    { w.mapLanes c.g.lanes fun _ ln => { ln with pc := c.g.pc + 4 } with
      stepPend := w.stepPend || (w.dbg.step && !inH && c.g.index != 0)
      noBreak := (w.noBreak.map fun e => (e.1, e.2 &&& ~~~c.g.lanes)).filter fun e => e.2 != 0 }
  s.updGang c.g.uid fun g => { g with index := g.index + 1, rest := g.rest.tail }

/-- The clause ends when no word is left and the gang waits for nothing. -/
def State.finish (s : State) (uid : Nat) : State :=
  match s.gang uid with
  | none => s
  | some g => if g.rest.isEmpty && g.wait == .none then s.endClause uid else s

/-- A watchpoint is taken after the word, before the gang's next (R217); a single-step event of the same word is then not taken
(R211). After the clause's last word the word after the access is the next header. -/
def State.takeWatch (s : State) (c : Ctx) (acc : List WatchAcc) : State :=
  if c.w.inHandler c.g.lanes then s
  else
    match watchHit c.w c.g.lanes acc with
    | none => s
    | some (i, m, addr) =>
      let t : TrapSpec := { cause := causeWatch, lanes := m, addr,
                            aux := BitVec.ofNat 64 i ||| (c.g.pc.setWidth 64 <<< 32) }
      let s := s.updWarp c.w.id fun w => { w with stepPend := false }
      match s.gang c.g.uid with
      | some g => s.trapHere { c with g } true t
      | none =>
        let pc := c.g.pc + 4
        let word := (s.codeWord c.grp.die c.grp.ctx pc).getD 0
        s.deliver c.w.id
          { lanes := c.g.lanes, regs := trapRegsAt pc word 0 true t, debug := true, hdr := pc, seta := 15, setb := 15
            rest := [] }

/-- The word has taken effect. -/
def State.retire (s : State) (c : Ctx) (acc : List WatchAcc) : State :=
  (((s.popWord c).finish c.g.uid).takeWatch c acc).draw

/-- One word at issue (R211): debug events, the checks, the effect. -/
def issueIn (chk : Ctx → Option Nat) (eff : Ctx → State → Eff) (c : Ctx) (s : State) : State :=
  match c.debugDue with
  | some t => (s.updWarp c.w.id fun w => { w with stepPend := false }).trapHere c true t
  | none =>
    match chk c with
    | some n => s.trapHere c false { cause := causeIllegal, lanes := c.g.lanes, aux := BitVec.ofNat 64 n }
    | none =>
      match eff c s with
      | .stall => s
      | .trap t => s.trapHere c false t
      | .jump s' => s'.draw
      | .go s' acc => s'.retire c acc

/-- The meaning of a core word: with no gang issuing there is none. -/
def issue (chk : Ctx → Option Nat) (eff : Ctx → State → Eff) (s : State) : Host.Outcome State Fault Refusal :=
  match s.ctx with
  | none => .fault .noGang
  | some c => .next (issueIn chk eff c s)

/-! ## Shapes of lane words -/

/-- A lane word that changes its guarded lanes. -/
def laneWord (i : Instr) (g : BitVec 4) (f : Rd → Lane → Lane) (s : State) : Host.Outcome State Fault Refusal :=
  issue (issueFault i) (fun c s => .go (s.setWarp (c.mapGuarded g f)) []) s

/-- A lane word that writes one register. -/
def lane32 (i : Instr) (g : BitVec 4) (d : BitVec 7) (f : Rd → Word) (s : State) : Host.Outcome State Fault Refusal :=
  laneWord i g (fun rd ln => ln.put d.toNat (f rd)) s

/-- A lane word that writes a register pair. -/
def lane64 (i : Instr) (g : BitVec 4) (d : BitVec 7) (f : Rd → Dword) (s : State) : Host.Outcome State Fault Refusal :=
  laneWord i g (fun rd ln => ln.putPair d.toNat (f rd)) s

/-- A compare: it writes predicates in every active lane (R38, R149). -/
def compareWord (i : Instr) (ct pd1 pd2 : BitVec 3) (c : Rd → Bool) (unord : Rd → Bool) (s : State) :
    Host.Outcome State Fault Refusal :=
  issue (issueFault i) (fun x s => .go (s.setWarp (x.mapActive fun rd ln =>
    { ln with preds := comparePreds ct pd1 pd2 (c rd) (unord rd) ln.preds })) []) s

/-! ## Tracked operations (R14, R15, R32) -/

/-- A new tracked operation of the issuing gang. -/
def Ctx.newOp (c : Ctx) (id : Nat) (fa fb : Option Nat) (kind : OpKind) : TOp :=
  { id, fa, fb, lanes := c.g.lanes, kind, word := c.g.word, wordPc := c.g.pc }

/-- Adds a tracked operation to the warp. -/
def State.addOp (s : State) (wid : Nat) (o : TOp) : State := s.updWarp wid fun w => { w with ops := w.ops ++ [o] }

/-- The counts of a word without effect fall at once (R32). -/
def State.fallNow (s : State) (wid : Nat) (fa fb : Option Nat) : State :=
  s.updWarp wid fun w => (w.lowerOpt fa).lowerOpt fb

/-- Tracked arithmetic: the result is known and written when the operation completes. -/
def laneTracked (i : Instr) (g : BitVec 4) (w : Rd → Nat → List RegWrite) (s : State) :
    Host.Outcome State Fault Refusal :=
  issue (issueFault i) (fun c s =>
    let ls := maskLanes (c.guarded g)
    if ls.isEmpty then .go (s.fallNow c.w.id c.g.fa none) []
    else
      let (id, s) := s.fresh
      .go (s.addOp c.w.id (c.newOp id c.g.fa none (.done (ls.flatMap fun l => w (c.rd l) l)))) []) s

/-! ## Shapes of uniform words -/

/-- A uniform word that changes the warp when its guard is true; it reads registers in the view of R16. -/
def uniWord (i : Instr) (k : BitVec 3) (f : Warp → Warp → Warp) (s : State) : Host.Outcome State Fault Refusal :=
  issue (issueFault i) (fun c s => .go (if guardUni k c.w then s.setWarp (f c.rv c.w) else s) []) s

/-- A uniform word that writes one register: an s register is written, so no iteration is quiet (R131). -/
def uni32 (i : Instr) (k : BitVec 3) (d : BitVec 5) (f : Warp → Word) (s : State) : Host.Outcome State Fault Refusal :=
  uniWord i k (fun rv w => (w.putS d.toNat (f rv)).unquiet) s

/-- A uniform word that writes a register pair. -/
def uni64 (i : Instr) (k : BitVec 3) (d : BitVec 5) (f : Warp → Dword) (s : State) : Host.Outcome State Fault Refusal :=
  uniWord i k (fun rv w => (w.putSPair d.toNat (f rv)).unquiet) s

/-- A uniform compare: both predicates (R42). -/
def uniCompare (i : Instr) (k : BitVec 3) (k1 k2 : BitVec 2) (f : Warp → Bool) (s : State) :
    Host.Outcome State Fault Refusal :=
  uniWord i k (fun rv w => { w with k := setK (setK w.k k1.toNat (f rv)) k2.toNat (!f rv) }.unquiet) s

end Sys2Proof.Machine
end

