-- ==== Sys2Proof/Machine/Integer.lean ====
section
/-! DEFINITION. Integer, logic, compare and lane control words (07_core_integer.md R143–R155). -/

namespace Sys2Proof.Machine

/-! ## Values shared by lane and uniform words -/

def mulHigh (a b : Word) : Word := ((a.signExtend 64 * b.signExtend 64) >>> 32).setWidth 32

def mulHighN (a b : Word) : Word := ((a.setWidth 64 * b.setWidth 64) >>> 32).setWidth 32

/-- Shifts by bits 7:0 of the count (R144). -/
def shiftL (a k : Word) : Word := a <<< (k.toNat % 256)
def shiftRN (a k : Word) : Word := a >>> (k.toNat % 256)
def shiftRI (a k : Word) : Word := a.sshiftRight (k.toNat % 256)

def minI (a b : Word) : Word := if b.slt a then b else a
def maxI (a b : Word) : Word := if a.slt b then b else a
def minN (a b : Word) : Word := if b.ult a then b else a
def maxN (a b : Word) : Word := if a.ult b then b else a
def minI64 (a b : Dword) : Dword := if b.slt a then b else a
def maxI64 (a b : Dword) : Dword := if a.slt b then b else a
def minN64 (a b : Dword) : Dword := if b.ult a then b else a
def maxN64 (a b : Dword) : Dword := if a.ult b then b else a

/-- Number of set bits. -/
def popCount {n : Nat} (a : BitVec n) : Nat := ((List.range n).filter a.getLsbD).length

/-- Zero bits above the highest set bit. -/
def leadZeros {n : Nat} (a : BitVec n) : Nat := n - bitLen a.toNat

/-- Zero bits below the lowest set bit. -/
def trailZeros {n : Nat} (a : BitVec n) : Nat := ((List.range n).findIdx? a.getLsbD).getD n

/-- Bit i moved to bit 31 − i. -/
def bitReverse (a : Word) : Word := a.reverse

/-- Clamp of R143 to the signed or unsigned 32-bit range. -/
def clampI (x : Int) : Word := BitVec.ofInt 32 (max (-(2 ^ 31)) (min (2 ^ 31 - 1) x))
def clampN (x : Int) : Word := BitVec.ofInt 32 (max 0 (min (2 ^ 32 - 1) x))

/-- Position and used width of a bit-field specification (R147). -/
def fieldPos (f : Word) : Nat := f.toNat % 32
def fieldWid (f : Word) : Nat := min (min (f.toNat / 256 % 64) 32) (32 - fieldPos f)

def bfxN (x f : Word) : Word := BitVec.ofNat 32 (x.toNat / 2 ^ fieldPos f % 2 ^ fieldWid f)

def bfxI (x f : Word) : Word :=
  if fieldWid f = 0 then 0 else BitVec.ofInt 32 (sInt (fieldWid f) (x.toNat / 2 ^ fieldPos f))

def bfiW (x v f : Word) : Word :=
  let m : Word := BitVec.ofNat 32 ((2 ^ fieldWid f - 1) * 2 ^ fieldPos f)
  (x &&& ~~~m) ||| ((v <<< fieldPos f) &&& m)

/-! ## Three-operand words (R144) -/

/-- R144: add. -/
def execAdd (g : BitVec 4) (d a b : BitVec 7) (s : State) :
    Host.Outcome State Fault Refusal :=
  lane32 (.add g d a b) g d (fun rd => rd a.toNat + rd b.toNat) s

/-- R144: sub. -/
def execSub (g : BitVec 4) (d a b : BitVec 7) (s : State) :
    Host.Outcome State Fault Refusal :=
  lane32 (.sub g d a b) g d (fun rd => rd a.toNat - rd b.toNat) s

/-- R144: mul. -/
def execMul (g : BitVec 4) (d a b : BitVec 7) (s : State) :
    Host.Outcome State Fault Refusal :=
  lane32 (.mul g d a b) g d (fun rd => rd a.toNat * rd b.toNat) s

/-- R144: mulhi. -/
def execMulhi (g : BitVec 4) (d a b : BitVec 7) (s : State) :
    Host.Outcome State Fault Refusal :=
  lane32 (.mulhi g d a b) g d (fun rd => mulHigh (rd a.toNat) (rd b.toNat)) s

/-- R144: mulhn. -/
def execMulhn (g : BitVec 4) (d a b : BitVec 7) (s : State) :
    Host.Outcome State Fault Refusal :=
  lane32 (.mulhn g d a b) g d (fun rd => mulHighN (rd a.toNat) (rd b.toNat)) s

/-- R144: and. -/
def execAnd (g : BitVec 4) (d a b : BitVec 7) (s : State) :
    Host.Outcome State Fault Refusal :=
  lane32 (.and g d a b) g d (fun rd => rd a.toNat &&& rd b.toNat) s

/-- R144: or. -/
def execOr (g : BitVec 4) (d a b : BitVec 7) (s : State) :
    Host.Outcome State Fault Refusal :=
  lane32 (.or g d a b) g d (fun rd => rd a.toNat ||| rd b.toNat) s

/-- R144: xor. -/
def execXor (g : BitVec 4) (d a b : BitVec 7) (s : State) :
    Host.Outcome State Fault Refusal :=
  lane32 (.xor g d a b) g d (fun rd => rd a.toNat ^^^ rd b.toNat) s

/-- R144: shl. -/
def execShl (g : BitVec 4) (d a b : BitVec 7) (s : State) :
    Host.Outcome State Fault Refusal :=
  lane32 (.shl g d a b) g d (fun rd => shiftL (rd a.toNat) (rd b.toNat)) s

/-- R144: shrn. -/
def execShrn (g : BitVec 4) (d a b : BitVec 7) (s : State) :
    Host.Outcome State Fault Refusal :=
  lane32 (.shrn g d a b) g d (fun rd => shiftRN (rd a.toNat) (rd b.toNat)) s

/-- R144: shri. -/
def execShri (g : BitVec 4) (d a b : BitVec 7) (s : State) :
    Host.Outcome State Fault Refusal :=
  lane32 (.shri g d a b) g d (fun rd => shiftRI (rd a.toNat) (rd b.toNat)) s

/-- R144: mini. -/
def execMini (g : BitVec 4) (d a b : BitVec 7) (s : State) :
    Host.Outcome State Fault Refusal :=
  lane32 (.mini g d a b) g d (fun rd => minI (rd a.toNat) (rd b.toNat)) s

/-- R144: maxi. -/
def execMaxi (g : BitVec 4) (d a b : BitVec 7) (s : State) :
    Host.Outcome State Fault Refusal :=
  lane32 (.maxi g d a b) g d (fun rd => maxI (rd a.toNat) (rd b.toNat)) s

/-- R144: minn. -/
def execMinn (g : BitVec 4) (d a b : BitVec 7) (s : State) :
    Host.Outcome State Fault Refusal :=
  lane32 (.minn g d a b) g d (fun rd => minN (rd a.toNat) (rd b.toNat)) s

/-- R144: maxn. -/
def execMaxn (g : BitVec 4) (d a b : BitVec 7) (s : State) :
    Host.Outcome State Fault Refusal :=
  lane32 (.maxn g d a b) g d (fun rd => maxN (rd a.toNat) (rd b.toNat)) s

/-- R144: sel; g4 selects and does not guard. -/
def execSel (p : BitVec 4) (d a b : BitVec 7) (s : State) :
    Host.Outcome State Fault Refusal :=
  issue (issueFault (.sel p d a b)) (fun c s => .go (s.setWarp (c.mapActive fun rd ln =>
    ln.put d.toNat (if guardLane p ln then rd a.toNat else rd b.toNat))) []) s

/-! ## Immediates (R145) -/

/-- R145: movi. -/
def execMovi (g : BitVec 4) (d : BitVec 7) (i : BitVec 14) (s : State) :
    Host.Outcome State Fault Refusal :=
  lane32 (.movi g d i) g d (fun _ => simm i) s

/-- R145: addi. -/
def execAddi (g : BitVec 4) (d : BitVec 7) (i : BitVec 14) (s : State) :
    Host.Outcome State Fault Refusal :=
  lane32 (.addi g d i) g d (fun rd => rd d.toNat + simm i) s

/-- R145: andi. -/
def execAndi (g : BitVec 4) (d : BitVec 7) (i : BitVec 14) (s : State) :
    Host.Outcome State Fault Refusal :=
  lane32 (.andi g d i) g d (fun rd => rd d.toNat &&& simm i) s

/-- R145: ori. -/
def execOri (g : BitVec 4) (d : BitVec 7) (i : BitVec 14) (s : State) :
    Host.Outcome State Fault Refusal :=
  lane32 (.ori g d i) g d (fun rd => rd d.toNat ||| simm i) s

/-- R145: xori. -/
def execXori (g : BitVec 4) (d : BitVec 7) (i : BitVec 14) (s : State) :
    Host.Outcome State Fault Refusal :=
  lane32 (.xori g d i) g d (fun rd => rd d.toNat ^^^ simm i) s

/-! ## Extended integer words (R146, R147) -/

/-- R146: mov. -/
def execMov (g : BitVec 4) (d a : BitVec 7) (s : State) :
    Host.Outcome State Fault Refusal :=
  lane32 (.mov g d a) g d (fun rd => rd a.toNat) s

/-- R146: not. -/
def execNot (g : BitVec 4) (d a : BitVec 7) (s : State) :
    Host.Outcome State Fault Refusal :=
  lane32 (.not g d a) g d (fun rd => ~~~(rd a.toNat)) s

/-- R146: neg. -/
def execNeg (g : BitVec 4) (d a : BitVec 7) (s : State) :
    Host.Outcome State Fault Refusal :=
  lane32 (.neg g d a) g d (fun rd => -(rd a.toNat)) s

/-- R146: abs. -/
def execAbs (g : BitVec 4) (d a : BitVec 7) (s : State) :
    Host.Outcome State Fault Refusal :=
  lane32 (.abs g d a) g d (fun rd => if (rd a.toNat).msb then -(rd a.toNat) else rd a.toNat) s

/-- R146: popc. -/
def execPopc (g : BitVec 4) (d a : BitVec 7) (s : State) :
    Host.Outcome State Fault Refusal :=
  lane32 (.popc g d a) g d (fun rd => BitVec.ofNat 32 (popCount (rd a.toNat))) s

/-- R146: clz. -/
def execClz (g : BitVec 4) (d a : BitVec 7) (s : State) :
    Host.Outcome State Fault Refusal :=
  lane32 (.clz g d a) g d (fun rd => BitVec.ofNat 32 (leadZeros (rd a.toNat))) s

/-- R146: ctz. -/
def execCtz (g : BitVec 4) (d a : BitVec 7) (s : State) :
    Host.Outcome State Fault Refusal :=
  lane32 (.ctz g d a) g d (fun rd => BitVec.ofNat 32 (trailZeros (rd a.toNat))) s

/-- R146: brev. -/
def execBrev (g : BitVec 4) (d a : BitVec 7) (s : State) :
    Host.Outcome State Fault Refusal :=
  lane32 (.brev g d a) g d (fun rd => bitReverse (rd a.toNat)) s

/-- R146: sext8. -/
def execSext8 (g : BitVec 4) (d a : BitVec 7) (s : State) :
    Host.Outcome State Fault Refusal :=
  lane32 (.sext8 g d a) g d (fun rd => ((rd a.toNat).setWidth 8).signExtend 32) s

/-- R146: sext16. -/
def execSext16 (g : BitVec 4) (d a : BitVec 7) (s : State) :
    Host.Outcome State Fault Refusal :=
  lane32 (.sext16 g d a) g d (fun rd => ((rd a.toNat).setWidth 16).signExtend 32) s

/-- R146: andn. -/
def execAndn (g : BitVec 4) (d a : BitVec 7) (s : State) :
    Host.Outcome State Fault Refusal :=
  lane32 (.andn g d a) g d (fun rd => rd d.toNat &&& ~~~(rd a.toNat)) s

/-- R146: orn. -/
def execOrn (g : BitVec 4) (d a : BitVec 7) (s : State) :
    Host.Outcome State Fault Refusal :=
  lane32 (.orn g d a) g d (fun rd => rd d.toNat ||| ~~~(rd a.toNat)) s

/-- R146: rotl. -/
def execRotl (g : BitVec 4) (d a : BitVec 7) (s : State) :
    Host.Outcome State Fault Refusal :=
  lane32 (.rotl g d a) g d (fun rd => (rd d.toNat).rotateLeft ((rd a.toNat).toNat % 32)) s

/-- R146: rotr. -/
def execRotr (g : BitVec 4) (d a : BitVec 7) (s : State) :
    Host.Outcome State Fault Refusal :=
  lane32 (.rotr g d a) g d (fun rd => (rd d.toNat).rotateRight ((rd a.toNat).toNat % 32)) s

/-- R146: addsi. -/
def execAddsi (g : BitVec 4) (d a : BitVec 7) (s : State) :
    Host.Outcome State Fault Refusal :=
  lane32 (.addsi g d a) g d (fun rd => clampI ((rd d.toNat).toInt + (rd a.toNat).toInt)) s

/-- R146: subsi. -/
def execSubsi (g : BitVec 4) (d a : BitVec 7) (s : State) :
    Host.Outcome State Fault Refusal :=
  lane32 (.subsi g d a) g d (fun rd => clampI ((rd d.toNat).toInt - (rd a.toNat).toInt)) s

/-- R146: addsn. -/
def execAddsn (g : BitVec 4) (d a : BitVec 7) (s : State) :
    Host.Outcome State Fault Refusal :=
  lane32 (.addsn g d a) g d (fun rd => clampN (((rd d.toNat).toNat : Int) + (rd a.toNat).toNat)) s

/-- R146: subsn. -/
def execSubsn (g : BitVec 4) (d a : BitVec 7) (s : State) :
    Host.Outcome State Fault Refusal :=
  lane32 (.subsn g d a) g d (fun rd => clampN (((rd d.toNat).toNat : Int) - (rd a.toNat).toNat)) s

/-- R146, R147: bfxn. -/
def execBfxn (g : BitVec 4) (d a : BitVec 7) (s : State) :
    Host.Outcome State Fault Refusal :=
  lane32 (.bfxn g d a) g d (fun rd => bfxN (rd d.toNat) (rd a.toNat)) s

/-- R146, R147: bfxi. -/
def execBfxi (g : BitVec 4) (d a : BitVec 7) (s : State) :
    Host.Outcome State Fault Refusal :=
  lane32 (.bfxi g d a) g d (fun rd => bfxI (rd d.toNat) (rd a.toNat)) s

/-- R146, R147: bfi. -/
def execBfi (g : BitVec 4) (d a : BitVec 7) (s : State) :
    Host.Outcome State Fault Refusal :=
  lane32 (.bfi g d a) g d (fun rd => bfiW (rd d.toNat) (rd a.toNat) (rd (a.toNat + 1))) s

/-- R146: mov64. -/
def execMov64 (g : BitVec 4) (d a : BitVec 7) (s : State) :
    Host.Outcome State Fault Refusal :=
  lane64 (.mov64 g d a) g d (fun rd => Rd.pair rd a.toNat) s

/-- R146: neg64. -/
def execNeg64 (g : BitVec 4) (d a : BitVec 7) (s : State) :
    Host.Outcome State Fault Refusal :=
  lane64 (.neg64 g d a) g d (fun rd => -(Rd.pair rd a.toNat)) s

/-- R146: sext64. -/
def execSext64 (g : BitVec 4) (d a : BitVec 7) (s : State) :
    Host.Outcome State Fault Refusal :=
  lane64 (.sext64 g d a) g d (fun rd => (rd a.toNat).signExtend 64) s

/-- R146: add64. -/
def execAdd64 (g : BitVec 4) (d a : BitVec 7) (s : State) :
    Host.Outcome State Fault Refusal :=
  lane64 (.add64 g d a) g d (fun rd => Rd.pair rd d.toNat + Rd.pair rd a.toNat) s

/-- R146: sub64. -/
def execSub64 (g : BitVec 4) (d a : BitVec 7) (s : State) :
    Host.Outcome State Fault Refusal :=
  lane64 (.sub64 g d a) g d (fun rd => Rd.pair rd d.toNat - Rd.pair rd a.toNat) s

/-- R146: mul64. -/
def execMul64 (g : BitVec 4) (d a : BitVec 7) (s : State) :
    Host.Outcome State Fault Refusal :=
  lane64 (.mul64 g d a) g d (fun rd => Rd.pair rd d.toNat * Rd.pair rd a.toNat) s

/-- R146: shl64. -/
def execShl64 (g : BitVec 4) (d a : BitVec 7) (s : State) :
    Host.Outcome State Fault Refusal :=
  lane64 (.shl64 g d a) g d (fun rd => Rd.pair rd d.toNat <<< ((rd a.toNat).toNat % 256)) s

/-- R146: shrn64. -/
def execShrn64 (g : BitVec 4) (d a : BitVec 7) (s : State) :
    Host.Outcome State Fault Refusal :=
  lane64 (.shrn64 g d a) g d (fun rd => Rd.pair rd d.toNat >>> ((rd a.toNat).toNat % 256)) s

/-- R146: shri64. -/
def execShri64 (g : BitVec 4) (d a : BitVec 7) (s : State) :
    Host.Outcome State Fault Refusal :=
  lane64 (.shri64 g d a) g d (fun rd => (Rd.pair rd d.toNat).sshiftRight ((rd a.toNat).toNat % 256)) s

/-- R146: mini64. -/
def execMini64 (g : BitVec 4) (d a : BitVec 7) (s : State) :
    Host.Outcome State Fault Refusal :=
  lane64 (.mini64 g d a) g d (fun rd => minI64 (Rd.pair rd d.toNat) (Rd.pair rd a.toNat)) s

/-- R146: maxi64. -/
def execMaxi64 (g : BitVec 4) (d a : BitVec 7) (s : State) :
    Host.Outcome State Fault Refusal :=
  lane64 (.maxi64 g d a) g d (fun rd => maxI64 (Rd.pair rd d.toNat) (Rd.pair rd a.toNat)) s

/-- R146: minn64. -/
def execMinn64 (g : BitVec 4) (d a : BitVec 7) (s : State) :
    Host.Outcome State Fault Refusal :=
  lane64 (.minn64 g d a) g d (fun rd => minN64 (Rd.pair rd d.toNat) (Rd.pair rd a.toNat)) s

/-- R146: maxn64. -/
def execMaxn64 (g : BitVec 4) (d a : BitVec 7) (s : State) :
    Host.Outcome State Fault Refusal :=
  lane64 (.maxn64 g d a) g d (fun rd => maxN64 (Rd.pair rd d.toNat) (Rd.pair rd a.toNat)) s

/-- R146: mulwi. -/
def execMulwi (g : BitVec 4) (d a : BitVec 7) (s : State) :
    Host.Outcome State Fault Refusal :=
  lane64 (.mulwi g d a) g d (fun rd => (rd d.toNat).signExtend 64 * (rd a.toNat).signExtend 64) s

/-- R146: mulwn. -/
def execMulwn (g : BitVec 4) (d a : BitVec 7) (s : State) :
    Host.Outcome State Fault Refusal :=
  lane64 (.mulwn g d a) g d (fun rd => (rd d.toNat).setWidth 64 * (rd a.toNat).setWidth 64) s

/-- R146: popc64. -/
def execPopc64 (g : BitVec 4) (d a : BitVec 7) (s : State) :
    Host.Outcome State Fault Refusal :=
  lane32 (.popc64 g d a) g d (fun rd => BitVec.ofNat 32 (popCount (Rd.pair rd a.toNat))) s

/-- R146: clz64. -/
def execClz64 (g : BitVec 4) (d a : BitVec 7) (s : State) :
    Host.Outcome State Fault Refusal :=
  lane32 (.clz64 g d a) g d (fun rd => BitVec.ofNat 32 (leadZeros (Rd.pair rd a.toNat))) s

/-! ## Compares (R37, R38, R148, R149) -/

/-- R148: cmpI32. -/
def execCmpI32 (c : BitVec 2) (t x y : BitVec 3) (a b : BitVec 7) (s : State) :
    Host.Outcome State Fault Refusal :=
  compareWord (.cmpI32 c t x y a b) t x y (fun rd => condI32 c (rd a.toNat) (rd b.toNat)) (fun _ => false) s

/-- R148: cmpN32. -/
def execCmpN32 (c : BitVec 2) (t x y : BitVec 3) (a b : BitVec 7) (s : State) :
    Host.Outcome State Fault Refusal :=
  compareWord (.cmpN32 c t x y a b) t x y (fun rd => condN32 c (rd a.toNat) (rd b.toNat)) (fun _ => false) s

/-- R148: cmpI64. -/
def execCmpI64 (c : BitVec 2) (t x y : BitVec 3) (a b : BitVec 7) (s : State) :
    Host.Outcome State Fault Refusal :=
  compareWord (.cmpI64 c t x y a b) t x y (fun rd => condI64 c (Rd.pair rd a.toNat) (Rd.pair rd b.toNat)) (fun _ => false) s

/-- R148: cmpiI32. -/
def execCmpiI32 (c : BitVec 2) (t x y : BitVec 3) (a b : BitVec 7) (s : State) :
    Host.Outcome State Fault Refusal :=
  compareWord (.cmpiI32 c t x y a b) t x y (fun rd => condI32 c (rd a.toNat) (simm b)) (fun _ => false) s

/-- R148: testb. -/
def execTestb (c : BitVec 2) (t x y : BitVec 3) (a b : BitVec 7) (s : State) :
    Host.Outcome State Fault Refusal :=
  compareWord (.testb c t x y a b) t x y (fun rd => condTest c (rd a.toNat) (rd b.toNat)) (fun _ => false) s

/-! ## Lane transfers (R150, R151) -/

/-- A lane takes a transfer of the gang's word to a target. -/
def Ctx.take (c : Ctx) (target : Word) (ln : Lane) : Lane :=
  { ln with npc := some target, xfer := some { pc := c.g.pc, word := c.g.word, index := c.g.index } }

/-- A lane transfer: target and change of the lane's registers, each from the registers as read. -/
def laneTransfer (i : Instr) (g : BitVec 4) (target : Ctx → Rd → Word) (link : Ctx → Lane → Lane) (s : State) :
    Host.Outcome State Fault Refusal :=
  issue (issueFault i) (fun c s => .go (s.setWarp (c.mapGuarded g fun rd ln => link c (c.take (target c rd) ln))) []) s

/-- Target of a direct transfer: a signed displacement in words from the word itself. -/
def Ctx.disp {n : Nat} (c : Ctx) (i : BitVec n) : Word := c.g.pc + (i.signExtend 32 <<< 2)

/-- The link pair of a call: next clause and the call (R150). -/
def Ctx.link (c : Ctx) (d : BitVec 7) (ln : Lane) : Lane := (ln.put d.toNat (c.g.pc + 4)).put (d.toNat + 1) c.g.pc

/-- R150: brl. -/
def execBrl (g : BitVec 4) (i : BitVec 14) (s : State) :
    Host.Outcome State Fault Refusal :=
  laneTransfer (.brl g i) g (fun c _ => c.disp i) (fun _ ln => ln) s

/-- R150: calll. -/
def execCalll (g : BitVec 4) (d : BitVec 7) (i : BitVec 14) (s : State) :
    Host.Outcome State Fault Refusal :=
  laneTransfer (.calll g d i) g (fun c _ => c.disp i) (fun c ln => c.link d ln) s

/-- R150: brr. -/
def execBrr (g : BitVec 4) (a : BitVec 7) (s : State) :
    Host.Outcome State Fault Refusal :=
  laneTransfer (.brr g a) g (fun _ rd => rd a.toNat) (fun _ ln => ln) s

/-- R150: callr; the target is read before the link is written. -/
def execCallr (g : BitVec 4) (d a : BitVec 7) (s : State) :
    Host.Outcome State Fault Refusal :=
  laneTransfer (.callr g d a) g (fun _ rd => rd a.toNat) (fun c ln => c.link d ln) s

/-- R152: exit. The lanes exit at the end of the clause. -/
def execExit (g : BitVec 4) (s : State) :
    Host.Outcome State Fault Refusal :=
  laneWord (.exit g) g (fun _ ln => { ln with exiting := true }) s

/-! ## Meeting registers (R120–R122, R153, R154) -/

/-- A word that changes meeting registers: the meeting condition is evaluated again. -/
def meetWord (i : Instr) (g : BitVec 4) (f : Ctx → Rd → Lane → Lane) (s : State) : Host.Outcome State Fault Refusal :=
  issue (issueFault i) (fun c s => .go (s.setWarp (c.mapGuarded g (f c)).meetRelease) []) s

/-- R153: meet. -/
def execMeet (g : BitVec 4) (d : BitVec 7) (i : BitVec 14) (s : State) :
    Host.Outcome State Fault Refusal :=
  meetWord (.meet g d i) g (fun c _ ln => { ln.put d.toNat ln.meet with meet := c.disp i }) s

/-- R153, R154: meetr. -/
def execMeetr (g : BitVec 4) (a : BitVec 7) (s : State) :
    Host.Outcome State Fault Refusal :=
  meetWord (.meetr g a) g (fun _ rd ln => { ln with meet := rd a.toNat }) s

end Sys2Proof.Machine
end

