-- ==== Sys2Proof/Machine/LaneMem.lean ====
section
/-! DEFINITION. Lane memory words, atomics, gather-reduce and warp-wide words (09_core_memory.md R171–R187). -/

namespace Sys2Proof.Machine

/-- Addresses of the guarded lanes of the gang, ascending. -/
def Ctx.addrs (c : Ctx) (g : BitVec 4) (f : Rd → Dword) : List (Nat × Dword) :=
  (maskLanes (c.guarded g)).map fun l => (l, f (c.rd l))

/-- A memory form's address: reference pair and scaled signed offset. -/
def memAddr (a : BitVec 7) (off : Int) (n : Nat) (rd : Rd) : Dword := memEff (Rd.pair rd a.toNat) off n

/-- A Lantern form's address: offset register and scaled signed offset. -/
def lanternAddr (a : BitVec 7) (off : Int) (n : Nat) (rd : Rd) : Dword := lanternEff (rd a.toNat) off n

def watchOf (sp : Space) (n kind : Nat) (as : List (Nat × Dword)) : List WatchAcc :=
  as.map fun x => ⟨x.1, sp, x.2, n, kind⟩

/-- The effect of a load word at given lanes' addresses (R172, R174, R175): one tracked operation, performed later. -/
def loadEff (sp : Space) (n : Nat) (signed : Bool) (reg : Nat) (as : List (Nat × Dword)) (c : Ctx) (s : State) : Eff :=
  match checkLanes s c.grp sp .load n as with
  | some t => .trap t
  | none =>
    if as.isEmpty then .go (s.fallNow c.w.id c.g.fa none) []
    else
      let (id, s) := s.fresh
      .go (s.addOp c.w.id (c.newOp id c.g.fa none
        (.accesses (as.map fun x => ⟨x.1, sp, x.2, n, reg, .load signed⟩)))) (watchOf sp n 0 as)

/-- A lane load. -/
def laneLoad (i : Instr) (g : BitVec 4) (sp : Space) (n : Nat) (signed : Bool) (d : BitVec 7) (addr : Rd → Dword)
    (s : State) : Host.Outcome State Fault Refusal :=
  issue (issueFault i) (fun c s => loadEff sp n signed d.toNat (c.addrs g addr) c s) s

/-- The effect of a store word: one entry of the warp's store queue, lanes ascending; it stalls while the queue holds 16
entries (R176). -/
def storeEff (sp : Space) (n : Nat) (data : Nat → List Byte) (as : List (Nat × Dword)) (c : Ctx) (s : State) : Eff :=
  match checkLanes s c.grp sp .store n as with
  | some t => .trap t
  | none =>
    if as.isEmpty then .go (s.fallNow c.w.id none c.g.fb) []
    else if 16 ≤ c.w.sq.length then .stall
    else
      let (id, s) := s.fresh
      let e : SQEntry := { id, items := as.map fun x => ⟨x.1, sp, x.2, data x.1⟩, fb := c.g.fb,
                           lanes := c.g.lanes, word := c.g.word, wordPc := c.g.pc }
      .go (s.updWarp c.w.id fun w => { w.unquiet with sq := w.sq ++ [e] }) (watchOf sp n 1 as)

/-- A lane store: the low n bytes of register code d. -/
def laneStore (i : Instr) (g : BitVec 4) (sp : Space) (n : Nat) (d : BitVec 7) (addr : Rd → Dword) (s : State) :
    Host.Outcome State Fault Refusal :=
  issue (issueFault i) (fun c s => storeEff sp n (fun l => regBytes (c.rd l) d.toNat n) (c.addrs g addr) c s) s

/-! ## Loads and stores (R174, R175) -/

/-- R174: ld32. -/
def execLd32 (g : BitVec 4) (d a o : BitVec 7) (s : State) :
    Host.Outcome State Fault Refusal :=
  laneLoad (.ld32 g d a o) g .mem 4 false d (memAddr a o.toInt 4) s

/-- R174: ld64. -/
def execLd64 (g : BitVec 4) (d a o : BitVec 7) (s : State) :
    Host.Outcome State Fault Refusal :=
  laneLoad (.ld64 g d a o) g .mem 8 false d (memAddr a o.toInt 8) s

/-- R174: ld128. -/
def execLd128 (g : BitVec 4) (d a o : BitVec 7) (s : State) :
    Host.Outcome State Fault Refusal :=
  laneLoad (.ld128 g d a o) g .mem 16 false d (memAddr a o.toInt 16) s

/-- R174: st32. -/
def execSt32 (g : BitVec 4) (d a o : BitVec 7) (s : State) :
    Host.Outcome State Fault Refusal :=
  laneStore (.st32 g d a o) g .mem 4 d (memAddr a o.toInt 4) s

/-- R174: st64. -/
def execSt64 (g : BitVec 4) (d a o : BitVec 7) (s : State) :
    Host.Outcome State Fault Refusal :=
  laneStore (.st64 g d a o) g .mem 8 d (memAddr a o.toInt 8) s

/-- R174: st128. -/
def execSt128 (g : BitVec 4) (d a o : BitVec 7) (s : State) :
    Host.Outcome State Fault Refusal :=
  laneStore (.st128 g d a o) g .mem 16 d (memAddr a o.toInt 16) s

/-- R174: lds. -/
def execLds (g : BitVec 4) (d a o : BitVec 7) (s : State) :
    Host.Outcome State Fault Refusal :=
  laneLoad (.lds g d a o) g .lantern 4 false d (lanternAddr a o.toInt 4) s

/-- R174: sts. -/
def execSts (g : BitVec 4) (d a o : BitVec 7) (s : State) :
    Host.Outcome State Fault Refusal :=
  laneStore (.sts g d a o) g .lantern 4 d (lanternAddr a o.toInt 4) s

/-- R175: ld8n. -/
def execLd8n (g : BitVec 4) (d a : BitVec 7) (s : State) :
    Host.Outcome State Fault Refusal :=
  laneLoad (.ld8n g d a) g .mem 1 false d (memAddr a 0 1) s

/-- R175: ld8i. -/
def execLd8i (g : BitVec 4) (d a : BitVec 7) (s : State) :
    Host.Outcome State Fault Refusal :=
  laneLoad (.ld8i g d a) g .mem 1 true d (memAddr a 0 1) s

/-- R175: ld16n. -/
def execLd16n (g : BitVec 4) (d a : BitVec 7) (s : State) :
    Host.Outcome State Fault Refusal :=
  laneLoad (.ld16n g d a) g .mem 2 false d (memAddr a 0 2) s

/-- R175: ld16i. -/
def execLd16i (g : BitVec 4) (d a : BitVec 7) (s : State) :
    Host.Outcome State Fault Refusal :=
  laneLoad (.ld16i g d a) g .mem 2 true d (memAddr a 0 2) s

/-- R175: st8. -/
def execSt8 (g : BitVec 4) (d a : BitVec 7) (s : State) :
    Host.Outcome State Fault Refusal :=
  laneStore (.st8 g d a) g .mem 1 d (memAddr a 0 1) s

/-- R175: st16. -/
def execSt16 (g : BitVec 4) (d a : BitVec 7) (s : State) :
    Host.Outcome State Fault Refusal :=
  laneStore (.st16 g d a) g .mem 2 d (memAddr a 0 2) s

/-- R175: lds8n. -/
def execLds8n (g : BitVec 4) (d a : BitVec 7) (s : State) :
    Host.Outcome State Fault Refusal :=
  laneLoad (.lds8n g d a) g .lantern 1 false d (lanternAddr a 0 1) s

/-- R175: lds8i. -/
def execLds8i (g : BitVec 4) (d a : BitVec 7) (s : State) :
    Host.Outcome State Fault Refusal :=
  laneLoad (.lds8i g d a) g .lantern 1 true d (lanternAddr a 0 1) s

/-- R175: lds16n. -/
def execLds16n (g : BitVec 4) (d a : BitVec 7) (s : State) :
    Host.Outcome State Fault Refusal :=
  laneLoad (.lds16n g d a) g .lantern 2 false d (lanternAddr a 0 2) s

/-- R175: lds16i. -/
def execLds16i (g : BitVec 4) (d a : BitVec 7) (s : State) :
    Host.Outcome State Fault Refusal :=
  laneLoad (.lds16i g d a) g .lantern 2 true d (lanternAddr a 0 2) s

/-- R175: lds64. -/
def execLds64 (g : BitVec 4) (d a : BitVec 7) (s : State) :
    Host.Outcome State Fault Refusal :=
  laneLoad (.lds64 g d a) g .lantern 8 false d (lanternAddr a 0 8) s

/-- R175: lds128. -/
def execLds128 (g : BitVec 4) (d a : BitVec 7) (s : State) :
    Host.Outcome State Fault Refusal :=
  laneLoad (.lds128 g d a) g .lantern 16 false d (lanternAddr a 0 16) s

/-- R175: sts8. -/
def execSts8 (g : BitVec 4) (d a : BitVec 7) (s : State) :
    Host.Outcome State Fault Refusal :=
  laneStore (.sts8 g d a) g .lantern 1 d (lanternAddr a 0 1) s

/-- R175: sts16. -/
def execSts16 (g : BitVec 4) (d a : BitVec 7) (s : State) :
    Host.Outcome State Fault Refusal :=
  laneStore (.sts16 g d a) g .lantern 2 d (lanternAddr a 0 2) s

/-- R175: sts64. -/
def execSts64 (g : BitVec 4) (d a : BitVec 7) (s : State) :
    Host.Outcome State Fault Refusal :=
  laneStore (.sts64 g d a) g .lantern 8 d (lanternAddr a 0 8) s

/-- R175: sts128. -/
def execSts128 (g : BitVec 4) (d a : BitVec 7) (s : State) :
    Host.Outcome State Fault Refusal :=
  laneStore (.sts128 g d a) g .lantern 16 d (lanternAddr a 0 16) s

/-! ## Atomics (R180) -/

/-- Bytes of an atomic's location by op4. -/
def atomBytes (op : Nat) : Nat := if op = 10 ∨ op = 11 ∨ op = 12 then 8 else 4

/-- Operand and compare values: register codes d upward (R180). -/
def atomOperands (op : Nat) (rd : Rd) (d : Nat) : Dword × Dword :=
  match op with
  | 9 => ((rd d).setWidth 64, (rd (d + 1)).setWidth 64)
  | 10 | 11 => (Rd.pair rd d, 0)
  | 12 => (Rd.pair rd d, Rd.pair rd (d + 2))
  | _ => ((rd d).setWidth 64, 0)

/-- The new value of an atomic, if it defines one (R180). -/
def atomNew (op : Nat) (old a b : Dword) : Option Dword :=
  let o32 : Word := old.setWidth 32
  let a32 : Word := a.setWidth 32
  let ext (x : Word) : Option Dword := some (x.setWidth 64)
  match op with
  | 0 => ext (o32 + a32)
  | 1 => ext (o32 &&& a32)
  | 2 => ext (o32 ||| a32)
  | 3 => ext (o32 ^^^ a32)
  | 4 => ext (if a32.slt o32 then a32 else o32)
  | 5 => ext (if o32.slt a32 then a32 else o32)
  | 6 => ext (if a32.ult o32 then a32 else o32)
  | 7 => ext (if o32.ult a32 then a32 else o32)
  | 8 => ext a32
  | 9 => if o32 = a32 then ext (b.setWidth 32) else none
  | 10 => some (old + a)
  | 11 => some a
  | 12 => if old = a then some b else none
  | _ => ext (BitVec.ofNat 32 (fadd .f32 o32.toNat a32.toNat))

/-- A compare-and-swap (R180): it changes its location whenever it succeeds (R131). -/
def casOp (op : Nat) : Bool := op == 9 || op == 12

/-- Address of an atomic: a reference pair, or a Lantern offset (R180). -/
def atomAddr (sp : Space) (a : BitVec 7) (rd : Rd) : Dword :=
  match sp with
  | .mem => Rd.pair rd a.toNat
  | .lantern => (rd a.toNat).setWidth 64

/-- A global or Lantern atomic: checks, then one tracked operation on both flags. -/
def laneAtomic (i : Instr) (g : BitVec 4) (sp : Space) (op scope ord : Nat) (d a : BitVec 7) (s : State) :
    Host.Outcome State Fault Refusal :=
  issue (issueFault i) (fun c s =>
    let n := atomBytes op
    let as := c.addrs g (atomAddr sp a)
    match checkLanes s c.grp sp .atomic n as with
    | some t => .trap t
    | none =>
      if as.isEmpty then .go (s.fallNow c.w.id c.g.fa c.g.fb) []
      else
        let (id, s) := s.fresh
        let acc := as.map fun x =>
          let v := atomOperands op (c.rd x.1) d.toNat
          (⟨x.1, sp, x.2, n, d.toNat, .atomic op scope ord v.1 v.2⟩ : Access)
        .go (s.addOp c.w.id (c.newOp id c.g.fa c.g.fb (.accesses acc))) (watchOf sp n 2 as)) s

/-- R180: atom.add. -/
def execAtomAdd (p : BitVec 3) (o : BitVec 2) (g : BitVec 4) (d a : BitVec 7) (s : State) :
    Host.Outcome State Fault Refusal :=
  laneAtomic (.atomAdd p o g d a) g .mem 0 p.toNat o.toNat d a s

/-- R180: atom.and. -/
def execAtomAnd (p : BitVec 3) (o : BitVec 2) (g : BitVec 4) (d a : BitVec 7) (s : State) :
    Host.Outcome State Fault Refusal :=
  laneAtomic (.atomAnd p o g d a) g .mem 1 p.toNat o.toNat d a s

/-- R180: atom.or. -/
def execAtomOr (p : BitVec 3) (o : BitVec 2) (g : BitVec 4) (d a : BitVec 7) (s : State) :
    Host.Outcome State Fault Refusal :=
  laneAtomic (.atomOr p o g d a) g .mem 2 p.toNat o.toNat d a s

/-- R180: atom.xor. -/
def execAtomXor (p : BitVec 3) (o : BitVec 2) (g : BitVec 4) (d a : BitVec 7) (s : State) :
    Host.Outcome State Fault Refusal :=
  laneAtomic (.atomXor p o g d a) g .mem 3 p.toNat o.toNat d a s

/-- R180: atom.mini. -/
def execAtomMini (p : BitVec 3) (o : BitVec 2) (g : BitVec 4) (d a : BitVec 7) (s : State) :
    Host.Outcome State Fault Refusal :=
  laneAtomic (.atomMini p o g d a) g .mem 4 p.toNat o.toNat d a s

/-- R180: atom.maxi. -/
def execAtomMaxi (p : BitVec 3) (o : BitVec 2) (g : BitVec 4) (d a : BitVec 7) (s : State) :
    Host.Outcome State Fault Refusal :=
  laneAtomic (.atomMaxi p o g d a) g .mem 5 p.toNat o.toNat d a s

/-- R180: atom.minn. -/
def execAtomMinn (p : BitVec 3) (o : BitVec 2) (g : BitVec 4) (d a : BitVec 7) (s : State) :
    Host.Outcome State Fault Refusal :=
  laneAtomic (.atomMinn p o g d a) g .mem 6 p.toNat o.toNat d a s

/-- R180: atom.maxn. -/
def execAtomMaxn (p : BitVec 3) (o : BitVec 2) (g : BitVec 4) (d a : BitVec 7) (s : State) :
    Host.Outcome State Fault Refusal :=
  laneAtomic (.atomMaxn p o g d a) g .mem 7 p.toNat o.toNat d a s

/-- R180: atom.swap. -/
def execAtomSwap (p : BitVec 3) (o : BitVec 2) (g : BitVec 4) (d a : BitVec 7) (s : State) :
    Host.Outcome State Fault Refusal :=
  laneAtomic (.atomSwap p o g d a) g .mem 8 p.toNat o.toNat d a s

/-- R180: atom.cas. -/
def execAtomCas (p : BitVec 3) (o : BitVec 2) (g : BitVec 4) (d a : BitVec 7) (s : State) :
    Host.Outcome State Fault Refusal :=
  laneAtomic (.atomCas p o g d a) g .mem 9 p.toNat o.toNat d a s

/-- R180: atom.add64. -/
def execAtomAdd64 (p : BitVec 3) (o : BitVec 2) (g : BitVec 4) (d a : BitVec 7) (s : State) :
    Host.Outcome State Fault Refusal :=
  laneAtomic (.atomAdd64 p o g d a) g .mem 10 p.toNat o.toNat d a s

/-- R180: atom.swap64. -/
def execAtomSwap64 (p : BitVec 3) (o : BitVec 2) (g : BitVec 4) (d a : BitVec 7) (s : State) :
    Host.Outcome State Fault Refusal :=
  laneAtomic (.atomSwap64 p o g d a) g .mem 11 p.toNat o.toNat d a s

/-- R180: atom.cas64. -/
def execAtomCas64 (p : BitVec 3) (o : BitVec 2) (g : BitVec 4) (d a : BitVec 7) (s : State) :
    Host.Outcome State Fault Refusal :=
  laneAtomic (.atomCas64 p o g d a) g .mem 12 p.toNat o.toNat d a s

/-- R180: atom.fadd32. -/
def execAtomFadd32 (p : BitVec 3) (o : BitVec 2) (g : BitVec 4) (d a : BitVec 7) (s : State) :
    Host.Outcome State Fault Refusal :=
  laneAtomic (.atomFadd32 p o g d a) g .mem 13 p.toNat o.toNat d a s

/-- R180: latom.add. -/
def execLatomAdd (g : BitVec 4) (d a : BitVec 7) (s : State) :
    Host.Outcome State Fault Refusal :=
  laneAtomic (.latomAdd g d a) g .lantern 0 0 0 d a s

/-- R180: latom.and. -/
def execLatomAnd (g : BitVec 4) (d a : BitVec 7) (s : State) :
    Host.Outcome State Fault Refusal :=
  laneAtomic (.latomAnd g d a) g .lantern 1 0 0 d a s

/-- R180: latom.or. -/
def execLatomOr (g : BitVec 4) (d a : BitVec 7) (s : State) :
    Host.Outcome State Fault Refusal :=
  laneAtomic (.latomOr g d a) g .lantern 2 0 0 d a s

/-- R180: latom.xor. -/
def execLatomXor (g : BitVec 4) (d a : BitVec 7) (s : State) :
    Host.Outcome State Fault Refusal :=
  laneAtomic (.latomXor g d a) g .lantern 3 0 0 d a s

/-- R180: latom.mini. -/
def execLatomMini (g : BitVec 4) (d a : BitVec 7) (s : State) :
    Host.Outcome State Fault Refusal :=
  laneAtomic (.latomMini g d a) g .lantern 4 0 0 d a s

/-- R180: latom.maxi. -/
def execLatomMaxi (g : BitVec 4) (d a : BitVec 7) (s : State) :
    Host.Outcome State Fault Refusal :=
  laneAtomic (.latomMaxi g d a) g .lantern 5 0 0 d a s

/-- R180: latom.minn. -/
def execLatomMinn (g : BitVec 4) (d a : BitVec 7) (s : State) :
    Host.Outcome State Fault Refusal :=
  laneAtomic (.latomMinn g d a) g .lantern 6 0 0 d a s

/-- R180: latom.maxn. -/
def execLatomMaxn (g : BitVec 4) (d a : BitVec 7) (s : State) :
    Host.Outcome State Fault Refusal :=
  laneAtomic (.latomMaxn g d a) g .lantern 7 0 0 d a s

/-- R180: latom.swap. -/
def execLatomSwap (g : BitVec 4) (d a : BitVec 7) (s : State) :
    Host.Outcome State Fault Refusal :=
  laneAtomic (.latomSwap g d a) g .lantern 8 0 0 d a s

/-- R180: latom.cas. -/
def execLatomCas (g : BitVec 4) (d a : BitVec 7) (s : State) :
    Host.Outcome State Fault Refusal :=
  laneAtomic (.latomCas g d a) g .lantern 9 0 0 d a s

/-- R180: latom.add64. -/
def execLatomAdd64 (g : BitVec 4) (d a : BitVec 7) (s : State) :
    Host.Outcome State Fault Refusal :=
  laneAtomic (.latomAdd64 g d a) g .lantern 10 0 0 d a s

/-- R180: latom.swap64. -/
def execLatomSwap64 (g : BitVec 4) (d a : BitVec 7) (s : State) :
    Host.Outcome State Fault Refusal :=
  laneAtomic (.latomSwap64 g d a) g .lantern 11 0 0 d a s

/-- R180: latom.cas64. -/
def execLatomCas64 (g : BitVec 4) (d a : BitVec 7) (s : State) :
    Host.Outcome State Fault Refusal :=
  laneAtomic (.latomCas64 g d a) g .lantern 12 0 0 d a s

/-- R180: latom.fadd32. -/
def execLatomFadd32 (g : BitVec 4) (d a : BitVec 7) (s : State) :
    Host.Outcome State Fault Refusal :=
  laneAtomic (.latomFadd32 g d a) g .lantern 13 0 0 d a s

/-! ## Gather-reduce (R181, R182) -/

/-- The warp's stores before a name have left its queue and, for a scope wider than core, every store of the core has been
performed: the warp may have read those of the other warps (R92, R98, R103). -/
def State.storesDoneAt (s : State) (w : Warp) (core scope before : Nat) : Bool :=
  (w.sq.all fun e => decide (before ≤ e.id)) && (scope == 0 || s.wtClear core)

/-- The same for every store that the warp has issued. -/
def State.storesDone (s : State) (w : Warp) (core scope : Nat) : Bool := s.storesDoneAt w core scope s.nextId

/-- GRED: held at issue until every earlier store of the warp is performed. -/
def laneGred (i : Instr) (g : BitVec 4) (op : Nat) (d a : BitVec 7) (s : State) : Host.Outcome State Fault Refusal :=
  issue (issueFault i) (fun c s =>
    let as := c.addrs g fun rd => Rd.pair rd a.toNat
    match checkLanes s c.grp .mem .gred 4 as with
    | some t => .trap t
    | none =>
      if as.isEmpty then .go (s.fallNow c.w.id c.g.fa none) []
      else if s.storesDone c.w c.grp.coreId 3 then
        let (id, s) := s.fresh
        .go (s.addOp c.w.id (c.newOp id c.g.fa none
          (.gred op (as.map fun x => ⟨x.1, .mem, x.2, 4, d.toNat, .load false⟩)))) (watchOf .mem 4 0 as)
      else .stall) s

/-- R181: gred.add. -/
def execGredAdd (g : BitVec 4) (d a : BitVec 7) (s : State) :
    Host.Outcome State Fault Refusal :=
  laneGred (.gredAdd g d a) g 0 d a s

/-- R181: gred.fadd32. -/
def execGredFadd32 (g : BitVec 4) (d a : BitVec 7) (s : State) :
    Host.Outcome State Fault Refusal :=
  laneGred (.gredFadd32 g d a) g 1 d a s

/-- R181: gred.mini. -/
def execGredMini (g : BitVec 4) (d a : BitVec 7) (s : State) :
    Host.Outcome State Fault Refusal :=
  laneGred (.gredMini g d a) g 2 d a s

/-- R181: gred.maxi. -/
def execGredMaxi (g : BitVec 4) (d a : BitVec 7) (s : State) :
    Host.Outcome State Fault Refusal :=
  laneGred (.gredMaxi g d a) g 3 d a s

/-- R181: gred.minn. -/
def execGredMinn (g : BitVec 4) (d a : BitVec 7) (s : State) :
    Host.Outcome State Fault Refusal :=
  laneGred (.gredMinn g d a) g 4 d a s

/-- R181: gred.maxn. -/
def execGredMaxn (g : BitVec 4) (d a : BitVec 7) (s : State) :
    Host.Outcome State Fault Refusal :=
  laneGred (.gredMaxn g d a) g 5 d a s

/-! ## Warp-wide words (R183–R186) -/

/-- Two lanes at one word hold different masks and either names the other. -/
def masksClash (l : Nat) (m : Dword) (k : Nat) (n : Dword) : Bool := m != n && (inMask m k || inMask n l)

/-- Lanes parked at the word, with their masks. -/
def parkedAt (w : Warp) (pc : Word) : List (Nat × Dword) :=
  w.ops.flatMap fun o =>
    match o.kind with
    | .warpWide ls _ => if o.wordPc = pc then (maskLanes ls).map fun l => (l, (w.lane l).wmask) else []
    | _ => []

/-- Lanes of the gang that meet the condition of the member trap (R186). -/
def memberFails (w : Warp) (pc : Word) (ms : List (Nat × Dword)) : List (Nat × Dword) :=
  let others := ms ++ parkedAt w pc
  ms.filter fun x => !inMask x.2 x.1 || others.any fun y => masksClash x.1 x.2 y.1 y.2

/-- The gang's lanes arrive at a warp-wide word and park; every execution that is complete takes place. -/
def warpWideEff (m : BitVec 6) (c : Ctx) (s : State) : Eff :=
  let ms := (maskLanes c.g.lanes).map fun l => (l, Rd.pair (c.rd l) (2 * m.toNat))
  match memberFails c.w c.g.pc ms with
  | x :: t => .trap { cause := causeMember, lanes := maskOf ((x :: t).map (·.1)), aux := x.2 }
  | [] =>
    let (id, s) := s.fresh
    let op := c.newOp id c.g.fa none (.warpWide c.g.lanes [])
    let w := c.w.mapLanes c.g.lanes fun l ln =>
      { ln with stat := .parked .warpWide, wmask := Rd.pair (c.rd l) (2 * m.toNat) }
    let w := { w with ops := w.ops ++ [op] }.wwEval s.pick
    let waits := (maskLanes c.g.lanes).any fun l => (w.lane l).stat == .parked .warpWide
    .go ((s.setWarp w).updGang c.g.uid fun g => if waits then { g with wait := .lanes false } else g) []

/-- A warp-wide word: no guard. -/
def warpWideWord (i : Instr) (m : BitVec 6) (s : State) : Host.Outcome State Fault Refusal :=
  issue (issueFault i) (warpWideEff m) s

/-- R184: ballot. -/
def execBallot (p : BitVec 3) (m : BitVec 6) (d : BitVec 7) (s : State) :
    Host.Outcome State Fault Refusal :=
  warpWideWord (.ballot p m d) m s

/-- R184: vote. -/
def execVote (p : BitVec 3) (m : BitVec 6) (d : BitVec 7) (t : BitVec 1) (s : State) :
    Host.Outcome State Fault Refusal :=
  warpWideWord (.vote p m d t) m s

/-- R184, R185: matchMembers. -/
def execMatchMembers (m : BitVec 6) (d a : BitVec 7) (w : BitVec 1) (s : State) :
    Host.Outcome State Fault Refusal :=
  warpWideWord (.matchMembers m d a w) m s

/-- R184, R185: shflIdx. -/
def execShflIdx (m : BitVec 6) (d a : BitVec 7) (w : BitVec 1) (s : State) :
    Host.Outcome State Fault Refusal :=
  warpWideWord (.shflIdx m d a w) m s

/-- R184, R185: shflUp. -/
def execShflUp (m : BitVec 6) (d a : BitVec 7) (w : BitVec 1) (s : State) :
    Host.Outcome State Fault Refusal :=
  warpWideWord (.shflUp m d a w) m s

/-- R184, R185: shflDown. -/
def execShflDown (m : BitVec 6) (d a : BitVec 7) (w : BitVec 1) (s : State) :
    Host.Outcome State Fault Refusal :=
  warpWideWord (.shflDown m d a w) m s

/-- R184, R185: shflXor. -/
def execShflXor (m : BitVec 6) (d a : BitVec 7) (w : BitVec 1) (s : State) :
    Host.Outcome State Fault Refusal :=
  warpWideWord (.shflXor m d a w) m s

/-- R184, R185: reduceAdd. -/
def execReduceAdd (m : BitVec 6) (d a : BitVec 7) (w : BitVec 1) (s : State) :
    Host.Outcome State Fault Refusal :=
  warpWideWord (.reduceAdd m d a w) m s

/-- R184, R185: reduceMin. -/
def execReduceMin (m : BitVec 6) (d a : BitVec 7) (w : BitVec 1) (s : State) :
    Host.Outcome State Fault Refusal :=
  warpWideWord (.reduceMin m d a w) m s

/-- R184, R185: reduceMax. -/
def execReduceMax (m : BitVec 6) (d a : BitVec 7) (w : BitVec 1) (s : State) :
    Host.Outcome State Fault Refusal :=
  warpWideWord (.reduceMax m d a w) m s

/-- R184, R185: reduceAnd. -/
def execReduceAnd (m : BitVec 6) (d a : BitVec 7) (w : BitVec 1) (s : State) :
    Host.Outcome State Fault Refusal :=
  warpWideWord (.reduceAnd m d a w) m s

/-- R184, R185: reduceOr. -/
def execReduceOr (m : BitVec 6) (d a : BitVec 7) (w : BitVec 1) (s : State) :
    Host.Outcome State Fault Refusal :=
  warpWideWord (.reduceOr m d a w) m s

/-- R184, R185: reduceXor. -/
def execReduceXor (m : BitVec 6) (d a : BitVec 7) (w : BitVec 1) (s : State) :
    Host.Outcome State Fault Refusal :=
  warpWideWord (.reduceXor m d a w) m s

/-- R184, R185: scanAdd. -/
def execScanAdd (m : BitVec 6) (d a : BitVec 7) (w : BitVec 1) (s : State) :
    Host.Outcome State Fault Refusal :=
  warpWideWord (.scanAdd m d a w) m s

/-- R184, R185: scanMin. -/
def execScanMin (m : BitVec 6) (d a : BitVec 7) (w : BitVec 1) (s : State) :
    Host.Outcome State Fault Refusal :=
  warpWideWord (.scanMin m d a w) m s

/-- R184, R185: scanMax. -/
def execScanMax (m : BitVec 6) (d a : BitVec 7) (w : BitVec 1) (s : State) :
    Host.Outcome State Fault Refusal :=
  warpWideWord (.scanMax m d a w) m s

end Sys2Proof.Machine
end

