-- ==== Sys2Proof/Machine/Uniform.lean ====
section
/-! DEFINITION. Uniform words: arithmetic, compares, loads and stores, special registers, branches, barriers, allotment, fences
(10_core_uniform.md R188–R207, 05_memory_model.md R102–R105). -/

namespace Sys2Proof.Machine

/-! ## Register arithmetic (R190, R191) -/

/-- R190: uadd. -/
def execUadd (k : BitVec 3) (d a b : BitVec 5) (s : State) :
    Host.Outcome State Fault Refusal :=
  uni32 (.uadd k d a b) k d (fun rv => rv.getS a.toNat + rv.getS b.toNat) s

/-- R190: usub. -/
def execUsub (k : BitVec 3) (d a b : BitVec 5) (s : State) :
    Host.Outcome State Fault Refusal :=
  uni32 (.usub k d a b) k d (fun rv => rv.getS a.toNat - rv.getS b.toNat) s

/-- R190: umul. -/
def execUmul (k : BitVec 3) (d a b : BitVec 5) (s : State) :
    Host.Outcome State Fault Refusal :=
  uni32 (.umul k d a b) k d (fun rv => rv.getS a.toNat * rv.getS b.toNat) s

/-- R190: umulhi. -/
def execUmulhi (k : BitVec 3) (d a b : BitVec 5) (s : State) :
    Host.Outcome State Fault Refusal :=
  uni32 (.umulhi k d a b) k d (fun rv => mulHigh (rv.getS a.toNat) (rv.getS b.toNat)) s

/-- R190: uand. -/
def execUand (k : BitVec 3) (d a b : BitVec 5) (s : State) :
    Host.Outcome State Fault Refusal :=
  uni32 (.uand k d a b) k d (fun rv => rv.getS a.toNat &&& rv.getS b.toNat) s

/-- R190: uor. -/
def execUor (k : BitVec 3) (d a b : BitVec 5) (s : State) :
    Host.Outcome State Fault Refusal :=
  uni32 (.uor k d a b) k d (fun rv => rv.getS a.toNat ||| rv.getS b.toNat) s

/-- R190: uxor. -/
def execUxor (k : BitVec 3) (d a b : BitVec 5) (s : State) :
    Host.Outcome State Fault Refusal :=
  uni32 (.uxor k d a b) k d (fun rv => rv.getS a.toNat ^^^ rv.getS b.toNat) s

/-- R190: ushl. -/
def execUshl (k : BitVec 3) (d a b : BitVec 5) (s : State) :
    Host.Outcome State Fault Refusal :=
  uni32 (.ushl k d a b) k d (fun rv => shiftL (rv.getS a.toNat) (rv.getS b.toNat)) s

/-- R190: ushrn. -/
def execUshrn (k : BitVec 3) (d a b : BitVec 5) (s : State) :
    Host.Outcome State Fault Refusal :=
  uni32 (.ushrn k d a b) k d (fun rv => shiftRN (rv.getS a.toNat) (rv.getS b.toNat)) s

/-- R190: ushri. -/
def execUshri (k : BitVec 3) (d a b : BitVec 5) (s : State) :
    Host.Outcome State Fault Refusal :=
  uni32 (.ushri k d a b) k d (fun rv => shiftRI (rv.getS a.toNat) (rv.getS b.toNat)) s

/-- R190: umini. -/
def execUmini (k : BitVec 3) (d a b : BitVec 5) (s : State) :
    Host.Outcome State Fault Refusal :=
  uni32 (.umini k d a b) k d (fun rv => minI (rv.getS a.toNat) (rv.getS b.toNat)) s

/-- R190: umaxi. -/
def execUmaxi (k : BitVec 3) (d a b : BitVec 5) (s : State) :
    Host.Outcome State Fault Refusal :=
  uni32 (.umaxi k d a b) k d (fun rv => maxI (rv.getS a.toNat) (rv.getS b.toNat)) s

/-- R190: usel; the predicate that p names selects, inverted when n is set. -/
def execUsel (k : BitVec 3) (d a b : BitVec 5) (p : BitVec 2) (n : BitVec 1) (s : State) :
    Host.Outcome State Fault Refusal :=
  uni32 (.usel k d a b p n) k d
    (fun rv => if kBit rv.k p.toNat != (n == 1) then rv.getS a.toNat else rv.getS b.toNat) s

/-- R190: uadd64. -/
def execUadd64 (k : BitVec 3) (d a b : BitVec 5) (s : State) :
    Host.Outcome State Fault Refusal :=
  uni64 (.uadd64 k d a b) k d (fun rv => rv.getSPair a.toNat + rv.getSPair b.toNat) s

/-- R190: usub64. -/
def execUsub64 (k : BitVec 3) (d a b : BitVec 5) (s : State) :
    Host.Outcome State Fault Refusal :=
  uni64 (.usub64 k d a b) k d (fun rv => rv.getSPair a.toNat - rv.getSPair b.toNat) s

/-- R191: umovi. -/
def execUmovi (k : BitVec 3) (d : BitVec 5) (i : BitVec 17) (s : State) :
    Host.Outcome State Fault Refusal :=
  uni32 (.umovi k d i) k d (fun _ => simm i) s

/-- R191: ului. -/
def execUlui (k : BitVec 3) (d : BitVec 5) (i : BitVec 17) (s : State) :
    Host.Outcome State Fault Refusal :=
  uni32 (.ului k d i) k d (fun _ => i.setWidth 32 <<< 15) s

/-- R191: uaddi. -/
def execUaddi (k : BitVec 3) (d : BitVec 5) (i : BitVec 17) (s : State) :
    Host.Outcome State Fault Refusal :=
  uni32 (.uaddi k d i) k d (fun rv => rv.getS d.toNat + simm i) s

/-- R191: uandi. -/
def execUandi (k : BitVec 3) (d : BitVec 5) (i : BitVec 17) (s : State) :
    Host.Outcome State Fault Refusal :=
  uni32 (.uandi k d i) k d (fun rv => rv.getS d.toNat &&& i.setWidth 32) s

/-- R191: uori. -/
def execUori (k : BitVec 3) (d : BitVec 5) (i : BitVec 17) (s : State) :
    Host.Outcome State Fault Refusal :=
  uni32 (.uori k d i) k d (fun rv => rv.getS d.toNat ||| i.setWidth 32) s

/-! ## Compares (R192) -/

/-- R192: ucmpI32. -/
def execUcmpI32 (k : BitVec 3) (x y : BitVec 2) (a b : BitVec 5) (c : BitVec 2) (s : State) :
    Host.Outcome State Fault Refusal :=
  uniCompare (.ucmpI32 k x y a b c) k x y (fun rv => condI32 c (rv.getS a.toNat) (rv.getS b.toNat)) s

/-- R192: ucmpN32. -/
def execUcmpN32 (k : BitVec 3) (x y : BitVec 2) (a b : BitVec 5) (c : BitVec 2) (s : State) :
    Host.Outcome State Fault Refusal :=
  uniCompare (.ucmpN32 k x y a b c) k x y (fun rv => condN32 c (rv.getS a.toNat) (rv.getS b.toNat)) s

/-- R192: ucmpI64. -/
def execUcmpI64 (k : BitVec 3) (x y : BitVec 2) (a b : BitVec 5) (c : BitVec 2) (s : State) :
    Host.Outcome State Fault Refusal :=
  uniCompare (.ucmpI64 k x y a b c) k x y (fun rv => condI64 c (rv.getSPair a.toNat) (rv.getSPair b.toNat)) s

/-- R191: ucmpi. -/
def execUcmpi (k : BitVec 3) (d : BitVec 5) (c x y : BitVec 2) (i : BitVec 11) (s : State) :
    Host.Outcome State Fault Refusal :=
  uniCompare (.ucmpi k d c x y i) k x y (fun rv => condI32 c (rv.getS d.toNat) (simm i)) s

/-! ## Loads and stores (R193) -/

/-- The effect of a uniform load: one access for the gang. -/
def uniLoadEff (sp : Space) (n : Nat) (k : BitVec 3) (d : BitVec 5) (addr : Warp → Dword) (c : Ctx) (s : State) : Eff :=
  if guardUni k c.w = false then .go (s.fallNow c.w.id c.g.fa none) []
  else
    let a := addr c.rv
    match checkUni s c sp .load n a with
    | some t => .trap t
    | none =>
      let (id, s) := s.fresh
      .go ((s.addOp c.w.id (c.newOp id c.g.fa none (.accesses [⟨uniLane, sp, a, n, d.toNat, .load false⟩]))).updWarp
        c.w.id Warp.unquiet) [⟨uniLane, sp, a, n, 0⟩]

/-- The effect of a uniform store: it enters the store queue. -/
def uniStoreEff (sp : Space) (n : Nat) (k : BitVec 3) (d : BitVec 5) (addr : Warp → Dword) (c : Ctx) (s : State) : Eff :=
  if guardUni k c.w = false then .go (s.fallNow c.w.id none c.g.fb) []
  else
    let a := addr c.rv
    match checkUni s c sp .store n a with
    | some t => .trap t
    | none =>
      if 16 ≤ c.w.sq.length then .stall
      else
        let (id, s) := s.fresh
        let e : SQEntry := { id, items := [⟨uniLane, sp, a, regBytes c.rv.getS d.toNat n⟩], fb := c.g.fb,
                             lanes := c.g.lanes, word := c.g.word, wordPc := c.g.pc }
        .go (s.updWarp c.w.id fun w => { w.unquiet with sq := w.sq ++ [e] }) [⟨uniLane, sp, a, n, 1⟩]

def uniMemAddr (a o : BitVec 5) (n : Nat) (rv : Warp) : Dword := memEff (rv.getSPair a.toNat) o.toInt n
def uniLanternAddr (a o : BitVec 5) (n : Nat) (rv : Warp) : Dword := lanternEff (rv.getS a.toNat) o.toInt n

/-- R193: uld32. -/
def execUld32 (k : BitVec 3) (d a o : BitVec 5) (s : State) :
    Host.Outcome State Fault Refusal :=
  issue (issueFault (.uld32 k d a o)) (uniLoadEff .mem 4 k d (uniMemAddr a o 4)) s

/-- R193: uld64. -/
def execUld64 (k : BitVec 3) (d a o : BitVec 5) (s : State) :
    Host.Outcome State Fault Refusal :=
  issue (issueFault (.uld64 k d a o)) (uniLoadEff .mem 8 k d (uniMemAddr a o 8)) s

/-- R193: ust32. -/
def execUst32 (k : BitVec 3) (d a o : BitVec 5) (s : State) :
    Host.Outcome State Fault Refusal :=
  issue (issueFault (.ust32 k d a o)) (uniStoreEff .mem 4 k d (uniMemAddr a o 4)) s

/-- R193: ust64. -/
def execUst64 (k : BitVec 3) (d a o : BitVec 5) (s : State) :
    Host.Outcome State Fault Refusal :=
  issue (issueFault (.ust64 k d a o)) (uniStoreEff .mem 8 k d (uniMemAddr a o 8)) s

/-- R193: ulds. -/
def execUlds (k : BitVec 3) (d a o : BitVec 5) (s : State) :
    Host.Outcome State Fault Refusal :=
  issue (issueFault (.ulds k d a o)) (uniLoadEff .lantern 4 k d (uniLanternAddr a o 4)) s

/-- R193: usts. -/
def execUsts (k : BitVec 3) (d a o : BitVec 5) (s : State) :
    Host.Outcome State Fault Refusal :=
  issue (issueFault (.usts k d a o)) (uniStoreEff .lantern 4 k d (uniLanternAddr a o 4)) s

/-! ## Special registers (R194–R196, R209) -/

def nat32 (n : Nat) : Word := BitVec.ofNat 32 n

/-- Value of a special register for the issuing gang. -/
def srValue (s : State) (c : Ctx) (n : Nat) : Word :=
  let t := c.w.trap
  let u := s.die c.grp.die
  let tile := c.grp.core / 8
  match n with
  | 0x00 => nat32 c.w.num
  | 0x01 => nat32 c.grp.desc.warps
  | 0x02 => loWord c.grp.index
  | 0x03 => hiWord c.grp.index
  | 0x04 => loWord c.g.lanes
  | 0x05 => hiWord c.g.lanes
  | 0x06 => loWord c.w.live
  | 0x07 => hiWord c.w.live
  | 0x08 => nat32 (c.grp.die * 512 + c.grp.core)
  | 0x09 => nat32 (c.grp.die * 128 + c.grp.core / 4)
  | 0x0A => nat32 s.pkg.pkgid
  | 0x0B => nat32 c.grp.allot
  | 0x0C => nat32 u.clk
  | 0x0D => hiWord c.w.clkCap
  | 0x0E => nat32 c.w.prio
  | 0x0F => nat32 c.grp.desc.lbytes
  | 0x10 | 0x11 | 0x12 | 0x13 => tabGet 0 c.grp.gwords (n - 0x10)
  | 0x20 => t.cause
  | 0x21 => t.pc
  | 0x22 => t.word
  | 0x23 => t.d
  | 0x24 => t.a
  | 0x25 => t.b
  | 0x26 => t.imm
  | 0x27 => loWord t.lanes
  | 0x28 => hiWord t.lanes
  | 0x29 => loWord t.addr
  | 0x2A => hiWord t.addr
  | 0x2B => loWord t.aux
  | 0x2C => hiWord t.aux
  | 0x2D | 0x2E | 0x2F | 0x30 => (t.hscr[n - 0x2D]?).getD 0
  | 0x100 => nat32 ((u.congReq[tile]?).getD 0 % 65536)
  | _ => nat32 ((u.congRep[tile]?).getD 0 % 65536)

/-- R194: usrd. clklo captures the whole count; numbers from 0x100 on are tracked. -/
def execUsrd (k : BitVec 3) (d : BitVec 5) (n : BitVec 10) (s : State) :
    Host.Outcome State Fault Refusal :=
  issue (issueFault (.usrd k d n)) (fun c s =>
    let fa := if 0x100 ≤ n.toNat then c.g.fa else none
    if guardUni k c.w = false then .go (s.fallNow c.w.id fa none) []
    else
      let v := srValue s c n.toNat
      if 0x100 ≤ n.toNat then
        let (id, s) := s.fresh
        .go ((s.addOp c.w.id (c.newOp id fa none (.done [⟨uniLane, d.toNat, v⟩]))).updWarp c.w.id Warp.unquiet) []
      else
        let w := (c.w.putS d.toNat v).unquiet
        let w := if n = 0x0C then { w with clkCap := BitVec.ofNat 64 (s.die c.grp.die).clk } else w
        .go (s.setWarp w) []) s

/-- R194: uswr. -/
def execUswr (k : BitVec 3) (a : BitVec 5) (n : BitVec 10) (s : State) :
    Host.Outcome State Fault Refusal :=
  issue (issueFault (.uswr k a n)) (fun c s =>
    let x := c.rv.getS a.toNat
    if guardUni k c.w = false then .go s []
    else if n = 0x0E then .go (s.updWarp c.w.id fun w => { w with prio := min (x.toNat % 8) c.grp.prio }) []
    else if n.toNat < 0x14 then
      .go (s.updGroup c.grp.id fun g => { g with gwords := tabSet 0 g.gwords (n.toNat - 0x10) x }) []
    else if n = 0x21 then
      .go (s.updWarp c.w.id fun w =>
        { w with trap := { w.trap with pc := x }, handler := w.handler.map fun h => { h with wrotePc := true } }) []
    else
      .go (s.updWarp c.w.id fun w =>
        { w with trap := { w.trap with hscr := listSet w.trap.hscr (n.toNat - 0x2D) x } }) []) s

/-! ## Branches and calls (R197, R198) -/

/-- A uniform transfer moves every active lane when its guard is true. -/
def uniTransfer (i : Instr) (k : BitVec 3) (target : Ctx → Word) (link : Ctx → Warp → Warp) (s : State) :
    Host.Outcome State Fault Refusal :=
  issue (issueFault i) (fun c s =>
    .go (if guardUni k c.w then s.setWarp (link c (c.mapActive fun _ ln => c.take (target c) ln)) else s) []) s

/-- R197: bra. -/
def execBra (k : BitVec 3) (d : BitVec 21) (s : State) :
    Host.Outcome State Fault Refusal :=
  uniTransfer (.bra k d) k (fun c => c.disp d) (fun _ w => w) s

/-- R197, R198: call writes the link pair S[30], S[31]. -/
def execCall (k : BitVec 3) (d : BitVec 21) (s : State) :
    Host.Outcome State Fault Refusal :=
  uniTransfer (.call k d) k (fun c => c.disp d)
    (fun c w => ((w.putS 30 (c.g.pc + 4)).putS 31 c.g.pc).unquiet) s

/-- R197: brx. -/
def execBrx (k : BitVec 3) (d : BitVec 21) (s : State) :
    Host.Outcome State Fault Refusal :=
  uniTransfer (.brx k d) k (fun c => c.disp d + c.rv.getS 29) (fun _ w => w) s

/-- R197: ret. -/
def execRet (k : BitVec 3) (s : State) :
    Host.Outcome State Fault Refusal :=
  uniTransfer (.ret k) k (fun c => c.rv.getS 30) (fun _ w => w) s

/-! ## Barriers (R199–R202) -/

/-- The gang's lanes enter a barrier's sets (R200): sync parks them, arrive lets them continue, and a lane already in the
set parks and counts in the next generation. -/
def barEnter (w : Warp) (lanes : Dword) (sync : Bool) (scope idx : Nat) : Warp :=
  let b := w.bar scope idx
  let again := lanes &&& b.set
  let first := lanes &&& ~~~b.set
  let b := { b with
    set := b.set ||| first
    nextSync := if sync then b.nextSync ||| again else b.nextSync
    nextArr := if sync then b.nextArr else b.nextArr ||| again
    parked := if sync then b.parked ||| lanes else b.parked ||| again }
  (w.mapLanes (if sync then lanes else again) fun _ ln => { ln with stat := .parked .barrier }).setBar b

/-- wait parks the lanes until the generation differs from the warp's last-arrival generation (R200). -/
def barWait (w : Warp) (lanes : Dword) (gen : Word) (scope idx : Nat) : Warp :=
  let b := w.bar scope idx
  if b.last = some gen then
    (w.mapLanes lanes fun _ ln => { ln with stat := .parked .barrier }).setBar { b with parked := b.parked ||| lanes }
  else w

/-- The gang waits while lanes of it are parked. -/
def State.waitLanes (s : State) (c : Ctx) (wide : Bool) : State :=
  match s.warp c.w.id with
  | none => s
  | some w =>
    if (maskLanes c.g.lanes).any fun l => match (w.lane l).stat with | .parked _ => true | _ => false then
      s.updGang c.g.uid fun g => { g with wait := .lanes wide }
    else s

/-- The warp's loads, atomics and gather-reduces before a name are performed. -/
def Warp.loadsDoneAt (w : Warp) (before : Nat) : Bool :=
  w.ops.all fun o =>
    match o.kind with
    | .accesses _ => decide (before ≤ o.id)
    | .gred _ _ => decide (before ≤ o.id)
    | _ => true

/-- A barrier's arrival is a release of its scope (R202): the warp's earlier stores and its earlier loads, atomics and
gather-reduces are performed, at scope core too (R92). -/
def State.releaseReady (s : State) (w : Warp) (core scope : Nat) : Bool :=
  s.storesDone w core scope && w.loadsDoneAt s.nextId

/-- BAR wait returns without parking: a scope wider than core acquires (R202). -/
def State.barPass (s : State) (c : Ctx) (scope : Nat) : State :=
  if scope = 0 then s else s.acquireGang c.grp.coreId c.g.uid

/-- R199–R202: bar. An arrival is a release of the scope: the word stalls until the warp meets it. -/
def execBar (k : BitVec 3) (m : BitVec 2) (p : BitVec 3) (i : BitVec 4) (s : State) :
    Host.Outcome State Fault Refusal :=
  issue (issueFault (.bar k m p i)) (fun c s =>
    if guardUni k c.w = false then .go s []
    else if m = 2 then
      let gen := (s.getBar c.grp p.toNat i.toNat).gen
      if (c.w.bar p.toNat i.toNat).last = some gen then
        .go ((s.setWarp (barWait c.w c.g.lanes gen p.toNat i.toNat)).waitLanes c (p != 0)) []
      else .go (s.barPass c p.toNat) []
    else if s.releaseReady c.w c.grp.coreId p.toNat then
      let s := (s.acked p.toNat).setWarp (barEnter c.w c.g.lanes (m == 0) p.toNat i.toNat)
      .go ((s.barSettle 64 c.grp p.toNat i.toNat).waitLanes c (p != 0)) []
    else .stall) s

/-! ## Allotment and yielding (R204, R205) -/

/-- R204: acquire. The group switches to its full allotment for every warp, and the new registers read 0. -/
def execAcquire (k : BitVec 3) (s : State) :
    Host.Outcome State Fault Refusal :=
  issue (issueFault (.acquire k)) (fun c s =>
    if guardUni k c.w && !c.grp.acquired then
      let s := s.updGroup c.grp.id fun g => { g with acquired := true }
      .go { s with warps := s.warps.map fun (w : Warp) =>
        if w.group = c.grp.id then
          { w with lanes := w.lanes.map fun ln => { ln with v := ln.v.filter fun e => decide (e.1 < c.grp.desc.prolog) } }
        else w } []
    else .go s []) s

/-- R205: yield. The path is demoted from the end of the clause. -/
def execYield (k : BitVec 3) (s : State) :
    Host.Outcome State Fault Refusal :=
  issue (issueFault (.yield k)) (fun c s =>
    .go (if guardUni k c.w then s.updGang c.g.uid fun g => { g with yield := true } else s) []) s

/-! ## Fences (R102–R105) -/

/-- The gang's loads before a name have returned. -/
def Warp.gangLoadsDone (w : Warp) (lanes : Dword) (before : Nat) : Bool :=
  w.ops.all fun o =>
    match o.kind with
    | .accesses _ => o.lanes &&& lanes == 0 || decide (before ≤ o.id)
    | .gred _ _ => o.lanes &&& lanes == 0 || decide (before ≤ o.id)
    | _ => true

/-- Two cores lie in one unit of a scope (R8). -/
def sameScope (scope a b : Nat) : Bool :=
  match scope with
  | 0 => a == b
  | 1 => a / 4 == b / 4
  | 2 => a / Config.coresPerDie == b / Config.coresPerDie
  | _ => true

/-- Core of a warp. -/
def State.warpCore (s : State) (w : Warp) : Nat :=
  match s.group w.group with
  | some g => g.coreId
  | none => 0

/-- Every store queue within the scope is empty and its stores performed (R105). -/
def State.drained (s : State) (scope core : Nat) : Bool :=
  (s.warps.all fun w => !sameScope scope (s.warpCore w) core || w.sq.isEmpty) &&
  (scope == 0 || s.cores.all fun e => !sameScope scope e.1 core || s.wtClear e.1)

/-- The condition of a fence, by kind: 1 far, 2 acq, 3 rel, 4 ar, 5 sc (R103), for the words before a name. An acquire wider
than core waits until no store of the core is on its way, as the writes of a die reach its cores in one order (R101). -/
def State.fenceReadyAt (s : State) (w : Warp) (lanes : Dword) (core kind scope before : Nat) : Bool :=
  let rel := s.storesDoneAt w core scope before && (scope == 0 || w.loadsDoneAt before)
  let acq := w.gangLoadsDone lanes before && (scope == 0 || s.wtSeen core)
  match kind with
  | 1 => rel && acq && s.drained scope core
  | 2 => acq
  | 3 => rel
  | _ => rel && acq

/-- The same for every word that the warp has issued. -/
def State.fenceReady (s : State) (w : Warp) (lanes : Dword) (core kind scope : Nat) : Bool :=
  s.fenceReadyAt w lanes core kind scope s.nextId

/-- What a fence does when its condition holds: an acquire wider than core drops the L1; a release wider than a die leaves
no stale copy; FENCE.FAR acquires for every core within its scope (R105). -/
def State.fenceApply (s : State) (core kind scope : Nat) : State :=
  let s := if kind = 2 then s else s.acked scope
  if kind = 3 ∨ scope = 0 then s
  else if kind = 1 then { s with l1 := s.l1.filter fun l => !sameScope scope l.owner core }
  else s.dropL1 core

/-- A fence other than FENCE.NEAR: done at once, or the gang waits (R103). -/
def fenceWord (i : Instr) (k : BitVec 3) (kind scope : Nat) (s : State) : Host.Outcome State Fault Refusal :=
  issue (issueFault i) (fun c s =>
    if guardUni k c.w = false then .go s []
    else if s.fenceReady c.w c.g.lanes c.grp.coreId kind scope then .go (s.fenceApply c.grp.coreId kind scope) []
    else .go (s.updGang c.g.uid fun g => { g with wait := .fence kind scope s.nextId }) []) s

/-- R103, R105: fence.near waits for nothing; FENCE.FAR alone drains the queues. -/
def execFenceNear (k p : BitVec 3) (s : State) :
    Host.Outcome State Fault Refusal :=
  issue (issueFault (.fenceNear k p)) (fun _ s => .go s []) s

/-- R103: fenceFar. -/
def execFenceFar (k p : BitVec 3) (s : State) :
    Host.Outcome State Fault Refusal :=
  fenceWord (.fenceFar k p) k 1 p.toNat s

/-- R103: fenceAcq. -/
def execFenceAcq (k p : BitVec 3) (s : State) :
    Host.Outcome State Fault Refusal :=
  fenceWord (.fenceAcq k p) k 2 p.toNat s

/-- R103: fenceRel. -/
def execFenceRel (k p : BitVec 3) (s : State) :
    Host.Outcome State Fault Refusal :=
  fenceWord (.fenceRel k p) k 3 p.toNat s

/-- R103: fenceAr. -/
def execFenceAr (k p : BitVec 3) (s : State) :
    Host.Outcome State Fault Refusal :=
  fenceWord (.fenceAr k p) k 4 p.toNat s

/-- R103: fenceSc. -/
def execFenceSc (k p : BitVec 3) (s : State) :
    Host.Outcome State Fault Refusal :=
  fenceWord (.fenceSc k p) k 5 p.toNat s

end Sys2Proof.Machine
end

