-- ==== Sys2Proof/Machine/Handler.lean ====
section
/-! DEFINITION. TRAP, RTT and the handler accessors (11_core_traps.md R212–R222). -/

namespace Sys2Proof.Machine

/-- R212: trap. -/
def execTrap (k : BitVec 3) (a x : BitVec 5) (s : State) :
    Host.Outcome State Fault Refusal :=
  issue (issueFault (.trap k a x)) (fun c s =>
    if guardUni k c.w then
      .trap { cause := causeSoftware, lanes := c.g.lanes, aux := (c.rv.getS a.toNat).setWidth 64 }
    else .go s []) s

/-- The gang stands at an RTT word. -/
def Gang.atRtt (g : Gang) : Bool := fld g.word 29 3 == 4 && fld g.word 23 6 == 38

/-- Another gang of the handler's lanes is inside a clause, and not at an RTT of its own. -/
def State.handlerBusy (s : State) (c : Ctx) : Bool :=
  match c.w.handler with
  | none => false
  | some h => s.gangs.any fun g => g.uid != c.g.uid && g.warp == c.w.id && g.lanes &&& h.lanes != 0 && !g.atRtt

/-- The gangs of the handler's lanes end with it. -/
def State.endHandlerGangs (s : State) (c : Ctx) : State :=
  match c.w.handler with
  | none => s.delGang c.g.uid
  | some h => { s with gangs := s.gangs.filter fun g => !(g.warp == c.w.id && g.lanes &&& h.lanes != 0) }

/-- R213: rtt. Mode 0 retries the word at TRAP_PC, mode 1 skips it. While another gang of the handler's lanes is inside a
clause, and not at an RTT of its own, the word stalls (log 19). -/
def execRtt (k : BitVec 3) (m : BitVec 1) (s : State) :
    Host.Outcome State Fault Refusal :=
  issue (issueFault (.rtt k m)) (fun c s =>
    if guardUni k c.w = false then .go s []
    else if s.handlerBusy c then .stall
    else
      let x : Xfer := { pc := c.g.pc, word := c.g.word, index := c.g.index }
      .jump (((s.endHandlerGangs c).resume c.w.id (m == 1) x).updWarp c.w.id Warp.meetRelease)) s

/-! ## Accessors (R219–R222) -/

/-- The lane that S[a]<5:0> selects. -/
def selLane (rv : Warp) (a : BitVec 5) : Nat := (rv.getS a.toNat).toNat % 64

/-- The register code that S[b]<6:0> selects. -/
def selCode (rv : Warp) (b : BitVec 5) : Nat := (rv.getS b.toNat).toNat % 128

/-- A register of a lane is within reach: the lane has not exited, and a v register is below the allotment (R220). -/
def reachable (c : Ctx) (l code : Nat) : Bool :=
  (c.w.lane l).stat != .exited && (decide (96 ≤ code) || decide (code < c.grp.allot))

/-- R219: lread. -/
def execLread (k : BitVec 3) (d a b : BitVec 5) (s : State) :
    Host.Outcome State Fault Refusal :=
  issue (issueFault (.lread k d a b)) (fun c s =>
    if guardUni k c.w then
      let l := selLane c.rv a
      let code := selCode c.rv b
      .go (s.setWarp (c.w.putS d.toNat (if reachable c l code then readCode c.rv l code else 0)).unquiet) []
    else .go s []) s

/-- Tracked writes of a register that are outstanding are lost, or land later, by free choice (R220). -/
def State.overwrite (s : State) (w : Warp) (lane reg : Nat) : Warp :=
  { w with ops := w.ops.map fun o => if s.pick o.id then { o with lost := o.lost ++ [(lane, reg)] } else o }

/-- R219: lwrite. -/
def execLwrite (k : BitVec 3) (d a b : BitVec 5) (s : State) :
    Host.Outcome State Fault Refusal :=
  issue (issueFault (.lwrite k d a b)) (fun c s =>
    let l := selLane c.rv a
    let code := selCode c.rv b
    if guardUni k c.w && reachable c l code then
      let x := c.rv.getS d.toNat
      .go (s.setWarp (if code < 96 then
          { s.overwrite c.w l code with lanes := listModify (fun ln => ln.put code x) c.w.lanes l }
        else ((s.overwrite c.w uniLane (code - 96)).putS (code - 96) x).unquiet)) []
    else .go s []) s

/-- R219: pread; bit 0 reads as 1, an exited lane reads 0. -/
def execPread (k : BitVec 3) (d a : BitVec 5) (s : State) :
    Host.Outcome State Fault Refusal :=
  issue (issueFault (.pread k d a)) (fun c s =>
    if guardUni k c.w then
      let ln := c.w.lane (selLane c.rv a)
      let x : Word := if ln.stat = .exited then 0 else (ln.preds ||| 1).setWidth 32
      .go (s.setWarp (c.w.putS d.toNat x).unquiet) []
    else .go s []) s

/-- R219: pwrite; bit 0 is ignored. -/
def execPwrite (k : BitVec 3) (d a : BitVec 5) (s : State) :
    Host.Outcome State Fault Refusal :=
  issue (issueFault (.pwrite k d a)) (fun c s =>
    if guardUni k c.w then
      let x := (c.rv.getS d.toNat).setWidth 8
      let put (ln : Lane) : Lane :=
        if ln.stat = .exited then ln else { ln with preds := (x &&& 0xFE) ||| (ln.preds &&& 1) }
      .go (s.setWarp { c.w with lanes := listModify put c.w.lanes (selLane c.rv a) }) []
    else .go s []) s

/-- PC of a lane as mread.pc returns it (R220). -/
def lanePc (w : Warp) (l : Nat) : Word :=
  match w.handler with
  | some h => if inMask h.lanes l then (tabFind h.resume l).getD w.trap.pc else (w.lane l).npc.getD (w.lane l).pc
  | none => (w.lane l).pc

/-- R219: mread.pc (x5<0> = 0) and mread.meet. -/
def execMread (k : BitVec 3) (d a : BitVec 5) (x : BitVec 1) (s : State) :
    Host.Outcome State Fault Refusal :=
  issue (issueFault (.mread k d a x)) (fun c s =>
    if guardUni k c.w then
      let l := selLane c.rv a
      let ln := c.w.lane l
      let v : Word := if ln.stat = .exited then 0 else if x = 0 then lanePc c.w l else ln.meet
      .go (s.setWarp (c.w.putS d.toNat v).unquiet) []
    else .go s []) s

/-- A lane stands inside a clause of some gang. -/
def State.inGang (s : State) (wid l : Nat) : Bool := s.gangs.any fun g => g.warp == wid && inMask g.lanes l

/-- The PC write of R220: a handler lane's resume point; at once for a lane at a clause boundary; otherwise when the lane
is released. -/
def writePc (s : State) (g : Group) (w : Warp) (l : Nat) (v : Word) : Warp :=
  let handlerLane : Bool := match w.handler with | some h => inMask h.lanes l | none => false
  if handlerLane then { w with handler := w.handler.map fun h => { h with resume := tabPut h.resume l v } }
  else
    { w with lanes := listModify (fun ln =>
        if ln.stat = .exited then ln
        else if s.inGang w.id l then { ln with npc := some v, xfer := none }
        else
          { ln with pc := v, xfer := none, released := ln.released && v == ln.pc
                    stat :=
                      if ln.stat = .parked .meeting ∧ v ≠ ln.meet then .ready
                      else if (ln.stat = .ready ∨ ln.stat = .parked .fetch) ∧ v ≠ ln.pc then
                        if v = ln.meet ∧ s.meets g v then .parked .meeting else .ready
                      else ln.stat }) w.lanes l }

/-- The meeting write of R220: it takes effect at once. -/
def writeMeet (s : State) (g : Group) (w : Warp) (l : Nat) (v : Word) : Warp :=
  let handlerLane : Bool := match w.handler with | some h => inMask h.lanes l | none => false
  { w with lanes := listModify (fun ln =>
      if ln.stat = .exited then ln
      else
        let stat :=
          if ln.stat = .parked .meeting then (if ln.pc = v then ln.stat else .ready)
          else if ln.stat = .ready ∧ ln.pc = v ∧ ¬ handlerLane ∧ ¬ s.inGang w.id l ∧ ¬ ln.released ∧ s.meets g v then .parked .meeting
          else ln.stat
        { ln with meet := v, stat }) w.lanes l }

/-- R219, R220: mwrite.pc (x5<0> = 0) and mwrite.meet. -/
def execMwrite (k : BitVec 3) (d a : BitVec 5) (x : BitVec 1) (s : State) :
    Host.Outcome State Fault Refusal :=
  issue (issueFault (.mwrite k d a x)) (fun c s =>
    if guardUni k c.w then
      let l := selLane c.rv a
      let v := c.rv.getS d.toNat
      .go (s.setWarp (if x = 0 then writePc s c.grp c.w l v else writeMeet s c.grp c.w l v).meetRelease) []
    else .go s []) s

/-- Barrier that S[a] selects: scope in bits 2:0, index in bits 11:8; none when it is not granted (R222). -/
def selBar (c : Ctx) (a : BitVec 5) : Option (Nat × Nat) :=
  let x := (c.rv.getS a.toNat).toNat
  let scope := x % 8
  let idx := x / 256 % 16
  if scope ≤ 4 ∧ idx < c.grp.desc.barCount scope then some (scope, idx) else none

/-- A barrier of scope pod whose home is another package (R438). -/
def State.barAway (s : State) (grp : Group) (scope : Nat) : Bool :=
  scope == 4 && (barUnit s grp 4).1 % 64 != s.pkg.pkgid

/-- What BARRD reads: 0 expected, 1 arrived, 2 generation. What a home in another package holds is no state of this one, and
free. -/
def State.barValue (s : State) (grp : Group) (scope idx : Nat) (x : BitVec 2) : Word :=
  let b := s.getBar grp scope idx
  if s.barAway grp scope then Config.word s.free x.toNat
  else if x = 0 then b.exp else if x = 1 then b.arr else b.gen

/-- R219, R222: barrd by x5<1:0> = 0 expected, 1 arrived, 2 generation. -/
def execBarrd (k : BitVec 3) (d a : BitVec 5) (x : BitVec 2) (s : State) :
    Host.Outcome State Fault Refusal :=
  issue (issueFault (.barrd k d a x)) (fun c s =>
    if guardUni k c.w then
      let v : Word :=
        match selBar c a with
        | none => 0
        | some (scope, idx) => s.barValue c.grp scope idx x
      .go (s.setWarp (c.w.putS d.toNat v).unquiet) []
    else .go s []) s

/-- R222: the write of a barrier's field, and what follows it. A write for a home in another package leaves this one; the
advance that it causes comes back as any does (R438). -/
def State.barWrite (s : State) (grp : Group) (scope idx : Nat) (x : BitVec 2) (v : Word) : State :=
  if s.barAway grp scope then s
  else
  let s :=
    if x = 0 then s.modBar grp scope idx fun b => { b with exp := v }
    else if x = 1 then s.modBar grp scope idx fun b => { b with arr := v }
    else if (s.getBar grp scope idx).gen = v then s
    else (s.barAdvance grp scope idx true).modBar grp scope idx fun b => { b with gen := v }
  s.barSettle 64 grp scope idx

/-- R219, R222: barwr. It is a release of the barrier's scope: it stalls until the warp meets it. -/
def execBarwr (k : BitVec 3) (d a : BitVec 5) (x : BitVec 2) (s : State) :
    Host.Outcome State Fault Refusal :=
  issue (issueFault (.barwr k d a x)) (fun c s =>
    if guardUni k c.w = false then .go s []
    else
      match selBar c a with
      | none => .go s []
      | some (scope, idx) =>
        if s.releaseReady c.w c.grp.coreId scope then
          .go ((s.acked scope).barWrite c.grp scope idx x (c.rv.getS d.toNat)) []
        else .stall) s

end Sys2Proof.Machine
end

