-- ==== Sys2Proof/Machine/Port.lean ====
section
/-! DEFINITION. Requests at the memory port and the Lantern store: loads, atomics, gather-reduces and stores are performed
here, page by page resident, or park (05_memory_model.md R91–R101, 09_core_memory.md R171–R182, 14_memory_port.md R246,
R253, 24_nearmem.md R416). -/

namespace Sys2Proof.Machine

/-! ## Locations -/

/-- Name of the location of a byte: Lantern offset, physical number, or reference while its page is not resident. -/
def State.locKey (s : State) (ctx : Nat) (sp : Space) (a : Dword) : Nat × Nat :=
  match sp with
  | .lantern => (2, a.toNat)
  | .mem =>
    match s.phys ctx a with
    | some p => (0, p)
    | none => (1, a.toNat)

/-- Address of byte i of an access. -/
def byteAt (sp : Space) (a : Dword) (i : Nat) : Dword :=
  match sp with
  | .mem => refAdd a i
  | .lantern => a + BitVec.ofNat 64 i

/-- Byte that an earlier store of the warp's queue gives for a location, youngest first (R92). -/
def State.sqByte (s : State) (ctx : Nat) (w : Warp) (before : Nat) (key : Nat × Nat) : Option Byte :=
  (w.sq.filter fun e => decide (e.id < before)).foldl (fun acc e =>
    e.items.foldl (fun acc it =>
      if it.space = .mem ∧ s.isKick ctx it.addr then acc
      else
        match (mapFrom (fun i b => (s.locKey ctx it.space (byteAt it.space it.addr i), b)) 0 it.bytes).find?
            fun x => x.1 == key with
        | some x => some x.2
        | none => acc) acc) none

/-- Address of the 64-byte line of an address (R179). -/
def lineAddr (a : Dword) : Dword := a &&& ~~~63#64

/-! ## Performing accesses -/

/-- What performing some accesses has given: register writes, lanes with poison and the address of their line, spans read
and spans written. -/
structure Perf where
  s : State
  writes : List RegWrite := []
  bad : List (Nat × Dword) := []
  reads : List Nat := []
  wrote : List Nat := []
  changed : Bool := false
  /-- Bytes of host memory that the port form has read (R100). -/
  snap : Tab Byte := []

/-- One byte of a load: value and poison. A byte that the warp's own queued store gives carries no poison (log 7). -/
def State.loadByte (s : State) (core : Nat) (grp : Group) (w : Warp) (before : Nat) (sp : Space) (a : Dword) :
    Byte × Bool :=
  match s.sqByte grp.ctx w before (s.locKey grp.ctx sp a) with
  | some b => (b, false)
  | none =>
    match sp with
    | .lantern =>
      let q := s.quad grp.quad
      let x := grp.lbase + a.toNat
      (q.lantern.read x, q.lpoison.contains (x / 64))
    | .mem =>
      match s.phys grp.ctx a with
      | some p => (s.coreByte core p, s.coreBad core p)
      | none => (0, false)

/-- The lines of a load are brought into the core's L1; a line's held copies may have left before (R90, R94). -/
def State.fillLines (s : State) (core : Nat) (ps : List Nat) : State :=
  (linesOf ps).foldl (fun s l =>
    let s := s.loosen core l
    let held := (findLine s.l1 core l).isSome || (findLine s.copies (core / Config.coresPerDie) l).isSome
    let s := if held then s else s.findError l 3
    s.holdLine core l) s

def okList (r : Except PageKey (List Nat)) : List Nat :=
  match r with
  | .ok l => l
  | .error _ => []

/-- One lane's load. -/
def Perf.load (r : Perf) (core : Nat) (grp : Group) (w : Warp) (opid : Nat) (a : Access) (signed : Bool) : Perf :=
  if a.space = .mem ∧ r.s.isKick grp.ctx a.addr then
    { r with writes := r.writes ++ loadWrites a.lane a.reg a.size signed (List.replicate a.size 0) }
  else
    let ps := if a.space = .mem then okList (r.s.physList grp.ctx a.addr a.size) else []
    let s := r.s.fillLines core ps
    let bs := (List.range a.size).map fun i =>
      (byteAt a.space a.addr i, s.loadByte core grp w opid a.space (byteAt a.space a.addr i))
    let spans :=
      if a.space = .mem then linesOf ps
      else (linesOf ((List.range a.size).map (grp.lbase + a.addr.toNat + ·))).map (lanternSpan grp.quad)
    match bs.find? fun x => x.2.2 with
    | some x => { r with s, bad := r.bad ++ [(a.lane, lineAddr x.1)], reads := r.reads ++ spans }
    | none =>
      { r with s, writes := r.writes ++ loadWrites a.lane a.reg a.size signed (bs.map fun x => x.2.1)
               reads := r.reads ++ spans }

/-- One lane's Lantern atomic, at the Lantern store (R99). -/
def Perf.latom (r : Perf) (grp : Group) (a : Access) (op : Nat) (x y : Dword) : Perf :=
  let q := r.s.quad grp.quad
  let loc := grp.lbase + a.addr.toNat
  let span := lanternSpan grp.quad (loc / 64)
  if q.lpoison.contains (loc / 64) then { r with bad := r.bad ++ [(a.lane, lineAddr a.addr)], reads := r.reads ++ [span] }
  else
    let old := BitVec.ofNat 64 (leNat (q.lread loc a.size))
    let ws := loadWrites a.lane a.reg a.size false (leBytes old.toNat a.size)
    match atomNew op old x y with
    | none => { r with writes := r.writes ++ ws, reads := r.reads ++ [span] }
    | some n =>
      { r with
        s := (r.s.updQuad grp.quad fun q => q.lstore loc (leBytes n.toNat a.size)).noteYLan grp.quad
          ((List.range a.size).map (loc + ·))
        writes := r.writes ++ ws
        reads := r.reads ++ [span]
        wrote := r.wrote ++ [span]
        changed := r.changed || n != old || casOp op }

/-- Adds the stores of a word to those on their way from a core: a further lane of one word joins its entry. -/
def State.addWt (s : State) (core id wid : Nat) (cells : List (Nat × Byte)) : State :=
  let put (t : Tab Byte) : Tab Byte := cells.foldl (fun t c => tabPut t c.1 c.2) t
  { s.updCore core fun u =>
      if u.wt.any fun x => x.id == id then { u with wt := updateBy WtStore.id id (fun x => { x with cells := put x.cells }) u.wt }
      else { u with wt := u.wt ++ [{ id, warp := wid, core, cells := put [] }] } with
    l1 := patchLines s.l1 core cells }

/-- One lane's global atomic, at the point of its scope (R94, R99), or at the host (R100). -/
def Perf.atom (r : Perf) (wid core opid : Nat) (grp : Group) (a : Access) (op scope : Nat) (x y : Dword) : Perf :=
  if r.s.isKick grp.ctx a.addr then
    { r with writes := r.writes ++ loadWrites a.lane a.reg a.size false (List.replicate a.size 0) }
  else
    let d := core / Config.coresPerDie
    let ps := okList (r.s.physList grp.ctx a.addr a.size)
    let scope := if atHost ps then 5 else scope
    let ls := linesOf ps
    let s := if scope = 0 then r.s.fillLines core ps else ls.foldl (fun s l => s.findError l 3) r.s
    let rd (p : Nat) : Byte × Bool :=
      if scope = 0 then (s.coreByte core p, s.coreBad core p)
      else if scope ≤ 2 then (s.dieByte d p, s.dieBad d (lineOf p))
      else ((tabFind r.snap p).getD (s.mem.read p), s.lineBad (lineOf p))
    let after (s : State) : State :=
      if scope = 0 then s
      else
        { s with l1 := ls.foldl (fun l1 l => dropLine l1 core l) s.l1
                 copies := if scope ≤ 2 then s.copies else ls.foldl (fun c l => dropLine c d l) s.copies }
    let r := { r with reads := r.reads ++ ls }
    if ps.any fun p => (rd p).2 then { r with s := after s, bad := r.bad ++ [(a.lane, lineAddr a.addr)] }
    else
      let old := BitVec.ofNat 64 (leNat (ps.map fun p => (rd p).1))
      let ws := loadWrites a.lane a.reg a.size false (leBytes old.toNat a.size)
      match atomNew op old x y with
      | none => { r with s := after s, writes := r.writes ++ ws }
      | some n =>
        let cells := ps.zip (leBytes n.toNat a.size)
        let s := if scope = 0 then s.addWt core opid wid cells else (s.writePoison ps).performCells d cells
        { r with
          s := after s, writes := r.writes ++ ws, changed := r.changed || n != old || casOp op
          snap := cells.foldl (fun t c => if (tabFind t c.1).isSome then tabPut t c.1 c.2 else t) r.snap }

def Access.right (a : Access) : Right :=
  match a.kind with
  | .load _ => .r
  | .atomic .. => .a

/-- Row of R172 that an access meets at the port (R246). -/
def State.portRow (s : State) (ctx : Nat) (sp : Space) (a : Dword) (n : Nat) (rt : Right) : Nat :=
  match sp with
  | .lantern => 0
  | .mem => if s.isKick ctx a then 0 else s.accessRow ctx a n rt

/-- The first page of some spans that is not resident. -/
def State.firstAbsent (s : State) (ctx : Nat) : List (Dword × Nat) → Option PageKey
  | [] => none
  | (a, n) :: t =>
    match s.physList ctx a n with
    | .error k => some k
    | .ok _ => State.firstAbsent s ctx t

/-- Memory spans of accesses that the port passes. -/
def State.passing (s : State) (ctx : Nat) (items : List Access) (rt : Access → Right) : List Access :=
  items.filter fun a => s.portRow ctx a.space a.addr a.size (rt a) == 0

def memSpans (s : State) (ctx : Nat) (items : List Access) : List (Dword × Nat) :=
  (items.filter fun a => a.space == .mem && !s.isKick ctx a.addr).map fun a => (a.addr, a.size)

/-- Trap lanes of an access: the gang's lanes for a uniform one. -/
def trapLanes (gang : Dword) (l : Nat) : Dword := if l = uniLane then gang else 1#64 <<< l

/-- Poison records of the lanes that an operation's word leaves with a trap to take. -/
def poisonRecs (o : TOp) (cause : Nat) (bad : List (Nat × Dword)) : List PoisonRec :=
  match bad with
  | [] => []
  | _ :: _ =>
    [{ lanes := (bad.map fun b => trapLanes o.lanes b.1).foldl (· ||| ·) 0
       word := o.word, wordPc := o.wordPc, addrs := bad, cause }]

/-- Translates the pages of a span through a core's TLB (R250). -/
def State.tlbTouch (s : State) (core ctx : Nat) (r : Dword) (n : Nat) (write : Bool) : State :=
  match s.buf ctx (refBuf r) with
  | none => s
  | some e =>
    let pb := pageBytes e.pgsz
    let a := refOff r / pb
    (List.range ((refOff r + n - 1) / pb - a + 1)).foldl (fun s i => s.touchTlb core ⟨ctx, refBuf r, a + i⟩ write) s

/-- Translates the pages of spans, through the TLB of the core that asks or, for an engine, through the die's cache (R250). -/
def State.touchSpans (s : State) (d : Nat) (core : Option Nat) (ctx : Nat) (spans : List (Dword × Nat)) (write : Bool) : State :=
  spans.foldl (fun s x =>
    match core with
    | some c => s.tlbTouch c ctx x.1 x.2 write
    | none => s.engTouch d ctx x.1 x.2 write) s

/-! ## Gather-reduce (R181, R182) -/

/-- The HBM bank of a physical number. -/
def bankOf (p : Nat) : Nat := p / Config.stackBytes * 1024 + physAddr p / 8192 % 1024

def gredOp (op : Nat) (x y : Word) : Word :=
  match op with
  | 0 => x + y
  | 1 => BitVec.ofNat 32 (fadd .f32 x.toNat y.toNat)
  | 2 => if y.slt x then y else x
  | 3 => if x.slt y then y else x
  | 4 => if y.ult x then y else x
  | _ => if x.ult y then y else x

def gredIdentity (op : Nat) : Word :=
  match op with
  | 0 => 0
  | 1 => 0x80000000
  | 2 => 0x7FFFFFFF
  | 3 => 0x80000000
  | 4 => 0xFFFFFFFF
  | _ => 0

/-- One element: lane, bank, value, poison, register. -/
structure GElem where
  acc : Access
  bank : Nat
  val : Word
  bad : Bool

/-- An element as the bank gives it; an element in the kick buffer reads 0 (R416) and forms a set of its own. -/
def State.gredElem (s : State) (ctx : Nat) (a : Access) : GElem :=
  let ps := okList (s.physList ctx a.addr 4)
  if s.isKick ctx a.addr then ⟨a, 2 ^ 100 + a.lane, 0, false⟩
  else ⟨a, bankOf (ps.headD 0), BitVec.ofNat 32 (leNat (ps.map s.mem.read)), (linesOf ps).any s.lineBad⟩

/-- The sets of elements by bank, each with its lanes ascending: writes and poison. -/
def gredFold (op : Nat) (es : List GElem) : List RegWrite × List (Nat × Dword) :=
  (es.map GElem.bank).eraseDups.foldl (fun r b =>
    match es.filter fun e => e.bank == b with
    | [] => r
    | e :: t =>
      let ident := t.map fun x => (⟨x.acc.lane, x.acc.reg, gredIdentity op⟩ : RegWrite)
      match (e :: t).find? GElem.bad with
      | some x => (r.1 ++ ident, r.2 ++ [(e.acc.lane, lineAddr x.acc.addr)])
      | none => (r.1 ++ ⟨e.acc.lane, e.acc.reg, t.foldl (fun v x => gredOp op v x.val) e.val⟩ :: ident, r.2)) ([], [])

/-! ## Operations of a warp -/

/-- The write part of an operation is performed: its setb count falls. -/
def State.fallB (s : State) (wid : Nat) (o : TOp) : State :=
  (s.updWarp wid fun w => w.lowerOpt o.fb).updOp wid o.id fun o => { o with fb := none }

/-- Order and scope of an operation's atomics: the widest scopes of its releases and of its acquires. -/
def relScope (items : List Access) : Option Nat :=
  items.findSome? fun a => match a.kind with | .atomic _ sc ord _ _ => if 2 ≤ ord then some sc else none | _ => none
def acqScope (items : List Access) : Option Nat :=
  items.findSome? fun a =>
    match a.kind with | .atomic _ sc ord _ _ => if ord = 1 ∨ ord = 3 then some sc else none | _ => none

def isAtomic (a : Access) : Bool := match a.kind with | .atomic .. => true | _ => false

/-- The condition of FENCE.REL of a scope for the words of a warp before a name (R103, R106). -/
def State.releaseReadyAt (s : State) (w : Warp) (core scope before : Nat) : Bool :=
  (w.sq.all fun e => decide (before ≤ e.id)) &&
    (scope == 0 || s.wtClear core &&
      w.ops.all fun o =>
        match o.kind with
        | .accesses _ => decide (before ≤ o.id)
        | .gred _ _ => decide (before ≤ o.id)
        | _ => true)

/-- The operation is the first of its warp not yet performed (R92). -/
def firstPending (w : Warp) (opid : Nat) : Bool :=
  match w.ops.find? fun o => match o.kind with | .accesses _ => true | .gred _ _ => true | _ => false with
  | some o => o.id == opid
  | none => false

/-- An atomic follows the stores before it: they have left the queue, those to its own bytes are performed, unless its scope is
core and the L1 holds them; at the host's memory so are all window stores of its warp, in their one order (R110). A release's
condition holds (R92, R95). A store that never arrives (R440) is not waited for. -/
def State.atomicReady (s : State) (w : Warp) (core : Nat) (grp : Group) (o : TOp) (items : List Access) : Bool :=
  if items.any isAtomic then
    (w.sq.all fun e => decide (o.id ≤ e.id)) &&
      (items.all fun a =>
        match a.kind with
        | .atomic _ sc _ _ _ =>
          let ps := okList (s.physList grp.ctx a.addr a.size)
          let window := (s.core core).wt.any fun x => x.warp == w.id && atHost (x.cells.map (·.1))
          a.space == .lantern || (if atHost ps then !window else sc == 0) ||
            (!atHost ps && ps.all fun p => (wtByte (s.core core).wt p).isNone || s.cutOff p)
        | _ => true) &&
      (match relScope items with
       | some sc => s.releaseReadyAt w core sc o.id
       | none => true) &&
      (match acqScope items with
       | some sc => sc == 0 || s.wtSeen core
       | none => true)
  else true

/-- An atomic of the port form: all but add, swap and compare-and-swap, and those too where the negotiated feature word shows no
AtomicOps (R100). -/
def State.portForm (s : State) (a : Access) : Bool :=
  match a.kind with
  | .load _ => false
  | .atomic op .. => a.space == .mem && !(s.pkg.negotiated.getLsbD 0 && [0, 8, 9, 10, 11, 12].contains op)

def Perf.access (r : Perf) (wid core : Nat) (grp : Group) (w : Warp) (opid : Nat) (a : Access) : Perf :=
  match a.kind with
  | .load sg => r.load core grp w opid a sg
  | .atomic op sc _ x y =>
    match a.space with
    | .lantern => r.latom grp a op x y
    | .mem => r.atom wid core opid grp a op sc x y

/-- What follows the performing of an operation: its results are known, its poison and port failures recorded, its spans
noted. -/
def Perf.settle (r : Perf) (wid : Nat) (o : TOp) (row2 row3 : List (Nat × Dword)) : State :=
  let s := r.s
  let recs := poisonRecs o causePoison r.bad ++ poisonRecs o causeBounds row2 ++ poisonRecs o causeRights row3
  let s := s.updOp wid o.id fun o => { o with kind := .done r.writes }
  let s := s.updWarp wid fun w =>
    { (if r.changed then w.unquiet else w).noteSpans o.lanes r.reads with poison := w.poison ++ recs }
  (s.fallB wid o).noteWrite r.wrote

/-- A load or atomic operation is performed, parks on a page, or waits (R92, R253). -/
def State.performOp (s : State) (w : Warp) (grp : Group) (o : TOp) (items : List Access) : State :=
  let core := grp.coreId
  let pass := s.passing grp.ctx items Access.right
  let failing (row : Nat) := (items.filter fun a => s.portRow grp.ctx a.space a.addr a.size a.right == row).map
    fun a => (a.lane, a.addr)
  match s.firstAbsent grp.ctx (memSpans s grp.ctx pass) with
  | some k => s.park grp.die o.id k
  | none =>
    let spans := memSpans s grp.ctx pass
    let ps := spans.flatMap fun x => okList (s.physList grp.ctx x.1 x.2)
    let port := (pass.filter s.portForm).flatMap (fun a => okList (s.physList grp.ctx a.addr a.size)) |>.filter fun p => atHost [p]
    if ¬ s.atomicReady w core grp o items ∨ ¬ s.portFree o.id ps then s
    else if ¬ port.isEmpty ∧ s.portOp.isNone then { s with portOp := some (o.id, port.foldl (fun t p => tabPut t p (s.mem.read p)) []) }
    else
      let s' := s.touchSpans grp.die (some core) grp.ctx spans (pass.any isAtomic)
      let s' := match relScope items with | some sc => s'.acked sc | none => s'
      let snap := match s.portOp with | some x => if x.1 = o.id then x.2 else [] | none => []
      let s' := if port.isEmpty then s' else { s' with portOp := none }
      let r : Perf := pass.foldl (fun (r : Perf) a => r.access w.id core grp w o.id a) { s := s', snap }
      let s' := r.settle w.id o (failing 2) (failing 3)
      match acqScope items with
      | some sc => if sc = 0 then s' else s'.dropL1 core
      | none => s'

/-- A gather-reduce is performed at the home slices (R181, R182), after the writes of its warp and those of its core to its
bytes have reached them (R89, R92). -/
def State.performGred (s : State) (w : Warp) (grp : Group) (o : TOp) (op : Nat) (items : List Access) : State :=
  let core := grp.coreId
  let pass := s.passing grp.ctx items fun _ => .n
  let failing (row : Nat) := (items.filter fun a => s.portRow grp.ctx a.space a.addr a.size .n == row).map
    fun a => (a.lane, a.addr)
  let spans := memSpans s grp.ctx pass
  match s.firstAbsent grp.ctx spans with
  | some k => s.park grp.die o.id k
  | none =>
    let ps := spans.flatMap fun x => okList (s.physList grp.ctx x.1 x.2)
    let waits := (s.core core).wt.any fun x => x.warp == w.id || x.cells.any fun c => ps.contains c.1
    if waits then s
    else
    let s' := s.touchSpans grp.die (some core) grp.ctx spans false
    let ls := linesOf ps
    let s' := ls.foldl (fun s l => s.findError l 3) s'
    let f := gredFold op (pass.map (s'.gredElem grp.ctx))
    let s' := { s' with l1 := ls.foldl (fun l1 l => dropLine l1 core l) s'.l1
                        copies := ls.foldl (fun c l => dropLine c grp.die l) s'.copies }
    Perf.settle { s := s', writes := f.1, bad := f.2, reads := ls } w.id o (failing 2) (failing 3)

/-- The operation with a name, with its warp and group. -/
def State.findOp (s : State) (opid : Nat) : Option (Warp × Group × TOp) :=
  s.warps.findSome? fun w =>
    match lookupBy TOp.id w.ops opid with
    | none => none
    | some o => (s.group w.group).map fun g => (w, g, o)

/-- A store on its way from its core is performed at the home L2 (R91, R94), the window stores of one warp in core order
(R110); one to an unreachable package never is (R440). -/
def State.performWt (s : State) (core : Nat) (x : WtStore) : State :=
  let ps := x.cells.map (·.1)
  let earlier := (s.core core).wt.takeWhile fun y => y.id != x.id
  let behind := atHost ps && earlier.any fun y => y.warp == x.warp && atHost (y.cells.map (·.1))
  if behind || (x.cells.any fun c => (wtByte earlier c.1).isSome || s.cutOff c.1) || !s.portFree x.id ps then s
  else
    let s := s.updCore core fun u => { u with wt := removeBy WtStore.id x.id u.wt }
    (s.writePoison ps).performCells (core / Config.coresPerDie) x.cells

def State.findWt (s : State) (id : Nat) : Option (Nat × WtStore) :=
  s.cores.findSome? fun e => (lookupBy WtStore.id e.2.wt id).map fun x => (e.1, x)

/-! ## Stores leaving their queue (R91, R176) -/

/-- A store item is a kick (R416): an 8-byte store at offset 64·S of the kick buffer. -/
def State.kickOf (s : State) (ctx : Nat) (it : StoreItem) : Option Nat :=
  if it.space = .mem ∧ s.isKick ctx it.addr ∧ it.bytes.length = 8 ∧ refOff it.addr % 64 = 0 ∧ refOff it.addr / 64 < 12 then
    some (refOff it.addr / 64)
  else none

/-- The effects of an entry's items, lanes ascending: Lantern bytes, kicks, and the memory cells. -/
def State.leaveItem (grp : Group) (r : State × Tab Byte × List Nat) (it : StoreItem) : State × Tab Byte × List Nat :=
  let (s, cells, spans) := r
  match it.space with
  | .lantern =>
    let loc := grp.lbase + it.addr.toNat
    let as := (List.range it.bytes.length).map (loc + ·)
    (s.updQuad grp.quad fun q => q.lstore loc it.bytes, cells, spans ++ as)
  | .mem =>
    match s.kickOf grp.ctx it with
    | some n =>
      (s.updStack n fun u =>
        { u with arriving := u.arriving ++ [⟨BitVec.ofNat 64 (leNat it.bytes), grp.ctx, grp.id, false⟩] }, cells, spans)
    | none =>
      if s.isKick grp.ctx it.addr then r
      else
        let ps := okList (s.physList grp.ctx it.addr it.bytes.length)
        (s, (ps.zip it.bytes).foldl (fun t c => tabPut t c.1 c.2) cells, spans)

/-- The head of a warp's store queue leaves into the core order, parks on a page, or waits. -/
def State.leaveHead (s : State) (w : Warp) (grp : Group) (e : SQEntry) : State :=
  let core := grp.coreId
  let row (it : StoreItem) : Nat := s.portRow grp.ctx it.space it.addr it.bytes.length .w
  let pass := e.items.filter fun it => row it == 0
  let failing (n : Nat) := (e.items.filter fun it => row it == n).map fun it => (it.lane, it.addr)
  let spans := (pass.filter fun it => it.space == .mem && !s.isKick grp.ctx it.addr).map
    fun it => (it.addr, it.bytes.length)
  let kicks := pass.any fun it => (s.kickOf grp.ctx it).isSome
  let loadsBefore := w.ops.any fun o =>
    match o.kind with
    | .accesses _ => decide (o.id < e.id)
    | .gred _ _ => decide (o.id < e.id)
    | _ => false
  if loadsBefore then s
  else if kicks && !s.releaseReadyAt w core 3 e.id then s
  else
    match s.firstAbsent grp.ctx spans with
    | some k => s.park grp.die e.id k
    | none =>
      let s := s.touchSpans grp.die (some core) grp.ctx spans true
      let s := if kicks then s.acked 3 else s
      let (s, cells, las) := pass.foldl (State.leaveItem grp) (s, [], [])
      let s := (s.updQuad grp.quad fun q => q.clearLines las).noteYLan grp.quad las
      let s := s.noteWrite ((linesOf las).map (lanternSpan grp.quad))
      let s := if cells.isEmpty then s else s.addWt core e.id w.id cells
      let o : TOp := { id := e.id, fa := none, fb := none, lanes := e.lanes, kind := .done [], word := e.word,
                       wordPc := e.wordPc }
      s.updWarp w.id fun w =>
        { w.lowerOpt e.fb with
          sq := w.sq.tail
          poison := w.poison ++ poisonRecs o causeBounds (failing 2) ++ poisonRecs o causeRights (failing 3) }

/-! ## Events -/

/-- A request with a name moves: an operation, a store on its way, or an engine's held write, unless it is parked. -/
def State.moveRequest (s : State) (req : Nat) : State :=
  let other : State :=
    match s.findWt req with
    | some (core, x) => s.performWt core x
    | none =>
      match lookupBy HeldWrite.id s.heldWrites req with
      | some h => s.putArrive h
      | none => s
  match s.findOp req with
  | some (w, grp, o) =>
    match o.kind with
    | .accesses items => if firstPending w o.id then s.performOp w grp o items else s
    | .gred op items => if firstPending w o.id then s.performGred w grp o op items else s
    | _ => other
  | none => other

/-- R246: a request is checked and performed, or parks. -/
def execMemoryRequest (req : Nat) (s : State) : Host.Outcome State Fault Refusal :=
  .next (if s.isParked req then s else (s.moveRequest req).draw)

/-- The head of a warp's queue leaves, unless it is parked. -/
def State.storeLeave (s : State) (wid : Nat) : State :=
  match s.warp wid with
  | none => s
  | some w =>
    match s.group w.group, w.sq with
    | some grp, e :: _ => if s.isParked e.id then s else s.leaveHead w grp e
    | _, _ => s

/-- R91: a store leaves its warp's queue. -/
def execStoreQueueLeave (wid : Nat) (s : State) : Host.Outcome State Fault Refusal := .next (s.storeLeave wid).draw

/-- R14: a tracked operation whose result is known completes: its registers are written, all of them in one step, and its
counts fall; a write of an s register leaves no iteration quiet (R131). A status word that comes while the group is saved lands
once it is resident again (R226). -/
def State.completeOp (s : State) (wid opid : Nat) : State :=
  let away (w : Warp) : Bool := match s.group w.group with | some g => g.stat == .saved | none => false
  s.updWarp wid fun w =>
    if away w then w
    else
    match lookupBy TOp.id w.ops opid with
    | some o =>
      match o.kind with
      | .done _ =>
        let w := { w with ops := removeBy TOp.id opid w.ops }
        let w := if o.writes.any fun r => r.lane == uniLane then w.unquiet else w
        ((o.writes.foldl Warp.landWrite w).lowerOpt o.fa).lowerOpt o.fb
      | _ => w
    | none => w

def execTrackedOpComplete (wid opid : Nat) (s : State) : Host.Outcome State Fault Refusal := .next (s.completeOp wid opid)

/-- Replays the requests parked on a page, in their order of arrival (R253). -/
def State.replay (s : State) (d : Nat) (k : PageKey) : State :=
  let u := s.die d
  let mine := (u.parking ++ u.missq).filter fun p => p.key == k
  let park := u.parking.filter fun p => p.key != k
  let miss := u.missq.filter fun p => p.key != k
  let room := 2048 - park.length
  let s := s.updDie d fun u => { u with parking := park ++ miss.take room, missq := miss.drop room }
  mine.foldl (fun s p =>
    match s.warps.find? fun w => (w.sq.headD ⟨0, [], none, 0, 0, 0⟩).id == p.req with
    | some w => s.storeLeave w.id
    | none => s.moveRequest p.req) s

/-- Lanes parked on the fetch of a clause that lies in a page become ready. -/
def State.wakeFetch (s : State) (d : Nat) (k : PageKey) : State :=
  let wake (w : Warp) : Warp :=
    match s.group w.group with
    | none => w
    | some grp =>
      if grp.die = d ∧ grp.ctx = k.ctx ∧ tabGet 0 s.code k.ctx = k.buf then
        let pb := match s.buf k.ctx k.buf with | some e => pageBytes e.pgsz | none => 1
        { w with lanes := w.lanes.map fun ln =>
            if ln.stat = .parked .fetch ∧ ln.pc.toNat / pb = k.page then { ln with stat := .ready } else ln }
      else w
  { s with warps := s.warps.map wake }

end Sys2Proof.Machine
end

