-- ==== Sys2Proof/Machine/Engine.lean ====
section
/-! DEFINITION. Engine commands: their issue into the core's command buffer, status words, synchronisation words
(01_engines.md R11–R20). -/

namespace Sys2Proof.Machine

/-- Engine of an eop5: 0 matrix, 1 tile transfer, 2 distributor, 3 Orrery, 4 Vesper. -/
def engineOf (eop : Nat) : Nat :=
  if eop < 8 then 0 else if eop < 14 then 1 else if eop = 14 then 2 else if eop < 23 then 3 else 4

/-! ## Issue (R11) -/

/-- A command enters the core's command buffer with its operands as read; it stalls while the buffer holds eight. Its
status counts on seta and its acceptance on setb. -/
def commandEff (k : BitVec 3) (eop : Nat) (sd : Option Nat) (regs : Warp → List Word) (c : Ctx) (s : State) : Eff :=
  let fa := if sd.isSome then c.g.fa else none
  if guardUni k c.w = false then .go (s.fallNow c.w.id fa c.g.fb) []
  else if 8 ≤ (s.core c.grp.coreId).cmds.length then .stall
  else
    let (id, s) := s.fresh
    let (op, s) := s.fresh
    let (sop, s) := s.fresh
    let s := s.addOp c.w.id (c.newOp op none c.g.fb .accept)
    let s := match sd with
      | some d => s.addOp c.w.id (c.newOp sop fa none (.status d))
      | none => s
    let m : Cmd := { id, warp := c.w.id, group := c.grp.id, ctx := c.grp.ctx, eop, ebits := fld c.g.word 0 21
                     regs := regs c.rv, op := some op, sop := if sd.isSome then some sop else none, lanes := c.g.lanes }
    .go ((s.updWarp c.w.id Warp.unquiet).updCore c.grp.coreId fun u => { u with cmds := u.cmds ++ [m] }) []

/-- Registers s(n) to s(n + count − 1). -/
def sRegs (n count : Nat) (w : Warp) : List Word := (List.range count).map fun i => w.getS (n + i)

/-- Status destination under nostat (R234, R269, R349, R389). -/
def statusDst (ns : BitVec 1) (d : BitVec 5) : Option Nat := if ns = 1 then none else some d.toNat

/-- An engine command word. -/
def commandWord (chk : Ctx → Option Nat) (k : BitVec 3) (eop : Nat) (sd : Option Nat) (regs : Warp → List Word) (s : State) :
    Host.Outcome State Fault Refusal :=
  issue chk (commandEff k eop sd regs) s

/-! ## Status words (R17) -/

/-- A status word: code and count, saturating in 24 bits. -/
def statusWord (code count : Nat) : Word := BitVec.ofNat 32 (code * 2 ^ 24 + min count (2 ^ 24 - 1))

/-- The engine has accepted a command: its setb count falls. -/
def State.accepted (s : State) (wid : Nat) (op : Option Nat) : State :=
  match op with
  | none => s
  | some id =>
    s.updWarp wid fun w =>
      match lookupBy TOp.id w.ops id with
      | some o => { w.lowerOpt o.fb with ops := removeBy TOp.id id w.ops }
      | none => w

/-- A release of an engine at a scope (R13, R103). -/
def State.release (s : State) (rel : Option Nat) : State :=
  match rel with
  | some sc => s.acked sc
  | none => s

/-! ## Synchronisation words (R18–R20) -/

/-- A synchronisation word's offset lies in an allocation of n bytes, aligned to 16 (R18). -/
def syncOk (off n : Nat) : Bool := off % 16 == 0 && decide (off + 16 ≤ n)

def noSync : Nat := 0xFFFFFFFF

/-- SARM's update of the word (R279). -/
def State.sarm (s : State) (quad a target : Nat) (reset : Bool) : State :=
  let q := s.quad quad
  let cnt := if reset then 0 else q.word (a + 4)
  let gen := if reset then 0 else q.word (a + 8)
  let st := if reset then q.word (a + 12) % 65536 else q.word (a + 12)
  let r := if target = 0 then (cnt, 0) else (cnt % target, cnt / target)
  s.lanternWrite quad a
    (leBytes target 4 ++ leBytes r.1 4 ++ leBytes ((gen + r.2) % 2 ^ 32) 4 ++ leBytes st 4)

/-- Adds to the waiter count of a synchronisation word. -/
def State.addWaiter (s : State) (quad a : Nat) (n : Int) : State :=
  let st := (s.quad quad).word (a + 12)
  let cnt := (((st % 65536 : Nat) : Int) + n) % 65536
  s.lanternWrite quad (a + 12) (leBytes (st / 65536 * 65536 + cnt.toNat) 4)

/-! ## Parking in an engine wait (R115) -/

/-- The gang's lanes park in engine wait and the gang waits. -/
def State.engineWait (s : State) (c : Ctx) (w : Wait) : State :=
  (s.updWarp c.w.id fun x => x.mapLanes c.g.lanes fun _ ln => { ln with stat := .parked .engine }).updGang c.g.uid
    fun g => { g with wait := w }

/-- A lane whose PC an MWRITE has set while it was parked leaves for that PC (R220). -/
def movedLane (meets : Word → Bool) (ln : Lane) : Lane :=
  let pc := ln.npc.getD ln.pc
  { ln with pc, npc := none, released := false, stat := if pc == ln.meet && meets pc then .parked .meeting else .ready }

/-- Lanes that leave a gang whose wait has ended, for a PC that an MWRITE has set; with no lane left the gang ends and the
counts of its words still to issue are taken back (log 8). -/
def State.leaveMoved (s : State) (uid : Nat) : State :=
  match s.gang uid with
  | none => s
  | some g =>
    match s.warp g.warp, (s.warp g.warp).bind fun w => s.group w.group with
    | some w, some grp =>
      let moved := w.lanesWhere fun l ln => inMask g.lanes l && ln.npc.isSome && ln.stat != .exited
      if moved = 0 then s
      else
        let stay := g.lanes &&& ~~~moved
        let w' := w.mapLanes moved fun _ ln => movedLane (s.meets grp) ln
        if stay = 0 then (s.setWarp (w'.lowerFor g.seta g.setb g.rest).meetRelease).delGang uid
        else (s.setWarp w'.meetRelease).updGang uid fun g => { g with lanes := stay }
    | _, _ => s

/-- The gang's wait ends: its lanes are ready again, and its clause ends when no word is left. A gang that does not wait is
left as it is. -/
def State.endWait (s : State) (uid : Nat) : State :=
  match s.gang uid with
  | none => s
  | some g =>
    if g.wait = .none then s
    else
      (((s.updWarp g.warp fun w => w.mapLanes g.lanes fun _ ln =>
        { ln with stat := if ln.stat = .parked .engine then .ready else ln.stat }).updGang uid
          fun g => { g with wait := .none }).leaveMoved uid).finish uid

/-- A gang's wait ends with an acquire wider than core. -/
def State.handOn (s : State) (core uid : Nat) : State :=
  let s' := s.acquireGang core uid
  if s.wtSeen core then s'.endWait uid else s'

/-- A waiting word writes its result and its gang goes on; the return acquires. -/
def State.waitReturn (s : State) (g : Gang) (core d : Nat) (v : Word) : State :=
  (s.updWarp g.warp fun w => (w.putS d v).unquiet).handOn core g.uid

end Sys2Proof.Machine
end

