-- ==== Sys2Proof/Machine/Tiles.lean ====
section
/-! DEFINITION. Tile transfer engine (15_tiles.md R265–R284). -/

namespace Sys2Proof.Machine

/-! ## Local macros, allocations and marks (R127, R278, R286, R289, R309) -/

/-- Local macros of a group. -/
def Group.macros (g : Group) : Nat := if g.desc.lbytes % Config.macroBytes = 0 then g.desc.lbytes / Config.macroBytes else 0

/-- Quad macro of a local macro. -/
def Group.quadMacro (g : Group) (m : Nat) : Nat := g.lbase / Config.macroBytes + m

/-- Macro range of MSTAT and MUNSTAT: first and count (R309). -/
def macRange (x : Word) : Nat × Nat := (x.toNat % 128, x.toNat / 256 % 256)

/-- The quad macros that a pending MSTAT entry places under the issue check; a range beyond the local macros names none. -/
def State.mstatMacros (s : State) (e : MEntry) : List Nat :=
  if e.eop = 2 then
    match s.group e.group with
    | some g =>
      let r := macRange ((e.regs[0]?).getD 0)
      if r.1 + r.2 ≤ g.macros then (List.range r.2).map fun i => g.quadMacro (r.1 + i) else []
    | none => []
  else []

/-- A group occupies its core. -/
def Group.onCore (g : Group) : Bool := g.stat == .resident || g.stat == .saving

/-- An ended group's commands or entries still use its allocation (R278). -/
def State.lingers (s : State) (g : Group) : Bool :=
  let q := s.quad g.quad
  g.stat == .ended &&
    (q.tcmds.any (fun t => t.group == g.id) || q.entries.any (fun e => e.group == g.id) ||
      (s.die g.die).orbits.any fun o => o.bound == some g.id)

/-- Groups that hold Lantern bytes of a quad. -/
def State.quadUsers (s : State) (quad : Nat) : List Group :=
  s.groups.filter fun g => g.quad == quad && (g.onCore || s.lingers g)

/-- The marks of an allocation go with it (R289): those of a macro that no group of the quad holds are cleared. -/
def State.settleMarks (s : State) (quad : Nat) : State :=
  let users := s.quadUsers quad
  let held (m : Nat) : Bool := users.any fun g => decide (g.quadMacro 0 ≤ m) && decide (m < g.quadMacro g.macros)
  s.updQuad quad fun q => { q with marks := q.marks.filter held }

/-! ## The shape-and-stride record (R265–R267) -/

/-- A record's fields. -/
structure Shape where
  ref : Dword
  esize : Nat
  rank : Nat
  swz : Nat
  rsv : Nat
  fill : Nat
  dims : List Nat
  strides : List Nat
  boxes : List Nat
  tail : Nat
  deriving DecidableEq, Repr

def shapeOf (r : List Byte) : Shape :=
  { ref := BitVec.ofNat 64 (recField r 0 8), esize := recField r 8 1, rank := recField r 9 1, swz := recField r 10 1
    rsv := recField r 11 1, fill := recField r 12 4
    dims := (List.range 5).map fun j => recField r (0x10 + 4 * j) 4
    strides := 0 :: (List.range 4).map fun j => recField r (0x24 + 4 * j) 4
    boxes := (List.range 5).map fun j => recField r (0x34 + 2 * j) 2
    tail := recField r 0x3E 2 }

/-- Element size in half-bytes. -/
def Shape.nibs (h : Shape) : Nat := 2 ^ h.esize

def Shape.dim (h : Shape) (j : Nat) : Nat := (h.dims[j]?).getD 0
def Shape.stride (h : Shape) (j : Nat) : Nat := (h.strides[j]?).getD 0
/-- Box extent: 1 beyond the rank. -/
def Shape.box (h : Shape) (j : Nat) : Nat := if j < h.rank then (h.boxes[j]?).getD 0 else 1

/-- Image bytes B. -/
def Shape.bytes (h : Shape) : Nat := h.nibs * (h.box 0 * h.box 1 * h.box 2 * h.box 3 * h.box 4) / 2

/-- Record limits and the rules of R266 (order 3 of R272). -/
def Shape.ok (h : Shape) (o0 : Int) : Bool :=
  h.rsv == 0 && h.tail == 0 && decide (h.esize ≤ 4) && decide (1 ≤ h.rank) && decide (h.rank ≤ 5) && decide (h.swz ≤ 3) &&
    ((List.range 5).all fun j =>
      if j < h.rank then decide (1 ≤ h.dim j) && decide (1 ≤ h.box j) && h.stride j % 16 == 0
      else h.dim j == 0 && h.stride j == 0 && (h.boxes[j]?).getD 0 == 0) &&
    h.box 0 * h.nibs % 32 == 0 && h.bytes % 256 == 0 && decide (h.bytes ≤ 2 ^ 21) &&
    (h.esize != 0 || (o0 % 2 == 0 && h.box 0 % 2 == 0))

/-- Box index of linear element n in dimension j. -/
def Shape.index (h : Shape) (n j : Nat) : Nat :=
  n / ((List.range j).foldl (fun p i => p * h.box i) 1) % h.box j

/-- Coordinate j of a list. -/
def nth (c : List Int) (j : Nat) : Int := c.getD j 0

/-- Coordinates of linear element n from an origin (R266). -/
def Shape.coords (h : Shape) (o : List Int) (n : Nat) : List Int :=
  (List.range h.rank).map fun j => nth o j + h.index n j

def Shape.inBounds (h : Shape) (c : List Int) : Bool :=
  (List.range h.rank).all fun j => decide (0 ≤ nth c j) && decide (nth c j < h.dim j)

/-- Memory offset of an in-bounds element, in half-bytes from the buffer's base. -/
def Shape.memNib (h : Shape) (c : List Int) : Nat :=
  2 * refOff h.ref + ((c.headD 0).toNat * h.nibs) +
    2 * (((List.range h.rank).drop 1).foldl (fun s j => s + (nth c j).toNat * h.stride j) 0)

/-- First half-byte past the last in-bounds element of a box; 0 when none is in bounds. -/
def Shape.topNib (h : Shape) (o : List Int) : Nat :=
  let top (j : Nat) : Int := min (nth o j + h.box j - 1) ((h.dim j : Int) - 1)
  if (List.range h.rank).all fun j => decide (max 0 (nth o j) ≤ top j) then
    h.memNib ((List.range h.rank).map top) + h.nibs
  else 0

/-- Lantern swizzle (R267). -/
def swzOf (swz x : Nat) : Nat :=
  if swz = 0 then x else Nat.xor x (16 * (x / 256 % (2 * 2 ^ (swz - 1))))

/-- Reference of byte b of a shape's buffer. -/
def Shape.refAt (h : Shape) (b : Nat) : Dword := BitVec.ofNat 64 (refBuf h.ref * 2 ^ 44 + b % 2 ^ 44)

/-- Where half-byte y of the image comes from: half-byte offset in the buffer, or out of bounds. -/
def Shape.source (h : Shape) (o : List Int) (y : Nat) : Option Nat :=
  let c := h.coords o (y / h.nibs)
  if h.inBounds c then some (h.memNib c + y % h.nibs) else none

/-- Fill half-byte of half-byte y of the image. -/
def Shape.fillNib (h : Shape) (y : Nat) : Nat := h.fill / 16 ^ (y % h.nibs) % 16

/-! ## The command (R270) -/

def TCmd.reg (t : TCmd) (i : Nat) : Nat := ((t.regs[i]?).getD 0).toNat
def TCmd.origin (t : TCmd) : List Int := (List.range 5).map fun i => ((t.regs[4 + i]?).getD 0).toInt
def TCmd.shape (t : TCmd) : Shape := shapeOf t.record
def TCmd.recRef (t : TCmd) : Dword := joinWords ((t.regs[1]?).getD 0) ((t.regs[0]?).getD 0)
def TCmd.sync (t : TCmd) : Nat := t.reg 3
def TCmd.dst (t : TCmd) : Nat := t.reg 2
/-- Tag of a multicast or notice. -/
def TCmd.tag (t : TCmd) : Nat := (if t.eop = 10 then t.reg 9 else t.reg 1) % 65536
def TCmd.isPost (t : TCmd) : Bool := t.eop == 11 && !t.take
def TCmd.isTake (t : TCmd) : Bool := t.eop == 11 && t.take

def State.updTCmd (s : State) (quad id : Nat) (f : TCmd → TCmd) : State :=
  s.updQuad quad fun q => { q with tcmds := updateBy TCmd.id id f q.tcmds }

def State.tcmd (s : State) (quad id : Nat) : Option TCmd := lookupBy TCmd.id (s.quad quad).tcmds id

/-- A command completes: its status is written, its release performed, and it leaves the queue (R271). -/
def State.tileDone (s : State) (quad : Nat) (t : TCmd) (code count : Nat) : State :=
  (((s.updQuad quad fun q => { q with tcmds := removeBy TCmd.id t.id q.tcmds }).release t.rel).giveStatus t.warp t.sop
    (statusWord code count)).settleMarks quad

/-- An image of n bytes at offset d contains the command's own synchronisation word. -/
def coversSync (d n sync : Nat) : Bool := sync != noSync && decide (sync < d + n) && decide (d < sync + 16)

/-- A range meets a marked macro, or one that an MSTAT entry posted before a command's acceptance covers (R272, order 5;
R309). -/
def State.stationaryFor (s : State) (quad id a n : Nat) : Bool :=
  let q := s.quad quad
  (macrosOf a n).any fun m =>
    q.marks.contains m || q.entries.any fun e => decide (e.id < id) && (s.mstatMacros e).contains m

/-- The synchronisation word of a command lies outside its allocation or is misaligned. -/
def TCmd.syncBad (t : TCmd) (lbytes : Nat) : Bool := t.sync != noSync && !syncOk t.sync lbytes

/-- R272 for a command with a record, the record's bytes given when it is readable. -/
def tileCheck (s : State) (quad : Nat) (grp : Group) (t : TCmd) (r : List Byte) : Nat :=
  let h := shapeOf r
  let lb := grp.desc.lbytes
  let pref := t.eop == 13
  let store := t.eop == 9
  let B := h.bytes
  let dataRow := s.engRow t.ctx (h.refAt 0) 0 (if store then .w else .r)
  let recRow := s.engRow t.ctx t.recRef 64 .r
  let top := h.topNib t.origin
  let dataBounds : Bool :=
    top != 0 && (match s.buf t.ctx (refBuf h.ref) with
      | none => true
      | some e => decide (e.size * 2 < top))
  let syncBad := !pref && t.syncBad lb
  if recRow = 2 ∨ t.recRef.toNat % 64 ≠ 0 ∨ syncBad then 0x02
  else if recRow = 3 then 0x03
  else if dataBounds ∨ (!pref && decide (lb < t.dst + B)) then 0x02
  else if dataRow ≠ 0 then 0x03
  else if !h.ok (t.origin.headD 0) ∨ (!pref && (t.dst % 256 != 0 || coversSync t.dst B t.sync)) then 0x10
  else if t.eop = 10 ∧ (!t.mask.getLsbD (quad % 128) ∨ t.mask = 1#128 <<< (quad % 128)) then 0x11
  else if (t.eop == 8 || t.eop == 10) && s.stationaryFor quad t.id (grp.lbase + t.dst) B then 0x12
  else 0

/-- R272 for TNOTICE. -/
def noticeCheck (s : State) (quad : Nat) (grp : Group) (t : TCmd) : Nat :=
  let lb := grp.desc.lbytes
  let n := t.reg 4
  if lb < t.dst + n ∨ t.syncBad lb ∨ (!t.take && decide (512 ≤ t.reg 0)) then 0x02
  else if t.dst % 256 ≠ 0 ∨ n % 256 ≠ 0 ∨ n < 256 ∨ 2 ^ 21 < n ∨ (t.take && coversSync t.dst n t.sync) then 0x10
  else if t.take && s.stationaryFor quad t.id (grp.lbase + t.dst) n then 0x12
  else 0

/-- Quads of the issuing die that a multicast names, as package-wide numbers. -/
def TCmd.named (t : TCmd) (quad : Nat) : List Nat :=
  ((List.range 128).filter t.mask.getLsbD).map fun j => quad / 128 * 128 + j

/-- First sector of a quad's slice, by its rank (R276). -/
def sliceStart (r n S : Nat) : Nat := r * S / n

/-- Sector k lies in the slice that a quad fetches. -/
def TCmd.ownSlice (t : TCmd) (quad k : Nat) : Bool :=
  let n := t.named quad
  let r := (n.filter fun x => decide (x < quad)).length
  decide (sliceStart r n.length t.sectors ≤ k) && decide (k < sliceStart (r + 1) n.length t.sectors)

/-- A multicast command holds ready from every named quad: its rendezvous is complete (R276). -/
def TCmd.met (t : TCmd) (quad : Nat) : Bool :=
  (List.range 128).all fun j => !t.mask.getLsbD j || j == quad % 128 || t.ready.any fun r => r.1 % 128 == j

/-- A started command has sectors to read: it counts among the four that run at once. A multicast runs while sectors of its own
slice are left; those of other quads arrive without it. -/
def TCmd.moving (t : TCmd) (quad : Nat) : Bool :=
  t.started &&
    (if t.eop = 11 then t.take && t.partner.isSome
     else if t.eop = 10 then
       t.met quad && (List.range t.sectors).any fun k => t.ownSlice quad k && !t.fetched.contains k
     else true)

/-- Four commands of a queue run already (R271). -/
def fourRun (q : QuadU) (quad : Nat) : Bool := decide (4 ≤ (q.tcmds.filter fun x => x.moving quad).length)

/-- A multicast is past its rendezvous, or a partner that holds its ready message is. -/
def State.casting (s : State) (quad : Nat) (t : TCmd) : Bool :=
  t.met quad || t.sentReady.any fun j => (s.quad j).tcmds.any fun x => x.ready.contains (quad, t.id) && x.met j

/-- A save of its group withdraws a command: a multicast before its rendezvous, an unmatched take (R282). -/
def State.withdraws (s : State) (quad : Nat) (t : TCmd) : Bool :=
  (match s.group t.group with | some g => g.stat == .saving | none => false) &&
    ((t.eop == 10 && !s.casting quad t) || (t.isTake && t.partner.isNone))

/-- A tile command accepted before a posting writes given macros, or may, its record not yet read (R289). -/
def tileMeets (s : State) (quad : Nat) (t : TCmd) (id : Nat) (ms : List Nat) : Bool :=
  decide (t.id < id) && (t.eop == 8 || t.eop == 10 || t.isTake) && !s.withdraws quad t &&
    (!t.started ||
      match s.group t.group with
      | some g => (macrosOf (g.lbase + t.dst) (256 * t.sectors)).any ms.contains
      | none => false)

/-- A posted MSTAT waits for a tile command. Its group's save waits for the MSTAT, so the command goes on in a save that stops
the others (R223, R282, R309; log 34). -/
def State.mstatWaits (s : State) (quad : Nat) (t : TCmd) : Bool :=
  (s.quad quad).entries.any fun e => e.eop == 2 && tileMeets s quad t e.id (s.mstatMacros e)

/-- A command of a group that is being saved, which the save leaves undone. -/
def State.savedUndone (s : State) (quad : Nat) (t : TCmd) : Bool :=
  (match s.group t.group with | some g => g.stat == .saving | none => false) && !s.mstatWaits quad t

/-- Completes a command all of whose sectors are done. -/
def State.tileCheckDone (s : State) (quad id : Nat) : State :=
  match s.tcmd quad id with
  | none => s
  | some t =>
    if t.done.length < t.sectors then s
    else
      let s :=
        match t.partner with
        | some (pq, pid) =>
          ((s.updQuad quad fun q => { q with notices := q.notices.filter fun n => !(n.quad == pq && n.cmd == pid) })).updTCmd
            pq pid fun p => { p with acked := true }
        | none => s
      s.tileDone quad t (if t.poisoned then 1 else 0) t.done.length

/-- R272: a command starts, in acceptance order, when fewer than four run; none that a save leaves undone does (R282). A
copy that a restore has reposted goes on with its record as read at its first start. A record on a page that is not resident
holds the start, and the page is asked for; one that its row refuses is not read. -/
def execTileCommandStart (quad cmd : Nat) (s : State) : Host.Outcome State Fault Refusal :=
  let q := s.quad quad
  match lookupBy TCmd.id q.tcmds cmd with
  | none => .next s
  | some t =>
    match s.group t.group with
    | none => .next s
    | some grp =>
      let before := q.tcmds.takeWhile fun x => x.id != cmd
      if t.started ∨ before.any (fun x => !x.started && !s.savedUndone quad x) ∨ fourRun q quad ∨ s.savedUndone quad t then
        .next s
      else if (t.eop = 8 ∨ t.eop = 9) ∧ ¬ t.record.isEmpty then
        .next ((s.updTCmd quad cmd fun t => { t with started := true }).tileCheckDone quad cmd)
      else if t.eop = 11 then
        match noticeCheck s quad grp t with
        | 0 => .next (s.updTCmd quad cmd fun t => { t with started := true, sectors := if t.take then t.reg 4 / 256 else 0 })
        | code => .next (s.tileDone quad t code 0)
      else
        if s.engRow t.ctx t.recRef 64 .r ≠ 0 then .next (s.tileDone quad t (tileCheck s quad grp t []) 0)
        else
        match s.physList t.ctx t.recRef 64 with
        | .error key => .next (s.want key)
        | .ok ps =>
          let bs := ps.map s.mem.read
          let s := s.engSaw grp.die ps
          match tileCheck s quad grp t bs with
          | 0 =>
            let s := s.engTouch grp.die t.ctx t.recRef 64 false
            .next (s.updTCmd quad cmd fun t =>
              { t with started := true, record := bs, sectors := (shapeOf bs).bytes / 256 })
          | code => .next (s.tileDone quad t code 0)

/-! ## Sectors (R273, R274) -/

/-- References of the bytes of memory that sector k reads or writes. -/
def sectorRefs (t : TCmd) (k : Nat) : List Dword :=
  let h := t.shape
  (((List.range 512).filterMap fun i => h.source t.origin (512 * k + i)).map fun nb => h.refAt (nb / 2)).eraseDups

/-- The half-byte of memory at a half-byte offset, as a command of a die reads it under its acquire (R94, R106). -/
def State.memNib (s : State) (d : Nat) (acq : Option Nat) (ctx : Nat) (h : Shape) (nb : Nat) : Nat :=
  match s.phys ctx (h.refAt (nb / 2)) with
  | some p => (s.engByte d acq p).toNat / 16 ^ (nb % 2) % 16
  | none => 0

/-- Bytes of sector k as gathered from memory, with poison per 64-byte line. -/
def State.gather (s : State) (d : Nat) (t : TCmd) (k : Nat) : List Byte × List Bool :=
  let h := t.shape
  let nib (y : Nat) : Nat :=
    match h.source t.origin y with
    | some nb => s.memNib d t.acq t.ctx h nb
    | none => h.fillNib y
  let bs := (List.range 256).map fun i => BitVec.ofNat 8 (nib (512 * k + 2 * i) + 16 * nib (512 * k + 2 * i + 1))
  let badNib (y : Nat) : Bool :=
    match h.source t.origin y with
    | some nb => match s.phys t.ctx (h.refAt (nb / 2)) with
      | some p => s.engBad d t.acq (lineOf p)
      | none => false
    | none => false
  (bs, (List.range 4).map fun j => (List.range 128).any fun i => badNib (512 * k + 128 * j + i))

/-- A page of a sector's bytes that is not resident. -/
def State.sectorAbsent (s : State) (t : TCmd) (k : Nat) : Option PageKey :=
  (sectorRefs t k).findSome? fun r =>
    match s.physList t.ctx r 1 with
    | .error key => some key
    | .ok _ => none

/-- The memory lines of a sector as found by a read. -/
def State.sectorFind (s : State) (d : Nat) (t : TCmd) (k : Nat) : State :=
  s.engSeen d t.acq ((sectorRefs t k).filterMap (s.phys t.ctx))

/-- Writes a gathered sector into a command's image: bytes, poison bits, bitmap and count in one update (R274). -/
def State.putSector (s : State) (quad : Nat) (grp : Group) (t : TCmd) (swz k : Nat) (bs : List Byte) (bad : List Bool) :
    State :=
  let base := grp.lbase + t.dst
  let units := (List.range 16).map fun i => (base + swzOf swz (256 * k + 16 * i), (bs.drop (16 * i)).take 16)
  let s := units.foldl (fun s u => s.lanternWrite quad u.1 u.2) s
  let s := s.updQuad quad fun q => { q with lpoison := q.lpoison.filter fun l => l / 4 != (base + 256 * k) / 256 }
  let lines := ((List.range 16).filter fun i => (bad[i / 4]?).getD false).map
    fun i => (base + swzOf swz (256 * k + 16 * i)) / 64
  let s := lines.foldl (fun s l => s.updQuad quad fun q => q.poisonLine l) s
  let s := s.updTCmd quad t.id fun t =>
    { t with done := t.done ++ [k], parked := t.parked.filter (· != k), poisoned := t.poisoned || bad.any id
             inbound := t.inbound.filter fun x => x.1 != k }
  if t.sync = noSync then s else s.arrive quad (grp.lbase + t.sync) 256 (bad.any id)

/-- A sector parks on a page, up to 16 per engine (R281). -/
def State.parkSector (s : State) (quad : Nat) (t : TCmd) (k : Nat) : State :=
  let n := (s.quad quad).tcmds.foldl (fun n x => n + x.parked.length) 0
  if t.parked.contains k ∨ 16 ≤ n then s else s.updTCmd quad t.id fun t => { t with parked := t.parked ++ [k] }

/-- Writes sector k of a TSTORE to memory; lines from poisoned Lantern lines are written poisoned (R274). -/
def State.storeSector (s : State) (quad : Nat) (grp : Group) (t : TCmd) (k : Nat) : State :=
  let h := t.shape
  let q := s.quad quad
  let at' (i : Nat) : Nat := grp.lbase + t.dst + swzOf h.swz (256 * k + i)
  let nibs := (List.range 512).filterMap fun i =>
    (h.source t.origin (512 * k + i)).bind fun nb =>
      (s.phys t.ctx (h.refAt (nb / 2))).map fun p =>
        (p, nb % 2, (s.lanByte t.acq.isSome quad (at' (i / 2))).toNat / 16 ^ (i % 2) % 16, q.lpoison.contains (at' (i / 2) / 64))
  let put (m : Tab Byte) (x : Nat × Nat × Nat × Bool) : Tab Byte :=
    let old := (tabGet (s.mem.read x.1) m x.1).toNat
    let b := if x.2.1 = 0 then old / 16 * 16 + x.2.2.1 else x.2.2.1 * 16 + old % 16
    tabPut m x.1 (BitVec.ofNat 8 b)
  let cells := nibs.foldl put []
  let ps := cells.map (·.1)
  let badLines := ((nibs.filter fun x => x.2.2.2).map fun x => lineOf x.1).eraseDups
  let s := s.touchSpans grp.die none t.ctx ((sectorRefs t k).map fun r => (r, 1)) true
  let s := (s.writePoison ps).performCells grp.die cells
  let s := badLines.foldl (fun s l => if s.poison.contains l then s else { s with poison := s.poison ++ [l] }) s
  let bad := ((List.range 256).any fun i => q.lpoison.contains (at' i / 64))
  let s := s.updTCmd quad t.id fun t =>
    { t with done := t.done ++ [k], parked := t.parked.filter (· != k), poisoned := t.poisoned || bad }
  if t.sync = noSync then s else s.arrive quad (grp.lbase + t.sync) 256 bad

/-- A multicast sector is gathered and sent to every named quad (R276). -/
def State.sendSector (s : State) (quad : Nat) (t : TCmd) (k : Nat) : State :=
  let g := s.gather (quad / 128) t k
  let s := s.sectorFind (quad / 128) t k
  let s := s.updTCmd quad t.id fun t => { t with fetched := t.fetched ++ [k], inbound := t.inbound ++ [(k, g.1, g.2)] }
  t.ready.foldl (fun s r => s.updTCmd r.1 r.2 fun x => { x with inbound := x.inbound ++ [(k, g.1, g.2)] }) s

/-- The row of R246 that a sector's accesses now meet: the entry may have changed since the start (R252). -/
def State.sectorRow (s : State) (t : TCmd) (k : Nat) : Nat :=
  let rows := (sectorRefs t k).map fun r => s.engRow t.ctx r 1 (if t.eop = 9 then .w else .r)
  if rows.contains 2 then 2 else if rows.contains 3 then 3 else 0

/-- R273–R277: a sector of a started command is delivered, gathered and sent, or parks. Of a prefetched sector the lines on
resident pages are brought in, and the service of the other pages is asked for, as it is for a parked sector (R253). A store
waits while it cannot be performed (R100, R440). A copy that its group's save leaves undone starts no sector (R282).
A sector that the buffer's entry no longer admits ends the command with the code of R246. -/
def execSectorDeliver (quad cmd k : Nat) (s : State) : Host.Outcome State Fault Refusal :=
  match s.tcmd quad cmd with
  | none => .next s
  | some t =>
    match s.group t.group with
    | none => .next s
    | some grp =>
      if ¬ t.started ∨ t.sectors ≤ k ∨ t.done.contains k ∨ ¬ t.moving quad ∨ (s.savedUndone quad t ∧ ¬ (t.eop = 10 ∨ t.eop = 11))
      then .next s
      else if t.eop = 11 then
        match t.partner with
        | none => .next s
        | some (pq, pid) =>
          match (s.quad quad).notices.find? fun n => n.quad == pq && n.cmd == pid with
          | none => .next s
          | some n =>
            let acq := match s.tcmd pq pid with | some p => p.acq.isSome | none => false
            let src := (List.range 256).map fun i => s.lanByte acq pq (n.src + 256 * k + i)
            let bad := (List.range 4).map fun j => (s.quad pq).lpoison.contains ((n.src + 256 * k) / 64 + j)
            .next ((s.putSector quad grp t 0 k src bad).tileCheckDone quad cmd)
      else if s.sectorRow t k ≠ 0 then .next (s.tileDone quad t (s.sectorRow t k) t.done.length)
      else if t.eop = 13 then
        let here := (sectorRefs t k).filter fun r => (s.phys t.ctx r).isSome
        let gone := (sectorRefs t k).filterMap fun r => match s.buf t.ctx (refBuf r) with
          | some e => if (s.phys t.ctx r).isSome then none else some (pageKeyOf e t.ctx r)
          | none => none
        let s := gone.foldl State.want ((s.touchSpans grp.die none t.ctx (here.map fun r => (r, 1)) false).sectorFind grp.die t k)
        .next ((s.updTCmd quad cmd fun t => { t with done := t.done ++ [k] }).tileCheckDone quad cmd)
      else
        match s.sectorAbsent t k with
        | some key => .next ((s.want key).parkSector quad t k)
        | none =>
          let touched := s.touchSpans grp.die none t.ctx ((sectorRefs t k).map fun r => (r, 1)) (t.eop == 9)
          if t.eop = 8 then
            let g := s.gather grp.die t k
            .next (((touched.sectorFind grp.die t k).putSector quad grp t t.shape.swz k g.1 g.2).tileCheckDone quad cmd)
          else if t.eop = 9 ∧ ¬ s.canStore 0 ((sectorRefs t k).filterMap (s.phys t.ctx)) then .next s
          else if t.eop = 9 then .next ((s.storeSector quad grp t k).tileCheckDone quad cmd)
          else if t.ownSlice quad k && !t.fetched.contains k then .next (touched.sendSector quad t k)
          else .next s

/-! ## Multicast (R276) -/

/-- R276: a ready message of one quad's command reaches another named quad's matching command: same tag, same mask, oldest
first, and the messages of one quad in the order of its commands (R23). It is taken when the rendezvous it completes leaves at most four commands running (R271), and not by or from a command
that a save withdraws (R282). -/
def execTmcastReady (src dst cmd : Nat) (s : State) : Host.Outcome State Fault Refusal :=
  match s.tcmd src cmd with
  | none => .next s
  | some t =>
    if t.eop ≠ 10 ∨ ¬ t.started ∨ src = dst ∨ ¬ (t.named src).contains dst ∨ t.sentReady.contains dst then .next s
    else
      let overtakes := ((s.quad src).tcmds.takeWhile fun y => y.id != cmd).any fun y =>
        y.eop == 10 && y.started && y.tag == t.tag && y.mask == t.mask && !y.sentReady.contains dst && !s.withdraws src y
      if overtakes then .next s
      else
      match (s.quad dst).tcmds.find? fun x =>
        x.eop == 10 && x.started && x.tag == t.tag && x.mask == t.mask && !x.ready.any fun r => r.1 == src with
      | none => .next s
      | some x =>
        let x' := { x with ready := x.ready ++ [(src, cmd)] }
        if s.withdraws src t ∨ s.withdraws dst x ∨ (x'.moving dst ∧ fourRun (s.quad dst) dst) then .next s
        else
          .next ((s.updTCmd dst x.id fun _ => x').updTCmd src cmd fun t => { t with sentReady := t.sentReady ++ [dst] })

/-- R276: a gathered sector arrives at a named quad, is written and counted. -/
def execTmcastSector (quad cmd k : Nat) (s : State) : Host.Outcome State Fault Refusal :=
  match s.tcmd quad cmd with
  | none => .next s
  | some t =>
    match s.group t.group with
    | none => .next s
    | some grp =>
      match t.inbound.find? fun x => x.1 == k with
      | none => .next s
      | some x =>
        if t.done.contains k then .next s
        else .next ((s.putSector quad grp t t.shape.swz k x.2.1 x.2.2).tileCheckDone quad cmd)

/-! ## Notices (R277) -/

/-- R277: a post is placed in a free slot of the receiver quad that holds no notice with its tag. -/
def execNoticePostPlace (quad cmd : Nat) (s : State) : Host.Outcome State Fault Refusal :=
  match s.tcmd quad cmd with
  | none => .next s
  | some t =>
    match s.group t.group with
    | none => .next s
    | some grp =>
      let r := t.reg 0
      let ns := (s.quad r).notices
      if ¬ t.isPost ∨ ¬ t.started ∨ t.placed ∨ 8 ≤ ns.length ∨ ns.any fun n => n.tag == t.tag then .next s
      else
        let n : Notice := { tag := t.tag, quad, cmd, src := grp.lbase + t.dst, len := t.reg 4 }
        .next ((s.updQuad r fun q => { q with notices := q.notices ++ [n] }).updTCmd quad cmd
          fun t => { t with placed := true })

/-- R277: a take matches the notice with its tag, takes with one tag in acceptance order, when fewer than four commands run
(R271) and neither side is being saved (R282); lengths that differ end both with 0x13 (R272, order 6). -/
def execNoticeMatch (quad cmd : Nat) (s : State) : Host.Outcome State Fault Refusal :=
  match s.tcmd quad cmd with
  | none => .next s
  | some t =>
    let q := s.quad quad
    let saving (id : Nat) : Bool := match s.group id with | some g => g.stat == .saving | none => false
    let earlier := (q.tcmds.takeWhile fun x => x.id != cmd).any fun x => x.isTake && x.tag == t.tag && x.partner.isNone
    if ¬ t.isTake ∨ ¬ t.started ∨ t.partner.isSome ∨ earlier ∨ fourRun q quad ∨ saving t.group then .next s
    else
      match q.notices.find? fun n => n.tag == t.tag && !n.matched with
      | none => .next s
      | some n =>
        if (s.tcmd n.quad n.cmd).any fun p => saving p.group then .next s
        else if n.len = t.reg 4 then
          .next ((s.updQuad quad fun q =>
            { q with notices := q.notices.map fun x => if x = n then { x with matched := true } else x }).updTCmd quad cmd
              fun t => { t with partner := some (n.quad, n.cmd) })
        else
          let s := s.updQuad quad fun q => { q with notices := q.notices.filter (· != n) }
          .next ((s.tileDone quad t 0x13 0).updTCmd n.quad n.cmd fun p => { p with acked := true, code := 0x13 })

/-- R277: the acknowledgement reaches the sender: its synchronisation word counts the length, and the post's status is
written; it has delivered nothing into its own quad's store. -/
def execNoticeAck (quad cmd : Nat) (s : State) : Host.Outcome State Fault Refusal :=
  match s.tcmd quad cmd with
  | none => .next s
  | some t =>
    match s.group t.group with
    | none => .next s
    | some grp =>
      if ¬ t.isPost ∨ ¬ t.acked then .next s
      else
        let s := if t.sync = noSync ∨ t.code ≠ 0 then s else s.arrive quad (grp.lbase + t.sync) (t.reg 4) false
        .next (s.tileDone quad t t.code 0)

/-! ## Walk-ahead (R268) -/

/-- A started command's box has a byte on a page of its buffer. -/
def TCmd.reaches (t : TCmd) (pb page : Nat) : Bool :=
  (List.range t.sectors).any fun k => (sectorRefs t k).any fun r => refOff r / pb == page

/-- R268: the walk-ahead TLB translates a resident page that a started command's box reaches; one that is not resident goes to
the fault unit (R253). -/
def execWalkAheadFill (quad cmd page : Nat) (s : State) : Host.Outcome State Fault Refusal :=
  match s.tcmd quad cmd with
  | none => .next s
  | some t =>
    let h := t.shape
    match s.buf t.ctx (refBuf h.ref) with
    | none => .next s
    | some e =>
      let key : PageKey := ⟨t.ctx, refBuf h.ref, page⟩
      if ¬ t.started ∨ t.eop = 11 ∨ ¬ t.reaches (pageBytes e.pgsz) page then .next s
      else if (s.page key).state ≠ 1 then .next (s.want key)
      else
        let s := s.touchPage (quad / 128) key (t.eop == 9)
        .next (s.updQuad quad fun q => { q with walkTlb := cacheAdd Config.walkTlb (t.ctx, key.buf, page) q.walkTlb })

/-! ## The words (R269, R279, R280) -/

/-- Checks of a tile command word. -/
def tileChk (sc : BitVec 3) (ns : BitVec 1) (sd cb : BitVec 5) (mk : BitVec 5) : Ctx → Option Nat :=
  checks (scopeOk sc) (nostatOk ns sd) (evenU cb && decide (cb.toNat ≤ 22) && mk.toNat % 4 == 0) fun _ => true

/-- R273: tcopy. -/
def execTcopy (k : BitVec 3) (cb sd : BitVec 5) (ns _q _r : BitVec 1) (sc : BitVec 3) (s : State) :
    Host.Outcome State Fault Refusal :=
  commandWord (tileChk sc ns sd cb 0) k 8 (statusDst ns sd) (sRegs cb.toNat 10) s

/-- R273: tstore. -/
def execTstore (k : BitVec 3) (cb sd : BitVec 5) (ns _q _r : BitVec 1) (sc : BitVec 3) (s : State) :
    Host.Outcome State Fault Refusal :=
  commandWord (tileChk sc ns sd cb 0) k 9 (statusDst ns sd) (sRegs cb.toNat 10) s

/-- R276: tmcast. -/
def execTmcast (k : BitVec 3) (cb sd : BitVec 5) (ns _q _r : BitVec 1) (sc : BitVec 3) (mk : BitVec 5) (s : State) :
    Host.Outcome State Fault Refusal :=
  commandWord (tileChk sc ns sd cb mk) k 10 (statusDst ns sd) (fun w => sRegs cb.toNat 10 w ++ sRegs mk.toNat 4 w) s

/-- R277: tnotice. -/
def execTnotice (k : BitVec 3) (cb sd : BitVec 5) (ns _q _r : BitVec 1) (sc : BitVec 3) (_m : BitVec 1) (s : State) :
    Host.Outcome State Fault Refusal :=
  commandWord (tileChk sc ns sd cb 0) k 11 (statusDst ns sd) (sRegs cb.toNat 10) s

/-- R273: tpref. -/
def execTpref (k : BitVec 3) (cb sd : BitVec 5) (ns _q _r : BitVec 1) (sc : BitVec 3) (s : State) :
    Host.Outcome State Fault Refusal :=
  commandWord (tileChk sc ns sd cb 0) k 13 (statusDst ns sd) (sRegs cb.toNat 10) s

/-- R279: sarm. -/
def execSarm (k : BitVec 3) (a b : BitVec 5) (_r : BitVec 1) (s : State) :
    Host.Outcome State Fault Refusal :=
  commandWord (checks true true true fun _ => true) k 12 none (fun w => [w.getS a.toNat, w.getS b.toNat]) s

/-- The tile engine takes a command into its queue of 32, or performs SARM (R271, R279). -/
def State.tileAccept (s : State) (grp : Group) (m : Cmd) : Option State :=
  let quad := grp.quad
  if m.eop = 12 then
    let off := ((m.regs[0]?).getD 0).toNat
    if syncOk off grp.desc.lbytes then
      some (s.sarm quad (grp.lbase + off) ((m.regs[1]?).getD 0).toNat (m.ebits.getLsbD 10))
    else some s
  else if 32 ≤ (s.quad quad).tcmds.length then none
  else
    let (id, s) := s.fresh
    let sc := (m.ebits.extractLsb' 5 3).toNat
    let mk (i : Nat) : BitVec 32 := (m.regs[10 + i]?).getD 0
    let t : TCmd := { id, group := m.group, warp := m.warp, ctx := m.ctx, eop := m.eop
                      take := m.ebits.getLsbD 0, regs := m.regs.take 10, mask := mk 3 ++ mk 2 ++ mk 1 ++ mk 0
                      sop := m.sop
                      acq := if m.ebits.getLsbD 9 then some sc else none
                      rel := if m.ebits.getLsbD 8 then some sc else none, scope3 := sc }
    some (s.updQuad quad fun q => { q with tcmds := q.tcmds ++ [t] })

/-- R280: swait. -/
def execSwait (k : BitVec 3) (d a b : BitVec 5) (s : State) :
    Host.Outcome State Fault Refusal :=
  issue (issueFault (.swait k d a b)) (fun c s =>
    if guardUni k c.w = false then .go s []
    else
      let off := (c.rv.getS a.toNat).toNat
      let gen := c.rv.getS b.toNat
      match checkUni s c .lantern .load 16 (BitVec.ofNat 64 off) with
      | some t => .trap t
      | none =>
        let now : Word := BitVec.ofNat 32 ((s.quad c.grp.quad).word (c.grp.lbase + off + 8))
        if now ≠ gen then .go ((s.setWarp (c.w.putS d.toNat now).unquiet).acquireGang c.grp.coreId c.g.uid) []
        else .go ((s.addWaiter c.grp.quad (c.grp.lbase + off) 1).engineWait c (.swait d.toNat off gen)) []) s

end Sys2Proof.Machine
end

