-- ==== Sys2Proof/Machine/Matrix.lean ====
section
/-! DEFINITION. Matrix engine: signing, the reservation table, passes, and the matrix words (16_lantern.md R285–R299,
17_matrix_isa.md R300–R317, 04_numbers.md R80–R84). -/

namespace Sys2Proof.Machine

/-! ## Formats and accumulators (R80–R82, R305) -/

/-- Element kind of a format code; code 7 is reserved (R305). -/
def fmtKind (f : Nat) : Kind := ([Kind.e2m1, .e5m2, .e3m2, .e4m3, .e2m3, .dm8, .i8][f]?).getD .i8

/-- A product or sum: value in units of 2^−32, and tag 0 finite, 1 +inf, 2 −inf, 3 NaN (R80). -/
abbrev AccVal := Int × BitVec 2

/-- Combines two tags (R82). -/
def tagJoin (a b : BitVec 2) : BitVec 2 := a ||| b

/-- Exact product of two elements (R81). -/
def accMul (x y : FVal) : AccVal :=
  match mulF x y with
  | .nan .. => (0, 3)
  | .inf s => (0, if s then 2 else 1)
  | .fin s m e => (scaled s m e (-32), 0)

def accAdd (a b : AccVal) : AccVal := (a.1 + b.1, tagJoin a.2 b.2)

/-- Signed value of an accumulator's 96 bits. -/
def accInt (x : BitVec 96) : Int := x.toInt

/-- Number of columns of a tile row. -/
def accCols : Nat := 128
def accKey (tile row col : Nat) : Nat := (tile * 32 + row) * accCols + col

def QuadU.accAt (q : QuadU) (tile row col : Nat) : BitVec 96 × BitVec 2 := tabGet (0, 0) q.acc (accKey tile row col)

/-- Adds a contribution to an element, zeroed first or not; the sum outside 96 bits sets the overflow flag (R82, R83). -/
def QuadU.accPut (q : QuadU) (tile row col : Nat) (z : Bool) (p : AccVal) : QuadU :=
  let old := if z then (0, 0) else q.accAt tile row col
  let sum := accInt old.1 + p.1
  let big := decide (sum < -(2 ^ 95)) || decide (2 ^ 95 - 1 < sum)
  { q with
    acc := tabSet (0, 0) q.acc (accKey tile row col) (BitVec.ofInt 96 sum, tagJoin old.2 p.2)
    ovf := if big && !q.ovf.contains tile then q.ovf ++ [tile] else q.ovf }

/-! ## Local macros, blocks and ranges (R286, R304, R311) -/

/-- Quad tile of a local tile. -/
def Group.quadTile (g : Group) (t : Nat) : Nat := (g.tiles[t]?).getD 0

def bField (b : List Byte) (off n : Nat) : Nat := recField b off n

/-- Fields of an MMA operand block. -/
structure MmaBlock where
  aoff : Nat
  astride : Nat
  m : Nat
  fa : Nat
  fb : Nat
  fr : Nat
  tile : Nat
  r0 : Nat
  k : Nat
  rsv : Nat
  macros : List Nat
  tail : Nat
  deriving DecidableEq, Repr

def mmaBlock (b : List Byte) : MmaBlock :=
  let f := bField b 9 1
  { aoff := bField b 0 4, astride := bField b 4 4, m := bField b 8 1, fa := f % 8, fb := f / 8 % 8, fr := f / 64
    tile := bField b 10 1, r0 := bField b 11 1, k := bField b 12 2, rsv := bField b 14 2
    macros := (List.range 16).map fun j => bField b (16 + j) 1, tail := bField b 32 32 }

def MmaBlock.nt (b : MmaBlock) : Nat := if b.fb = 0 then 2 else 1
def MmaBlock.nmac (b : MmaBlock) : Nat := ceilDiv b.k 128
def MmaBlock.listed (b : MmaBlock) : List Nat := b.macros.take b.nmac
def MmaBlock.rowBytes (b : MmaBlock) : Nat := if b.fa = 0 then b.k / 2 else b.k

/-- Fields of a SCAC scale block (R311). -/
structure ScacBlock where
  tile : Nat
  r0 : Nat
  rows : Nat
  bf16 : Bool
  hasC : Bool
  fr : Nat
  sa : Nat
  sb : Nat
  c : Nat
  cstride : Nat
  out : Nat
  ostride : Nat
  tail : Nat
  deriving DecidableEq, Repr

def scacBlock (b : List Byte) : ScacBlock :=
  let f := bField b 3 1
  { tile := bField b 0 1, r0 := bField b 1 1, rows := bField b 2 1, bf16 := f % 2 == 1, hasC := f / 2 % 2 == 1, fr := f / 4
    sa := bField b 4 4, sb := bField b 8 4, c := bField b 12 4, cstride := bField b 16 4, out := bField b 20 4
    ostride := bField b 24 4, tail := bField b 28 36 }

def ScacBlock.rowBytes (b : ScacBlock) : Nat := if b.bf16 then 256 else 512

/-- n bytes per row at off + i·stride, for rows rows: end of the highest byte. -/
def rowsEnd (off stride rows n : Nat) : Nat := off + (rows - 1) * stride + n

/-- Some row of one range meets some row of another. -/
def rowsMeet (off stride rows n off2 stride2 rows2 n2 : Nat) : Bool :=
  (List.range rows).any fun i => (List.range rows2).any fun j =>
    decide (off + i * stride < off2 + j * stride2 + n2) && decide (off2 + j * stride2 < off + i * stride + n)

/-- Local tiles an entry names. -/
def MEntry.localTiles (e : MEntry) : List Nat :=
  if e.eop = 1 then
    (if e.block.isEmpty then []
     else let b := mmaBlock e.block; (List.range b.nt).map (b.tile + ·))
  else if e.eop = 4 then [((e.regs[0]?).getD 0).toNat]
  else if e.eop = 5 then (if e.block.isEmpty then [] else [(scacBlock e.block).tile])
  else if e.eop = 6 then [((e.regs[2]?).getD 0).toNat]
  else []

/-- Local macros an entry names. -/
def MEntry.localMacros (e : MEntry) : List Nat :=
  if e.eop = 1 then (mmaBlock e.block).listed
  else if e.eop = 2 ∨ e.eop = 3 then
    let r := macRange ((e.regs[0]?).getD 0)
    (List.range r.2).map (r.1 + ·)
  else []

/-- Every row pass of an MMA entry has been granted. -/
def MEntry.passed (e : MEntry) : Bool := e.eop == 1 && e.checked && decide ((mmaBlock e.block).m ≤ e.granted)

/-! ## The reservation table (R297) -/

def State.entry (s : State) (quad id : Nat) : Option MEntry := lookupBy MEntry.id (s.quad quad).entries id

def State.updEntry (s : State) (quad id : Nat) (f : MEntry → MEntry) : State :=
  s.updQuad quad fun q => { q with entries := updateBy MEntry.id id f q.entries }

/-- The macros that pending MSTAT entries place under the issue check (R309). -/
def issueMarksOf (s : State) (entries : List MEntry) : List Nat := (entries.flatMap s.mstatMacros).eraseDups

def State.refreshMarks (s : State) (quad : Nat) : State :=
  let m := issueMarksOf s (s.quad quad).entries
  s.updQuad quad fun q => { q with issueMarks := m }

/-- An entry leaves the table, and its allocation goes when nothing else holds it. -/
def State.dropEntry (s : State) (quad id : Nat) : State :=
  ((s.updQuad quad fun q => { q with entries := removeBy MEntry.id id q.entries }).refreshMarks quad).settleMarks quad

/-- An entry is ready (R297): the entries it waits on have completed, and those of its tiles as its kind asks. -/
def MEntry.ready (e : MEntry) (entries : List MEntry) : Bool :=
  entries.all fun x =>
    !e.deps.contains x.id && (!e.tileDeps.contains x.id || (e.eop == 1 && x.passed))

/-- Slots busy in a group. -/
def State.busySlots (s : State) (g : Group) : BitVec 8 :=
  (s.quad g.quad).entries.foldl (fun m e => if e.group = g.id then m ||| (1#8 <<< e.slot) else m) 0

/-! ## Checks (R307) -/

/-- A range of n bytes at a local offset overlaps a stationary macro. -/
def inMarks (q : QuadU) (g : Group) (off n : Nat) : Bool :=
  n != 0 && (macrosOf (g.lbase + off) n).any q.marks.contains

def checkMma (q : QuadU) (g : Group) (e : MEntry) : Nat :=
  let b := mmaBlock e.block
  let lb := g.desc.lbytes
  if e.block.isEmpty ∨ lb < rowsEnd b.aoff b.astride b.m b.rowBytes ∨ b.listed.any (fun m => decide (g.macros ≤ m)) then 0x02
  else if ((e.regs[0]?).getD 0).toNat % 64 ≠ 0 ∨ b.fr ≠ 0 ∨ b.rsv ≠ 0 ∨ b.tail ≠ 0 ∨ (b.macros.drop b.nmac).any (· != 0) ∨
      b.fa = 7 ∨ b.fb = 7 ∨ b.m = 0 ∨ 32 < b.m ∨ 32 < b.r0 + b.m ∨ b.k = 0 ∨ (if b.fb = 0 then 1024 else 2048) < b.k ∨
      (b.fa = 0 ∧ b.k % 2 = 1) ∨ g.desc.tiles ≤ b.tile + b.nt - 1 ∨ (b.fb = 0 ∧ b.tile % 2 = 1) ∨ b.aoff % 16 ≠ 0 ∨
      b.astride % 16 ≠ 0 then 0x10
  else if (b.listed.any fun m => !q.marks.contains (g.quadMacro m)) ∨ ¬ b.listed.Nodup then 0x11
  else if inMarks q g b.aoff ((b.m - 1) * b.astride + b.rowBytes) then 0x12
  else 0

def checkMacRange (g : Group) (e : MEntry) : Nat :=
  let r := macRange ((e.regs[0]?).getD 0)
  if r.2 = 0 then 0x10 else if g.macros < r.1 + r.2 then 0x02 else 0

def checkScac (q : QuadU) (g : Group) (e : MEntry) : Nat :=
  let b := scacBlock e.block
  let lb := g.desc.lbytes
  let n := b.rowBytes
  let al := if b.bf16 then 2 else 4
  let same := b.hasC && b.c == b.out && b.cstride == b.ostride && !b.bf16
  if e.block.isEmpty ∨ lb < b.sa + 4 * b.rows ∨ lb < b.sb + 512 ∨ lb < rowsEnd b.out b.ostride b.rows n ∨
      (b.hasC && decide (lb < rowsEnd b.c b.cstride b.rows 512)) then 0x02
  else if ((e.regs[0]?).getD 0).toNat % 64 ≠ 0 ∨ b.fr ≠ 0 ∨ b.tail ≠ 0 ∨ b.rows = 0 ∨ 32 < b.rows ∨ 32 < b.r0 + b.rows ∨
      g.desc.tiles ≤ b.tile ∨ b.sa % 4 ≠ 0 ∨ b.sb % 4 ≠ 0 ∨ (b.hasC && b.c % 4 != 0) ∨ b.cstride % 4 ≠ 0 ∨
      b.out % al ≠ 0 ∨ b.ostride % al ≠ 0 ∨
      (b.hasC && !same && rowsMeet b.out b.ostride b.rows n b.c b.cstride b.rows 512) ∨
      rowsMeet b.out b.ostride b.rows n b.sa 0 1 (4 * b.rows) ∨ rowsMeet b.out b.ostride b.rows n b.sb 0 1 512 then 0x10
  else if (List.range b.rows).any fun i => inMarks q g (b.out + i * b.ostride) n then 0x12
  else 0

/-- First row and row count of an MTREAD (R313). -/
def mtreadRows (e : MEntry) : Nat × Nat :=
  let x := ((e.regs[1]?).getD 0).toNat
  (x % 32, x / 256 % 64)

def checkMtread (q : QuadU) (g : Group) (e : MEntry) : Nat :=
  let off := ((e.regs[0]?).getD 0).toNat
  let r := mtreadRows e
  if g.desc.lbytes < off + 2048 * r.2 then 0x02
  else if off % 16 ≠ 0 ∨ r.2 = 0 ∨ 32 < r.2 ∨ 32 < r.1 + r.2 then 0x10
  else if inMarks q g off (2048 * r.2) then 0x12
  else 0

def checkEntry (q : QuadU) (g : Group) (e : MEntry) : Nat :=
  match e.eop with
  | 1 => checkMma q g e
  | 2 | 3 => checkMacRange g e
  | 5 => checkScac q g e
  | 6 => checkMtread q g e
  | _ => 0

/-- A refusal enters the group's error word: the first one's code and command, and the count (R315). -/
def Group.noteRefusal (g : Group) (code eop : Nat) : Group :=
  let (c, p, n) := g.merr
  { g with merr := if n = 0 then (code, eop, 1) else (c, p, min (n + 1) 0xFFFF) }

/-- The commands without passes that are ready and not yet checked are checked (R307): a refused one completes, so that others
become ready, up to n of them. -/
def State.checkReady (s : State) (quad : Nat) : Nat → State
  | 0 => s
  | n + 1 =>
    let q := s.quad quad
    match q.entries.find? fun e => e.eop != 1 && !e.checked && e.ready q.entries with
    | none => s
    | some e =>
      match s.group e.group with
      | none => s
      | some g =>
        match checkEntry q g e with
        | 0 => State.checkReady (s.updEntry quad e.id fun e => { e with checked := true }) quad n
        | code => State.checkReady ((s.dropEntry quad e.id).updGroup e.group fun g => g.noteRefusal code e.eop) quad n

/-- An entry completes: it leaves the table, and the commands that become ready are checked. -/
def State.entryDone (s : State) (quad id : Nat) : State :=
  let s := s.dropEntry quad id
  s.checkReady quad (s.quad quad).entries.length

/-- A refused entry completes at once and enters the group's error word (R307, R315). -/
def State.refuse (s : State) (quad : Nat) (e : MEntry) (code : Nat) : State :=
  (s.updGroup e.group fun g => g.noteRefusal code e.eop).entryDone quad e.id

/-! ## Posting (R302) -/

/-- Tiles of the quad that an entry names: an ended group's, too, while its entries are in the table (R297). -/
def State.quadTiles (s : State) (e : MEntry) : List Nat :=
  match s.group e.group with
  | some g => e.localTiles.filterMap fun t => g.tiles[t]?
  | none => []

/-- Posts an entry; none when the table is full. -/
def State.postEntry (s : State) (g : Group) (eop slot : Nat) (wait : BitVec 8) (block : List Byte) (regs : List Word)
    (z : Bool) : Option State :=
  let q := s.quad g.quad
  if 32 ≤ q.entries.length then none
  else
    let (id, s) := s.fresh
    let e : MEntry := { id, group := g.id, eop, slot, deps := [], tileDeps := [], block, regs, z, prio := g.prio }
    let mine := q.entries.filter fun x => x.group == g.id
    let e := { e with
      deps := (mine.filter fun x => wait.getLsbD x.slot).map MEntry.id
      tileDeps := (q.entries.filter fun x => (s.quadTiles x).any (s.quadTiles e).contains).map MEntry.id }
    let s := (s.updQuad g.quad fun q => { q with entries := q.entries ++ [e] }).refreshMarks g.quad
    some (s.checkReady g.quad (s.quad g.quad).entries.length)

/-- The block of 64 bytes at an offset, read at posting: empty when it lies outside the allocation. -/
def State.readBlock (s : State) (g : Group) (off : Nat) : List Byte :=
  if off + 64 ≤ g.desc.lbytes then (s.quad g.quad).lread (g.lbase + off) 64 else []

/-! ## Row passes (R291, R298, R306) -/

/-- Element (i, k) of A. -/
def aElem (q : QuadU) (g : Group) (b : MmaBlock) (i k : Nat) : FVal :=
  let row := g.lbase + b.aoff + i * b.astride
  if b.fa = 0 then dec .e2m1 ((q.lantern.read (row + k / 2)).toNat / 16 ^ (k % 2) % 16)
  else dec (fmtKind b.fa) (q.lantern.read (row + k)).toNat

/-- Element (k, n) of B (R287). -/
def bElem (q : QuadU) (g : Group) (b : MmaBlock) (k n : Nat) : FVal :=
  let base := g.quadMacro ((b.macros[k / 128]?).getD 0) * Config.macroBytes + 128 * (k % 128)
  if b.fb = 0 then dec .e2m1 ((q.lantern.read (base + n / 2)).toNat / 16 ^ (n % 2) % 16)
  else dec (fmtKind b.fb) (q.lantern.read (base + n)).toNat

/-- The contributions of row i to its columns: exact sums of products. -/
def rowPass (q : QuadU) (g : Group) (b : MmaBlock) (i : Nat) : List AccVal :=
  (List.range (128 * b.nt)).map fun n =>
    (List.range b.k).foldl (fun acc k => accAdd acc (accMul (aElem q g b i k) (bElem q g b k n))) (0, 0)

/-- The arbiter's order: promoted entries, then higher priority, then older posting. -/
def arbBefore (x y : MEntry) : Bool :=
  if x.promoted != y.promoted then x.promoted
  else if x.promoted then decide (x.id < y.id)
  else if x.prio ≠ y.prio then decide (y.prio < x.prio)
  else decide (x.id < y.id)

/-- Entries that can be granted a row pass. -/
def passReady (entries : List MEntry) : List MEntry :=
  entries.filter fun e => e.eop == 1 && e.ready entries && !e.passed

def arbPick : List MEntry → Option MEntry
  | [] => none
  | e :: t => some (t.foldl (fun b x => if arbBefore x b then x else b) e)

/-- R298: at a pass boundary the arbiter grants the next row pass. An entry is checked at its first grant (R307). -/
def execMatrixPassGrant (quad : Nat) (s : State) : Host.Outcome State Fault Refusal :=
  let q := s.quad quad
  match arbPick (passReady q.entries) with
  | none => .next s
  | some e =>
    match s.group e.group with
    | none => .next s
    | some g =>
      let code := if e.checked then 0 else checkEntry q g e
      if code ≠ 0 then .next (s.refuse quad e code)
      else
        let row := rowPass q g (mmaBlock e.block) e.granted
        let others := (passReady q.entries).map MEntry.id
        let grant (x : MEntry) : MEntry :=
          if x.id = e.id then
            { x with checked := true, granted := x.granted + 1, rows := x.rows ++ [row], waited := 0, promoted := false }
          else if others.contains x.id then
            { x with waited := x.waited + 1, promoted := x.promoted || decide (64 ≤ x.waited + 1) }
          else x
        .next (s.updQuad quad fun q => { q with entries := q.entries.map grant })

/-- R292: the result of an entry's oldest row on its way reaches the tile, after the earlier entries of its tiles; the last
one completes the entry. -/
def execMatrixRowResult (quad id : Nat) (s : State) : Host.Outcome State Fault Refusal :=
  let q := s.quad quad
  match s.entry quad id with
  | none => .next s
  | some e =>
    match s.group e.group, e.rows with
    | some g, row :: rest =>
      if q.entries.any fun x => e.tileDeps.contains x.id then .next s
      else
        let b := mmaBlock e.block
        let r := b.r0 + e.landed
        let tiles := (List.range b.nt).map fun j => g.quadTile (b.tile + j)
        let clear := e.z && e.landed == 0 && b.r0 == 0 && b.m == 32
        let put (q : QuadU) : QuadU :=
          (mapFrom (fun n v => (n, v)) 0 row).foldl
            (fun q x => q.accPut (g.quadTile (b.tile + x.1 / 128)) r (x.1 % 128) e.z x.2)
            { q with ovf := if clear then q.ovf.filter fun t => !tiles.contains t else q.ovf }
        let s := (s.updQuad quad put).updEntry quad id fun e => { e with rows := rest, landed := e.landed + 1 }
        .next (if e.landed + 1 = b.m then s.entryDone quad id else s)
    | _, _ => .next s

/-! ## Entries without passes (R309–R313) -/

def accFVal (x : BitVec 96 × BitVec 2) : FVal :=
  if x.2 = 3 then .nan false 0 0
  else if x.2 = 1 then .inf false
  else if x.2 = 2 then .inf true
  else .fin (decide (accInt x.1 < 0)) (accInt x.1).natAbs (-32)

/-- One SCAC output: the exact acc·sa·sb + c rounded once (R84, R312). -/
def scacElem (acc : BitVec 96 × BitVec 2) (sa sb : Nat) (c : Option Nat) (bf16 : Bool) : Nat :=
  let p := mulF (mulF (accFVal acc) (dec .f32 sa)) (dec .f32 sb)
  fres (if bf16 then .bf16 else .f32) (addF p (dec .f32 (c.getD 0x80000000)))

def QuadU.f32At (q : QuadU) (a : Nat) : Nat := leNat (q.lread a 4)

/-- Row i of a SCAC, its inputs read before its outputs are written. -/
def scacRow (s : State) (quad : Nat) (g : Group) (b : ScacBlock) (i : Nat) : State :=
  let q := s.quad quad
  let out := (List.range 128).flatMap fun n =>
    let c := if b.hasC then some (q.f32At (g.lbase + b.c + i * b.cstride + 4 * n)) else none
    leBytes (scacElem (q.accAt (g.quadTile b.tile) (b.r0 + i) n) (q.f32At (g.lbase + b.sa + 4 * i))
      (q.f32At (g.lbase + b.sb + 4 * n)) c b.bf16) (if b.bf16 then 2 else 4)
  s.lanternWrite quad (g.lbase + b.out + i * b.ostride) out

/-- The 16 bytes of an accumulator element (R313). -/
def accBytes (x : BitVec 96 × BitVec 2) : List Byte := leBytes (x.1.toNat + x.2.toNat * 2 ^ 96) 16

def mtreadRow (s : State) (quad : Nat) (g : Group) (tile off r0 i : Nat) : State :=
  let q := s.quad quad
  s.lanternWrite quad (g.lbase + off + 2048 * i)
    ((List.range 128).flatMap fun n => accBytes (q.accAt (g.quadTile tile) (r0 + i) n))

/-- R310: every element of a tile becomes 0 and its overflow flag clears. -/
def QuadU.zeroTile (q : QuadU) (tile : Nat) : QuadU :=
  { q with acc := q.acc.filter fun e => e.1 / (32 * accCols) != tile, ovf := q.ovf.filter (· != tile) }

/-- Some bytes of the outputs of two SCAC entries of a group are the same. -/
def scacMeet (x y : MEntry) : Bool :=
  let a := scacBlock x.block
  let b := scacBlock y.block
  x.group == y.group && rowsMeet a.out a.ostride a.rows a.rowBytes b.out b.ostride b.rows b.rowBytes

/-- An earlier-posted SCAC entry whose output meets this one's is not completed: the later one's writes remain (R317). -/
def MEntry.behindScac (e : MEntry) (entries : List MEntry) : Bool :=
  e.eop == 5 && (entries.takeWhile fun x => x.id != e.id).any fun x => x.eop == 5 && scacMeet x e

/-- R310, R312, R313: a ready MZERO, SCAC or MTREAD entry, checked when it became ready, takes effect and completes. -/
def execMatrixEntryComplete (quad id : Nat) (s : State) : Host.Outcome State Fault Refusal :=
  let q := s.quad quad
  match s.entry quad id with
  | none => .next s
  | some e =>
    match s.group e.group with
    | none => .next s
    | some g =>
      if ¬ (e.eop = 4 ∨ e.eop = 5 ∨ e.eop = 6) ∨ ¬ e.ready q.entries ∨ ¬ e.checked ∨ e.behindScac q.entries then .next s
      else
        let s :=
          if e.eop = 4 then s.updQuad quad fun q => q.zeroTile (g.quadTile ((e.regs[0]?).getD 0).toNat)
          else if e.eop = 5 then
            let b := scacBlock e.block
            (List.range b.rows).foldl (fun s i => scacRow s quad g b i) s
          else
            let r := mtreadRows e
            (List.range r.2).foldl (fun s i =>
              mtreadRow s quad g ((e.regs[2]?).getD 0).toNat ((e.regs[0]?).getD 0).toNat r.1 i) s
        .next (s.entryDone quad id)

/-- The Lantern stores and atomics of a warp before a name are performed (R302). -/
def lanternQuiet (w : Warp) (before : Nat) : Bool :=
  (w.sq.all fun e => decide (before ≤ e.id) || e.items.all fun it => it.space != .lantern) &&
    w.ops.all fun o =>
      decide (before ≤ o.id) ||
        match o.kind with
        | .accesses items => items.all fun a => a.space != .lantern || !isAtomic a
        | _ => true

/-- R289, R309: an MSTAT entry, checked when it became ready, marks its range once every Lantern store and atomic that the
group's warps issued before it is performed and the earlier copies into it are done. -/
def execMacroMark (quad id : Nat) (s : State) : Host.Outcome State Fault Refusal :=
  let q := s.quad quad
  match s.entry quad id with
  | none => .next s
  | some e =>
    match s.group e.group with
    | none => .next s
    | some g =>
      let ms := e.localMacros.map g.quadMacro
      let busy := (s.warps.any fun w => w.group == g.id && !lanternQuiet w id) || q.tcmds.any fun t => tileMeets s quad t id ms
      if e.eop ≠ 2 ∨ ¬ e.ready q.entries ∨ ¬ e.checked ∨ busy then .next s
      else
        .next ((s.updQuad quad fun q =>
          { q with marks := q.marks ++ ms.filter fun m => !q.marks.contains m }).entryDone quad id)

/-- R289, R309: a MUNSTAT entry, checked when it became ready, clears its range's marks once the entries posted before it that
name a macro of it have finished their passes. -/
def execMacroUnmark (quad id : Nat) (s : State) : Host.Outcome State Fault Refusal :=
  let q := s.quad quad
  match s.entry quad id with
  | none => .next s
  | some e =>
    match s.group e.group with
    | none => .next s
    | some g =>
      let ms := e.localMacros.map g.quadMacro
      let busy := q.entries.any fun x =>
        x.group == g.id && decide (x.id < id) && !x.passed && x.localMacros.any e.localMacros.contains
      if e.eop ≠ 3 ∨ ¬ e.ready q.entries ∨ ¬ e.checked ∨ busy then .next s
      else .next ((s.updQuad quad fun q => { q with marks := q.marks.filter fun m => !ms.contains m }).entryDone quad id)

/-! ## Convergence (R293–R296, R303) -/

def Group.convAt (g : Group) (c : Nat) : Conv := (g.conv[c]?).getD {}

def State.updConv (s : State) (gid c : Nat) (f : Conv → Conv) : State :=
  s.updGroup gid fun g => { g with conv := listModify f g.conv c }

/-- Lanes of a warp signed into register c. -/
def State.signedLanes (s : State) (wid c : Nat) : Dword :=
  s.gangs.foldl (fun m g =>
    match g.wait with
    | .signed c' _ _ => if g.warp = wid ∧ c' = c then m ||| g.lanes else m
    | _ => m) 0

/-- Warp of the group's expect set that has not ended, and whether it is done: every lane not exited has signed. -/
def State.convDone (s : State) (g : Group) (c : Nat) : Bool :=
  let k := g.convAt c
  (s.warps.filter fun w => w.group == g.id && !w.ended).all fun w =>
    !(decide (w.num < 16) && k.expect.getLsbD w.num) || maskSub w.live (s.signedLanes w.id c)

/-- A matrix command that a warp issued before a name waits in a core's command buffer. -/
def State.matrixHeld (s : State) (core wid before : Nat) : Bool :=
  (s.core core).cmds.any fun m => m.warp == wid && decide (m.eop ≤ 7) && decide (m.id < before)

/-- What every signing warp issued before its signatures is done: its stores are performed (R302) and its matrix commands
are accepted (R12, R295). -/
def State.signStoresDone (s : State) (gid c : Nat) : Bool :=
  s.gangs.all fun g =>
    match g.wait with
    | .signed c' _ op =>
      match s.warp g.warp, s.group gid with
      | some w, some grp => w.group != gid || c' != c || (lanternQuiet w op && !s.matrixHeld grp.coreId w.id op)
      | _, _ => true
    | _ => true

/-- Releases the gangs signed into a register: their setb counts fall and their lanes go on. -/
def State.releaseSigned (s : State) (gid c : Nat) : State :=
  let mine := s.gangs.filter fun g =>
    match g.wait with
    | .signed c' _ _ => c' == c && (match s.warp g.warp with | some w => w.group == gid | none => false)
    | _ => false
  mine.foldl (fun s g =>
    match g.wait with
    | .signed _ _ op => (s.accepted g.warp (some op)).endWait g.uid
    | _ => s) s

/-- The time of a group's collection is over (R296): it is neither joined nor posted any more. -/
def State.convLate (s : State) (g : Group) (k : Conv) : Bool := decide (k.since + 2 ^ g.desc.cvtime ≤ (s.die g.die).clk)

/-- R295: a complete collection is posted in time, with the first signature's fields, when the table has room. -/
def State.postCollection (s : State) (gid c : Nat) : State :=
  match s.group gid with
  | none => s
  | some g =>
    let k := g.convAt c
    if !k.collecting || s.convLate g k || !s.convDone g c || !s.signStoresDone gid c || g.stat != .resident then s
    else
      let slot := (k.ebits.extractLsb' 14 3).toNat
      let wait := k.ebits.extractLsb' 6 8
      match s.postEntry g 1 slot wait (s.readBlock g k.ob.toNat) [k.ob] (k.ebits.getLsbD 0) with
      | none => s
      | some s => (s.updConv gid c fun k => { k with collecting := false }).releaseSigned gid c

def execCollectionPost (gid c : Nat) (s : State) : Host.Outcome State Fault Refusal := .next (s.postCollection gid c)

/-- A gang whose warp is expected signs: it starts the collection or joins it, and parks; another pc's collection, or one
whose time is over, holds it unsigned; otherwise it signs nothing (R294, R296). -/
def State.sign (s : State) (c : Ctx) (cv : Nat) (word pc ob : Word) (op : Nat) : State :=
  let k := c.grp.convAt cv
  if !(decide (c.w.num < 16) && k.expect.getLsbD c.w.num) then s.accepted c.w.id (some op)
  else if k.collecting && (k.pc != pc || s.convLate c.grp k) then s.engineWait c (.unsigned cv word op)
  else
    let s :=
      if k.collecting then s
      else
        s.updConv c.grp.id cv fun k =>
          { k with collecting := true, pc, ob, ebits := fld word 0 21, since := (s.die c.grp.die).clk }
    s.engineWait c (.signed cv word op)

/-- Checks of a matrix command word: tile and convergence numbers below the granted counts, and a tile granted at all
(R302, R317). -/
def matrixChk (regs : Bool) (granted : Group → Bool) : Ctx → Option Nat :=
  checks true true regs fun c => decide (1 ≤ c.grp.desc.tiles) && granted c.grp

/-- R306: mma. -/
def execMma (k : BitVec 3) (cv : BitVec 4) (_sl : BitVec 3) (_w : BitVec 8) (ob : BitVec 5) (_z : BitVec 1) (s : State) :
    Host.Outcome State Fault Refusal :=
  issue (matrixChk true fun g => decide (cv.toNat < g.desc.cvcount)) (fun c s =>
    if guardUni k c.w = false then .go (s.fallNow c.w.id none c.g.fb) []
    else
      let (op, s) := s.fresh
      let s := (s.addOp c.w.id (c.newOp op none c.g.fb .accept)).updWarp c.w.id Warp.unquiet
      .go (s.sign c cv.toNat c.g.word c.g.pc (c.rv.getS ob.toNat) op) []) s

/-- R303: cset. -/
def execCset (k : BitVec 3) (cv : BitVec 4) (a : BitVec 5) (s : State) :
    Host.Outcome State Fault Refusal :=
  issue (checks true true true fun c => decide (cv.toNat < c.grp.desc.cvcount)) (fun c s =>
    let s := s.fallNow c.w.id none c.g.fb
    if guardUni k c.w = false then .go s []
    else
      let x := ((c.rv.getS a.toNat).setWidth 16) &&& BitVec.ofNat 16 (2 ^ c.grp.desc.warps - 1)
      .go (((s.updWarp c.w.id Warp.unquiet).updConv c.grp.id cv.toNat fun k => { k with expect := x }).postCollection c.grp.id
        cv.toNat) []) s

/-- R296: a collection not posted in time is discarded: its gangs take the convergence trap at their MMA word. -/
def execConvergenceTimeout (gid cv : Nat) (s : State) : Host.Outcome State Fault Refusal :=
  match s.group gid with
  | none => .next s
  | some grp =>
    let k := grp.convAt cv
    if ¬ k.collecting ∨ grp.stat ≠ .resident ∨ ¬ s.convLate grp k then .next s
    else
      let mine := s.gangs.filter fun g =>
        match g.wait with
        | .signed c' _ _ => c' == cv && (match s.warp g.warp with | some w => w.group == gid | none => false)
        | _ => false
      let s := s.updConv gid cv fun k => { k with collecting := false }
      .next (mine.foldl (fun s g =>
        match g.wait, s.warp g.warp with
        | .signed _ word op, some w =>
          let g' : Gang := { g with index := g.index - 1, rest := word :: g.rest, wait := .none }
          let w' := { w.mapLanes g.lanes fun _ ln => { ln with pc := g'.pc, stat := .ready } with
            ops := removeBy TOp.id op w.ops }
          (s.setWarp w').trapHere ⟨g', w', grp, w'⟩ false
            { cause := causeConv, lanes := g.lanes, aux := BitVec.ofNat 64 cv }
        | _, _ => s) s)

/-! ## Posted words (R301) -/

/-- R309: mstat. -/
def execMstat (k : BitVec 3) (_sl : BitVec 3) (_w : BitVec 8) (a : BitVec 5) (s : State) :
    Host.Outcome State Fault Refusal :=
  commandWord (matrixChk true fun _ => true) k 2 none (fun w => [w.getS a.toNat]) s

/-- R309: munstat. -/
def execMunstat (k : BitVec 3) (_sl : BitVec 3) (_w : BitVec 8) (a : BitVec 5) (s : State) :
    Host.Outcome State Fault Refusal :=
  commandWord (matrixChk true fun _ => true) k 3 none (fun w => [w.getS a.toNat]) s

/-- R310: mzero. -/
def execMzero (k : BitVec 3) (t : BitVec 3) (_sl : BitVec 3) (_w : BitVec 8) (s : State) :
    Host.Outcome State Fault Refusal :=
  commandWord (matrixChk true fun g => decide (t.toNat < g.desc.tiles)) k 4 none (fun _ => [t.setWidth 32]) s

/-- R311: scac. -/
def execScac (k : BitVec 3) (_sl : BitVec 3) (_w : BitVec 8) (a : BitVec 5) (s : State) :
    Host.Outcome State Fault Refusal :=
  commandWord (matrixChk true fun _ => true) k 5 none (fun w => [w.getS a.toNat]) s

/-- R313: mtread. -/
def execMtread (k : BitVec 3) (t : BitVec 3) (_sl : BitVec 3) (_w : BitVec 8) (a : BitVec 5) (s : State) :
    Host.Outcome State Fault Refusal :=
  commandWord (matrixChk (evenU a) fun g => decide (t.toNat < g.desc.tiles)) k 6 none
    (fun w => [w.getS a.toNat, w.getS (a.toNat + 1), t.setWidth 32]) s

/-- The matrix engine posts a command of the command buffer (R302); none while it cannot. -/
def State.matrixAccept (s : State) (grp : Group) (m : Cmd) : Option State :=
  match s.warp m.warp with
  | none => none
  | some w =>
    if lanternQuiet w m.id then
      let block := if m.eop = 5 then s.readBlock grp ((m.regs[0]?).getD 0).toNat else []
      s.postEntry grp m.eop (m.ebits.extractLsb' 14 3).toNat (m.ebits.extractLsb' 6 8) block m.regs false
    else none

/-! ## Waiting and querying (R314, R315) -/

/-- MWAIT's condition: no named slot is busy, and no command of the warp before it that marks one is still to be posted
(log 22). -/
def State.mwaitDone (s : State) (grp : Group) (wid : Nat) (mask : BitVec 8) (before : Nat) : Bool :=
  ((s.core grp.coreId).cmds.all fun m =>
      m.warp != wid || engineOf m.eop != 0 || decide (before ≤ m.id) || !mask.getLsbD (m.ebits.extractLsb' 14 3).toNat) &&
    s.busySlots grp &&& mask == 0

/-- R314: mwait. -/
def execMwait (k : BitVec 3) (a : BitVec 5) (s : State) :
    Host.Outcome State Fault Refusal :=
  issue (issueFault (.mwait k a)) (fun c s =>
    let mask := (c.rv.getS a.toNat).setWidth 8
    if guardUni k c.w = false then .go s []
    else if s.mwaitDone c.grp c.w.id mask s.nextId then .go (s.acquireGang c.grp.coreId c.g.uid) []
    else .go (s.engineWait c (.mwait mask s.nextId)) []) s

/-- The value of an MQUERY selector; a tile that the group does not hold has no flag the manual states, so its bit is free. -/
def mqueryValue (s : State) (c : Ctx) (a : BitVec 5) (x : Nat) : Word :=
  let q := s.quad c.grp.quad
  match x with
  | 0 =>
    let t := (c.rv.getS a.toNat).toNat % 8
    if t < c.grp.desc.tiles then (if q.ovf.contains (c.grp.quadTile t) then 1 else 0) else Config.word s.free t &&& 1
  | 1 => (s.busySlots c.grp).setWidth 32
  | 2 => let (code, eop, n) := c.grp.merr; BitVec.ofNat 32 (code * 2 ^ 24 + eop * 2 ^ 16 + n)
  | _ => BitVec.ofNat 32 ((q.entries.filter fun e => e.group == c.grp.id).length)

/-- R315: mquery. -/
def execMquery (k : BitVec 3) (d a : BitVec 5) (x : BitVec 2) (s : State) :
    Host.Outcome State Fault Refusal :=
  issue (issueFault (.mquery k d a x)) (fun c s =>
    if guardUni k c.w = false then .go (s.fallNow c.w.id c.g.fa none) []
    else
      let v := mqueryValue s c a x.toNat
      let s := if x = 2 then s.updGroup c.grp.id fun g => { g with merr := (0, 0, 0) } else s
      let (id, s) := s.fresh
      .go ((s.addOp c.w.id (c.newOp id c.g.fa none (.done [⟨uniLane, d.toNat, v⟩]))).updWarp c.w.id Warp.unquiet) []) s

end Sys2Proof.Machine
end

