-- ==== Sys2Proof/Machine/Schedule.lean ====
section
/-! DEFINITION. Clause headers, clause fetch, the sequencers and the issue choice, spin demotion ends, poison and debug
events (02_encoding.md R47–R48, 06_core_threads.md R115–R142, 13_launch.md R242–R243, 11_core_traps.md R214–R215). -/

namespace Sys2Proof.Machine

/-! ## Framing and the CLAUSE word (R47, R48) -/

/-- The control transfers of R48. -/
def isTransfer (w : Word) : Bool :=
  if fld w 28 4 = 6 then fld w 25 3 == 5 || fld w 25 3 == 7
  else if fld w 28 4 = 4 then decide (0x40 ≤ (fld w 18 10).toNat) && decide ((fld w 18 10).toNat ≤ 0x42)
  else if fld w 29 3 = 4 then fld w 23 6 == 31 || fld w 23 6 == 38
  else if fld w 29 3 = 6 then decide (1 ≤ (fld w 24 5).toNat) && decide ((fld w 24 5).toNat ≤ 4)
  else false

def flagNameOk (f : BitVec 4) : Bool := decide (f.toNat ≤ 11) || f == 15

/-- The framing of a clause at a code offset is sound (R48). -/
def framingOk (hdr : Word) (pc : Word) (words : List Word) : Bool :=
  let n := (fld hdr 20 4).toNat
  n != 0 && flagNameOk (fld hdr 4 4) && flagNameOk (fld hdr 0 4) &&
    pc.toNat / 4096 == (pc.toNat + 4 * n) / 4096 &&
    (words.dropLast.all fun w => !isTransfer w) && words.all fun w => !isClauseWord w

/-- R14, R47: a clause starts: it waits for its flags, its counts rise, and its header is an arrival at a spin monitor. -/
def execClause (l : BitVec 4) (m : BitVec 12) (a b : BitVec 4) (s : State) :
    Host.Outcome State Fault Refusal :=
  issue (fun c => if framingOk c.g.word c.g.pc c.g.rest.tail && l.toNat == c.g.rest.tail.length then none else some 1)
    (fun c s =>
      let ws := c.g.rest.tail
      if c.w.waitClear m && c.w.flagRoom a.toNat b.toNat ws then
        let w := (c.w.raiseFor a.toNat b.toNat ws).spinArrive c.g.pc c.g.lanes c.grp.allot (s.die c.grp.die).clk
        .go ((s.setWarp w).updGang c.g.uid fun g => { g with seta := a.toNat, setb := b.toNat }) []
      else .stall) s

/-! ## Paths and sequencers (R115–R117) -/

/-- A lane is ready: not exited, not parked, and not held by a handler or debug event of another gang. -/
def Warp.laneReady (w : Warp) (l : Nat) (ln : Lane) : Bool :=
  ln.stat == .ready && w.dbgPark.isNone && (match w.handler with | none => true | some h => inMask h.lanes l)

/-- A lane has received poison and not yet taken the trap. -/
def Warp.poisoned (w : Warp) (l : Nat) : Bool := w.poison.any fun p => inMask p.lanes l

/-- Lanes ready at a clause boundary. -/
def State.boundary (s : State) (w : Warp) : Dword :=
  w.lanesWhere fun l ln => w.laneReady l ln && !s.inGang w.id l && !w.poisoned l

def Warp.demotedLanes (w : Warp) : Dword := w.demoted.foldl (fun m d => m ||| d.lanes) 0

/-- A slice is inside a clause: a lane of it that is not parked stands in a gang. -/
def State.sliceBusy (s : State) (w : Warp) (i : Nat) : Bool :=
  (List.range 4).any fun j =>
    s.inGang w.id (4 * i + j) && (w.lane (4 * i + j)).stat == .ready

/-- The PC that a slice's sequencer presents (R116). A slice that waits at a boundary chooses anew at every look: the spec does
not say whether a lane that becomes ready later changes its choice (log 18). -/
def State.presents (s : State) (w : Warp) (ready : Dword) (i : Nat) : Option Word :=
  if s.sliceBusy w i then none
  else
    let ls := ((List.range 4).map (4 * i + ·)).filter (inMask ready)
    let free := ls.filter fun l => !inMask w.demotedLanes l
    let from' := if free.isEmpty then ls else free
    match from' with
    | [] => none
    | l :: t => some (t.foldl (fun m k => if (w.lane k).pc.ult m then (w.lane k).pc else m) (w.lane l).pc)

/-- The active lanes of the gang that would form at a PC now (R117). -/
def State.gangAt (s : State) (w : Warp) (pc : Word) : Dword :=
  let ready := s.boundary w
  maskOf ((maskLanes ready).filter fun l =>
    (w.lane l).pc == pc && s.presents w ready (l / 4) == some pc)

/-! ## Clause fetch (R138–R142, R151) -/

/-- A trap at the fetch of a clause, for the lanes that reached it by one transfer or by none (R48, R141, R210). -/
def fetchTrap (w : Warp) (lanes : Dword) (pc : Word) (cause : Nat) (hdrWord : Word) (framing : Bool) : TrapReq :=
  let sub : Dword := if cause = causeIllegal then 1 else 0
  match (w.lane (lowLane lanes)).xfer, framing with
  | some x, false =>
    { lanes, debug := false, hdr := x.pc - BitVec.ofNat 32 (4 * x.index), seta := 15, setb := 15, rest := [x.word]
      regs := trapRegsAt x.pc x.word x.index false { cause, lanes, addr := pc.setWidth 64, aux := sub } }
  | _, _ =>
    { lanes, debug := false, hdr := pc, seta := 15, setb := 15, rest := []
      regs := trapRegsAt pc hdrWord 0 false
        { cause, lanes, addr := if cause = causeExecute then pc.setWidth 64 else 0, aux := sub } }

/-- Lanes of a path that reached its pc by the same transfer as its lowest lane. -/
def sameXfer (w : Warp) (lanes : Dword) : Dword :=
  let x := (w.lane (lowLane lanes)).xfer
  maskOf ((maskLanes lanes).filter fun l => (w.lane l).xfer == x)

/-- The fetched words of a clause, or what its fetch meets. -/
inductive Fetch where
  | words (ws : List Word)
  | absent (k : PageKey)
  | execute
  | badTarget (word : Word)
  | framing (word : Word)

/-- Fetches the clause at a PC whole (R138). At a misaligned target no word is read. A page that the host has refused fails the rights check (R434). A target that is
misaligned and lies outside the code buffer meets both traps of R151; the execute trap is taken, an order the spec does not
give (log 18). -/
def State.fetchClause (s : State) (d ctx : Nat) (pc : Word) : Fetch :=
  let r := s.codeRef ctx pc
  match s.buf ctx (refBuf r) with
  | none => .execute
  | some e =>
    if e.size < pc.toNat + 4 ∨ hasRight e .x = false ∨ s.refusedPage e ctx r 4 then .execute
    else if pc.toNat % 4 ≠ 0 then .badTarget 0
    else
      match s.codeWord d ctx pc with
      | none => .absent (pageKeyOf e ctx r)
      | some h =>
        if isClauseWord h = false then .badTarget h
        else
          let n := (fld h 20 4).toNat
          if pc.toNat / 4096 ≠ (pc.toNat + 4 * n) / 4096 then .framing h
          else
            let ws := (List.range n).map fun i => (s.codeWord d ctx (pc + BitVec.ofNat 32 (4 * (i + 1)))).getD 0
            if framingOk h pc ws then .words (h :: ws) else .framing h

/-- A fetch of n words fills the core TLB and the die's translation cache with their page (R250, R251), and finds the
uncorrectable errors of what it reads (R259). -/
def State.fetched (s : State) (grp : Group) (pc : Word) (n : Nat) : State :=
  let r := s.codeRef grp.ctx pc
  match s.buf grp.ctx (refBuf r) with
  | none => s
  | some e =>
    let k := pageKeyOf e grp.ctx r
    let s := s.touchTlb grp.coreId k false
    (linesOf (okList (s.physList grp.ctx r (4 * n)))).foldl (fun s l => s.findError l 3) s

/-- Of lanes ready at a fetched clause, those whose meeting register holds its offset and that have not been released from it since
they came: their page was absent when they came, and they arrive now (R121). -/
def Warp.lateLanes (w : Warp) (lanes : Dword) : Dword :=
  w.lanesWhere fun l ln => inMask lanes l && ln.pc == ln.meet && !ln.released

/-- Such lanes park at their meeting. -/
def Warp.arriveLate (w : Warp) (lanes : Dword) : Warp :=
  ((w.mapLanes (w.lateLanes lanes) fun _ ln => { ln with stat := .parked .meeting }).meetRelease).keepDemoted

/-- Demotions end that a write has hit, or that have stood for 4,096 clk (R134). -/
def Warp.lapsed (w : Warp) (clk : Nat) : Warp := w.endDemotions fun d => d.hit || decide (d.since + 4096 ≤ clk)

/-- R138–R141: the fetch of the clause at a PC for the gang that would form there; nothing when there is none or its clause
is fetched. An absent page parks the lanes. A fetched clause whose wait mask reads clear is a candidate from now on (R243). -/
def execClauseFetch (wid : Nat) (pc : Word) (s : State) : Host.Outcome State Fault Refusal :=
  match s.warp wid with
  | none => .next s
  | some w =>
    match s.group w.group with
    | none => .next s
    | some grp =>
      let w := w.lapsed (s.die grp.die).clk
      let s := s.setWarp w
      let lanes := s.gangAt w pc
      if lanes = 0 ∨ grp.stat ≠ .resident ∨ (w.cands.any fun c => c.pc == pc) then .next s
      else
        match s.fetchClause grp.die grp.ctx pc with
        | .words ws =>
          if w.lateLanes lanes ≠ 0 then .next (s.setWarp (w.arriveLate lanes))
          else
          let since := if w.waitClear (fld (ws.headD 0) 8 12) then some (s.die grp.die).clk else none
          .next ((s.fetched grp pc ws.length).updWarp wid fun w =>
            { w with cands := w.cands ++ [{ pc, words := ws, since, promoted := false }] }).draw
        | .absent k =>
          let s := s.updWarp wid fun w => (w.mapLanes lanes fun _ ln => { ln with stat := .parked .fetch }).keepDemoted
          let (id, s) := s.fresh
          .next (s.park grp.die id k)
        | .execute =>
          let ls := sameXfer w lanes
          .next (s.deliver wid (fetchTrap w ls pc causeExecute 0 false))
        | .badTarget h =>
          let ls := sameXfer w lanes
          .next (s.deliver wid (fetchTrap w ls pc causeIllegal h false))
        | .framing h => .next (s.deliver wid (fetchTrap w lanes pc causeIllegal h true))

/-! ## The issue choice (R242, R243) -/

/-- A word of a clause makes a memory access (R242). -/
def isMemWord (w : Word) : Bool :=
  if fld w 30 2 = 0 then decide (24 ≤ (fld w 25 5).toNat) && decide ((fld w 25 5).toNat ≤ 29)
  else if fld w 28 4 = 4 then
    let x := (fld w 18 10).toNat
    (decide (0xC0 ≤ x) && decide (x ≤ 0xC5)) || (decide (0xD8 ≤ x) && decide (x ≤ 0xDD)) || decide (0x200 ≤ x)
  else if fld w 29 3 = 4 then decide (19 ≤ (fld w 23 6).toNat) && decide ((fld w 23 6).toNat ≤ 22)
  else false

/-- Region of a core's tile among the four of its die (R242). The spec does not number the tiles of the 8 × 8 grid: the model
takes core 8·t + i to lie in tile t, tiles in rows (log 12). -/
def regionOf (core : Nat) : Nat := core / 8 / 8 / 4 * 2 + core / 8 % 8 / 4

/-- Memory requests of a warp that are outstanding: loads, atomics and gather-reduces not yet performed, and stores in its
queue or on their way, each at memory and not at the Lantern store (R242). -/
def State.outstanding (s : State) (w : Warp) (grp : Group) : Nat :=
  (w.ops.filter fun o =>
    match o.kind with
    | .accesses l => l.any fun a => a.space == .mem
    | .gred _ _ => true
    | _ => false).length +
  (w.sq.filter fun e => e.items.any fun i => i.space == .mem).length +
  ((s.core grp.coreId).wt.filter fun x => x.warp == w.id).length

/-- A gang is held: its region is congested, its warp has more than 16 requests outstanding and its next clause holds a
memory access. -/
def State.held (s : State) (w : Warp) (grp : Group) (words : List Word) : Bool :=
  (s.die grp.die).congested.contains (regionOf grp.core) && decide (16 < s.outstanding w grp) && words.tail.any isMemWord

/-- The wait mask of a fetched clause reads clear: its gang is a candidate (R243). -/
def candClear (w : Warp) (words : List Word) : Bool := w.waitClear (fld (words.headD 0) 8 12)

/-- The counts of a fetched clause have room; one that has none waits at issue, and the core takes the next candidate
(R14). -/
def candRoom (w : Warp) (words : List Word) : Bool :=
  let h := words.headD 0
  w.flagRoom (fld h 4 4).toNat (fld h 0 4).toNat words.tail

/-- A gang that has been a candidate for 64 clk, and is neither held nor spin-demoted, is promoted (R243). -/
def State.promotes (s : State) (w : Warp) (grp : Group) (clk : Nat) (c : Cand) : Bool :=
  (match c.since with | some t => decide (t + 64 ≤ clk) | none => false) && !s.held w grp c.words &&
    !maskSub (s.gangAt w c.pc) w.demotedLanes

/-- The ready times of a warp's candidates now, and their promotion; a fetched clause that no gang stands at is dropped. -/
def State.refreshCands (s : State) (w : Warp) (grp : Group) (clk : Nat) : Warp :=
  let look (c : Cand) : Cand :=
    if candClear w c.words then
      let c := { c with since := some (c.since.getD clk) }
      { c with promoted := c.promoted || s.promotes w grp clk c }
    else { c with since := none, promoted := false }
  { w with cands := (w.cands.filter fun c => s.gangAt w c.pc != 0).map look }

/-- A candidate's place in the order of R243: smaller first. -/
def candKey (s : State) (w : Warp) (grp : Group) (c : Cand) (since : Nat) : Nat :=
  let lanes := s.gangAt w c.pc
  let cls :=
    if c.promoted then 0
    else if maskSub lanes w.demotedLanes then 3
    else if s.held w grp c.words then 2 else 1
  let pr := if c.promoted then 0 else 7 - min 7 w.prio
  (cls * 8 + pr) * 2 ^ 80 + since * 16 + w.slot

/-- The candidates of a core: warp, candidate, key. -/
def State.candidates (s : State) (core : Nat) : List (Nat × Cand × Nat) :=
  s.warps.flatMap fun w =>
    match s.group w.group with
    | none => []
    | some grp =>
      if grp.coreId = core ∧ grp.stat = .resident then
        (w.cands.filter fun c => candRoom w c.words).filterMap fun c => c.since.map fun t => (w.id, c, candKey s w grp c t)
      else []

/-- The candidates of a die's warps are looked at, so that each has the clk at which it became one for its ready time, and is
promoted in time (R243). -/
def State.lookCands (s : State) (d : Nat) : State :=
  let look (w : Warp) : Warp :=
    match s.group w.group with
    | some grp => if grp.die = d then s.refreshCands w grp (s.die d).clk else w
    | none => w
  { s with warps := s.warps.map look }

/-- The least candidate. Of two gangs of one warp with equal class, priority and ready time the one fetched first is taken: the
spec breaks ties by warp slot only (log 18). -/
def leastCand : List (Nat × Cand × Nat) → Option (Nat × Cand)
  | [] => none
  | x :: t => some ((t.foldl (fun b y => if y.2.2 < b.2.2 then y else b) x).1,
      (t.foldl (fun b y => if y.2.2 < b.2.2 then y else b) x).2.1)

/-- Starts the clause of a candidate: its gang forms and its header issues. -/
def State.startClause (s : State) (wid : Nat) (c : Cand) : State :=
  match s.warp wid with
  | none => s
  | some w =>
    let w := w.arriveLate (s.gangAt w c.pc)
    let s := s.setWarp w
    let lanes := s.gangAt w c.pc
    if lanes = 0 then s
    else
    let (u, s) := s.fresh
    let s := s.updWarp wid fun w =>
      { (w.mapLanes lanes fun _ ln => { ln with released := false }) with cands := w.cands.filter fun x => x.pc != c.pc }
    let s := { s with gangs := s.gangs ++ [{ uid := u, warp := wid, lanes, hdr := c.pc, index := 0, rest := c.words }]
                      cur := u }
    let h := c.words.headD 0
    match execClause (fld h 20 4) (fld h 8 12) (fld h 4 4) (fld h 0 4) s with
    | .next s => s
    | _ => s

/-- R243: the core starts the clause of its first candidate, if it has one, and at most one each clk. A debug record that waits
for a clause boundary of a warp of the core is loaded before. -/
def execIssueChoice (core : Nat) (s : State) : Host.Outcome State Fault Refusal :=
  let clk := (s.die (core / Config.coresPerDie)).clk
  let mine := (s.warps.filter fun w => s.warpCore w == core).map Warp.id
  let s := mine.foldl State.loadDebug s
  let look (w : Warp) : Warp :=
    match s.group w.group with
    | some grp => if grp.coreId = core then s.refreshCands (w.lapsed clk) grp clk else w
    | none => w
  let s := { s with warps := s.warps.map look }
  if (s.core core).startClk = clk + 1 then .next s
  else
    match leastCand (s.candidates core) with
    | none => .next s
    | some (wid, c) => .next ((s.updCore core fun u => { u with startClk := clk + 1 }).startClause wid c)

/-- R243: a gang that has been a candidate for 64 clk, and is neither held nor spin-demoted, is promoted. The issue choice
promotes it in any case. -/
def execGangPromotion (core wid : Nat) (pc : Word) (s : State) : Host.Outcome State Fault Refusal :=
  match s.warp wid with
  | none => .next s
  | some w =>
    match s.group w.group with
    | none => .next s
    | some grp =>
      let ok (c : Cand) : Bool := c.pc == pc && s.promotes w grp (s.die grp.die).clk c
      if grp.coreId = core then
        .next (s.updWarp wid fun w =>
          { w with cands := w.cands.map fun c => if ok c then { c with promoted := true } else c })
      else .next s

/-! ## Spin demotion ends (R134) -/

/-- R134: a write to a watched span has ended a demotion. -/
def execSpinDemotionEnd (wid : Nat) (header : Word) (s : State) : Host.Outcome State Fault Refusal :=
  .next (s.updWarp wid fun w => w.endDemotions fun d => d.header == header && d.hit)

/-- R134: 4,096 clk have passed since the demotion began. -/
def execSpinDemotionTimeout (wid : Nat) (header : Word) (s : State) : Host.Outcome State Fault Refusal :=
  match s.warp wid with
  | none => .next s
  | some w =>
    match s.group w.group with
    | none => .next s
    | some grp =>
      let clk := (s.die grp.die).clk
      .next (s.updWarp wid fun w =>
        w.endDemotions fun d => d.header == header && decide (d.since + 4096 ≤ clk))

/-! ## Poison and debug events -/

/-- The lanes that take a poison record's trap now: of those it names, which have not exited and stand outside a clause,
the lanes at the lowest one's header. While the warp is in a handler only its lanes, while it is parked on a debug event
none. -/
def State.poisonLanes (s : State) (w : Warp) (p : PoisonRec) : Dword :=
  let ok (l : Nat) (ln : Lane) : Bool :=
    inMask p.lanes l && ln.stat != .exited && !s.inGang w.id l && w.dbgPark.isNone &&
      (match w.handler with | some h => inMask h.lanes l | none => true)
  let pc := (w.lane (lowLane (w.lanesWhere ok))).pc
  w.lanesWhere fun l ln => ok l ln && ln.pc == pc

/-- Lanes of a poison record that have not exited. -/
def Warp.poisonLive (w : Warp) (p : PoisonRec) : Dword := w.lanesWhere fun l ln => inMask p.lanes l && ln.stat != .exited

/-- The oldest of some poison records of which lanes can take the trap now, and the records that stay. -/
def State.takePoison (s : State) (w : Warp) : List PoisonRec → Option (PoisonRec × List PoisonRec)
  | [] => none
  | p :: t =>
    let lanes := s.poisonLanes w p
    if lanes = 0 then (State.takePoison s w t).map fun x => (x.1, p :: x.2)
    else
      let left := w.poisonLive p &&& ~~~lanes
      some (p, if left = 0 then t else { p with lanes := left } :: t)

/-- The address of a poison record for the lowest of some lanes. -/
def PoisonRec.addrOf (p : PoisonRec) (lanes : Dword) : Dword :=
  ((p.addrs.find? fun x => x.1 == lowLane lanes || x.1 == uniLane).map (·.2)).getD 0

/-- R179: the lanes that received poison from one word enter the handler at the clause boundary they stand at together.
TRAP_PC is one header, so lanes that have gone to another enter at their own, after the return (log 20). -/
def execPoisonTrap (wid : Nat) (s : State) : Host.Outcome State Fault Refusal :=
  match s.warp wid with
  | none => .next s
  | some w =>
    let ps := w.poison.filter fun p => w.poisonLive p != 0
    match s.takePoison w ps with
    | none => .next (s.updWarp wid fun w => { w with poison := ps })
    | some (p, poison) =>
        let lanes := s.poisonLanes w p
        let pc := (w.lane (lowLane lanes)).pc
        let regs := trapRegsAt p.wordPc p.word 0 false
          { cause := p.cause, lanes := lanes, addr := p.addrOf lanes,
            aux := if p.cause = causePoison then p.wordPc.setWidth 64 else 0 }
        .next ((s.updWarp wid fun w => { w with poison }).deliver wid
          { lanes, regs := { regs with pc }, debug := false, hdr := pc, seta := 15, setb := 15, rest := [] })

/-- R214, R215, R442: the driver posts a debug configuration block of a launch. Each warp that it names loads its record at its
next clause boundary, and a gang parked on a debug event then resumes at TRAP_PC. -/
def execDebugConfigPost (lid : Nat) (block : List Word) (s : State) : Host.Outcome State Fault Refusal :=
  if debugRefused block ∨ ¬ s.pkg.negotiated.getLsbD 8 then .next (s.post "debug-refused" [lid])
  else
    let load (w : Warp) : Warp :=
      match s.group w.group with
      | some g => if g.launch = lid then { w with dbgNext := (debugFor block g.index w.num).or w.dbgNext } else w
      | none => w
    .next { s.updLaunch lid fun l => { l with dbg := block :: l.dbg } with warps := s.warps.map load }

end Sys2Proof.Machine
end

