-- ==== Sys2Proof/Machine/Launch.lean ====
section
/-! DEFINITION. The launch engine: launch blocks, LAUNCH, host launch queues, ownership and stealing, admission, congestion
(13_launch.md R232–R242, 03_objects.md R62, 06_core_threads.md R114, R126–R129). -/

namespace Sys2Proof.Machine

/-! ## Launch blocks and kernel descriptors (R232, R62) -/

/-- Fields of a launch block; `rsv` joins the reserved fields. -/
structure LBlock where
  version : Nat
  lflags : Nat
  desc : Dword
  groups : Nat
  iters : Nat
  itile : Nat
  prio : Nat
  qspan : Nat
  podkey : Nat
  podgroups : Nat
  sload : Word
  save : Dword
  savestride : Dword
  svals : List Word
  rsv : Nat
  deriving DecidableEq, Repr

def lblockOf (b : List Byte) : LBlock :=
  { version := recField b 0 4, lflags := recField b 4 4, desc := BitVec.ofNat 64 (recField b 8 8)
    groups := recField b 0x10 8, iters := recField b 0x18 8, itile := recField b 0x20 4, prio := recField b 0x24 1
    qspan := recField b 0x25 1, podkey := recField b 0x28 4, podgroups := recField b 0x2C 4
    sload := BitVec.ofNat 32 (recField b 0x30 4), save := BitVec.ofNat 64 (recField b 0x38 8)
    savestride := BitVec.ofNat 64 (recField b 0x40 8)
    svals := (List.range 32).map fun i => BitVec.ofNat 32 (recField b (0x80 + 4 * i) 4)
    rsv := recField b 0x26 2 + recField b 0x34 4 + recField b 0x48 56 + recField b 4 4 / 16 }

def kdescOf (b : List Byte) : KDesc :=
  { entry := BitVec.ofNat 32 (recField b 4 4), handler := BitVec.ofNat 32 (recField b 8 4)
    dbgentry := BitVec.ofNat 32 (recField b 0xC 4), prolog := recField b 0x10 1, full := recField b 0x11 1
    warps := recField b 0x12 1, tiles := recField b 0x13 1, lbytes := recField b 0x14 4, cvcount := recField b 0x18 1
    gbars := recField b 0x19 1, qbars := recField b 0x1A 1, dbars := recField b 0x1B 1, pbars := recField b 0x1C 1
    odbars := recField b 0x1D 1, cvtime := recField b 0x1E 1, persistent := recField b 0x1F 1 % 2 == 1
    kfeat := BitVec.ofNat 128 (recField b 0x20 16) }

/-- Limits of the descriptor's fields (R62, R64). R62 gives lbytes no limit: that it is a multiple of 256, which dxasm
demands, is also asked here, and dxasm's limit on warps times registers is not (log 12). -/
def KDesc.ok (d : KDesc) : Bool :=
  d.prolog % 8 == 0 && decide (8 ≤ d.prolog) && decide (d.prolog ≤ d.full) && d.full % 8 == 0 && decide (16 ≤ d.full) &&
    decide (d.full ≤ 96) && decide (1 ≤ d.warps) && decide (d.warps ≤ 16) && decide (d.tiles ≤ 8) && d.lbytes % 256 == 0 &&
    decide (d.cvcount ≤ 16) && decide (d.gbars ≤ 16) && decide (d.qbars ≤ 4) && decide (d.dbars ≤ 4) &&
    decide (d.pbars ≤ 4) && decide (d.odbars ≤ 4) && decide (16 ≤ d.cvtime) && decide (d.cvtime ≤ 31)

/-- Reserved fields of a descriptor, joined. -/
def kdescRsv (b : List Byte) : Nat := recField b 0x1F 1 / 4 + recField b 0x30 16

def LBlock.cohort (b : LBlock) : Bool := b.lflags / 2 % 2 == 1
def LBlock.persistent (b : LBlock) : Bool := b.lflags % 2 == 1

/-- Limits of the block's fields. -/
def LBlock.ok (b : LBlock) (d : KDesc) : Bool :=
  b.version == 1 && b.rsv == 0 && decide (1 ≤ b.groups) && decide (b.groups ≤ 2 ^ 40) &&
    (if b.persistent then decide (1 ≤ b.iters) && decide (b.iters ≤ 2 ^ 63) && decide (1 ≤ b.itile)
     else b.iters == 0 && b.itile == 0) &&
    decide (b.prio ≤ 7) && (if d.qbars = 0 then b.qspan == 0 else [1, 2, 4, 8].contains b.qspan) &&
    (d.odbars != 0 || b.podkey == 0) && b.persistent == d.persistent

/-- Groups of a launch of n groups that a die owns (R236). -/
def dieCount (n d : Nat) : Nat := 8 * (n / 32) + min 8 (n % 32 - 8 * d)

/-- Group number at a position of a die's own sequence (R236). -/
def groupAt (owner p : Nat) : Nat := 8 * (4 * (p / 8) + owner) + p % 8

/-- Groups of a descriptor that an empty quad holds (R239). -/
def KDesc.perQuad (d : KDesc) : Nat :=
  let core := min (Config.warpSlots / max 1 d.warps) (Config.sliceRows / max 1 (16 * d.warps * d.full))
  let lim (n k : Nat) (x : Nat) : Nat := if k = 0 then x else min x (n / k)
  let x := lim Config.lanternBytes d.lbytes (4 * core)
  let x := lim 64 d.cvcount (lim 8 d.tiles x)
  if d.tiles = 0 then x else min x 8

/-- Empty cores could hold a cohort (R234): its groups of each die, in sets of qspan groups to one quad. -/
def cohortFits (b : LBlock) (d : KDesc) : Bool :=
  let q := d.perQuad
  (List.range 4).all fun die =>
    let n := dieCount b.groups die
    if b.qspan = 0 then decide (n ≤ Config.quadsPerDie * q)
    else
      let cap := Config.quadsPerDie * (q / b.qspan)
      decide (n / b.qspan ≤ cap) &&
        (n % b.qspan == 0 || decide (n / b.qspan < cap) || decide (n % b.qspan ≤ q % b.qspan))

/-- A package number is in the pod. -/
def State.inPod (s : State) (p : Nat) : Bool := p == s.pkg.pkgid || s.pkg.pod.contains p

/-- What reading and checking a launch block gives. -/
inductive LaunchRead where
  /-- A page of the block or of the descriptor is not resident. -/
  | hold
  | refused (code : Nat)
  | ok (b : LBlock) (d : KDesc)

/-- R234's checks of a block reference, in the order of its table. The table has no row for poison in the block or in the
descriptor: their bytes are taken as they stand (log 12). Where the negotiated word lacks Meridian, pod barriers are
refused (R442, which names no code) with 0x12 whatever kfeat says (log 12). -/
def State.launchRead (s : State) (ctx : Nat) (ref : Dword) : LaunchRead :=
  if s.engRow ctx ref 256 .r = 2 ∨ ref.toNat % 256 ≠ 0 then .refused 0x02
  else if s.engRow ctx ref 256 .r = 3 then .refused 0x03
  else
    match s.engRead ctx ref 256 with
    | none => .hold
    | some (bs, _) =>
      let b := lblockOf bs
      if s.engRow ctx b.desc 64 .r = 2 ∨ b.desc.toNat % 64 ≠ 0 then .refused 0x02
      else if s.engRow ctx b.desc 64 .r = 3 then .refused 0x03
      else
        match s.engRead ctx b.desc 64 with
        | none => .hold
        | some (ds, _) =>
          let d := kdescOf ds
          if ¬ b.ok d ∨ ¬ d.ok ∨ kdescRsv ds ≠ 0 then .refused 0x10
          else if (d.qbars + d.dbars + d.pbars + d.odbars ≠ 0 ∧ ¬ b.cohort) ∨ (b.cohort ∧ ¬ cohortFits b d) ∨
              (d.odbars ≠ 0 ∧ ¬ s.inPod (b.podkey % 64)) then .refused 0x11
          else if d.kfeat &&& ~~~s.pkg.negotiated ≠ 0 ∨ (d.odbars ≠ 0 ∧ ¬ s.pkg.negotiated.getLsbD 3) then .refused 0x12
          else .ok b d

/-- The reads of a launch block and of its descriptor by a die's distributor find their uncorrectable errors (R259). -/
def State.findLaunch (s : State) (die ctx : Nat) (ref : Dword) : State :=
  if s.engRow ctx ref 256 .r ≠ 0 then s
  else
    match s.engRead ctx ref 256 with
    | none => s
    | some (bs, _) =>
      let d := (lblockOf bs).desc
      let s := s.findSpan die ctx ref 256
      if s.engRow ctx d 64 .r = 0 then s.findSpan die ctx d 64 else s

/-! ## Acceptance (R234, R238) -/

/-- The wider barriers of a new cohort, with their expected counts (R238). -/
def launchBars (id : Nat) (b : LBlock) (d : KDesc) : List NetBar :=
  let mk (scope n part exp : Nat) : List NetBar :=
    (List.range n).map fun i => { scope, index := i, key := id, part, bar := { exp := BitVec.ofNat 32 exp } }
  let quads :=
    if b.qspan = 0 then []
    else (List.range ((b.groups + b.qspan - 1) / b.qspan)).flatMap fun j =>
      mk 1 d.qbars j (min b.qspan (b.groups - j * b.qspan))
  let dies := (List.range 4).flatMap fun j => mk 2 d.dbars j (dieCount b.groups j)
  quads ++ dies ++ mk 3 d.pbars 0 b.groups

/-- A pod barrier is held from the first launch with its key on, until every group that shares it has ended. -/
def State.podBars (s : State) (b : LBlock) (d : KDesc) : State :=
  let bars := s.bars.filter fun x => !(x.scope == 4 && x.key == b.podkey && x.bar.exp == 0)
  let new := (List.range d.odbars).filter fun i => !bars.any (isNetBar 4 i b.podkey 0)
  { s with bars := bars ++ new.map fun i =>
      { scope := 4, index := i, key := b.podkey, part := 0, bar := { exp := BitVec.ofNat 32 b.podgroups } } }

/-- An accepted launch enters at a die's distributor. -/
def State.launchAdd (s : State) (ctx die : Nat) (ref : Dword) (b : LBlock) (d : KDesc) (status : StatusTo)
    (rel : Option Nat) (acq : Bool) (spawn : Option (Nat × Nat)) (batch : List Rec) : State :=
  let (id, s) := s.fresh
  let ln : Launch :=
    { id, ctx, block := ref, lflags := b.lflags, groups := b.groups, iters := b.iters, itile := b.itile, prio := b.prio
      qspan := b.qspan, podkey := b.podkey, podgroups := b.podgroups, sload := b.sload, svals := b.svals, save := b.save
      savestride := b.savestride, desc := d
      rem := (List.range 4).map fun o => if dieCount b.groups o = 0 then [] else [⟨o, 0, dieCount b.groups o⟩]
      known := (List.range 4).map (· == die), status, rel, acq, home := die, spawn, batch }
  let s := { s with launches := s.launches ++ [ln], bars := s.bars ++ launchBars id b d }
  let s := s.podBars b d
  { s with dieU := s.dieU.map fun (u : DieU) => { u with noAsk := u.noAsk.filter (· != die) } }

/-- A launch's status word goes where the command or the queue entry named. -/
def State.launchStatus (s : State) (die : Nat) (dest : StatusTo) (v : Word) : State :=
  match dest with
  | .nowhere => s
  | .op w o => s.giveStatus w (some o) v
  | .mem ctx r => if r = 0 then s else s.engWrite die ctx r (leBytes v.toNat 4)

/-- What a LAUNCH command does at the distributor; none while a page of its block is absent. -/
def State.launchTake (s : State) (die : Nat) (m : Cmd) : Option State :=
  let ref := joinWords ((m.regs[1]?).getD 0) ((m.regs[0]?).getD 0)
  let s := s.findLaunch die m.ctx ref
  match s.launchRead m.ctx ref with
  | .hold => none
  | .refused code => some (s.giveStatus m.warp m.sop (statusWord code 0))
  | .ok b d =>
    let st := match m.sop with | some o => StatusTo.op m.warp o | none => .nowhere
    some (s.launchAdd m.ctx die ref b d st
      (if m.ebits.getLsbD 8 then some (m.ebits.extractLsb' 5 3).toNat else none) (m.ebits.getLsbD 9) none [])

/-- A class obtains an entry of a pool: always below its minimum, else below its cap while the pool holds more free entries
than the other classes' unmet minimums (R241). -/
def Pool.grants (p : Pool) (cls : Nat) : Bool :=
  let h (i : Nat) : Nat := (p.held[i]?).getD 0
  let mn (i : Nat) : Nat := (p.mins[i]?).getD 0
  let unmet := (((List.range 3).filter (· != cls)).map fun i => mn i - h i).sum
  decide (h cls < mn cls) || (decide (h cls < (p.caps[cls]?).getD 0) && decide (p.held.sum + unmet < p.entries))

/-- A class takes or gives back entries of a unit's pool on a die. -/
def State.poolAdd (s : State) (die unit cls : Nat) (n : Int) : State :=
  s.updDie die fun u =>
    { u with pools := listModify (fun p => { p with held := listModify (fun x => (x + n : Int).toNat) p.held cls }) u.pools unit }

/-- A LAUNCH command travels in the control class (01_engines.md) to the distributor, whose pool is unit 3. It is taken at once,
or waits there in an entry of the pool; none while the pool grants none. -/
def State.launchAccept (s : State) (grp : Group) (m : Cmd) : Option State :=
  let u := s.die grp.die
  match (if u.dcmds.isEmpty then s.launchTake grp.die m else none) with
  | some s' => some s'
  | none =>
    if (match u.pools[3]? with | some p => p.grants 2 | none => false) then
      some ((s.updDie grp.die fun u => { u with dcmds := u.dcmds ++ [m] }).poolAdd grp.die 3 2 1)
    else none

/-- The distributor takes up the first of its waiting commands when it can. -/
def State.retryD (s : State) (die : Nat) : State :=
  match (s.die die).dcmds with
  | [] => s
  | m :: t =>
    match s.launchTake die m with
    | none => s
    | some s' => (s'.updDie die fun u => { u with dcmds := t }).poolAdd die 3 2 (-1)

/-- R234: launch. -/
def execLaunch (k : BitVec 3) (l d : BitVec 5) (n _q _r : BitVec 1) (sc : BitVec 3) (s : State) :
    Host.Outcome State Fault Refusal :=
  commandWord (checks (scopeOk sc) (nostatOk n d) (evenU l) fun _ => true) k 14 (statusDst n d) (sRegs l.toNat 2) s

/-- R234: an accepted launch reaches another distributor. -/
def execLaunchForward (launch die : Nat) (s : State) : Host.Outcome State Fault Refusal :=
  let s := { s with dieU := s.dieU.map fun (u : DieU) => { u with noAsk := u.noAsk.filter (· != die) } }
  .next (s.updLaunch launch fun l => { l with known := listSet l.known die true })

/-! ## Host launch queues (R235) -/

/-- Takes entries of a queue while their pages are resident. The spec gives no outcome for an entry whose reserved bytes are not
zero or whose line is poisoned, which is taken as it stands, nor for one that no reference of the queue reaches, which is never
taken (log 12). -/
def State.takeEntries : Nat → State → Nat → State
  | 0, s, _ => s
  | n + 1, s, qi =>
    match tabFind s.pkg.queues qi with
    | none => s
    | some q =>
      if q.tail ≤ q.head then s
      else
        let at' := refAdd q.base (32 * (q.head % max 1 q.size : Nat))
        match s.engRead q.ctx at' 32 with
        | none => s
        | some (bs, _) =>
          let ref := BitVec.ofNat 64 (recField bs 0 8)
          let dest := StatusTo.mem q.ctx (BitVec.ofNat 64 (recField bs 8 8))
          let next (s : State) : State :=
            let s := { s with pkg := { s.pkg with queues := tabPut s.pkg.queues qi { q with head := q.head + 1 } } }
            s.engWrite q.home q.ctx (refAdd q.base (-8)) (leBytes (q.head + 1) 8)
          let s := (s.findSpan q.home q.ctx at' 32).findLaunch q.home q.ctx ref
          match s.launchRead q.ctx ref with
          | .hold => s
          | .refused code => State.takeEntries n (next (s.launchStatus q.home dest (statusWord code 0))) qi
          | .ok b d => State.takeEntries n (next (s.launchAdd q.ctx q.home ref b d dest (some 5) true none [])) qi

/-- R235, R443: a tail count reaches a queue's doorbell; the home die's distributor takes the entries. -/
def execHostQueueDoorbell (queue : Nat) (tail : Dword) (s : State) : Host.Outcome State Fault Refusal :=
  match tabFind s.pkg.queues queue with
  | none => .next s
  | some q =>
    if ¬ s.pkg.boot.booted then .next s
    else if tail.toNat < q.head ∨ q.head + q.size < tail.toNat then .next (s.post "queue-overrun" [queue, tail.toNat])
    else
      let q' := { q with tail := max q.tail tail.toNat }
      let s := { s with pkg := { s.pkg with queues := tabPut s.pkg.queues queue q' } }
      .next (State.takeEntries (q'.tail - q'.head) s queue)

/-! ## Unissued groups (R236, R237) -/

def Seg.count (g : Seg) : Nat := g.hi - g.lo

/-- Unissued groups of a launch on a die. -/
def Launch.left (l : Launch) (d : Nat) : Nat := (((l.rem[d]?).getD []).map Seg.count).sum

/-- The lowest-indexed group of some segments, and the rest. -/
def popLow (l : List Seg) : Option (Nat × List Seg) :=
  match l.filter fun g => decide (g.lo < g.hi) with
  | [] => none
  | g :: t =>
    let b := t.foldl (fun b x => if groupAt x.owner x.lo < groupAt b.owner b.lo then x else b) g
    some (groupAt b.owner b.lo,
      (l.map fun x => if x = b then { x with lo := x.lo + 1 } else x).filter fun x => decide (x.lo < x.hi))

/-- Adds position p of an owner in front of segments taken from the top down. -/
def pushSeg (owner p : Nat) (l : List Seg) : List Seg :=
  match l.find? fun x => x.owner == owner && x.lo == p + 1 with
  | some y => l.map fun x => if x = y then { x with lo := p } else x
  | none => ⟨owner, p, p + 1⟩ :: l

/-- Moves the n highest-indexed groups of segments to others: what is left, and what is taken. -/
def popHigh : Nat → List Seg → List Seg → List Seg × List Seg
  | 0, l, got => (l, got)
  | n + 1, l, got =>
    match l.filter fun g => decide (g.lo < g.hi) with
    | [] => (l, got)
    | g :: t =>
      let b := t.foldl (fun b x => if groupAt b.owner (b.hi - 1) < groupAt x.owner (x.hi - 1) then x else b) g
      popHigh n ((l.map fun x => if x = b then { x with hi := x.hi - 1 } else x).filter fun x => decide (x.lo < x.hi))
        (pushSeg b.owner (b.hi - 1) got)

/-! ## Room on a core (R126, R129, R239) -/

/-- Slices of a warp with a lane not exited. -/
def Warp.slices (w : Warp) : Nat :=
  ((List.range 16).filter fun i => (List.range 4).any fun j => (w.lane (4 * i + j)).stat != .exited).length

def State.groupWarps (s : State) (gid : Nat) : List Warp := s.warps.filter fun w => w.group == gid

def State.coreGroups (s : State) (core : Nat) : List Group := s.groups.filter fun g => g.onCore && g.coreId == core

def State.groupSlices (s : State) (gid : Nat) : Nat := ((s.groupWarps gid).map Warp.slices).sum

/-- Free slice-rows of a core. -/
def State.freeRows (s : State) (core : Nat) : Nat :=
  Config.sliceRows - ((s.coreGroups core).map fun g => g.allot * s.groupSlices g.id).sum

/-- Deficits of a core's groups (R129). -/
def State.deficits (s : State) (core : Nat) : Nat :=
  ((s.coreGroups core).map fun g => if g.acquired then 0 else (g.desc.full - g.desc.prolog) * s.groupSlices g.id).sum

/-- Spans of a quad's store that no allocation may meet: those of the groups there, and of ended groups whose commands or
entries have not completed (R127, R278). -/
def State.quadSpans (s : State) (quad : Nat) : List (Nat × Nat) :=
  (s.quadUsers quad).map fun g => (g.lbase, g.desc.lbytes)

/-- The lowest free span of n bytes, aligned to 256, or to 16 KiB when n is a multiple of it (R239, R286). -/
def freeSpan (spans : List (Nat × Nat)) (n : Nat) : Option Nat :=
  if n = 0 then some 0
  else
    let al := if n % Config.macroBytes = 0 then Config.macroBytes else 256
    let starts := 0 :: spans.map fun x => (x.1 + x.2 + al - 1) / al * al
    match starts.filter fun a =>
        decide (a + n ≤ Config.lanternBytes) && spans.all fun x => decide (a + n ≤ x.1) || decide (x.1 + x.2 ≤ a) with
    | [] => none
    | a :: t => some (t.foldl min a)

/-- What a group needs of a core. -/
structure Need where
  warps : Nat
  rows : Nat
  deficit : Nat
  lbytes : Nat
  tiles : Nat
  cv : Nat
  mbound : Bool
  deriving DecidableEq, Repr

/-- R239's conditions on a core: the Lantern base and the tiles the group would take. -/
def State.fits (s : State) (die core : Nat) (n : Need) : Option (Nat × List Nat) :=
  let c := die * Config.coresPerDie + core
  let quad := die * Config.quadsPerDie + core / 4
  let users := (s.quadUsers quad).filter Group.onCore
  let free := (List.range 8).filter fun t => !users.any fun g => g.tiles.contains t
  let warps := ((s.coreGroups c).map fun g => (s.groupWarps g.id).length).sum
  if warps + n.warps ≤ Config.warpSlots ∧ n.rows + s.deficits c + n.deficit ≤ s.freeRows c ∧ n.tiles ≤ free.length ∧
      (users.map fun g => g.desc.cvcount).sum + n.cv ≤ 64 ∧
      (n.tiles = 0 ∨ (users.filter fun g => decide (1 ≤ g.desc.tiles)).length < 8) ∧
      ¬ (n.mbound ∧ (s.die die).congested.contains (regionOf core)) then
    (freeSpan (s.quadSpans quad) n.lbytes).map fun a => (a, free.take n.tiles)
  else none

/-- The core among some with the most free slice-rows that a group fits, ties to the lowest number (R239). -/
def State.bestCore (s : State) (die : Nat) (cores : List Nat) (n : Need) : Option (Nat × Nat × List Nat) :=
  (cores.foldl (fun (b : Option (Nat × Nat × Nat × List Nat)) core =>
    match s.fits die core n with
    | none => b
    | some (a, ts) =>
      let r := s.freeRows (die * Config.coresPerDie + core)
      match b with
      | some (r', _) => if r' < r then some (r, core, a, ts) else b
      | none => some (r, core, a, ts)) none).map fun x => (x.2.1, x.2.2.1, x.2.2.2)

def allCores : List Nat := List.range Config.coresPerDie

/-! ## The start of a group (R114, R233, R239, R240, R380, R388) -/

/-- Zeros a span of a store and clears its poison bits. -/
def QuadU.lzero (q : QuadU) (a n : Nat) : QuadU :=
  { q with
    lantern := q.lantern.filter fun c => decide (c.1 < a) || decide (a + n ≤ c.1)
    lpoison := q.lpoison.filter fun l => decide (64 * l < a) || decide (a + n ≤ 64 * l) }

/-- Range of iterations of a persistent launch's group (R240). -/
def iterRange (l : Launch) (g : Nat) : Nat × Nat := (g * l.iters / l.groups, (g + 1) * l.iters / l.groups)

/-- Marks of the first and last tile of a range (R240). -/
def iterMarks (l : Launch) (r : Nat × Nat) : Nat :=
  if r.1 = r.2 then 0
  else (if r.1 % l.itile ≠ 0 then 1 else 0) + (if r.2 % l.itile ≠ 0 ∧ r.2 < l.iters then 2 else 0)

/-- Uniform registers of a launched warp. -/
def launchRegs (l : Launch) (g : Nat) : Tab Word :=
  let t := (List.range 32).foldl (fun t i => if l.sload.getLsbD i then tabSet 0 t i ((l.svals[i]?).getD 0) else t) []
  let t :=
    if l.lflags % 2 = 1 then
      let r := iterRange l g
      let put64 (t : Tab Word) (i x : Nat) : Tab Word :=
        tabSet 0 (tabSet 0 t i (BitVec.ofNat 32 x)) (i + 1) (BitVec.ofNat 32 (x / 2 ^ 32))
      tabSet 0 (put64 (put64 t 24 r.1) 26 r.2) 28 (BitVec.ofNat 32 (iterMarks l r))
    else t
  if l.batch.isEmpty then t else tabSet 0 t 23 (BitVec.ofNat 32 l.batch.length)

/-- A lane right after launch (R114). -/
def launchLane (l : Launch) (i : Nat) : Lane :=
  { pc := l.desc.entry, v := if l.lflags / 4 % 2 = 1 then tabSet 0 [] 0 (BitVec.ofNat 32 i) else [] }

/-- The 48 bytes of a record (R385). -/
def Rec.bytes (r : Rec) : List Byte :=
  leBytes r.lumens 8 ++ leBytes r.vigil 4 ++ leBytes r.payload.length 4 ++
    (List.range 8).flatMap fun i => leBytes ((r.payload[i]?).getD 0).toNat 4

/-- Slot l0 at launch: a VSPAWN share or a batch's sum (R378). -/
def launchSlots (l : Launch) (g : Nat) : List LSlot :=
  let l0 : LSlot :=
    match l.spawn with
    | some (v, c) => { vigil := v, balance := c / l.groups + (if g < c % l.groups then 1 else 0) }
    | none =>
      match l.batch with
      | [] => {}
      | r :: _ => { vigil := r.vigil, balance := (l.batch.map Rec.lumens).sum }
  l0 :: List.replicate 3 {}

/-- Takes the n lowest free warp slots of a core. -/
def State.freeSlots (s : State) (core n : Nat) : List Nat :=
  let used := (s.coreGroups core).flatMap fun g => (s.groupWarps g.id).map Warp.slot
  ((List.range Config.warpSlots).filter fun i => !used.contains i).take n

/-- Starts group g of a launch on a core. -/
def State.startGroup (s : State) (l : Launch) (g die core lbase : Nat) (tiles : List Nat) : State :=
  let quad := die * Config.quadsPerDie + core / 4
  let slots := s.freeSlots (die * Config.coresPerDie + core) l.desc.warps
  let (id, s) := s.fresh
  let warps := (List.range l.desc.warps).map fun i =>
    ({ id := s.nextId + i, group := id, num := i, slot := (slots[i]?).getD 0, lanes := (List.range 64).map (launchLane l)
       s := launchRegs l g, prio := l.prio, dbg := debugLoad l.dbg (BitVec.ofNat 64 g) i } : Warp)
  let grp : Group :=
    { id, launch := l.id, index := BitVec.ofNat 64 g, ctx := l.ctx, desc := l.desc, die, core, quad, lbase
      bars := List.replicate l.desc.gbars { exp := BitVec.ofNat 32 l.desc.warps }
      conv := List.replicate l.desc.cvcount { expect := BitVec.ofNat 16 (2 ^ l.desc.warps - 1) }
      tiles, slots := launchSlots l g, prio := l.prio, rel := l.rel }
  let recs := l.batch.flatMap Rec.bytes
  let s := s.updQuad quad fun q => (q.lzero lbase l.desc.lbytes).lwrite lbase recs
  let s := { s with nextId := s.nextId + l.desc.warps, warps := s.warps ++ warps, groups := s.groups ++ [grp] }
  if l.acq ∨ ¬ l.batch.isEmpty then s.dropL1 grp.coreId else s

/-! ## Admission (R236, R238, R239) -/

def Launch.need (l : Launch) : Need :=
  { warps := l.desc.warps, rows := 16 * l.desc.warps * l.desc.prolog
    deficit := 16 * l.desc.warps * (l.desc.full - l.desc.prolog), lbytes := l.desc.lbytes, tiles := l.desc.tiles
    cv := l.desc.cvcount, mbound := l.lflags / 8 % 2 == 1 }

/-- Places one group of a launch on the best of some cores. -/
def State.place (s : State) (l : Launch) (die : Nat) (cores : List Nat) (g : Nat) : Option State :=
  (s.bestCore die cores l.need).map fun x => s.startGroup l g die x.1 x.2.1 x.2.2

def State.placeAll : List Nat → State → Launch → Nat → List Nat → Option State
  | [], s, _, _, _ => some s
  | g :: t, s, l, die, cores =>
    match s.place l die cores g with
    | some s => State.placeAll t s l die cores
    | none => none

def quadCores (q : Nat) : List Nat := (List.range 4).map (4 * q + ·)

/-- Places the groups of one quad barrier in one quad: the quad with the best core among those that hold them all. -/
def State.placeSet (s : State) (l : Launch) (die : Nat) (gs : List Nat) : Option State :=
  ((List.range Config.quadsPerDie).foldl (fun (b : Option (Nat × State)) q =>
    match s.bestCore die (quadCores q) l.need, State.placeAll gs s l die (quadCores q) with
    | some x, some s' =>
      let r := s.freeRows (die * Config.coresPerDie + x.1)
      match b with
      | some (r', _) => if r' < r then some (r, s') else b
      | none => some (r, s')
    | _, _ => b) none).map (·.2)

/-- Splits groups into the sets of one quad barrier each. -/
def quadSets (l : Launch) (gs : List Nat) : List (List Nat) :=
  (gs.map (· / l.qspan)).eraseDups.map fun k => gs.filter fun g => g / l.qspan == k

def State.placeSets : List (List Nat) → State → Launch → Nat → Option State
  | [], s, _, _ => some s
  | x :: t, s, l, die =>
    match s.placeSet l die x with
    | some s => State.placeSets t s l die
    | none => none

def setRem (l : Launch) (die : Nat) (r : List Seg) : Launch := { l with rem := listSet l.rem die r }

/-- A launch is a cohort. -/
def Launch.cohort (l : Launch) : Bool := l.lflags / 2 % 2 == 1

/-- Dies that hold groups of a launch still to be issued. -/
def Launch.owners (l : Launch) : List Nat := (List.range 4).filter fun d => decide (0 < l.left d)

/-- Places a cohort's groups of some dies, all of each; none when one does not fit. -/
def State.placeCohort (l : Launch) : List Nat → State → Option State
  | [], s => some s
  | d :: t, s =>
    let gs := ((l.rem[d]?).getD []).flatMap fun x => (List.range x.count).map fun i => groupAt x.owner (x.lo + i)
    let r := if l.qspan = 0 then State.placeAll gs s l d allCores else State.placeSets (quadSets l gs) s l d
    match r with
    | some s => State.placeCohort l t (s.updLaunch l.id fun l => setRem l d [])
    | none => none

/-- Admits the next group of a launch to a die, or a cohort, whose groups are all resident at once: on every die together, once
every distributor with groups of it knows it (R238; log 12). None when they do not fit. -/
def State.tryLaunch (s : State) (die : Nat) (l : Launch) : Option State :=
  let rem := (l.rem[die]?).getD []
  if l.cohort then
    if l.owners.all fun d => (l.known[d]?).getD false then State.placeCohort l l.owners s else none
  else
    match popLow rem with
    | none => none
    | some (g, rest) => (s.place l die allCores g).map fun s => s.updLaunch l.id fun l => setRem l die rest

/-- What a saved group needs (R226, R239). -/
def State.savedNeed (s : State) (g : Group) : Need :=
  let n := s.groupSlices g.id
  { warps := (s.groupWarps g.id).length, rows := g.allot * n
    deficit := if g.acquired then 0 else (g.desc.full - g.desc.prolog) * n, lbytes := g.desc.lbytes
    tiles := g.desc.tiles, cv := g.desc.cvcount
    mbound := match s.launch g.launch with | some l => l.lflags / 8 % 2 == 1 | none => false }

/-- What a distributor could admit next. -/
inductive AdmitItem where
  | saved (g : Group)
  | fresh (l : Launch)

def AdmitItem.name : AdmitItem → Nat
  | .saved g => g.id
  | .fresh l => l.id

/-- The order of preference of a die's distributor (R236): by priority, restores before launches, launches by
acceptance. -/
def State.admitOrder (s : State) (die : Nat) : List AdmitItem :=
  (List.range 8).reverse.flatMap fun p =>
    ((s.groups.filter fun g => g.stat == .saved && g.prio == p).map AdmitItem.saved) ++
      (s.launches.filter fun l => l.prio == p && (l.known[die]?).getD false && decide (0 < l.left die)).map AdmitItem.fresh

def State.itemFits (s : State) (die : Nat) : AdmitItem → Bool
  | .saved g => (s.bestCore die allCores (s.savedNeed g)).isSome
  | .fresh l => (s.tryLaunch die l).isSome

/-- The items of an order up to and with the first that has starved. -/
def upToStarved (starved : List Nat) : List AdmitItem → List AdmitItem
  | [] => []
  | x :: t => if starved.contains x.name then [x] else x :: upToStarved starved t

/-- The items a distributor may admit now: none that stands after one that has starved (R236); none during a checkpoint
(R441). -/
def State.admissible (s : State) (die : Nat) : List AdmitItem :=
  if s.pkg.checkpointing then [] else upToStarved (s.die die).starved (s.admitOrder die)

/-- Notes since when the first of the order has waited without fitting: a wait ends when another item stands first, and starts
anew when it stands first again (the spec does not say; log 12). -/
def State.noteWait (s : State) (die : Nat) : State :=
  match s.admitOrder die with
  | [] => s.updDie die fun u => { u with waiting := none }
  | x :: _ =>
    if s.itemFits die x then s.updDie die fun u => { u with waiting := none }
    else
      s.updDie die fun u =>
        match u.waiting with
        | some (n, _) => if n = x.name then u else { u with waiting := some (x.name, u.clk) }
        | none => { u with waiting := some (x.name, u.clk) }

/-- The first of the order bars those after it once it has waited 1,048,576 clk (R236). -/
def State.starve (s : State) (die : Nat) : State :=
  s.updDie die fun u =>
    match u.waiting with
    | some (n, t) => if t + 1048576 ≤ u.clk ∧ ¬ u.starved.contains n then { u with starved := u.starved ++ [n] } else u
    | none => u

/-- A group has been admitted: on some dies what has its name bars no longer (R236). -/
def State.admitted (s : State) (dies : List Nat) (name : Nat) : State :=
  dies.foldl (fun s d => s.updDie d fun u => { u with starved := u.starved.filter (· != name) }) s

/-- The first item that a distributor could admit is a given launch. -/
def State.turnOf (s : State) (l : Launch) (die : Nat) : Bool :=
  match (s.admissible die).find? fun x => s.itemFits die x with
  | some (.fresh x) => x.id == l.id
  | _ => false

/-- R236, R239: a distributor admits the first group of its order that fits, when that is a new one; a cohort when it stands so
at every die that has groups of it (R238). -/
def execGroupAdmit (die : Nat) (s : State) : Host.Outcome State Fault Refusal :=
  let s := (s.noteWait die).starve die
  match (s.admissible die).find? fun x => s.itemFits die x with
  | some (.fresh l) =>
    if l.cohort && !l.owners.all (s.turnOf l) then .next s
    else
      match s.tryLaunch die l with
      | some s' => .next (s'.admitted (if l.cohort then l.owners else [die]) l.id)
      | none => .next s
  | _ => .next s

/-- R236: the first of the order has waited 1,048,576 clk. -/
def execAdmissionStarvation (die : Nat) (s : State) : Host.Outcome State Fault Refusal := .next (s.starve die)

/-! ## Stealing (R237) -/

/-- A remainder as a thief knows it: launch, victim, groups. -/
def stealBetter (s : State) (x y : Nat × Nat × Nat) : Bool :=
  let p (n : Nat) : Nat := match s.launch n with | some l => l.prio | none => 0
  if p x.1 ≠ p y.1 then decide (p y.1 < p x.1)
  else if x.2.2 ≠ y.2.2 then decide (y.2.2 < x.2.2)
  else if x.2.1 ≠ y.2.1 then decide (x.2.1 < y.2.1)
  else decide (x.1 < y.1)

/-- The launch and victim that a dry distributor chooses. A victim that it may not ask is left out before the highest priority and
the largest remainder are sought: the spec does not say which comes first (log 12). -/
def State.stealPick (s : State) (thief : Nat) : Option (Nat × Nat × Nat) :=
  let u := s.die thief
  match u.reports.filter fun x =>
      x.2.1 != thief && decide (0 < x.2.2) && !u.noAsk.contains x.2.1 &&
        (match s.launch x.1 with | some l => !l.cohort && (l.known[thief]?).getD false | none => false) with
  | [] => none
  | x :: t => some (t.foldl (fun b y => if stealBetter s y b then y else b) x)

/-- R237: a dry distributor's request reaches its victim, which grants half of its remainder. -/
def execStealRequest (thief : Nat) (s : State) : Host.Outcome State Fault Refusal :=
  let dry := s.launches.all fun l => l.left thief == 0
  if ¬ dry ∨ ¬ (s.die thief).stolen.isEmpty then .next s
  else
    match s.stealPick thief with
    | none => .next s
    | some (n, victim, _) =>
      match s.launch n with
      | none => .next s
      | some l =>
        let r := l.left victim
        if r < 2 then .next (s.updDie thief fun u => { u with noAsk := u.noAsk ++ [victim] })
        else
          let x := popHigh (r / 2) ((l.rem[victim]?).getD []) []
          .next ((s.updLaunch n fun l => setRem l victim x.1).updDie thief fun u =>
            { u with stolen := u.stolen ++ [(n, x.2)] })

/-- R237: a reply reaches the thief. -/
def execStealReply (thief : Nat) (s : State) : Host.Outcome State Fault Refusal :=
  match (s.die thief).stolen with
  | [] => .next s
  | (n, segs) :: rest =>
    .next ((s.updDie thief fun u => { u with stolen := rest }).updLaunch n fun l =>
      setRem l thief ((l.rem[thief]?).getD [] ++ segs))

/-- R237: a distributor reports its remainders to the others. -/
def execRemainderReport (die : Nat) (s : State) : Host.Outcome State Fault Refusal :=
  let mine := (s.launches.filter fun l => (l.known[die]?).getD false).map fun l => (l.id, die, l.left die)
  .next { s with dieU := mapFrom (fun i u =>
    if i = die then u else { u with reports := (u.reports.filter fun x => x.2.1 != die) ++ mine }) 0 s.dieU }

/-! ## Congestion (R242) -/

/-- R242: every 256 clk a distributor reads its die's router counters, which hold one count per class (R26); a region is
congested from a mean request count at the threshold on. A sample before it is due reads nothing. -/
def execCongestionSample (die : Nat) (request : List Nat) (others : List (Nat × Nat)) (s : State) :
    Host.Outcome State Fault Refusal :=
  let sum (r : Nat) : Nat := ((List.range 64).map fun t => if t / 8 / 4 * 2 + t % 8 / 4 = r then (request[t]?).getD 0 else 0).sum
  .next (s.updDie die fun u =>
    if u.clk < u.congDue then u
    else
      { u with congReq := request, congRep := others.map Prod.fst, congCtl := others.map Prod.snd, congDue := u.clk / 256 * 256 + 256
               congested := (List.range 4).filter fun r => decide (16 * u.congThresh ≤ sum r) })

end Sys2Proof.Machine
end

