-- ==== Sys2Proof/Machine/Orrery.lean ====
section
/-! DEFINITION. The Orrery's records, their checks, and the arithmetic of a step (19_orrery_model.md R324–R337, R340–R346,
16_lantern.md R299). FP64 values are their codes. -/

namespace Sys2Proof.Machine

/-! ## FP64 comparisons and the power function (R336) -/

def fpLt (a b : Nat) : Bool := fcond 1 (dec .f64 a) (dec .f64 b)
def fpLe (a b : Nat) : Bool := fcond 2 (dec .f64 a) (dec .f64 b)
def fpEq (a b : Nat) : Bool := fcond 0 (dec .f64 a) (dec .f64 b)
def fpNaN (a : Nat) : Bool := isNaN (dec .f64 a)
def fpFinite (a : Nat) : Bool := a / 2 ^ 52 % 2048 != 2047
def fpZero (a : Nat) : Bool := a % 2 ^ 63 == 0
def fpMin (a b : Nat) : Nat := if fpLt b a then b else a
def fpMax (a b : Nat) : Nat := if fpLt a b then b else a
def fpOne : Nat := 0x3FF0000000000000

/-- The natural number that an FP64 code is. -/
def fpNat (x : Nat) : Option Nat :=
  match dec .f64 x with
  | .fin false m e =>
    if 0 ≤ e then some (m * 2 ^ e.toNat)
    else if m % 2 ^ (-e).toNat = 0 then some (m / 2 ^ (-e).toNat)
    else none
  | _ => none

def natFp (n : Nat) : Nat := fres .f64 (.fin false n 0)

/-- A magnitude with an odd significand. -/
def oddPart : Nat → Nat → Int → Nat × Int
  | 0, m, e => (m, e)
  | n + 1, m, e => if m % 2 = 0 ∧ m ≠ 0 then oddPart n (m / 2) (e + 1) else (m, e)

/-- The 2^j-th root of m · 2^e, when it is exact. -/
def exactRoot : Nat → Nat → Int → Option (Nat × Int)
  | 0, m, e => some (m, e)
  | j + 1, m, e =>
    let r := isqrt m
    if r * r = m ∧ e % 2 = 0 then exactRoot j r (e / 2) else none

/-- x^y for x = m · 2^e > 0 and y = ±n · 2^f ≠ 0, where the result is a dyadic number of few bits. -/
def exactPow (m : Nat) (e : Int) (neg : Bool) (n : Nat) (f : Int) : Option (Nat × Int) :=
  let (m, e) := oddPart 64 m e
  let (n, f) := oddPart 64 n f
  let base := if 0 ≤ f then some (m, e, n * 2 ^ f.toNat) else (exactRoot (-f).toNat m e).map fun r => (r.1, r.2, n)
  match base with
  | none => none
  | some (m, e, n) =>
    if m = 1 then some (1, if neg then -(e * n) else e * n)
    else if neg ∨ 64 < n then none
    else some (m ^ n, e * n)

/-- Pow of R336: the exact power of x > 0, rounded once (log 14). -/
def fpPow (x y : Nat) : Nat :=
  match dec .f64 x, dec .f64 y with
  | .nan .., _ => Kind.f64.fmt.canon
  | _, .nan .. => Kind.f64.fmt.canon
  | .inf _, .fin s n _ => if n = 0 then fpOne else if s then 0 else encInf Kind.f64.fmt false
  | .fin _ m e, .fin s n f =>
    if n = 0 then fpOne
    else if m = 0 then (if s then encInf Kind.f64.fmt false else 0)
    else
      match if -64 ≤ f ∧ f ≤ 64 then exactPow m e s n f else none with
      | some (r, q) => if q < -3000 then 0 else if 3000 < q then encInf Kind.f64.fmt false else roundNE Kind.f64.fmt false r q false
      | none =>
        let k := Nat.log2 m
        let one : Int := 2 ^ fixP
        let lg : Int := (e + k) * one + (lnFix fixP m (2 ^ k) * 2 ^ fixP / ln2Fix fixP : Nat)
        let p : Int := lg * n
        let v : Int := if 0 ≤ f then p * 2 ^ f.toNat else p / 2 ^ (-f).toNat
        let v : Int := if s then -v else v
        if v < -(1200 * one) then 0
        else if 1200 * one < v then encInf Kind.f64.fmt false
        else
          let x := exp2Fix fixP (v % one).toNat
          let q : Int := v / one - fixP
          let lo := roundNE Kind.f64.fmt false (x - 2 ^ 82) q true
          let hi := roundNE Kind.f64.fmt false (x + 2 ^ 82) q true
          if lo = hi then lo else roundNE Kind.f64.fmt false x q true
  | .fin _ _ _, .inf _ => Kind.f64.fmt.canon
  | .inf _, .inf _ => Kind.f64.fmt.canon

/-! ## The tableau record (R324, R325) -/

def tKind (t : List Byte) : Nat := recField t 4 1
def tStages (t : List Byte) : Nat := recField t 5 1
def tFsal (t : List Byte) : Bool := recField t 6 1 % 2 == 1
def tStage0 (t : List Byte) : Bool := recField t 6 1 / 2 % 2 == 1
def tDeg (t : List Byte) : Nat := recField t 7 1
def tCtrl (t : List Byte) : Nat := recField t 8 1
def tC (t : List Byte) (j : Nat) : Nat := recField t (0x40 + 8 * j) 8
def tB (t : List Byte) (j : Nat) : Nat := recField t (0xC0 + 8 * j) 8
def tBhat (t : List Byte) (j : Nat) : Nat := recField t (0x140 + 8 * j) 8
def tA (t : List Byte) (i j : Nat) : Nat := if j ≤ i then recField t (0x1C0 + 8 * (i * (i + 1) / 2 + j)) 8 else 0
def tAex (t : List Byte) (i j : Nat) : Nat := if j < i then recField t (0x600 + 8 * (i * (i - 1) / 2 + j)) 8 else 0
/-- d_j,k for k from 1. -/
def tDense (t : List Byte) (j k : Nat) : Nat := recField t (0x9C0 + 8 * (4 * j + k - 1)) 8
def tImplicit (t : List Byte) (i : Nat) : Bool := !fpZero (tA t i i)
def tImex (t : List Byte) : Bool := tKind t == 3

/-- Coefficients of stages below s. -/
def tCoefs (t : List Byte) : List Nat :=
  (List.range (tStages t)).flatMap fun i =>
    [tC t i, tB t i, tBhat t i] ++ ((List.range (i + 1)).map (tA t i)) ++ ((List.range i).map (tAex t i)) ++
      (List.range (tDeg t)).map fun k => tDense t i (k + 1)

/-- Reserved entries: of stages at or above s, and dense ones above deg. -/
def tReserved (t : List Byte) : List Nat :=
  ((List.range 16).flatMap fun i =>
    if i < tStages t then (List.range 4).filterMap fun k => if tDeg t ≤ k then some (tDense t i (k + 1)) else none
    else
      [tC t i, tB t i, tBhat t i] ++ ((List.range (i + 1)).map (tA t i)) ++ ((List.range i).map (tAex t i)) ++
        (List.range 4).map fun k => tDense t i (k + 1)) ++
    [recField t 6 1 / 4, recField t 9 7, recField t 0x38 8, recField t 0xBC0 1088]

/-- R325 for a LINREC tableau: nothing but version, kind, stages and ctrl. -/
def tLinOk (t : List Byte) : Bool :=
  tStages t == 1 && tCtrl t == 2 &&
    (mapFrom (fun i (b : Byte) => decide (i < 6) || i == 8 || b == 0) 0 t).all id

def tPiOk (t : List Byte) : Bool :=
  let b1 := recField t 0x10 8
  let b2 := recField t 0x18 8
  let sg := recField t 0x20 8
  let lo := recField t 0x28 8
  let hi := recField t 0x30 8
  [b1, b2, sg, lo, hi].all fpFinite && fpLt 0 b1 && fpLe 0 b2 && fpLt 0 sg && fpLe sg fpOne && fpLt 0 lo && fpLe lo fpOne &&
    fpLe fpOne hi

/-- R325: the tableau is accepted. -/
def tabOk (t : List Byte) : Bool :=
  let s := tStages t
  let st := List.range s
  recField t 0 4 == 1 && decide (tKind t ≤ 4) && decide (1 ≤ s) && decide (s ≤ 16) && decide (tDeg t ≤ 4) &&
    decide (tCtrl t ≤ 2) && (tReserved t).all (· == 0) && (tCoefs t).all fpFinite &&
    (tKind t != 0 || st.all fun i => fpZero (tA t i i)) &&
    (tImex t || st.all fun i => (List.range i).all fun j => fpZero (tAex t i j)) &&
    (tKind t != 2 ||
      ((st.all fun i => st.all fun j => !tImplicit t i || !tImplicit t j || fpEq (tA t i i) (tA t j j)) &&
        (tImplicit t 0 || tStage0 t))) &&
    (!tStage0 t || (fpZero (tC t 0) && fpZero (tA t 0 0))) &&
    (!tFsal t ||
      (tStage0 t && fpEq (tC t (s - 1)) fpOne && (st.all fun j => fpEq (tA t (s - 1) j) (tB t j)) &&
        (!tImex t || ((List.range (s - 1)).all fun j => fpEq (tAex t (s - 1) j) (tB t j)) && fpZero (tB t (s - 1))))) &&
    (tCtrl t != 0 || tPiOk t) && (tKind t != 4 || tLinOk t)

/-! ## The orbit record (R326, R327, R346) -/

def oTab (r : List Byte) : Dword := BitVec.ofNat 64 (recField r 0 8)
def oK (r : List Byte) : Dword := BitVec.ofNat 64 (recField r 0x10 8)
def oW (r : List Byte) : Dword := BitVec.ofNat 64 (recField r 0x18 8)
def oAtol (r : List Byte) : Nat := recField r 0x20 8
def oKind (r : List Byte) : Kind := if recField r 0x2C 1 = 0 then .f64 else .f32
def oAtolVec (r : List Byte) : Bool := recField r 0x2D 1 / 2 % 2 == 1
def oNested (r : List Byte) : Nat := recField r 0x2D 1 / 4 % 4
def oNev (r : List Byte) : Nat := recField r 0x2E 1
def oT0 (r : List Byte) : Nat := recField r 0x30 8
def oTend (r : List Byte) : Nat := recField r 0x38 8
def oH0 (r : List Byte) : Nat := recField r 0x40 8
def oHmin (r : List Byte) : Nat := recField r 0x48 8
def oHmax (r : List Byte) : Nat := recField r 0x50 8
def oRtol (r : List Byte) : Nat := recField r 0x58 8
def oKappa (r : List Byte) : Nat := recField r 0x60 8
def oMaxit (r : List Byte) : Nat := recField r 0x68 1
def oWset (r : List Byte) : Nat := recField r 0x6A 2
def oStride (r : List Byte) : Nat := recField r 0x6C 4
def oRhs (r : List Byte) : Nat := recField r 0x70 4
def oSolve (r : List Byte) : Nat := recField r 0x74 4
def oJvp (r : List Byte) : Nat := recField r 0x78 4
def oEvent (r : List Byte) : Nat := recField r 0x7C 4
def oSpec (r : List Byte) (k : Nat) : Nat := recField r (0x80 + 4 * k) 4
def oTol (r : List Byte) (k : Nat) : Nat := recField r (0x90 + 8 * k) 8
def noRoutine : Nat := 0xFFFFFFFF

/-- Bytes of a LINREC input element. -/
def oLinSize (r : List Byte) : Nat := if recField r 0x2F 1 = 0 then 2 else 1

/-- Limits and reserved bits common to every record. -/
def oLimits (r : List Byte) (lin : Bool) : Bool :=
  decide (1 ≤ oN r) && decide (oN r ≤ 2 ^ 28) && decide (recField r 0x2C 1 ≤ 1) && recField r 0x2D 1 / 16 == 0 &&
    decide (oNested r ≤ 2) && decide (oNev r ≤ 4) && (if lin then decide (recField r 0x2F 1 ≤ 4) else recField r 0x2F 1 == 0) &&
    recField r 0x69 1 == 0 && recField r 0xB6 2 == 0 && recField r 0xF8 8 == 0 && oStride r % 64 == 0 && decide (oN r * oSize r ≤ oStride r)

/-- The vector buffers that a record names. -/
def oBufs (r : List Byte) : List Dword :=
  [oY r, oK r, oW r] ++ (if oAtolVec r then [BitVec.ofNat 64 (oAtol r)] else [])

/-- A buffer of the context has right N, so it is bank-chunked (R245). -/
def State.bufN (s : State) (ctx : Nat) (r : Dword) : Bool :=
  match s.buf ctx (refBuf r) with
  | some e => e.ctx == ctx && e.rights.getLsbD 4 && e.ilv == 4
  | none => false

def oPlaceOk (s : State) (ctx : Nat) (r : List Byte) : Bool :=
  (oBufs r).all fun b => if oLantern r then (loWord b).toNat % 64 == 0 else s.bufN ctx b

/-- R346: a LINREC record. -/
def oLinOk (r : List Byte) : Bool :=
  (match fpNat (oTend r), fpNat (oH0 r) with
   | some T, some L => decide (1 ≤ T) && decide (T ≤ 2 ^ 40) && decide (1 ≤ L) && decide (L ≤ 2 ^ 20)
   | _, _ => false) &&
    recField r 0x2C 1 == 1 && decide (3 * oN r * oLinSize r ≤ oStride r) && oNev r == 0 && oNested r == 0 && oT0 r == 0 &&
    oHmin r == fpOne && fpEq (oHmax r) (oH0 r) && oRhs r != noRoutine && oSolve r == noRoutine && oJvp r == noRoutine &&
    oEvent r == noRoutine && !oAtolVec r

/-- R327 for a record of a stepped tableau. -/
def oStepOk (r t : List Byte) : Bool :=
  let imp := (List.range (tStages t)).any (tImplicit t)
  ([oT0 r, oTend r, oH0 r, oHmin r, oHmax r, oRtol r].all fpFinite) && (oAtolVec r || fpFinite (oAtol r)) &&
    fpLt (oT0 r) (oTend r) && fpLt 0 (oHmin r) && fpLe (oHmin r) (oH0 r) && fpLe (oH0 r) (oHmax r) && fpLe 0 (oRtol r) &&
    (oAtolVec r || (fpLe 0 (oAtol r) && !(fpZero (oRtol r) && fpZero (oAtol r)))) &&
    (!imp || (fpFinite (oKappa r) && fpLt 0 (oKappa r) && decide (1 ≤ oMaxit r) && decide (oMaxit r ≤ 64) &&
      (oNested r == 2 || (oNested r == 1 && oSolve r != noRoutine)))) &&
    oRhs r != noRoutine && (oNev r == 0 || (oEvent r != noRoutine && tDeg t != 0)) &&
    ((List.range (oNev r)).all fun k => oSpec r k / 8 == 0 && oSpec r k % 4 != 3 && fpLt 0 (oTol r k))

/-- R327: the orbit record is accepted. -/
def orbitOk (s : State) (ctx : Nat) (r t : List Byte) : Bool :=
  oLimits r (tKind t == 4) && oPlaceOk s ctx r && (if tKind t = 4 then oLinOk r else oStepOk r t)

/-- Extents of a record's buffers (R353). -/
def oExtents (r t : List Byte) : List (Dword × Nat) :=
  let st := oStride r
  let ne := oN r * oSize r
  let k := if tKind t = 4 then (fpNat (oTend r)).getD 0 * st else if tImex t then 2 * tStages t * st else tStages t * st
  let w := if tKind t = 4 then 12 * st else 6 * st + 96
  [(oY r, ne), (oK r, k), (oW r, w)] ++ if oAtolVec r then [(BitVec.ofNat 64 (oAtol r), ne)] else []

/-! ## Vectors in place (R329, R330) -/

/-- Name of a place: base and byte offset, a Lantern offset or a reference. -/
def oAt (r : List Byte) (base : Dword) (off : Nat) : Dword :=
  if oLantern r then BitVec.ofNat 64 ((loWord base).toNat + off) else refAdd base off

def Orbit.y (o : Orbit) : Dword := oAt o.record (oY o.record) 0
def Orbit.kv (o : Orbit) (j : Nat) : Dword := oAt o.record (oK o.record) (j * oStride o.record)
def Orbit.kiv (o : Orbit) (j : Nat) : Dword := o.kv (tStages o.tableau + j)
def Orbit.wv (o : Orbit) (m : Nat) : Dword := oAt o.record (oW o.record) (m * oStride o.record)
def Orbit.gv (o : Orbit) (off : Nat) : Dword := oAt o.record (oW o.record) (6 * oStride o.record + off)
def Orbit.handle (o : Orbit) (die : Nat) : Nat := die * 64 + o.num

/-- Group, quad and store address of a Lantern orbit's offset. -/
def Orbit.place (o : Orbit) (s : State) (a : Dword) : Option (Group × Nat) :=
  match o.bound with
  | none => none
  | some g => (s.group g).map fun g => (g, g.lbase + (loWord a).toNat)

/-- n bytes at a place as they stand, and whether poison is among them. -/
def State.oRaw (s : State) (o : Orbit) (a : Dword) (n : Nat) : List Byte × Bool :=
  if oLantern o.record then
    match o.place s a with
    | none => (List.replicate n 0, false)
    | some (g, x) =>
      let q := s.quad g.quad
      (q.lread x n, (List.range n).any fun i => q.lpoison.contains ((x + i) / 64))
  else
    let ps := (List.range n).map fun (i : Nat) => o.phys s (refAdd a i)
    (ps.map fun p => match p with | some p => s.mem.read p | none => 0,
      ps.any fun p => match p with | some p => s.lineBad (lineOf p) | none => false)

/-- Address of byte i of a place. -/
def Orbit.byte (o : Orbit) (a : Dword) (i : Nat) : Dword :=
  if oLantern o.record then BitVec.ofNat 64 ((loWord a).toNat + i) else refAdd a i

/-- Name of the aligned 8 bytes that hold an address: of a Lantern store, or of memory. -/
def Orbit.loc (o : Orbit) (s : State) (a : Dword) : Option Nat :=
  if oLantern o.record then (o.place s a).map fun x => 2 ^ 110 + x.1.quad * 2 ^ 18 + x.2 / 8
  else (o.phys s a).map (· / 8)

/-- n bytes at a place as the Orrery reads them, and whether poison is among them: of outputs answered without an acquire, what each
aligned 8 bytes held before the call or what the worker stored, by free choice (R362). -/
def State.oRead (s : State) (o : Orbit) (a : Dword) (n : Nat) : List Byte × Bool :=
  let r := s.oRaw o a n
  if s.loose.isEmpty then r
  else
    let seen (i : Nat) (b : Byte) : Byte :=
      let x := o.byte a i
      match o.loc s x with
      | none => b
      | some k => match tabFind s.loose k with
        | none => b
        | some v => ((if s.pick (2 ^ 120 + k) then v.1 else v.2)[x.toNat % 8]?).getD b
    (mapFrom seen 0 r.1, r.2)

/-- The uncorrectable errors of n bytes at a place are found by the Orrery's read of them (R259). -/
def State.oFind (s : State) (d : Nat) (o : Orbit) (a : Dword) (n : Nat) : State :=
  if oLantern o.record then s else s.engSaw d ((List.range n).filterMap fun (i : Nat) => o.phys s (refAdd a i))

/-- A write of n bytes at a place would enter a stationary macro. -/
def State.oStationary (s : State) (o : Orbit) (a : Dword) (n : Nat) : Bool :=
  if oLantern o.record then
    match o.place s a with
    | none => false
    | some (g, x) => (macrosOf x n).any (s.quad g.quad).marks.contains
  else false

/-- The Orrery writes bytes at a place. -/
def State.oWrite (s : State) (d : Nat) (o : Orbit) (a : Dword) (bs : List Byte) : State :=
  let ks := if s.loose.isEmpty then [] else (List.range bs.length).filterMap fun i => o.loc s (o.byte a i)
  let s := { s with loose := s.loose.filter fun e => !ks.contains e.1 }
  if oLantern o.record then
    match o.place s a with
    | none => s
    | some (g, x) => s.lanternWrite g.quad x bs
  else
    let ps := (List.range bs.length).filterMap fun (i : Nat) => o.phys s (refAdd a i)
    (s.writePoison ps).performCells d (ps.zip bs)

/-- The elements of a vector, and poison. -/
def State.oVec (s : State) (o : Orbit) (a : Dword) : List Nat × Bool :=
  let e := oSize o.record
  let r := s.oRead o a (oN o.record * e)
  ((List.range (oN o.record)).map fun i => recField r.1 (e * i) e, r.2)

/-- One FP64 value of G. -/
def State.oG (s : State) (o : Orbit) (off : Nat) : Nat := leNat (s.oRead o (o.gv off) 8).1

/-! ## Combinations (R299, R333) -/

/-- A vector's uncorrectable errors are found. -/
def State.oFindVec (s : State) (d : Nat) (o : Orbit) (a : Dword) : State := s.oFind d o a (oN o.record * oSize o.record)

/-- What a combination leaves, or why it cannot be made: the status code of R338's first two rows, and the errors it has found. -/
abbrev Combined := Except (Nat × State) State

/-- out := y, then a fused multiply-add for each term; the start is +0 in every element when none is named. -/
def State.combine (s : State) (d : Nat) (o : Orbit) (out : Dword) (start : Option Dword) (terms : List (Nat × Dword)) :
    Combined :=
  let k := oKind o.record
  let e := oSize o.record
  let terms := terms.filter fun x => x.1 != 0
  let s := (start.toList ++ terms.map (·.2)).foldl (fun s a => s.oFindVec d o a) s
  let src := match start with | some a => s.oVec o a | none => (List.replicate (oN o.record) 0, false)
  let vs := terms.map fun x => (x.1, s.oVec o x.2)
  if src.2 || vs.any fun v => v.2.2 then .error (0x01, s)
  else if s.oStationary o out (oN o.record * e) then .error (0x14, s)
  else
    let res := vs.foldl (fun acc v => List.zipWith (fun a x => ffma k v.1 x a) acc v.2.1) src.1
    .ok (s.oWrite d o out (res.flatMap fun x => leBytes x e))

/-- [h·a]: exact product, rounded once to the orbit precision (R332). -/
def Orbit.coef (o : Orbit) (h a : Nat) : Nat := fres (oKind o.record) (mulF (dec .f64 h) (dec .f64 a))

def Orbit.negCoef (o : Orbit) (h a : Nat) : Nat := fres (oKind o.record) (negF (mulF (dec .f64 h) (dec .f64 a)))

/-- A constant in the orbit precision. -/
def Orbit.const (o : Orbit) (s : Bool) : Nat := fres (oKind o.record) (.fin s 1 0)

/-- The pair of terms of stage j: K_j, or KE_j and KI_j with their coefficients. -/
def Orbit.pair (o : Orbit) (j ce ci : Nat) : List (Nat × Dword) :=
  if tImex o.tableau then [(ce, o.kv j), (ci, o.kiv j)] else [(ci, o.kv j)]

/-- Terms of Z_i. -/
def Orbit.zTerms (o : Orbit) (i : Nat) : List (Nat × Dword) :=
  (List.range i).flatMap fun j => o.pair j (o.coef o.hatt (tAex o.tableau i j)) (o.coef o.hatt (tA o.tableau i j))

/-- Terms of y_(n+1). -/
def Orbit.bTerms (o : Orbit) : List (Nat × Dword) :=
  (List.range (tStages o.tableau)).flatMap fun j =>
    let c := o.coef o.hatt (tB o.tableau j)
    o.pair j c c

/-- Terms of the error vector. -/
def Orbit.eTerms (o : Orbit) : List (Nat × Dword) :=
  (List.range (tStages o.tableau)).flatMap fun j =>
    let df := addF (dec .f64 (tB o.tableau j)) (negF (dec .f64 (tBhat o.tableau j)))
    let c := fres (oKind o.record) (mulF (dec .f64 o.hatt) df)
    o.pair j c c

/-- Dense weight of stage j at θ (R340). -/
def denseWeight (t : List Byte) (j theta : Nat) : Nat :=
  let D := tDeg t
  let b := ((List.range (D - 1)).reverse.map (· + 1)).foldl (fun b k => ffma .f64 b theta (tDense t j k)) (tDense t j D)
  fmul .f64 b theta

/-- Terms of dense output at τ in a step that starts at tp with step hw. -/
def Orbit.dTerms (o : Orbit) (tau tp hw : Nat) : List (Nat × Dword) :=
  let theta := fdivF .f64 (addF (dec .f64 tau) (negF (dec .f64 tp))) (dec .f64 hw)
  (List.range (tStages o.tableau)).flatMap fun j =>
    let c := o.coef hw (denseWeight o.tableau j theta)
    o.pair j c c

/-- dense(τ) of the attempt being committed, into a vector (R340): its ends come from y_n and W3. -/
def State.denseAttempt (s : State) (d : Nat) (o : Orbit) (tau : Nat) (out : Dword) : Combined :=
  if fpEq tau o.t then s.combine d o out (some o.y) []
  else if fpEq tau o.tend then s.combine d o out (some (o.wv 3)) []
  else s.combine d o out (some o.y) (o.dTerms tau o.t o.hatt)

/-- dense(τ) of the committed window. -/
def State.denseWindow (s : State) (d : Nat) (o : Orbit) (tau : Nat) (out : Dword) : Combined :=
  if fpEq tau o.tprev then s.combine d o out (some (o.wv 5)) []
  else if fpEq tau o.t then s.combine d o out (some o.y) []
  else s.combine d o out (some (o.wv 5)) (o.dTerms tau o.tprev o.hw)

/-! ## Norms (R335) -/

/-- Exact widening of an element to FP64. -/
def Orbit.widen (o : Orbit) (x : Nat) : Nat := fres .f64 (dec (oKind o.record) x)

/-- Bank of element i of a vector. -/
def State.oBank (s : State) (o : Orbit) (a : Dword) (i : Nat) : Nat :=
  if oLantern o.record then
    match o.place s a with
    | some (_, x) => (x + oSize o.record * i) / 4 % 64
    | none => 0
  else
    match o.phys s (refAdd a (oSize o.record * i : Nat)) with
    | some p => bankOf p
    | none => 0

def fpAbs (x : Nat) : Nat := x % 2 ^ 63

/-- max that is NaN when either operand is. -/
def fpMaxN (a b : Nat) : Nat := if fpNaN a || fpNaN b then Kind.f64.fmt.canon else fpMax a b

/-- Inserts a number into a rising list without repeats. -/
def insertUp (n : Nat) : List Nat → List Nat
  | [] => [n]
  | x :: t => if n < x then n :: x :: t else if n = x then x :: t else x :: insertUp n t

/-- The reads of a norm find their uncorrectable errors. -/
def State.wrmsFind (s : State) (d : Nat) (o : Orbit) (v u w : Dword) : State :=
  ([v, u, w] ++ if oAtolVec o.record then [oAt o.record (BitVec.ofNat 64 (oAtol o.record)) 0] else []).foldl
    (fun s a => s.oFindVec d o a) s

/-- WRMS(v, u, w), or the code that poison gives. -/
def State.wrms (s : State) (o : Orbit) (v u w : Dword) : Except Nat Nat :=
  let a := s.oVec o v
  let b := s.oVec o u
  let c := s.oVec o w
  let at' := if oAtolVec o.record then s.oVec o (oAt o.record (BitVec.ofNat 64 (oAtol o.record)) 0) else ([], false)
  if a.2 || b.2 || c.2 || at'.2 then .error 0x01
  else
    let n := oN o.record
    let get (l : List Nat) (i : Nat) : Nat := o.widen (l.getD i 0)
    let q (i : Nat) : Nat :=
      let tol := if oAtolVec o.record then get at'.1 i else oAtol o.record
      let den := ffma .f64 (oRtol o.record) (fpMaxN (fpAbs (get b.1 i)) (fpAbs (get c.1 i))) tol
      if fpZero (get a.1 i) then 0 else fdiv .f64 (get a.1 i) den
    let es := (List.range n).map fun i => (s.oBank o v i, q i)
    let banks := es.foldl (fun l e => insertUp e.1 l) []
    let sum := banks.foldl (fun acc b =>
      fadd .f64 acc ((es.filter fun e => e.1 == b).foldl (fun acc e => ffma .f64 e.2 e.2 acc) 0)) 0
    .ok (fsqrt .f64 (fdiv .f64 sum (natFp n)))

/-! ## Controllers (R336, R337) -/

/-- The PI controller's factor before clipping. -/
def piFac (t : List Byte) (err errprev : Nat) : Nat :=
  let neg (x : Nat) : Nat := Nat.xor x (2 ^ 63)
  if fpZero err then recField t 0x30 8
  else
    fmul .f64 (fmul .f64 (recField t 0x20 8) (fpPow err (neg (recField t 0x10 8)))) (fpPow errprev (recField t 0x18 8))

def fpHalf (h : Nat) : Nat := fres .f64 (mulF (dec .f64 h) (.fin false 1 (-1)))
def fpQuarter (h : Nat) : Nat := fres .f64 (mulF (dec .f64 h) (.fin false 1 (-2)))

/-- h after an acceptance. -/
def acceptH (o : Orbit) : Nat :=
  let t := o.tableau
  let h :=
    match tCtrl t with
    | 0 => fmul .f64 o.hatt (fpMin (fpMax (piFac t o.err o.errprev) (recField t 0x28 8)) (recField t 0x30 8))
    | 1 => if fpLe o.err 0x3FD0000000000000 then fres .f64 (mulF (dec .f64 o.hatt) (.fin false 1 1)) else o.hatt
    | _ => o.hatt
  fpMin (fpMax h (oHmin o.record)) (oHmax o.record)

/-- h after a rejection. -/
def rejectH (o : Orbit) (failure : Bool) : Nat :=
  let t := o.tableau
  let h :=
    if failure then fpQuarter o.hatt
    else if tCtrl t = 0 then
      fmul .f64 o.hatt (fpMin (fpMax (piFac t o.err o.errprev) (recField t 0x28 8)) fpOne)
    else fpHalf o.hatt
  fpMin h (oHmax o.record)

end Sys2Proof.Machine
end

