-- ==== Sys2Proof/Machine/Orbit.lean ====
section
/-! DEFINITION. The Orrery's step machine (19_orrery_model.md R338–R347) and its calls (20_orrery_isa.md R359–R364). One
transition of an orbit is one event; a combination is made whole in the transition that it belongs to. -/

namespace Sys2Proof.Machine

/-! ## The orbit in its die -/

def State.orbit (s : State) (d n : Nat) : Option Orbit := lookupBy Orbit.num (s.die d).orbits n

def State.putOrbit (s : State) (d : Nat) (o : Orbit) : State :=
  s.updDie d fun u => { u with orbits := updateBy Orbit.num o.num (fun _ => o) u.orbits }

def State.delOrbit (s : State) (d n : Nat) : State :=
  s.updDie d fun u => { u with orbits := removeBy Orbit.num n u.orbits }

/-- The orbit status word (R328). -/
def Orbit.word (o : Orbit) : Word := statusWord o.status o.naccept

def Orbit.running (o : Orbit) : Bool := o.mstate != 0 && o.mstate != 12

/-- A Lantern orbit whose binding group is being saved or is saved is paused (R366). -/
def State.orbitPaused (s : State) (o : Orbit) : Bool :=
  s.pkg.checkpointing ||
    (oLantern o.record &&
      match o.bound with
      | some g => (match s.group g with | some g => g.stat == .saving || g.stat == .saved | none => false)
      | none => false)

/-- Bytes +0xB0 to +0xFF of the orbit record (R326). -/
def Orbit.written (o : Orbit) : List Byte :=
  leBytes o.word.toNat 4 ++ leBytes o.mstate 1 ++ leBytes o.evhit 1 ++ leBytes 0 2 ++ leBytes o.naccept 4 ++
    leBytes o.nreject 4 ++ leBytes o.nrhs 4 ++ leBytes o.nsolve 4 ++ leBytes o.t 8 ++ leBytes o.h 8 ++ leBytes o.tprev 8 ++
    leBytes o.errprev 8 ++ leBytes o.te 8 ++ leBytes o.nevent 4 ++ leBytes o.nnfail 4 ++ leBytes 0 8

/-- The Orrery writes its part of the record, after a release of scope pkg (R331, R354), and then the status words of some
commands; while the record's page is absent all of it is held (R253). -/
def State.writeOrbit (s : State) (d : Nat) (o : Orbit) (tells : List (Nat × Option Nat × Word)) : State :=
  s.engWriteThen d o.ctx (refAdd o.ref 0xB0) o.written (some 3) tells

/-- A write of an orbit's record is held. -/
def State.recordHeld (s : State) (o : Orbit) : Bool :=
  s.heldWrites.any fun h => h.ctx == o.ctx && h.ref == refAdd o.ref 0xB0

/-- The gangs that wait in OWAIT for an orbit whose run has ended take its status word (R357). They go on at once, or poll the
orbit while the write of its record is held. -/
def State.tellWaits (s : State) (d : Nat) (o : Orbit) (freed : Bool) : State :=
  if s.recordHeld o && !freed then s
  else
    let mine (g : Gang) : Bool := ((s.warp g.warp).bind fun w => (s.group w.group).map Group.ctx) == some o.ctx
    { s with gangs := s.gangs.map fun (g : Gang) =>
        match g.wait with
        | .owait x h => if h = o.handle d && mine g then { g with wait := .result x o.word } else g
        | _ => g }

/-- A counter that saturates at 2^32 − 1. -/
def satInc (n : Nat) : Nat := min (n + 1) (2 ^ 32 - 1)

/-- The allocation of an ended group goes when no orbit holds it any more (R278, R289). -/
def State.settleBound (s : State) (o : Orbit) : State :=
  match o.bound.bind s.group with
  | some g => s.settleMarks g.quad
  | none => s

/-- The machine enters idle or halted with a status code: the record is written, and the commands that wait for it complete
with the orbit status word (R338, R354, R355). -/
def State.endRun (s : State) (d : Nat) (o : Orbit) (code mst : Nat) : State :=
  let o1 := { o with status := code, mstate := mst, calls := [], stopping := false, freeing := false, runner := [],
                     stops := [], failed := false, evPhase := 0, window := if code = 0x13 then false else o.window,
                     ywrote := false }
  let s := s.writeOrbit d o1 ((o.runner ++ o.stops).map fun x => (x.1, x.2, o1.word))
  let s := s.tellWaits d o1 o.freeing
  if o.freeing then (s.delOrbit d o.num).settleBound o else s.putOrbit d o1

/-- Halts an orbit. -/
def State.haltOrbit (s : State) (d : Nat) (o : Orbit) (code : Nat) : State := s.endRun d o code 12

/-- Goes on from a combination, or halts with its code. A stalled orbit makes no combination: it waits for its list (R368). -/
def State.afterComb (s : State) (d : Nat) (o : Orbit) (r : Combined) (f : State → State) : State :=
  if o.stalled then s
  else
    match r with
    | .ok s => f s
    | .error (code, s) => s.haltOrbit d o code

/-! ## Calls (R361) -/

def lo32 (x : Nat) : Word := BitVec.ofNat 32 x
def hi32 (x : Nat) : Word := BitVec.ofNat 32 (x / 2 ^ 32)

/-- A call's descriptor words, the token's left 0. -/
def Orbit.desc (o : Orbit) (die kind sub aux entry jvp time x6 : Nat) (inp out sec : Dword) : List Word :=
  [lo32 (kind + sub % 16 * 256 + o.handle die * 65536 + aux % 256 * 2 ^ 24), lo32 entry, 0, lo32 jvp, lo32 time, hi32 time,
    lo32 x6, hi32 x6, loWord inp, hiWord inp, loWord out, hiWord out, loWord sec, hiWord sec, lo32 (oN o.record),
    lo32 (oStride o.record)]

/-- Stage time t_i (R332). -/
def Orbit.stageTime (o : Orbit) (i : Nat) : Nat := ffma .f64 (tC o.tableau i) o.hatt o.t

/-- A call becomes ready. -/
def State.readyCall (s : State) (d : Nat) (o : Orbit) (kind chunk : Nat) (desc : List Word) : State :=
  let (id, s) := s.fresh
  s.putOrbit d { o with calls := o.calls ++ [{ id, kind, desc, chunk }] }

/-- RHS call of the current stage. -/
def State.callRhs (s : State) (d : Nat) (o : Orbit) : State :=
  let i := o.stage
  s.readyCall d { o with mstate := 2 } 1 0
    (o.desc d 1 i o.m (oRhs o.record) 0 (o.stageTime i) o.hatt (o.wv 0) (o.kv i)
      (if tImex o.tableau then o.kiv i else 0))

/-- SOLVE call of the current stage; γ is widened exactly. -/
def State.callSolve (s : State) (d : Nat) (o : Orbit) : State :=
  let i := o.stage
  s.readyCall d { o with mstate := 4 } 2 0
    (o.desc d 2 i 0 (oSolve o.record) (oJvp o.record) (o.stageTime i) (o.widen (o.coef o.hatt (tA o.tableau i i)))
      (o.wv 2) (o.wv 2) (o.wv 0))

/-- EVENT call: 0 start, 1 end, 2 locate. -/
def State.callEvent (s : State) (d : Nat) (o : Orbit) (sub time phase : Nat) : State :=
  s.readyCall d { o with evPhase := phase } 3 0
    (o.desc d 3 0 sub (oEvent o.record) 0 time o.hatt
      (if sub = 0 then o.y else if sub = 1 then o.wv 3 else o.wv 4) (o.gv (if sub = 0 then 0 else if sub = 1 then 0x20 else 0x40))
      0)

/-! ## Attempts (R332, R339) -/

/-- Entry to stage form (0): the attempt's h and end time are fixed, and the window closes. -/
def Orbit.enter (o : Orbit) : Orbit :=
  let last := fpLe (oTend o.record) (fadd .f64 o.t o.h)
  { o with
    mstate := 1, stage := 0, m := 0, failed := false, evPhase := 0, passing := [], located := [], window := false
    hatt := if last then fsub .f64 (oTend o.record) o.t else o.h
    tend := if last then oTend o.record else fadd .f64 o.t o.h }

/-- After the last row of a stage: the next one, or the error estimate. -/
def Orbit.nextStage (o : Orbit) : Orbit :=
  if o.stage + 1 = tStages o.tableau then { o with mstate := 7 } else { o with mstate := 1, stage := o.stage + 1, m := 0 }

/-- The vector F of an implicit stage. -/
def Orbit.fv (o : Orbit) : Dword := if tImex o.tableau then o.kiv o.stage else o.kv o.stage

/-! ## Event location (R341–R343) -/

/-- An event's crossing passes its filter. -/
def crosses (spec a g : Nat) : Bool :=
  let rise := fpLt a 0 && fpLe 0 g
  let fall := fpLt 0 a && fpLe g 0
  match spec % 4 with
  | 0 => rise || fall
  | 1 => rise
  | _ => fall

/-- Sign of a value beside g: zero counts with g's side. -/
def sideNeg (x g : Nat) : Bool := if fpZero x then fpLt g 0 else fpLt x 0

/-- The closed form for D = 1 (R342). -/
def locateLinear (o : Orbit) (a g : Nat) : Nat :=
  let theta := fdiv .f64 a (fsub .f64 a g)
  let te := ffma .f64 theta o.hatt o.t
  if fpEq te o.t || fpLt o.tend te then o.tend else te

/-- The least of some located times. -/
def leastTime (l : List (Nat × Nat)) : Option Nat :=
  match l with
  | [] => none
  | x :: t => some (t.foldl (fun m y => fpMin m y.2) x.2)

/-- The located time of the iteration that has stopped. -/
def illinoisTime (o : Orbit) (g : Nat) : Nat :=
  if fpZero o.gb || sideNeg o.gb g == sideNeg g g then o.tb else o.ta

/-- Starts the iteration of the next event to locate, or goes to commit. -/
def State.nextLocate (s : State) (d : Nat) (o : Orbit) : State :=
  match o.passing.find? fun k => !o.located.any fun x => x.1 == k with
  | none => s.putOrbit d { o with mstate := 11, evPhase := 0 }
  | some k =>
    let a := s.oG o (8 * k)
    let g := s.oG o (0x20 + 8 * k)
    if tDeg o.tableau = 1 then s.putOrbit d { o with located := o.located ++ [(k, locateLinear o a g)] }
    else s.putOrbit d { o with ta := o.t, ga := a, tb := o.tend, gb := g, it := 0, evPhase := 1 }

/-- One round of the iteration: it stops, or asks for the event values at tc. -/
def State.illinois (s : State) (d : Nat) (o : Orbit) : State :=
  match o.passing.find? fun k => !o.located.any fun x => x.1 == k with
  | none => s.putOrbit d { o with mstate := 11, evPhase := 0 }
  | some k =>
    let g := s.oG o (0x20 + 8 * k)
    let gap := fsub .f64 o.tb o.ta
    if o.it = 24 || fpZero o.gb || fpLe (fpAbs gap) (oTol o.record k) then
      s.putOrbit d { o with located := o.located ++ [(k, illinoisTime o g)], evPhase := 0 }
    else
      let tc := fsub .f64 o.tb (fdiv .f64 (fmul .f64 o.gb gap) (fsub .f64 o.gb o.ga))
      let lo := fpMin o.ta o.tb
      let hi := fpMax o.ta o.tb
      let tc :=
        if fpLt lo tc && fpLt tc hi then tc
        else fres .f64 (mulF (addF (dec .f64 o.ta) (dec .f64 o.tb)) (.fin false 1 (-1)))
      let o := { o with tc, it := o.it + 1 }
      s.afterComb d o (s.denseAttempt d o tc (o.wv 4)) fun s => s.callEvent d o 2 tc 2

/-- The event values at tc are in. -/
def State.illinoisTake (s : State) (d : Nat) (o : Orbit) : State :=
  match o.passing.find? fun k => !o.located.any fun x => x.1 == k with
  | none => s.putOrbit d { o with mstate := 11, evPhase := 0 }
  | some k =>
    let g := s.oG o (0x20 + 8 * k)
    let gc := s.oG o (0x40 + 8 * k)
    if fpNaN gc then s.haltOrbit d o 0x15
    else
      let o :=
        if sideNeg gc g != sideNeg o.gb g then { o with ta := o.tb, ga := o.gb }
        else { o with ga := fpHalf o.ga }
      s.putOrbit d { o with tb := o.tc, gb := gc, evPhase := 1 }

/-! ## The transitions (R338) -/

/-- K0 holds the stage value that the attempt starts from (R339). -/
def Orbit.k0Valid (o : Orbit) : Bool := o.k0 && tStage0 o.tableau

/-- K0 is to be copied from the last stage of the step before (R339). -/
def Orbit.fsalValid (o : Orbit) : Bool := o.fsal && tFsal o.tableau

/-- Stage form (i). -/
def State.stageForm (s : State) (d : Nat) (o : Orbit) : State :=
  let i := o.stage
  if i = 0 && (o.k0Valid || o.fsalValid) then
    if o.fsalValid then
      let l := tStages o.tableau - 1
      let o1 := { o with fsal := false, k0 := true }
      s.afterComb d o (s.combine d o (o.kv 0) (some (o.kv l)) []) fun s =>
        if tImex o.tableau then
          s.afterComb d o (s.combine d o (o.kiv 0) (some (o.kiv l)) []) fun s => s.putOrbit d o1.nextStage
        else s.putOrbit d o1.nextStage
    else s.putOrbit d o.nextStage
  else if tImplicit o.tableau i then
    s.afterComb d o (s.combine d o (o.wv 1) (some o.y) (o.zTerms i)) fun s =>
      s.afterComb d o (s.combine d o (o.wv 0) (some (o.wv 1)) []) fun s => s.callRhs d { o with m := 0 }
  else s.afterComb d o (s.combine d o (o.wv 0) (some o.y) (o.zTerms i)) fun s => s.callRhs d o

/-- The nested solve's residual and its norm. -/
def State.residual (s : State) (d : Nat) (o : Orbit) : State :=
  let terms := [(o.const true, o.wv 1), (o.negCoef o.hatt (tA o.tableau o.stage o.stage), o.fv)]
  s.afterComb d o (s.combine d o (o.wv 2) (some (o.wv 0)) terms) fun s =>
    let s := s.wrmsFind d o (o.wv 2) o.y (o.wv 0)
    match s.wrms o (o.wv 2) o.y (o.wv 0) with
    | .error c => s.haltOrbit d o c
    | .ok rho => s.putOrbit d { o with rho, mstate := 6 }

/-- The convergence test. -/
def State.converge (s : State) (d : Nat) (o : Orbit) : State :=
  if fpLe o.rho (oKappa o.record) then s.putOrbit d o.nextStage
  else if fpNaN o.rho || o.m == oMaxit o.record || (decide (1 ≤ o.m) && fpLe o.rhoprev o.rho) then
    s.putOrbit d { o with nnfail := satInc o.nnfail, failed := true, mstate := 8 }
  else if oNested o.record = 1 then s.callSolve d o
  else s.putOrbit d { o with mstate := 5 }

/-- The update of the stage value. -/
def State.update (s : State) (d : Nat) (o : Orbit) : State :=
  s.afterComb d o (s.combine d o (o.wv 0) (some (o.wv 0)) [(o.const (oNested o.record == 2), o.wv 2)]) fun s =>
    s.callRhs d { o with m := o.m + 1, rhoprev := o.rho }

/-- The error estimate. -/
def State.estimate (s : State) (d : Nat) (o : Orbit) : State :=
  s.afterComb d o (s.combine d o (o.wv 3) (some o.y) o.bTerms) fun s =>
    if tCtrl o.tableau = 2 then s.putOrbit d { o with err := 0, mstate := 8 }
    else
      s.afterComb d o (s.combine d o (o.wv 4) none o.eTerms) fun s =>
        let s := s.wrmsFind d o (o.wv 4) o.y (o.wv 3)
        match s.wrms o (o.wv 4) o.y (o.wv 3) with
        | .error c => s.haltOrbit d o c
        | .ok err => s.putOrbit d { o with err, mstate := 8 }

/-- Rejects the attempt. -/
def State.reject (s : State) (d : Nat) (o : Orbit) (failure : Bool) : State :=
  let h := rejectH o failure
  let o := { o with h, nreject := satInc o.nreject }
  if fpLt h (oHmin o.record) then s.haltOrbit d o 0x12 else s.putOrbit d o.enter

/-- Decide. -/
def State.decideStep (s : State) (d : Nat) (o : Orbit) : State :=
  if o.failed || fpNaN o.err then s.reject d o true
  else if fpLt fpOne o.err then s.reject d o false
  else
    let o := { o with hacc := acceptH o }
    s.putOrbit d { o with mstate := if oNev o.record = 0 then 11 else 9, evPhase := 0, passing := [], located := [] }

/-- Event check: the start values where none are held, the end values, and the filters. -/
def State.eventCheck (s : State) (d : Nat) (o : Orbit) : State :=
  match o.evPhase with
  | 0 => if o.gprevOk then s.callEvent d o 1 o.tend 2 else s.callEvent d o 0 o.t 1
  | 3 =>
    let ks := List.range (oNev o.record)
    let s := s.oFind d o (o.gv 0) 64
    if (s.oRead o (o.gv 0) 64).2 then s.haltOrbit d o 0x01
    else if ks.any fun k => fpNaN (s.oG o (8 * k)) || fpNaN (s.oG o (0x20 + 8 * k)) then s.haltOrbit d o 0x15
    else
      let pass := ks.filter fun k => crosses (oSpec o.record k) (s.oG o (8 * k)) (s.oG o (0x20 + 8 * k))
      s.putOrbit d { o with passing := pass, evPhase := 0, mstate := if pass.isEmpty then 11 else 10 }
  | _ => s

/-- Event locate. -/
def State.eventLocate (s : State) (d : Nat) (o : Orbit) : State :=
  match o.evPhase with
  | 0 => s.nextLocate d o
  | 1 => s.illinois d o
  | 3 => s.illinoisTake d o
  | _ => s

/-- Terminal events among those located, with the least time and the least number at it (R344). -/
def Orbit.truncation (o : Orbit) : Option (Nat × Nat) :=
  let term := o.located.filter fun x => oSpec o.record x.1 / 4 % 2 == 1
  match leastTime term with
  | none => none
  | some tt => (term.filter fun x => fpEq x.2 tt).map (·.1) |>.foldl (fun (m : Option Nat) k =>
      match m with | some j => some (min j k) | none => some k) none |>.map fun k => (k, tt)

/-- Truncation of a step that ends before the attempt's end time. -/
def Orbit.cutsShort (o : Orbit) (cut : Option (Nat × Nat)) : Bool :=
  match cut with
  | some (_, tt) => !fpEq tt o.tend
  | none => false

/-- Vectors that the combinations of a commit read: y, and those that W3 is formed from, or W3 itself. -/
def Orbit.commitReads (o : Orbit) (cut : Option (Nat × Nat)) : List Dword :=
  o.y ::
    match cut with
    | some (_, tt) => if o.cutsShort cut then ((o.dTerms tt o.t o.hatt).filter fun x => x.1 != 0).map (·.2) else [o.wv 3]
    | none => [o.wv 3]

/-- A combination of the commit reads poison (R338). -/
def State.commitPoison (s : State) (o : Orbit) (cut : Option (Nat × Nat)) : Bool :=
  (o.commitReads cut).any fun a => (s.oRead o a (oN o.record * oSize o.record)).2

/-- A place that the commit writes is stationary: W5, y, W3 when the step is cut short, and G when it takes new values. -/
def State.commitStationary (s : State) (o : Orbit) (cut : Option (Nat × Nat)) : Bool :=
  let n := oN o.record * oSize o.record
  s.oStationary o o.y n || s.oStationary o (o.wv 5) n || (o.cutsShort cut && s.oStationary o (o.wv 3) n) ||
    (cut.isNone && s.oStationary o (o.gv 0) 32)

/-- The writes of a commit, in order (R344); poison is found before a stationary macro (R338). -/
def State.commitWrites (s : State) (d : Nat) (o : Orbit) (cut : Option (Nat × Nat)) : Combined :=
  let s := (o.commitReads cut).foldl (fun s a => s.oFindVec d o a) s
  if s.commitPoison o cut then .error (0x01, s)
  else if s.commitStationary o cut then .error (0x14, s)
  else
    match s.combine d o (o.wv 5) (some o.y) [] with
    | .error c => .error c
    | .ok s =>
      let w3 : Combined :=
        match cut with
        | some (_, tt) => if fpEq tt o.tend then .ok s else s.combine d o (o.wv 3) (some o.y) (o.dTerms tt o.t o.hatt)
        | none => .ok (s.oWrite d o (o.gv 0) (s.oRead o (o.gv 0x20) 32).1)
      match w3 with
      | .error c => .error c
      | .ok s => s.combine d o o.y (some (o.wv 3)) []

/-- The orbit after a commit. -/
def Orbit.committed (o : Orbit) (cut : Option (Nat × Nat)) : Orbit :=
  let t := match cut with | some (_, tt) => tt | none => o.tend
  let hits := o.located.filter fun x => fpLe x.2 t
  { o with
    tprev := o.t, t, hw := o.hatt, window := true, h := o.hacc
    errprev := fpMax o.err 0x3EF0000000000000
    evhit := hits.foldl (fun m x => m ||| 2 ^ x.1) 0
    te := (leastTime o.located).getD 0
    gprevOk := cut.isNone
    naccept := satInc o.naccept, k0 := false, fsal := cut.isNone }

/-- A page-list entry's pte is resident and not migrating. -/
def pteOk (pte : Dword) : Bool := pte.toNat / 2 ^ 61 == 2

/-- Every page of an extent is in the list. -/
def covered (s : State) (ctx : Nat) (l : List (Nat × Nat × Dword)) (x : Dword × Nat) : Bool :=
  match s.buf ctx (refBuf x.1) with
  | none => false
  | some e =>
    let pb := pageBytes e.pgsz
    let a := refOff x.1 / pb
    let b := (refOff x.1 + x.2 - 1) / pb
    (List.range (b - a + 1)).all fun i => l.any fun y => y.1 == refBuf x.1 && y.2.1 == a + i && pteOk y.2.2

/-- Time and output of an ODENSE. -/
def Cmd.denseTime (m : Cmd) : Nat := (joinWords ((m.regs[3]?).getD 0) ((m.regs[2]?).getD 0)).toNat
def Cmd.denseOut (m : Cmd) : Dword := joinWords ((m.regs[5]?).getD 0) ((m.regs[4]?).getD 0)

/-- The code that an ODENSE meets before its combination, in the order of R351; 0 for none. -/
def State.denseCode (s : State) (o : Orbit) (m : Cmd) : Nat :=
  let tau := m.denseTime
  let out := m.denseOut
  let r := o.record
  let n := oN r * oSize r
  let alloc := match o.bound with | some g => (match s.group g with | some g => g.desc.lbytes | none => 0) | none => 0
  let meets (b : Dword × Nat) : Bool :=
    if oLantern r then
      decide ((loWord b.1).toNat < (loWord out).toNat + n) && decide ((loWord out).toNat < (loWord b.1).toNat + b.2)
    else
      refBuf b.1 == refBuf out && decide (refOff b.1 < refOff out + n) && decide (refOff out < refOff b.1 + b.2)
  if !oLantern r && s.accessRow o.ctx out n .r == 2 then 0x02
  else if oLantern r && o.bound.isSome && decide (alloc < (loWord out).toNat + n) then 0x02
  else if !oLantern r && (!s.bufN o.ctx out || s.isKick o.ctx out) then 0x03
  else if o.bound.isNone then 0x1A
  else if !o.window || tDeg o.tableau == 0 || !(fpLe o.tprev tau && fpLe tau o.t) then 0x1B
  else if !oLantern r && !covered s o.ctx o.plist (out, n) then 0x1C
  else if (oExtents r o.tableau).any meets then 0x1E
  else 0

/-- A stalled orbit's query waits for the list when it comes to its combination (R368). -/
def State.denseStalls (s : State) (o : Orbit) (m : Cmd) : Bool := o.stalled && s.denseCode o m == 0

/-- ODENSE (R356) on an orbit whose window is settled. -/
def State.denseCmd (s : State) (d : Nat) (o : Orbit) (m : Cmd) : State :=
  let done (s : State) (code count : Nat) : State :=
    (s.release (if m.ebits.getLsbD 8 then some (m.ebits.extractLsb' 5 3).toNat else none)).giveStatus m.warp m.sop
      (statusWord code count)
  match s.denseCode o m with
  | 0 =>
    match s.denseWindow d o m.denseTime (oAt o.record m.denseOut 0) with
    | .ok s => done s 0x00 (oN o.record)
    | .error (c, s) => done (s.haltOrbit d o c) c 0
  | c => done s c 0

/-- A command taken by the Orrery names an orbit of a die; an OLOAD names none. -/
def Cmd.names (m : Cmd) (d n : Nat) : Bool := m.eop != 16 && ((m.regs[0]?).getD 0).toNat % 256 == d * 64 + n

/-- Queries of an orbit that were held during its commit are answered, its writes being done (R340). -/
def State.answerDense (s : State) (d : Nat) (n : Nat) : State :=
  let held (m : Cmd) : Bool := m.eop == 21 && m.names d n
  let ms := (s.die d).ocmds.filter held
  let s := s.updDie d fun u => { u with ocmds := u.ocmds.filter fun m => !held m }
  ms.foldl (fun s m => match s.orbit d n with | some o => s.denseCmd d o m | none => s) s

/-- Commit. -/
def State.commitStep (s : State) (d : Nat) (o : Orbit) : State :=
  let cut := o.truncation
  s.afterComb d o (s.commitWrites d o cut) fun s =>
    let o := o.committed cut
    let s := ((s.writeOrbit d o []).putOrbit d o).answerDense d o.num
    match s.orbit d o.num with
    | none => s
    | some o =>
      if o.mstate ≠ 11 then s
      else
        match cut with
        | some (k, _) => s.endRun d o (0x20 + k) 0
        | none =>
          if fpEq o.t (oTend o.record) then s.endRun d o 0x00 12
          else if o.oneStep then s.endRun d o 0x16 0
          else s.putOrbit d o.enter

/-! ## Linear recurrences (R346, R347) -/

def Orbit.linT (o : Orbit) : Nat := (fpNat (oTend o.record)).getD 0
def Orbit.linL (o : Orbit) : Nat := max 1 ((fpNat (oH0 o.record)).getD 1)
def Orbit.chunks (o : Orbit) : Nat := ceilDiv o.linT o.linL

/-- Positions of chunk c. -/
def Orbit.chunkCount (o : Orbit) (c : Nat) : Nat := min ((c + 1) * o.linL) o.linT - c * o.linL

/-- A SCAN (4) or FIX (5) call of chunk c becomes ready. -/
def State.callChunk (s : State) (d : Nat) (o : Orbit) (kind c : Nat) : State :=
  let q := c % 4
  let w (i : Nat) : Dword := o.wv (3 * q + i)
  s.readyCall d o kind c
    (o.desc d kind q 0 (oRhs o.record) 0 (o.chunkCount c) (c * o.linL) (o.kv (c * o.linL))
      (if kind = 4 then w 0 else w 2) (if kind = 4 then w 1 else 0))

/-- One transition of a running LINREC orbit. -/
def State.linTurn (s : State) (d : Nat) (o : Orbit) : State :=
  let C := o.chunks
  if o.mstate = 5 then
    if o.stalled then s
    else
    let c := o.lrCarried
    let w (i : Nat) : Dword := o.wv (3 * (c % 4) + i)
    let s := [w 0, w 1, o.y].foldl (fun s a => s.oFindVec d o a) s
    let p := s.oVec o (w 0)
    let q := s.oVec o (w 1)
    let y := s.oVec o o.y
    if p.2 || q.2 || y.2 then s.haltOrbit d o 0x01
    else if s.oStationary o (w 2) (4 * oN o.record) || s.oStationary o o.y (4 * oN o.record) then s.haltOrbit d o 0x14
    else
      s.afterComb d o (s.combine d o (w 2) (some o.y) []) fun s =>
        let v := List.zipWith (fun a b => ffma .f32 a.1 b a.2) (p.1.zip q.1) y.1
        (s.oWrite d o o.y (v.flatMap fun x => leBytes x 4)).putOrbit d { o with mstate := 11 }
  else if o.mstate = 11 then
    let c := o.lrCarried
    let o := { o with t := natFp (min ((c + 1) * o.linL) o.linT), naccept := satInc o.naccept, lrCarried := c + 1, mstate := 2 }
    ((s.writeOrbit d o []).answerDense d o.num).callChunk d o 5 c
  else if o.lrScanned.contains o.lrCarried && decide (o.lrCarried < C) then s.putOrbit d { o with mstate := 5 }
  else if C ≤ o.lrFixed.length then s.haltOrbit d o 0x00
  else
    let c := o.lrAsked
    if c < C ∧ (o.calls.filter fun x => x.kind == 4).length < 4 ∧ (c < 4 ∨ o.lrFixed.contains (c - 4)) then
      s.callChunk d { o with lrAsked := c + 1 } 4 c
    else s

/-! ## One transition -/

/-- No call of the orbit is outstanding. -/
def Orbit.quiet (o : Orbit) : Bool := o.calls.all fun c => c.token.isNone

/-- The orbit's next transition; a stop takes it once no call is outstanding (R355). -/
def State.orbitTurn (s : State) (d n : Nat) : State :=
  match s.orbit d n with
  | none => s
  | some o =>
    if !o.running || s.orbitPaused o then s
    else if o.stopping then (if o.quiet then s.endRun d o 0x13 0 else s)
    else if tKind o.tableau = 4 then s.linTurn d o
    else
      match o.mstate with
      | 1 => s.stageForm d o
      | 3 => s.residual d o
      | 5 => s.update d o
      | 6 => s.converge d o
      | 7 => s.estimate d o
      | 8 => s.decideStep d o
      | 9 => s.eventCheck d o
      | 10 => s.eventLocate d o
      | 11 => s.commitStep d o
      | _ => s

/-! ## Answers (R362, R363) -/

/-- A call is answered with a status: 0 success. -/
def State.answerCall (s : State) (d : Nat) (o : Orbit) (c : OCall) (st : Nat) : State :=
  let o := { o with calls := removeBy OCall.id c.id o.calls }
  let o := if st = 0 then o else { o with lastFail := BitVec.ofNat 32 (st + c.kind * 256) }
  let fail := st != 0
  if o.stopping then s.putOrbit d o
  else
    match c.kind with
    | 1 =>
      let o := { o with nrhs := satInc o.nrhs }
      if fail then s.putOrbit d { o with failed := true, mstate := 8 }
      else
        let o := if o.stage = 0 then { o with k0 := true } else o
        s.putOrbit d (if tImplicit o.tableau o.stage then { o with mstate := 3 } else o.nextStage)
    | 2 =>
      let o := { o with nsolve := satInc o.nsolve }
      s.putOrbit d (if fail then { o with failed := true, mstate := 8 } else { o with mstate := 5 })
    | 3 =>
      let o := { o with nevent := satInc o.nevent }
      if fail then s.putOrbit d { o with failed := true, mstate := 8, passing := [], located := [] }
      else if o.mstate = 9 ∧ o.evPhase = 1 then s.putOrbit d { o with gprevOk := true, evPhase := 0 }
      else s.putOrbit d { o with evPhase := 3 }
    | 4 =>
      let o := { o with nrhs := satInc o.nrhs }
      if fail then s.haltOrbit d o 0x04 else s.putOrbit d { o with lrScanned := o.lrScanned ++ [c.chunk] }
    | _ => if fail then s.haltOrbit d o 0x04 else s.putOrbit d { o with lrFixed := o.lrFixed ++ [c.chunk] }

/-- A call is abandoned: its holder has ended. -/
def State.abandonCall (s : State) (d : Nat) (o : Orbit) (c : OCall) : State :=
  let o := { o with calls := removeBy OCall.id c.id o.calls, lastFail := BitVec.ofNat 32 (0xFF + c.kind * 256) }
  if o.stopping then s.putOrbit d o else s.haltOrbit d o 0x04

/-! ## Hand-off (R360, R364) -/

/-- A waiter matches an orbit of a die. -/
def OWaiter.fits (w : OWaiter) (d : Nat) (o : Orbit) : Bool :=
  w.ctx == o.ctx && w.tag == oWset o.record &&
    (if oLantern o.record then o.bound == some w.group else w.die == d)

/-- Every waiter of the package, in order of entry. -/
def State.waiters (s : State) : List OWaiter :=
  (s.dieU.flatMap DieU.owaiters).filter fun w => (s.gang w.gang).isSome

def oldestWaiter (l : List OWaiter) : Option OWaiter :=
  match l with
  | [] => none
  | w :: t => some (t.foldl (fun b x => if x.id < b.id then x else b) w)

/-- Ready calls of a die with their orbits; a stop hands none (R355). -/
def State.readyCalls (s : State) (d : Nat) : List (Orbit × OCall) :=
  (s.die d).orbits.flatMap fun o =>
    if o.stopping || s.orbitPaused o then [] else (o.calls.filter fun c => c.token.isNone).map fun c => (o, c)

/-- The call handed next on a die: the first to have become ready among those a waiter matches. -/
def State.nextHandoff (s : State) (d : Nat) (ws : List OWaiter) : Option (Orbit × OCall × OWaiter) :=
  let l := (s.readyCalls d).filterMap fun x => (oldestWaiter (ws.filter fun w => w.fits d x.1)).map fun w => (x.1, x.2, w)
  match l with
  | [] => none
  | x :: t => some (t.foldl (fun b y => if y.2.1.id < b.2.1.id then y else b) x)

/-- Next sequence number of an orbit's calls: 1 to 0xFFFFFF. -/
def nextSeq (n : Nat) : Nat := if n = 0xFFFFFF then 1 else n + 1

/-- Places of a call's outputs that the Orrery reads, with their sizes (R361). -/
def Orbit.outputs (o : Orbit) (c : OCall) : List (Dword × Nat) :=
  let w (i : Nat) : Dword := joinWords ((c.desc[i + 1]?).getD 0) ((c.desc[i]?).getD 0)
  let n := oN o.record * oSize o.record
  match c.kind with
  | 1 => (w 10, n) :: if tImex o.tableau then [(w 12, n)] else []
  | 2 => [(w 10, n)]
  | 3 => [(w 10, 8 * oNev o.record)]
  | 4 => [(w 10, 4 * oN o.record), (w 12, 4 * oN o.record)]
  | _ => []

/-- The aligned 8 bytes of a call's outputs. -/
def Orbit.pieces (o : Orbit) (c : OCall) : List Dword :=
  (o.outputs c).flatMap fun x => (List.range (ceilDiv x.2 8)).map fun i => o.byte x.1 (8 * i)

/-- A byte at a place as the stores of the answering warp leave it that were issued before a command, performed or not. -/
def State.storedByte (s : State) (o : Orbit) (m : Cmd) (a : Dword) : Byte :=
  let now := ((s.oRaw o a 1).1[0]?).getD 0
  let sp := if oLantern o.record then Space.lantern else Space.mem
  match s.warp m.warp with
  | none => now
  | some w =>
    match s.sqByte m.ctx w m.id (s.locKey m.ctx sp a) with
    | some b => b
    | none =>
      if oLantern o.record then now
      else ((o.phys s a).bind (wtByte (s.core (s.warpCore w)).wt)).getD now

/-- An ODONE answers a call. Unless it is an acquire of a scope that reaches the Orrery's readers, pkg for memory and quad for a
Lantern store, what the worker stored may be read as it stood before the call (R362). -/
def State.noteAnswer (s : State) (o : Orbit) (c : OCall) (m : Cmd) : State :=
  let reach := if oLantern o.record then 1 else 3
  let acq := m.ebits.getLsbD 9 && decide (reach ≤ (m.ebits.extractLsb' 5 3).toNat)
  let ps := o.pieces c
  let ks := ps.filterMap (o.loc s)
  let rest := s.loose.filter fun e => !ks.contains e.1
  if acq then { s with loose := rest }
  else
    let new := (ps.zip c.before).filterMap fun x => (o.loc s x.1).map fun k =>
      (k, x.2, (List.range 8).map fun i => s.storedByte o m (o.byte x.1 i))
    { s with loose := new.foldl (fun t e => tabPut t e.1 e.2) rest }

/-- Hands a call to a waiter: its descriptor is written, the call is outstanding and the gang goes on. -/
def State.hand (s : State) (d : Nat) (o : Orbit) (c : OCall) (w : OWaiter) : State :=
  let q := nextSeq o.seq
  let tok : Word := BitVec.ofNat 32 (o.handle d + q * 256)
  let desc := listSet c.desc 2 tok
  let before := (o.pieces c).map fun a => (s.oRaw o a 8).1
  let s := s.acked 3
  let s := s.putOrbit d { o with
    seq := q, calls := updateBy OCall.id c.id (fun x => { x with token := some tok, holder := some w.group, before }) o.calls }
  let s := { s with dieU := s.dieU.map fun (u : DieU) => { u with owaiters := removeBy OWaiter.id w.id u.owaiters } }
  let put (x : Warp) : Warp := ((mapFrom (fun i v => (i, v)) 0 desc).foldl (fun x p => x.putS (w.d + p.1) p.2) x).unquiet
  let s := s.updWarp w.warp put
  let core := match s.group w.group with | some g => g.coreId | none => 0
  s.handOn core w.gang

/-- R360: a ready call of the orbit is handed to the oldest matching waiter, in the order in which calls became ready. -/
def execCallHandoff (die orbit : Nat) (s : State) : Host.Outcome State Fault Refusal :=
  match s.nextHandoff die s.waiters with
  | some (o, c, w) => .next (if o.num = orbit then s.hand die o c w else s)
  | none => .next s

end Sys2Proof.Machine
end

