-- ==== Sys2Proof/Machine/OrreryIsa.lean ====
section
/-! DEFINITION. The Orrery's words: commands and their checks, OTAKE, OWAIT and OSTAT (20_orrery_isa.md R348–R369). -/

namespace Sys2Proof.Machine

/-! ## Commands (R350, R351) -/

def Cmd.reg (m : Cmd) (i : Nat) : Word := (m.regs[i]?).getD 0
def Cmd.pair (m : Cmd) (i : Nat) : Dword := joinWords (m.reg (i + 1)) (m.reg i)

/-- Scope of the command's release, if it has one. -/
def Cmd.rel (m : Cmd) : Option Nat := if m.ebits.getLsbD 8 then some (m.ebits.extractLsb' 5 3).toNat else none

/-- The handle that a command names. -/
def Cmd.handle (m : Cmd) : Nat := (m.reg 0).toNat % 256

/-- A command completes with a code and count. -/
def State.cmdDone (s : State) (m : Cmd) (code count : Nat) : State :=
  (s.release m.rel).giveStatus m.warp m.sop (statusWord code count)

/-- What reading and checking the records of an orbit finds (orders 1 to 4, and 9 for a start). -/
inductive OrbitRead where
  | hold
  | refused (code : Nat)
  | ok (r t : List Byte)

/-- Reads both records and checks them in the order of R351; ext is the code that a start finds for the buffers' extents, and
joins its order: 0x02 the first, 0x03 the second, 0x1C the last. far tells that a buffer whose extent needs no tableau lies
outside its buffer, which comes before a tableau that may not be read. A record that may not be read ends the checks at order
2, and one in the kick buffer too. -/
def State.orbitRead (s : State) (ctx : Nat) (ref : Dword) (far : List Byte → Bool) (ext : List Byte → List Byte → Nat) :
    OrbitRead :=
  let row := s.accessRow ctx ref 256 .r
  if row = 2 ∨ ref.toNat % 256 ≠ 0 then .refused 0x02
  else if row = 3 ∨ s.isKick ctx ref then .refused 0x03
  else
    match s.engRead ctx ref 256 with
    | none => .hold
    | some (r, _) =>
      let tr := oTab r
      let trow := s.accessRow ctx tr 4096 .r
      if trow = 2 ∨ tr.toNat % 64 ≠ 0 ∨ far r = true then .refused 0x02
      else if trow = 3 ∨ s.isKick ctx tr then .refused 0x03
      else
        match s.engRead ctx tr 4096 with
        | none => .hold
        | some (t, _) =>
          let c := ext r t
          if c = 0x02 then .refused 0x02
          else if s.accessRow ctx ref 256 .w = 3 ∨ c = 0x03 then .refused 0x03
          else if ¬ tabOk t then .refused 0x10
          else if ¬ orbitOk s ctx r t then .refused 0x11
          else if c ≠ 0 then .refused c
          else .ok r t

/-- The reads of an orbit's records find their uncorrectable errors (R259). -/
def State.findOrbit (s : State) (d ctx : Nat) (ref : Dword) : State :=
  if s.engRow ctx ref 256 .r ≠ 0 then s
  else
    match s.engRead ctx ref 256 with
    | none => s
    | some (r, _) =>
      let s := s.findSpan d ctx ref 256
      if s.engRow ctx (oTab r) 4096 .r = 0 then s.findSpan d ctx (oTab r) 4096 else s

/-- The orbit right after OLOAD (R326). -/
def newOrbit (num ctx : Nat) (ref : Dword) (r t : List Byte) : Orbit :=
  { num, ctx, ref, record := r, tableau := t, t := oT0 r, h := oH0 r, tprev := oT0 r }

/-- R352: OLOAD on the issuing warp's die. -/
def State.oload (s : State) (die : Nat) (m : Cmd) : Option State :=
  let s := s.findOrbit die m.ctx (m.pair 0)
  match s.orbitRead m.ctx (m.pair 0) (fun _ => false) fun _ _ => 0 with
  | .hold => none
  | .refused c => some (s.cmdDone m c 0)
  | .ok r t =>
    match (List.range 64).find? fun n => (s.orbit die n).isNone with
    | none => some (s.cmdDone m 0x18 0)
    | some n =>
      let o := newOrbit n m.ctx (m.pair 0) r t
      let s := s.updDie die fun u => { u with orbits := u.orbits ++ [o] }
      let s := s.writeOrbit die o [(m.warp, m.sop, statusWord 0x00 (o.handle die))]
      some ((s.acked 3).release m.rel)

/-- Entries of a page list, 16 bytes each (R421). -/
def plistOf (bs : List Byte) (n : Nat) : List (Nat × Nat × Dword) :=
  (List.range n).map fun i => (recField bs (16 * i) 4, recField bs (16 * i + 4) 4, BitVec.ofNat 64 (recField bs (16 * i + 8) 8))

/-- Orders 1, 2 and 9 for the buffers of a record: bounds, right N, page list. -/
def extentCode (s : State) (ctx : Nat) (r t : List Byte) (lbytes : Nat) (l : List (Nat × Nat × Dword)) : Nat :=
  let xs := oExtents r t
  if oLantern r then (if xs.any fun x => decide (lbytes < (loWord x.1).toNat + x.2) then 0x02 else 0)
  else if xs.any fun x => s.accessRow ctx x.1 x.2 .r == 2 then 0x02
  else if xs.any fun x => !s.bufN ctx x.1 || s.isKick ctx x.1 then 0x03
  else if xs.all (covered s ctx l) then 0 else 0x1C

/-- Extents of y and of an atol vector, which need no tableau, lie outside their buffers. -/
def extentFar (s : State) (ctx lbytes : Nat) (r : List Byte) : Bool :=
  let ne := oN r * oSize r
  ((oY r, ne) :: if oAtolVec r then [(BitVec.ofNat 64 (oAtol r), ne)] else []).any fun x =>
    if oLantern r then decide (lbytes < (loWord x.1).toNat + x.2) else s.accessRow ctx x.1 x.2 .r == 2

/-- Orders 1 and 2 for the page list that an OBIND names: its bounds, its right, and the kick buffer. -/
def State.listCode (s : State) (m : Cmd) : Nat :=
  let ref := m.pair 2
  if ref = 0 then 0
  else
    let row := s.accessRow m.ctx ref 16 .r
    if row = 2 then 0x02 else if row = 3 ∨ s.isKick m.ctx ref then 0x03 else 0

/-- R353: OBIND; none while the page list's pages are absent. -/
def State.obind (s : State) (d : Nat) (o : Orbit) (grp : Group) (m : Cmd) : Option State :=
  let ref := m.pair 2
  let size := match s.buf m.ctx (refBuf ref) with | some e => e.size | none => 0
  let cnt := min 65536 ((size - refOff ref) / 16)
  let lc := s.listCode m
  if lc = 0x02 then some (s.cmdDone m 0x02 0)
  else
    let list := if ref = 0 ∨ lc ≠ 0 then some [] else (s.engRead m.ctx ref (16 * cnt)).map fun b => plistOf b.1 cnt
    match list with
    | none => none
    | some l =>
      let s := if ref = 0 ∨ lc ≠ 0 then s else s.findSpan d m.ctx ref (16 * cnt)
      let code := extentCode s m.ctx o.record o.tableau grp.desc.lbytes l
      if code = 0x02 then some (s.cmdDone m 0x02 0)
      else if code = 0x03 ∨ lc = 0x03 then some (s.cmdDone m 0x03 0)
      else if o.running ∧ o.bound ≠ some grp.id then some (s.cmdDone m 0x1A 0)
      else if code ≠ 0 then some (s.cmdDone m code 0)
      else
        let o := { o with bound := if o.running then o.bound else some grp.id, plist := l, stalled := false
                          pbufs := s.listBufs m.ctx l }
        some ((s.putOrbit d o).cmdDone m 0x00 0)

/-- R354: ORUN and OSTEP; none while a record's page is absent. What K0 and the last stage hold stays of use only for the same y
(R339). -/
def State.orun (s : State) (d : Nat) (o : Orbit) (one : Bool) (m : Cmd) : Option State :=
  let lb := match o.bound with | some g => (match s.group g with | some g => g.desc.lbytes | none => 0) | none => 0
  if o.bound.isNone ∨ o.mstate ≠ 0 then some (s.cmdDone m 0x1A 0)
  else
    let s := s.findOrbit d o.ctx o.ref
    match s.orbitRead o.ctx o.ref (extentFar s o.ctx lb) fun r t => extentCode s o.ctx r t lb o.plist with
    | .hold => none
    | .refused c => some (s.cmdDone m c 0)
    | .ok r t =>
      let same := !o.ywrote && oY r == oY o.record
      let o1 := { o with record := r, tableau := t, runner := [(m.warp, m.sop)], oneStep := one, gprevOk := false
                         k0 := o.k0 && same, fsal := o.fsal && same }
      if tKind t = 4 then
        some (s.putOrbit d { o1 with status := 0x17, mstate := 2, t := 0, window := false, lrAsked := 0, lrScanned := [],
                                     lrCarried := 0, lrFixed := [] })
      else if fpEq o1.t (oTend r) then some (s.haltOrbit d o1 0x00)
      else some (s.putOrbit d { o1.enter with status := 0x17 })

/-- R355: OSTOP. -/
def State.ostop (s : State) (d : Nat) (o : Orbit) (m : Cmd) : State :=
  let free := m.ebits.getLsbD 0
  if o.running then
    s.putOrbit d { o with stopping := true, freeing := o.freeing || free, stops := o.stops ++ [(m.warp, m.sop)]
                          calls := o.calls.filter fun c => c.token.isSome }
  else
    let s := (s.acked 3).release m.rel |>.giveStatus m.warp m.sop o.word
    if free then (s.tellWaits d o true).delOrbit d o.num else s

/-- R362: ODONE. -/
def State.odone (s : State) (d : Nat) (o : Orbit) (m : Cmd) : State :=
  match o.calls.find? fun c => c.token == some (m.reg 0) with
  | none => s.cmdDone m 0x1D 0
  | some c => ((s.noteAnswer o c m).answerCall d o c ((m.reg 1).toNat % 256)).cmdDone m 0x00 0

/-- A command on a loaded orbit; none while it must wait. -/
def State.orbitCmd (s : State) (d : Nat) (o : Orbit) (m : Cmd) : Option State :=
  match m.eop with
  | 17 => (match s.group m.group with | some g => s.obind d o g m | none => some s)
  | 18 => s.orun d o false m
  | 19 => s.orun d o true m
  | 20 => some (s.odone d o m)
  | 21 => some (s.denseCmd d o m)
  | _ => some (s.ostop d o m)

/-- A command stays in the Orrery's own queue. The manual gives that queue no size; here it is never full (log 12). -/
def State.queueCmd (s : State) (d : Nat) (m : Cmd) : State := s.updDie d fun u => { u with ocmds := u.ocmds ++ [m] }

/-- Refusal of a command that names no orbit of its context: the checks of orders 1 and 2 that need no orbit come first, and
an ODONE's token is then not outstanding (R351, R368). -/
def State.noOrbit (s : State) (m : Cmd) : Nat :=
  let lc := if m.eop = 17 then s.listCode m else 0
  if lc ≠ 0 then lc else if m.eop = 20 then 0x1D else 0x19

/-- A command on an orbit does what it can now; none while it waits: for a page, for the orbit to go on (R366), or, a query,
for the end of the commit or for the page list (R340, R356, R368). -/
def State.orbitTry (s : State) (d : Nat) (m : Cmd) : Option State :=
  match s.orbit d (m.handle % 64) with
  | none => some (s.cmdDone m (s.noOrbit m) 0)
  | some o =>
    if o.ctx ≠ m.ctx then some (s.cmdDone m (s.noOrbit m) 0)
    else if s.orbitPaused o ∨ (m.eop = 21 ∧ (o.mstate = 11 ∨ s.denseStalls o m = true)) then none
    else s.orbitCmd d o m

/-- The queued commands of a list are tried in order; behind one that waits, other than a query held in a commit, those of its
orbit wait too. -/
def State.tryQueued (s : State) (d : Nat) (ms : List Cmd) : State :=
  (ms.foldl (fun (r : State × List Nat) m =>
    if r.2.contains m.handle then (r.1.queueCmd d m, r.2)
    else
      match r.1.orbitTry d m with
      | some s' => (s', r.2)
      | none => (r.1.queueCmd d m, if m.eop = 21 then r.2 else m.handle :: r.2)) (s, [])).1

/-- Commands queued for an orbit are taken, in order, once it goes on (R366). -/
def State.takeQueued (s : State) (d n : Nat) : State :=
  let ms := (s.die d).ocmds.filter fun m => m.names d n
  (s.updDie d fun u => { u with ocmds := u.ocmds.filter fun m => !m.names d n }).tryQueued d ms

/-- Queries held in an orbit's commit are answered when something else than the commit's own end has taken the orbit out of
it: a halt, a stop, or its end. -/
def State.leftCommit (s : State) (d n : Nat) (s' : State) : State :=
  match s.orbit d n with
  | some o =>
    if o.mstate = 11 then
      match s'.orbit d n with
      | some o' => if o'.mstate = 11 then s' else s'.takeQueued d n
      | none => s'.takeQueued d n
    else s'
  | none => s'

/-- The Orrery takes a command (R351): OLOAD at the issuing die, the others at the die that their handle names. One that waits
stays in the Orrery's queue (R11); later ones of its orbit wait behind it, but not behind a query held in a commit. -/
def State.orreryAccept (s : State) (grp : Group) (m : Cmd) : Option State :=
  if m.eop = 16 then
    if (s.die grp.die).ocmds.any fun x => x.eop == 16 && x.warp == m.warp then some (s.queueCmd grp.die m)
    else some ((s.oload grp.die m).getD (s.queueCmd grp.die m))
  else
    let d := m.handle / 64
    if (s.die d).ocmds.any fun x => x.names d (m.handle % 64) && x.eop != 21 then some (s.queueCmd d m)
    else
      match s.orbitTry d m with
      | none => some (s.queueCmd d m)
      | some s' => some (s.leftCommit d (m.handle % 64) s')

/-- The commands in a die's Orrery queue are tried again, in order. -/
def State.retryO (s : State) (d : Nat) : State :=
  let ms := (s.die d).ocmds
  let s := s.updDie d fun u => { u with ocmds := [] }
  let loads := ms.filter fun m => m.eop == 16
  let s := (loads.foldl (fun (r : State × List Nat) m =>
    if r.2.contains m.warp then (r.1.queueCmd d m, r.2)
    else
      match r.1.oload d m with
      | some s' => (s', r.2)
      | none => (r.1.queueCmd d m, m.warp :: r.2)) (s, [])).1
  s.tryQueued d (ms.filter fun m => m.eop != 16)

/-- R338: an orbit's combination finishes and the machine takes its next transition. -/
def execOrreryCombinationDone (die orbit : Nat) (s : State) : Host.Outcome State Fault Refusal :=
  .next (s.leftCommit die orbit (s.orbitTurn die orbit))

/-! ## The command words (R349) -/

def orreryChk (sc : BitVec 3) (ns : BitVec 1) (sd : BitVec 5) (regs : Bool) : Ctx → Option Nat :=
  checks (scopeOk sc) (nostatOk ns sd) regs fun _ => true

/-- R352: oload. -/
def execOload (k : BitVec 3) (a d : BitVec 5) (n _q _r : BitVec 1) (sc : BitVec 3) (s : State) :
    Host.Outcome State Fault Refusal :=
  commandWord (orreryChk sc n d (evenU a)) k 16 (statusDst n d) (sRegs a.toNat 2) s

/-- R353: obind. -/
def execObind (k : BitVec 3) (a d : BitVec 5) (n _q _r : BitVec 1) (sc : BitVec 3) (s : State) :
    Host.Outcome State Fault Refusal :=
  commandWord (orreryChk sc n d (evenU a && decide (a.toNat ≤ 28))) k 17 (statusDst n d) (sRegs a.toNat 4) s

/-- R354: orun. -/
def execOrun (k : BitVec 3) (a d : BitVec 5) (n _q _r : BitVec 1) (sc : BitVec 3) (s : State) :
    Host.Outcome State Fault Refusal :=
  commandWord (orreryChk sc n d true) k 18 (statusDst n d) (sRegs a.toNat 1) s

/-- R354: ostep. -/
def execOstep (k : BitVec 3) (a d : BitVec 5) (n _q _r : BitVec 1) (sc : BitVec 3) (s : State) :
    Host.Outcome State Fault Refusal :=
  commandWord (orreryChk sc n d true) k 19 (statusDst n d) (sRegs a.toNat 1) s

/-- R362: odone. -/
def execOdone (k : BitVec 3) (a d : BitVec 5) (n _q _r : BitVec 1) (sc : BitVec 3) (s : State) :
    Host.Outcome State Fault Refusal :=
  commandWord (orreryChk sc n d (evenU a)) k 20 (statusDst n d) (sRegs a.toNat 2) s

/-- R356: odense. -/
def execOdense (k : BitVec 3) (a d : BitVec 5) (n _q _r : BitVec 1) (sc : BitVec 3) (s : State) :
    Host.Outcome State Fault Refusal :=
  commandWord (orreryChk sc n d (evenU a && decide (a.toNat ≤ 26))) k 21 (statusDst n d) (sRegs a.toNat 6) s

/-- R355: ostop. -/
def execOstop (k : BitVec 3) (a d : BitVec 5) (n _q _r : BitVec 1) (sc : BitVec 3) (_f : BitVec 1) (s : State) :
    Host.Outcome State Fault Refusal :=
  commandWord (orreryChk sc n d true) k 22 (statusDst n d) (sRegs a.toNat 1) s

/-! ## Taking calls and reading (R357–R360) -/

/-- Every ready call with its die and orbit, in the order in which they became ready. -/
def State.callsInOrder (s : State) : List (Nat × Orbit × OCall) :=
  let l := (List.range 4).flatMap fun d => (s.readyCalls d).map fun x => (d, x.1, x.2)
  l.foldl (fun acc x => (acc.takeWhile fun y => decide (y.2.2.id < x.2.2.id)) ++ [x] ++
    acc.dropWhile fun y => decide (y.2.2.id < x.2.2.id)) []

/-- The ready calls that no waiter of the lists takes, each waiter taking one: a call goes to the oldest that matches. -/
def leftCalls : List OWaiter → List (Nat × Orbit × OCall) → List (Nat × Orbit × OCall)
  | _, [] => []
  | ws, x :: t =>
    match oldestWaiter (ws.filter fun w => w.fits x.1 x.2.1) with
    | some w => leftCalls (removeBy OWaiter.id w.id ws) t
    | none => x :: leftCalls ws t

/-- The call that a poll takes: the first ready one that matches and is left by the waiters before it (R359, R360). -/
def State.pollCall (s : State) (w : OWaiter) : Option (Nat × Orbit × OCall) :=
  (leftCalls s.waiters s.callsInOrder).find? fun x => w.fits x.1 x.2.1

/-- R359: otake. -/
def execOtake (k : BitVec 3) (d a : BitVec 5) (m : BitVec 1) (s : State) : Host.Outcome State Fault Refusal :=
  issue (issueFault (.otake k d a m)) (fun c s =>
    if guardUni k c.w = false then .go s []
    else
      let (id, s) := s.fresh
      let w : OWaiter := { id, gang := c.g.uid, warp := c.w.id, group := c.grp.id, ctx := c.grp.ctx, die := c.grp.die
                           tag := (c.rv.getS a.toNat).toNat % 65536, d := d.toNat }
      let s := s.updWarp c.w.id Warp.unquiet
      if m = 0 then
        .go ((s.updDie c.grp.die fun u => { u with owaiters := u.owaiters ++ [w] }).engineWait c (.otake d.toNat w.tag)) []
      else
        match s.pollCall w with
        | some (die, o, cl) => .go (s.hand die o cl w) []
        | none => .go (s.updWarp c.w.id fun x => x.putS d.toNat 0) []) s

/-- The orbit that a handle names for a context. -/
def State.named (s : State) (ctx h : Nat) : Option Orbit :=
  match s.orbit (h / 64) (h % 64) with
  | some o => if o.ctx = ctx then some o else none
  | none => none

/-- R357: owait. -/
def execOwait (k : BitVec 3) (d a : BitVec 5) (s : State) : Host.Outcome State Fault Refusal :=
  issue (issueFault (.owait k d a)) (fun c s =>
    let h := (c.rv.getS a.toNat).toNat % 256
    if guardUni k c.w = false then .go s []
    else
      match s.named c.grp.ctx h with
      | none => .go (s.updWarp c.w.id fun w => (w.putS d.toNat 0x19000000).unquiet) []
      | some o =>
        if o.status = 0x17 then .go (s.engineWait c (.owait d.toNat h)) []
        else .go ((s.updWarp c.w.id fun w => (w.putS d.toNat o.word).unquiet).acquireGang c.grp.coreId c.g.uid) []) s

/-- OSTAT's values (R358). -/
def ostatValue (o : Orbit) (sel : Nat) : Word :=
  match sel with
  | 0 => o.word
  | 1 => BitVec.ofNat 32 (o.mstate + o.evhit * 256)
  | 2 => lo32 o.t
  | 3 => hi32 o.t
  | 4 => lo32 o.h
  | 5 => hi32 o.h
  | 6 => lo32 o.te
  | 7 => hi32 o.te
  | 8 => BitVec.ofNat 32 o.naccept
  | 9 => BitVec.ofNat 32 o.nreject
  | 10 => BitVec.ofNat 32 o.nrhs
  | 11 => BitVec.ofNat 32 o.nsolve
  | 12 => BitVec.ofNat 32 o.nevent
  | 13 => BitVec.ofNat 32 o.nnfail
  | 14 => o.lastFail
  | _ => BitVec.ofNat 32 (o.calls.filter fun c => c.token.isSome).length

/-- R358: ostat. -/
def execOstat (k : BitVec 3) (d a : BitVec 5) (x : BitVec 4) (s : State) : Host.Outcome State Fault Refusal :=
  issue (issueFault (.ostat k d a x)) (fun c s =>
    if guardUni k c.w = false then .go (s.fallNow c.w.id c.g.fa none) []
    else
      let v := match s.named c.grp.ctx ((c.rv.getS a.toNat).toNat % 256) with
        | some o => ostatValue o x.toNat
        | none => 0x19000000
      let (id, s) := s.fresh
      .go ((s.addOp c.w.id (c.newOp id c.g.fa none (.done [⟨uniLane, d.toNat, v⟩]))).updWarp c.w.id Warp.unquiet) []) s

/-! ## Groups that end (R363, R368) -/

/-- Every orbit with its die. -/
def State.allOrbits (s : State) : List (Nat × Orbit) :=
  (List.range 4).flatMap fun d => (s.die d).orbits.map fun o => (d, o)

/-- The calls that an ended group holds are abandoned. -/
def State.abandonCalls (s : State) (gid : Nat) : State :=
  (s.allOrbits.flatMap fun x => (x.2.calls.filter fun c => c.holder == some gid).map fun c => (x.1, x.2.num, c)).foldl
    (fun s x => match s.orbit x.1 x.2.1 with
      | some o =>
        if o.calls.any fun c => c.id == x.2.2.id then s.leftCommit x.1 o.num (s.abandonCall x.1 o x.2.2) else s
      | none => s) s

/-- The orbits that an ended group binds halt with 0x04 and are freed. -/
def State.freeOrbits (s : State) (gid : Nat) : State :=
  (s.allOrbits.filter fun x => x.2.bound == some gid).foldl (fun s x =>
    match s.orbit x.1 x.2.num with
    | some o => (s.endRun x.1 { o with freeing := true } 0x04 12).takeQueued x.1 o.num
    | none => s) s

end Sys2Proof.Machine
end

