-- ==== Sys2Proof/Machine/Vesper.lean ====
section
/-! DEFINITION. The Vesper units: vigils, lumens, purses, queues and bins, their words and messages (22_vesper.md
R376–R400, R448). -/

namespace Sys2Proof.Machine

/-! ## Handles and objects (R376, R377) -/

def mkHandle (gen kind pkg die num : Nat) : Nat := gen * 2 ^ 20 + kind * 2 ^ 18 + pkg * 2 ^ 12 + die * 2 ^ 10 + num

def hKind (h : Nat) : Nat := h / 2 ^ 18 % 4
def hPkg (h : Nat) : Nat := h / 2 ^ 12 % 64
def hDie (h : Nat) : Nat := h / 2 ^ 10 % 4
def hNum (h : Nat) : Nat := h % 2 ^ 10

/-- The handle in a register: bits 31:24 are ignored. -/
def handleOf (x : Word) : Nat := x.toNat % 2 ^ 24

/-- The object of a handle of the own package. -/
def State.vobj (s : State) (h : Nat) : Option VObj :=
  if hPkg h = s.pkg.pkgid then
    match lookupBy VObj.num (s.die (hDie h)).vobjs (hNum h) with
    | some o => if o.gen = h / 2 ^ 20 ∧ o.kind = hKind h then some o else none
    | none => none
  else none

/-- The object that a handle names for a context, of one of some kinds. -/
def State.vvalid (s : State) (ctx h : Nat) (kinds : List Nat) : Option VObj :=
  match s.vobj h with
  | some o => if o.ctx = ctx ∧ kinds.contains o.kind then some o else none
  | none => none

def State.updV (s : State) (h : Nat) (f : VObj → VObj) : State :=
  s.updDie (hDie h) fun u => { u with vobjs := updateBy VObj.num (hNum h) f u.vobjs }

/-- Total of a vigil. -/
def VObj.total (o : VObj) : Nat := 2 ^ o.k

def VObj.quiet (o : VObj) : Bool := o.pool == o.total

/-- The lowest object number free on a die, and the generation it takes. -/
def State.freeObj (s : State) (d : Nat) : Option (Nat × Nat) :=
  ((List.range 1024).find? fun n => (lookupBy VObj.num (s.die d).vobjs n).isNone).map fun n =>
    let g := tabGet 0 (s.die d).vgens n
    (n, if g = 15 then 1 else g + 1)

def State.addObj (s : State) (d : Nat) (o : VObj) : State :=
  s.updDie d fun u => { u with vobjs := u.vobjs ++ [o], vgens := tabPut u.vgens o.num o.gen }

/-- A waiter whose gang still waits. -/
def State.liveWaiter (s : State) (w : VWaiter) : Bool := (s.gang w.gang).isSome

/-- Waiters of all objects of a die (R377). -/
def State.vwaiters (s : State) (d : Nat) : Nat := ((s.die d).vobjs.map fun o => (o.waiters.filter s.liveWaiter).length).sum

/-! ## Slots and messages (R378, R379, R382) -/

def Group.lslot (g : Group) (l : Nat) : LSlot := (g.slots[l]?).getD {}

def LSlot.free (l : LSlot) : Bool := l.balance == 0 && !l.reserved

def State.setSlot (s : State) (gid l : Nat) (x : LSlot) : State :=
  s.updGroup gid fun g => { g with slots := listSet g.slots l x }

/-- A message leaves a die for a die; to another package it leaves the package (numbers 4 and above). -/
def State.vsendTo (s : State) (src h : Nat) (m : VMsg) : State :=
  let (id, s) := s.fresh
  let die := if hPkg h = s.pkg.pkgid then hDie h else 4 + hPkg h
  { s with vflights := s.vflights ++ [{ id, src, die, msg := m }] }

/-- Lumens go back from a die to their root (R382). -/
def State.vreturn (s : State) (src vigil amount : Nat) (aband : Bool) : State :=
  if amount = 0 then s else s.vsendTo src vigil (.ret vigil amount aband)

/-- The lumens of every slot of a group return to their vigils, a release of the vigil's scope (R382). -/
def State.returnSlots (s : State) (g : Group) : State :=
  let s := (g.slots.filter fun l => l.balance != 0).foldl (fun s l =>
    let scope := match s.vobj l.vigil with | some o => o.scope | none => 3
    (s.acked scope).vreturn g.die l.vigil l.balance g.abandoned) s
  s.updGroup g.id fun g => { g with slots := List.replicate 4 {} }

def State.takeFlight (s : State) (id : Nat) : State := { s with vflights := removeBy VFlight.id id s.vflights }

/-! ## Purses (R381, R383) -/

def State.purse (s : State) (d v : Nat) : Option Purse := lookupBy Purse.vigil (s.die d).purses v

/-- Sets a purse's balance, creating it. -/
def State.setPurse (s : State) (d v b : Nat) : State :=
  s.updDie d fun u =>
    if (lookupBy Purse.vigil u.purses v).isSome then
      { u with purses := updateBy Purse.vigil v (fun p => { p with balance := b }) u.purses }
    else { u with purses := u.purses ++ [{ vigil := v, balance := b }] }

/-- What a borrow of β gives: lumens in hand, or a wait. -/
inductive Borrowed where
  | got (s : State)
  | wait (s : State)

/-- After a borrow: a watched vigil's purse returns what is left (R383); a purse beyond the table keeps nothing and goes. -/
def State.purseAfter (s : State) (d v : Nat) : State :=
  let watched := match s.vobj v with | some o => o.watched | none => false
  let left := match s.purse d v with | some p => p.balance | none => 0
  let s := if watched then (s.setPurse d v 0).vreturn d v left false else s
  if 1024 < (s.die d).purses.length then s.updDie d fun u => { u with purses := u.purses.filter fun p => !(p.vigil == v && p.balance == 0) }
  else s

/-- A draw of a vigil is on its way to a die. -/
def State.drawing (s : State) (d v : Nat) : Bool :=
  s.vflights.any fun f => f.die == d && (match f.msg with | .draw w _ => w == v | _ => false)

/-- The root of a vigil of another package is asked for a draw, once at a time (R384). -/
def State.askRoot (s : State) (d v need : Nat) : State :=
  if s.vflights.any fun f => (match f.msg with | .ask w _ x => w == v && x == d | _ => false) then s
  else s.vsendTo d v (.ask v need d)

/-- Borrow(v, β) on a die: from the purse, after a draw from the root, or by waiting for returns (R381). -/
def State.borrow (s : State) (d v beta : Nat) : Borrowed :=
  let U := match s.purse d v with | some p => p.balance | none => 0
  if beta ≤ U then .got ((s.setPurse d v (U - beta)).purseAfter d v)
  else if s.drawing d v then .wait s
  else
    match s.vobj v with
    | none => .wait (if hPkg v = s.pkg.pkgid then s else s.askRoot d v (beta - U))
    | some o =>
      let need := beta - U
      let full := decide (1024 ≤ (s.die d).purses.length) && (s.purse d v).isNone
      if need ≤ o.pool then
        let want := if o.watched || full then need else max need (min (2 ^ 40) (o.total / 16))
        let amt := min o.pool want
        let s := if full then s else s.setPurse d v U
        let (id, s) := (s.updV v fun o => { o with pool := o.pool - amt }).fresh
        .wait { s with vflights := s.vflights ++ [{ id, src := hDie v, die := d, msg := .draw v amt }] }
      else .wait (s.updV v fun o => { o with recalled := true })

/-! ## Splits (R380) -/

/-- What a split gives: a code, a wait, or the share taken and what stays. -/
inductive SplitRes where
  | refused (code : Nat)
  | wait (s : State)
  | ok (s : State) (vigil share : Nat)

/-- Split(ls, G, mode, x). -/
def State.split (s : State) (grp : Group) (l G : Nat) (amt : Bool) (x : Nat) : SplitRes :=
  let sl := grp.lslot l
  if sl.balance = 0 ∨ sl.reserved then .refused 0x1B
  else if amt ∧ (x < G ∨ 2 ^ 62 ≤ x) then .refused 0x1D
  else
    let w := sl.balance
    let need := if amt then (if w ≤ x then x + 1 - w else 0) else 2 * G - w
    let take (s : State) (w : Nat) : SplitRes :=
      let c := if amt then x else w / 2
      .ok (s.setSlot grp.id l { sl with balance := w - c }) sl.vigil c
    if need = 0 then take s w
    else
      match s.borrow grp.die sl.vigil need with
      | .wait s => .wait s
      | .got s => take s (w + need)

/-- A refused share goes back into its slot. -/
def State.unsplit (s : State) (gid l c : Nat) : State :=
  s.updGroup gid fun g => { g with slots := listModify (fun x => { x with balance := x.balance + c }) g.slots l }

/-! ## Records (R385, R387, R388, R393) -/

/-- A record is written to a popping gang: status, payload count, payload, slot; the gang goes on (R393). -/
def State.popTo (s : State) (w : VWaiter) (r : Rec) : State :=
  let put (x : Warp) : Warp :=
    ((List.range 8).foldl (fun x i => x.putS (w.d + 2 + i) ((r.payload[i]?).getD 0))
      ((x.putS w.d (statusWord 0 r.lumens)).putS (w.d + 1) (BitVec.ofNat 32 r.payload.length))).unquiet
  let s := (s.updWarp w.warp put).setSlot w.group w.slot { vigil := r.vigil, balance := r.lumens }
  let core := match s.group w.group with | some g => g.coreId | none => 0
  s.handOn core w.gang

/-- Starts a bin's batch (R388). -/
def State.launchBatch (s : State) (h : Nat) (o : VObj) (rs : List Rec) : State :=
  s.launchAdd o.ctx (hDie h) o.launch (lblockOf o.block) (kdescOf o.kdesc) .nowhere none false none rs

/-- A target takes a record, or refuses it with a code (orders 8 and 9 of R448). -/
def State.deliverRec (s : State) (ctx h : Nat) (kinds : List Nat) (r : Rec) : Except Nat State :=
  match s.vvalid ctx h kinds with
  | none => .error 0x19
  | some o =>
    if o.kind = 2 ∧ o.vigil ≠ r.vigil then .error 0x1F
    else
      match o.waiters.filter s.liveWaiter with
      | w :: t => if o.kind = 1 then .ok ((s.updV h fun o => { o with waiters := t }).popTo w r) else .error 0x19
      | [] =>
        if 32 + o.spillcap ≤ o.recs.length then .error 0x1C
        else
          let recs := o.recs ++ [r]
          let clk := (s.die (hDie h)).clk
          if o.kind = 2 ∧ o.count ≤ recs.length then
            let rest := recs.drop o.count
            .ok ((s.updV h fun o => { o with recs := rest, since := if rest.isEmpty then none else o.since }).launchBatch h o
              (recs.take o.count))
          else
            .ok (s.updV h fun o => { o with recs, since := if o.kind = 2 ∧ o.recs.isEmpty then some clk else o.since })

/-! ## Commands (R389–R391, R448) -/

/-- What a command does now. -/
inductive VRes where
  | done (s : State)
  /-- It waits on a borrow. -/
  | wait (s : State)
  /-- It cannot be taken yet. -/
  | hold

/-- The slot that a command names. -/
def Cmd.vslot (m : Cmd) : Option Nat :=
  let ls := (m.ebits.extractLsb' 3 2).toNat
  if m.eop = 23 then (if ls = 0 then some (m.ebits.extractLsb' 1 2).toNat else none)
  else if m.eop = 24 then none
  else some ls

def Cmd.amtMode (m : Cmd) : Bool := m.ebits.getLsbD 2

def State.vdone (s : State) (m : Cmd) (code count : Nat) : VRes := .done (s.giveStatus m.warp m.sop (statusWord code count))

/-- VNEW of a vigil. -/
def State.vnewVigil (s : State) (grp : Group) (m : Cmd) : VRes :=
  let scope := (m.ebits.extractLsb' 5 3).toNat
  let k := (m.reg 0).toNat % 64
  let l := (m.ebits.extractLsb' 1 2).toNat
  if ¬ (scope = 3 ∨ (scope = 4 ∧ s.pkg.negotiated.getLsbD 7)) ∨ k < 3 ∨ 62 < k then s.vdone m 0x10 0
  else if ¬ (grp.lslot l).free then s.vdone m 0x1B 0
  else
    match s.freeObj grp.die with
    | none => s.vdone m 0x18 0
    | some (n, gen) =>
      let h := mkHandle gen 0 s.pkg.pkgid grp.die n
      let o : VObj := { num := n, gen, kind := 0, ctx := m.ctx, k, pool := 2 ^ (k - 1), scope }
      ((s.addObj grp.die o).setSlot grp.id l { vigil := h, balance := 2 ^ (k - 1) }).vdone m 0x00 h

/-- Checks of a queue's or bin's descriptor (R386): a code, 0 for none. Of a bin's vigil of another package only what its handle
says is checked: its object is not here (log 36). -/
def vdescCode (s : State) (ctx kind : Nat) (b : List Byte) : Nat :=
  let spill := BitVec.ofNat 64 (recField b 0 8)
  let cap := recField b 8 4
  let cnt := recField b 0x0C 1
  let bin := kind == 2
  let e := s.buf ctx (refBuf spill)
  let foreign : Bool := match e with | some x => x.ctx != ctx || x.rights != 0 | none => true
  let small : Bool := match e with | some x => decide (x.size < 48 * cap) | none => true
  if recField b 0x0D 3 ≠ 0 ∨ recField b 0x20 32 ≠ 0 ∨ 2 ^ 26 < cap ∨ (spill = 0 ∧ cap ≠ 0) ∨
      (if bin then cnt = 0 ∨ 64 < cnt else cnt ≠ 0 ∨ recField b 0x10 16 ≠ 0) then 0x10
  else if spill ≠ 0 ∧ e.isNone then 0x02
  else if spill ≠ 0 ∧ foreign then 0x03
  else if spill ≠ 0 ∧ small then 0x10
  else
  let v := recField b 0x18 4 % 2 ^ 24
  let away := v != 0 && hPkg v != s.pkg.pkgid && s.inPod (hPkg v) && hKind v == 0
  if bin ∧ ¬ away ∧ (s.vvalid ctx v [0]).isNone then 0x10
  else 0

/-- VNEW of a queue (1) or bin (2). -/
def State.vnewObj (s : State) (grp : Group) (m : Cmd) (kind : Nat) : VRes :=
  let ref := m.pair 0
  let row := s.engRow m.ctx ref 64 .r
  if row = 2 ∨ ref.toNat % 64 ≠ 0 then s.vdone m 0x02 0
  else if row = 3 then s.vdone m 0x03 0
  else
    match s.engRead m.ctx ref 64 with
    | none => .hold
    | some (b, _) =>
      let s := s.findSpan grp.die m.ctx ref 64
      let make (s : State) (blk kd : List Byte) : VRes :=
        match s.freeObj grp.die with
        | none => s.vdone m 0x18 0
        | some (n, gen) =>
          let h := mkHandle gen kind s.pkg.pkgid grp.die n
          let o : VObj :=
            { num := n, gen, kind, ctx := m.ctx, spillcap := recField b 8 4, count := recField b 0x0C 1
              launch := BitVec.ofNat 64 (recField b 0x10 8), vigil := recField b 0x18 4 % 2 ^ 24
              timer := recField b 0x1C 4, block := blk, kdesc := kd }
          (s.addObj grp.die o).vdone m 0x00 h
      match vdescCode s m.ctx kind b with
      | 0 =>
        if kind = 1 then make s [] []
        else
          let lref := BitVec.ofNat 64 (recField b 0x10 8)
          let s := s.findLaunch grp.die m.ctx lref
          match s.launchRead m.ctx lref with
          | .hold => .hold
          | .refused c => s.vdone m c 0
          | .ok lb d =>
            if lb.groups ≠ 1 ∨ d.lbytes < 48 * recField b 0x0C 1 then s.vdone m 0x10 0
            else
              match s.engRead m.ctx lref 256, s.engRead m.ctx lb.desc 64 with
              | some x, some y => make s x.1 y.1
              | _, _ => .hold
      | c => s.vdone m c 0

/-- VFREE; of an object of another package it leaves this one, and no status comes back (log 36). -/
def State.vfreeCmd (s : State) (m : Cmd) : VRes :=
  let h := handleOf (m.reg 0)
  if h ≠ 0 ∧ hPkg h ≠ s.pkg.pkgid then .done s
  else
    match s.vvalid m.ctx h [0, 1, 2] with
    | none => s.vdone m 0x19 0
    | some o =>
      let gone (s : State) : State := s.updDie (hDie h) fun u => { u with vobjs := removeBy VObj.num (hNum h) u.vobjs }
      if o.kind = 0 then
        if ¬ o.quiet then s.vdone m 0x1A 0
        else
          let s := gone s
          let s := { s with dieU := s.dieU.map fun (u : DieU) => { u with purses := removeBy Purse.vigil h u.purses } }
          s.vdone m 0x00 0
      else
        let s := gone s
        let s := o.recs.foldl (fun s r => s.vreturn (hDie h) r.vigil r.lumens true) s
        let s := (o.waiters.filter s.liveWaiter).foldl (fun s w =>
          ((s.updWarp w.warp fun x => (x.putS w.d 0x19000000).unquiet).setSlot w.group w.slot {}).endWait w.gang) s
        s.vdone m 0x00 o.recs.length

/-- Group count of a readable launch block. -/
def State.blockGroups (s : State) (ctx : Nat) (ref : Dword) : Option Nat :=
  if s.engRow ctx ref 256 .r = 0 then (s.engRead ctx ref 256).map fun b => (lblockOf b.1).groups else none

/-- VSPAWN. -/
def State.vspawnCmd (s : State) (grp : Group) (m : Cmd) : VRes :=
  let l := (m.ebits.extractLsb' 3 2).toNat
  let sl := grp.lslot l
  let x := (m.pair 2).toNat
  let short : Bool := match s.blockGroups m.ctx (m.pair 0) with | some g => decide (x < g) | none => false
  if sl.balance = 0 ∨ sl.reserved then s.vdone m 0x1B 0
  else if m.amtMode ∧ (2 ^ 62 ≤ x ∨ short) then
    s.vdone m 0x1D 0
  else
    let s := s.findLaunch grp.die m.ctx (m.pair 0)
    match s.launchRead m.ctx (m.pair 0) with
    | .hold => .hold
    | .refused c => s.vdone m c 0
    | .ok b d =>
      match s.split grp l b.groups m.amtMode x with
      | .refused c => s.vdone m c 0
      | .wait s => .wait s
      | .ok s v c =>
        (s.launchAdd m.ctx grp.die (m.pair 0) b d .nowhere none (m.ebits.getLsbD 9) (some (v, c)) []).vdone m 0x00 b.groups

/-- The record of a VSEND, QPUSH or BSEND (R390). -/
def Cmd.record (m : Cmd) (v c : Nat) : Rec :=
  { lumens := c, vigil := v, payload := (List.range ((m.reg 1).toNat % 16)).map fun i => m.reg (4 + i) }

/-- QPUSH, BSEND and VSEND: the status count is the share, whether the target takes the record or refuses it (R390). -/
def State.pushCmd (s : State) (grp : Group) (m : Cmd) : VRes :=
  let l := (m.ebits.extractLsb' 3 2).toNat
  let h := handleOf (m.reg 0)
  if 8 < (m.reg 1).toNat % 16 then s.vdone m 0x10 0
  else
    match s.split grp l 1 m.amtMode (m.pair 2).toNat with
    | .refused c => s.vdone m c 0
    | .wait s => .wait s
    | .ok s v c =>
      if m.eop = 26 then .done (s.vsendTo grp.die h (.vsend h m.ctx (m.record v c) m.warp m.sop c))
      else
        match s.deliverRec m.ctx h [if m.eop = 27 then 1 else 2] (m.record v c) with
        | .ok s => s.vdone m 0x00 c
        | .error code => (s.unsplit grp.id l c).vdone m code c

/-- VGIVE; its release waits for its condition (R391). -/
def State.vgiveCmd (s : State) (grp : Group) (m : Cmd) : VRes :=
  let l := (m.ebits.extractLsb' 3 2).toNat
  let sl := grp.lslot l
  let x := (m.pair 0).toNat
  let scope := (m.ebits.extractLsb' 5 3).toNat
  let ready : Bool :=
    match s.warp m.warp with
    | some w => !m.ebits.getLsbD 8 || s.releaseReadyAt w grp.coreId scope m.id
    | none => true
  if sl.balance = 0 ∨ sl.reserved then s.vdone m 0x1B 0
  else if m.amtMode ∧ (x = 0 ∨ sl.balance < x) then s.vdone m 0x1D 0
  else if ¬ ready then .hold
  else
    let amt := if m.amtMode then x else sl.balance
    let left := sl.balance - amt
    let s := s.release m.rel
    ((s.setSlot grp.id l (if left = 0 then {} else { sl with balance := left })).vreturn grp.die sl.vigil amt false).vdone m 0x00 amt

/-- VBORROW. -/
def State.vborrowCmd (s : State) (grp : Group) (m : Cmd) : VRes :=
  let l := (m.ebits.extractLsb' 3 2).toNat
  let sl := grp.lslot l
  let x := (m.pair 0).toNat
  if sl.balance = 0 ∨ sl.reserved then s.vdone m 0x1B 0
  else if x = 0 ∨ 2 ^ 40 < x then s.vdone m 0x1D 0
  else
    match s.borrow grp.die sl.vigil x with
    | .wait s => .wait s
    | .got s => (s.setSlot grp.id l { sl with balance := sl.balance + x }).vdone m 0x00 x

/-- A command at the Vesper unit of its group's die. -/
def State.vesperRun (s : State) (grp : Group) (m : Cmd) : VRes :=
  match m.eop with
  | 23 =>
    match (m.ebits.extractLsb' 3 2).toNat with
    | 0 => s.vnewVigil grp m
    | k => s.vnewObj grp m k
  | 24 => s.vfreeCmd m
  | 25 => s.vspawnCmd grp m
  | 29 => s.vgiveCmd grp m
  | 30 => s.vborrowCmd grp m
  | _ => s.pushCmd grp m

/-- A command waits behind an earlier one that names its slot (R380, R381). -/
def sameSlot (m x : Cmd) : Bool := x.group == m.group && x.vslot.isSome && x.vslot == m.vslot

/-- The Vesper unit takes a command into its queue (R11), to which the manual gives no size; here it is never full (log 12). It is
performed there later: a QPOP, VWAITQ or VSTAT of its warp may come before it (R401). -/
def State.vesperAccept (s : State) (grp : Group) (m : Cmd) : Option State :=
  some (s.updDie grp.die fun u => { u with vcmds := u.vcmds ++ [m] })

/-- Groups of a die that have ended and whose last accepted command is done give up their slots (R127, R382). -/
def State.settleSlots (s : State) (d : Nat) : State :=
  (s.groups.filter fun g => g.stat == .ended && g.die == d && !g.slots.all LSlot.free &&
    (s.die d).vcmds.all fun m => m.group != g.id).foldl State.returnSlots s

/-- Commands accepted at a die are performed in order, as far as they can be: one that waits, on a borrow, on a page or on its
release, stays, and the later ones that name its slot behind it. -/
def State.retryV (s : State) (d : Nat) : State :=
  let all := (s.die d).vcmds
  let r := all.foldl (fun (r : State × List Cmd) m =>
    if r.2.any (sameSlot m) then (r.1, r.2 ++ [m])
    else
      match r.1.group m.group with
      | none => r
      | some grp =>
        match r.1.vesperRun grp m with
        | .done s => (s, r.2)
        | .wait s => (s, r.2 ++ [m])
        | .hold => (r.1, r.2 ++ [m])) (s, [])
  (r.1.updDie d fun u => { u with vcmds := r.2 }).settleSlots d

def State.retryAll (s : State) : State := (List.range 4).foldl State.retryV s

/-! ## Quiet (R383, R394) -/

/-- The status that a VWAITQ writes for a quiet vigil. -/
def VObj.quietWord (o : VObj) : Word := if o.aband = 0 then 0 else statusWord 0x04 o.aband

/-- Wakes a vigil's waiters when P = T. -/
def State.testQuiet (s : State) (h : Nat) : State :=
  match s.vobj h with
  | none => s
  | some o =>
    if o.kind = 0 ∧ o.quiet then
      (o.waiters.filter s.liveWaiter).foldl (fun s w =>
        let core := match s.group w.group with | some g => g.coreId | none => 0
        (s.updWarp w.warp fun x => (x.putS w.d o.quietWord).unquiet).handOn core w.gang)
        (s.updV h fun o => { o with waiters := [] })
    else s

/-! ## Messages and timers -/

/-- Class of a message: a VSEND is a request, moves of lumens are control messages (log 12). -/
def VMsg.cls : VMsg → Nat
  | .vsend .. => 0
  | _ => 2

/-- No earlier message of its class travels from its die to its die: these arrive in the order sent (R23, R25). -/
def State.flightDue (s : State) (f : VFlight) : Bool :=
  (s.vflights.takeWhile fun e => e.id != f.id).all fun e => !(e.src == f.src && e.die == f.die && e.msg.cls == f.msg.cls)

/-- The flight with a name that arrives at a die of this package. -/
def State.flight (s : State) (die id : Nat) : Option VMsg :=
  match lookupBy VFlight.id s.vflights id with
  | some f => if f.die = die ∧ die < 4 ∧ s.flightDue f then some f.msg else none
  | none => none

/-- R382: a return message reaches the root. -/
def execLumenReturn (die msg : Nat) (s : State) : Host.Outcome State Fault Refusal :=
  match s.flight die msg with
  | some (.ret v amt ab) =>
    let s := (s.takeFlight msg).updV v fun o =>
      { o with pool := o.pool + amt, aband := if ab then min (o.aband + 1) 0xFFFFFF else o.aband }
    .next ((s.testQuiet v).retryAll)
  | _ => .next s

/-- R381: a draw reaches its purse, and the commands that wait on it go on. -/
def execPurseDraw (die msg : Nat) (s : State) : Host.Outcome State Fault Refusal :=
  match s.flight die msg with
  | some (.draw v amt) =>
    let U := match s.purse die v with | some p => p.balance | none => 0
    .next ((((s.takeFlight msg).setPurse die v (U + amt)).retryV die).purseAfter die v)
  | _ => .next s

/-- R383: a recall reaches every purse of its vigil, and each returns its whole balance. -/
def execPurseRecall (die num : Nat) (s : State) : Host.Outcome State Fault Refusal :=
  match lookupBy VObj.num (s.die die).vobjs num with
  | none => .next s
  | some o =>
    if ¬ o.recalled then .next s
    else
      let h := mkHandle o.gen o.kind s.pkg.pkgid die num
      let s := s.updV h fun o => { o with recalled := false }
      .next ((List.range 4).foldl (fun s d =>
        match s.purse d h with
        | some p => (s.setPurse d h 0).vreturn d h p.balance false
        | none => s) s)

/-- R391: a VSEND record reaches its target, which takes it or sends its lumens back. -/
def execVsendMessage (die msg : Nat) (s : State) : Host.Outcome State Fault Refusal :=
  match s.flight die msg with
  | some (.vsend target ctx r w sop c) =>
    let s := s.takeFlight msg
    match s.deliverRec ctx target [1, 2] r with
    | .ok s => .next (s.giveStatus w sop (statusWord 0x00 c))
    | .error code => .next ((s.vreturn die r.vigil r.lumens false).giveStatus w sop (statusWord code c))
  | _ => .next s

/-- R388: a bin's timer has run out since a record entered the empty bin: all its records start as a batch. -/
def execBinTimer (die num : Nat) (s : State) : Host.Outcome State Fault Refusal :=
  match lookupBy VObj.num (s.die die).vobjs num with
  | none => .next s
  | some o =>
    match o.since with
    | none => .next s
    | some t =>
      if o.kind = 2 ∧ o.timer ≠ 0 ∧ t + o.timer ≤ (s.die die).clk ∧ ¬ o.recs.isEmpty then
        let h := mkHandle o.gen o.kind s.pkg.pkgid die num
        .next ((s.updV h fun o => { o with recs := [], since := none }).launchBatch h o o.recs)
      else .next s

/-! ## The command words (R389) -/

/-- R391: vnew. -/
def execVnew (k : BitVec 3) (a d : BitVec 5) (q : BitVec 1) (sc : BitVec 3) (t l : BitVec 2) (s : State) :
    Host.Outcome State Fault Refusal :=
  commandWord (checks (decide (t ≠ 3) && scopeOk sc) ((t == 0 && q == 0) || (t != 0 && l == 0)) (t == 0 || evenU a)
    fun _ => true) k 23 (some d.toNat) (sRegs a.toNat (if t = 0 then 1 else 2)) s

/-- R391: vfree. -/
def execVfree (k : BitVec 3) (a d : BitVec 5) (n : BitVec 1) (s : State) : Host.Outcome State Fault Refusal :=
  commandWord (checks true (nostatOk n d) true fun _ => true) k 24 (statusDst n d) (sRegs a.toNat 1) s

/-- R391: vspawn. -/
def execVspawn (k : BitVec 3) (a d : BitVec 5) (n _q : BitVec 1) (sc : BitVec 3) (_l : BitVec 2) (_m : BitVec 1) (s : State) :
    Host.Outcome State Fault Refusal :=
  commandWord (checks (scopeOk sc) (nostatOk n d) (evenU a && decide (a.toNat ≤ 28)) fun _ => true) k 25 (statusDst n d)
    (sRegs a.toNat 4) s

/-- Checks of the words that carry a payload. -/
def payloadChk (a d : BitVec 5) (n : BitVec 1) (sc : BitVec 3) : Ctx → Option Nat :=
  checks (scopeOk sc) (nostatOk n d) (evenU a && decide (a.toNat ≤ 20)) fun _ => true

/-- R391: vsend. -/
def execVsend (k : BitVec 3) (a d : BitVec 5) (n _q : BitVec 1) (sc : BitVec 3) (_l : BitVec 2) (_m : BitVec 1) (s : State) :
    Host.Outcome State Fault Refusal :=
  commandWord (payloadChk a d n sc) k 26 (statusDst n d) (sRegs a.toNat 12) s

/-- R391: qpush. -/
def execQpush (k : BitVec 3) (a d : BitVec 5) (n _q : BitVec 1) (sc : BitVec 3) (_l : BitVec 2) (_m : BitVec 1) (s : State) :
    Host.Outcome State Fault Refusal :=
  commandWord (payloadChk a d n sc) k 27 (statusDst n d) (sRegs a.toNat 12) s

/-- R391: bsend. -/
def execBsend (k : BitVec 3) (a d : BitVec 5) (n _q : BitVec 1) (sc : BitVec 3) (_l : BitVec 2) (_m : BitVec 1) (s : State) :
    Host.Outcome State Fault Refusal :=
  commandWord (payloadChk a d n sc) k 28 (statusDst n d) (sRegs a.toNat 12) s

/-- R391: vgive. -/
def execVgive (k : BitVec 3) (a d : BitVec 5) (n _r : BitVec 1) (sc : BitVec 3) (_l : BitVec 2) (m : BitVec 1) (s : State) :
    Host.Outcome State Fault Refusal :=
  commandWord (checks (scopeOk sc) (nostatOk n d && (m == 1 || a == 0)) (evenU a) fun _ => true) k 29 (statusDst n d)
    (sRegs a.toNat 2) s

/-- R391: vborrow. -/
def execVborrow (k : BitVec 3) (a d : BitVec 5) (n : BitVec 1) (_l : BitVec 2) (s : State) :
    Host.Outcome State Fault Refusal :=
  commandWord (checks true (nostatOk n d) (evenU a) fun _ => true) k 30 (statusDst n d) (sRegs a.toNat 2) s

/-! ## Waiting words (R392–R395) -/

/-- R393: qpop. -/
def execQpop (k : BitVec 3) (d a : BitVec 5) (m : BitVec 1) (l : BitVec 2) (s : State) : Host.Outcome State Fault Refusal :=
  issue (issueFault (.qpop k d a m l)) (fun c s =>
    if guardUni k c.w = false then .go s []
    else
      let s := s.updWarp c.w.id Warp.unquiet
      let h := handleOf (c.rv.getS a.toNat)
      let say (v : Word) : Eff := .go (s.updWarp c.w.id fun w => w.putS d.toNat v) []
      let w : VWaiter := { gang := c.g.uid, warp := c.w.id, group := c.grp.id, d := d.toNat, slot := l.toNat }
      match s.vvalid c.grp.ctx h [1] with
      | none => say 0x19000000
      | some o =>
        if ¬ (c.grp.lslot l.toNat).free then say 0x1B000000
        else
          match o.recs with
          | r :: t => .go ((s.updV h fun o => { o with recs := t }).popTo w r) []
          | [] =>
            if m = 1 then say 0x1E000000
            else if 4096 ≤ s.vwaiters (hDie h) then say 0x18000000
            else
              let s := (s.updV h fun o => { o with waiters := o.waiters ++ [w] }).setSlot c.grp.id l.toNat { reserved := true }
              .go (s.engineWait c (.qpop d.toNat l.toNat h)) []) s

/-- R394: vwaitq. For a vigil of another package the slot is checked and given here, where it is kept (R448), at scope pod, the one
that such a vigil has; the wait itself is at its home (log 36). -/
def execVwaitq (k : BitVec 3) (d a : BitVec 5) (g : BitVec 1) (l : BitVec 2) (s : State) :
    Host.Outcome State Fault Refusal :=
  issue (issueFault (.vwaitq k d a g l)) (fun c s =>
    if guardUni k c.w = false then .go s []
    else
      let h := handleOf (c.rv.getS a.toNat)
      let put (s : State) (v : Word) : State := s.updWarp c.w.id fun w => (w.putS d.toNat v).unquiet
      let sl := c.grp.lslot l.toNat
      let mine := sl.balance != 0 && sl.vigil == h
      if hPkg h ≠ s.pkg.pkgid ∧ h ≠ 0 then
        if g = 0 && mine then .go (put s 0x1B000000) []
        else if mine && !s.releaseReadyAt c.w c.grp.coreId 4 s.nextId then .stall
        else
          let s := if mine then ((s.acked 4).setSlot c.grp.id l.toNat {}).vreturn c.grp.die h sl.balance false else s
          .go (s.engineWait c (.vwaitq d.toNat h)) []
      else
        match s.vvalid c.grp.ctx h [0] with
        | none => .go (put s 0x19000000) []
        | some o =>
          if g = 0 && mine then .go (put s 0x1B000000) []
          else if g = 1 && mine && !s.releaseReadyAt c.w c.grp.coreId o.scope s.nextId then .stall
          else if ¬ o.quiet ∧ 4096 ≤ s.vwaiters (hDie h) then .go (put s 0x18000000) []
          else
            let s :=
              if g = 1 && mine then
                ((s.acked o.scope).setSlot c.grp.id l.toNat {}).vreturn c.grp.die h sl.balance false
              else s
            let s := s.updV h fun o => { o with watched := true, recalled := o.recalled || !o.watched }
            if o.quiet then .go ((put s o.quietWord).acquireGang c.grp.coreId c.g.uid) []
            else
              let w : VWaiter := { gang := c.g.uid, warp := c.w.id, group := c.grp.id, d := d.toNat, slot := 4 }
              .go ((s.updV h fun o => { o with waiters := o.waiters ++ [w] }).engineWait c (.vwaitq d.toNat h)) []) s

/-- VSTAT's values of an object (R395). -/
def vstatObj (o : VObj) (sel : Nat) : Word :=
  match sel with
  | 0 =>
    if o.kind = 0 then BitVec.ofNat 32 (o.k + (if o.watched then 256 else 0) + (if o.quiet then 512 else 0))
    else BitVec.ofNat 32 (o.kind * 2 ^ 18)
  | 1 => if o.kind = 0 then lo32 o.pool else BitVec.ofNat 32 o.recs.length
  | 2 => if o.kind = 0 then hi32 o.pool else 0
  | _ => if o.kind = 0 then BitVec.ofNat 32 o.aband else if o.kind = 1 then BitVec.ofNat 32 o.waiters.length else 0

/-- VSTAT's value; the slots are the group's own. -/
def vstatValue (s : State) (c : Ctx) (a : BitVec 5) (sel : Nat) : Word :=
  if 8 ≤ sel ∧ sel < 12 then
    let l := c.grp.lslot (sel - 8)
    if l.reserved then 0x80000000 else if l.balance = 0 then 0 else BitVec.ofNat 32 l.vigil
  else if 12 ≤ sel then
    let b := (c.grp.lslot ((sel - 12) / 2)).balance
    if sel % 2 = 0 then lo32 b else hi32 b
  else
    match s.vvalid c.grp.ctx (handleOf (c.rv.getS a.toNat)) [0, 1, 2] with
    | some o => vstatObj { o with waiters := o.waiters.filter s.liveWaiter } sel
    | none => 0x19000000

/-- R395: vstat; a value of another package's object is not here, and stays on its way. -/
def execVstat (k : BitVec 3) (d a x : BitVec 5) (s : State) : Host.Outcome State Fault Refusal :=
  issue (issueFault (.vstat k d a x)) (fun c s =>
    if guardUni k c.w = false then .go (s.fallNow c.w.id c.g.fa none) []
    else
      let h := handleOf (c.rv.getS a.toNat)
      let (id, s) := s.fresh
      let kind : OpKind :=
        if x.toNat < 8 ∧ h ≠ 0 ∧ hPkg h ≠ s.pkg.pkgid then .status d.toNat
        else .done [⟨uniLane, d.toNat, vstatValue s c a x.toNat⟩]
      .go ((s.addOp c.w.id (c.newOp id c.g.fa none kind)).updWarp c.w.id Warp.unquiet) []) s

end Sys2Proof.Machine
end

