-- ==== Sys2Proof/Machine/Groups.lean ====
section
/-! DEFINITION. The end of warps and groups, preemption, the context image and its restore (06_core_threads.md R127,
10_core_uniform.md R201–R203, 11_core_traps.md R223–R226, 13_launch.md R234, 15_tiles.md R278, R282, R283,
16_lantern.md R290, 20_orrery_isa.md R366–R368, 22_vesper.md R382, R397, R398). -/

namespace Sys2Proof.Machine

/-! ## The end of a warp (R127, R201) -/

def Warp.allExited (w : Warp) : Bool := w.lanes.all fun ln => ln.stat == .exited

/-- The operation only waits for a status word, which is discarded when its warp has ended. -/
def TOp.onlyStatus (o : TOp) : Bool := match o.kind with | .status _ => true | _ => false

/-- Commands of a warp still in a command buffer. -/
def State.hasCmds (s : State) (wid : Nat) : Bool := s.cores.any fun e => e.2.cmds.any fun m => m.warp == wid

/-- The last warp of a group that has not ended. -/
def State.lastWarp (s : State) (w : Warp) : Bool := s.warps.all fun x => x.group != w.group || x.id == w.id || x.ended

/-- Every condition of R127 for a warp's end; the releases of R234 and, before lumens are returned, of R382 at its group's end also
wait for the stores of its core. -/
def State.canEnd (s : State) (w : Warp) (grp : Group) : Bool :=
  !w.ended && w.allExited && !(s.gangs.any fun g => g.warp == w.id) && w.sq.isEmpty && w.ops.all TOp.onlyStatus &&
    !s.hasCmds w.id &&
    (!s.lastWarp w || (grp.rel.isNone && grp.slots.all fun l => l.balance == 0) || s.wtClear grp.coreId)

/-- Expected counts fall to 0 at the least. -/
def Barrier.fewer (b : Barrier) : Barrier := { b with exp := if b.exp = 0 then 0 else b.exp - 1 }

/-- Scope and index of every wider barrier a descriptor grants. -/
def wideBars (d : KDesc) : List (Nat × Nat) :=
  (List.range 4).flatMap fun i => (List.range (d.barCount (i + 1))).map fun j => (i + 1, j)

/-- A group arrives at a wider barrier; at pod scope its arrival leaves for the home. -/
def State.groupCounts (s : State) (grp : Group) (scope idx : Nat) : State :=
  if scope = 4 then
    let u := barUnit s grp 4
    { s with bars := s.bars.map fun x => if isNetBar 4 idx u.1 u.2 x then { x with sent := x.sent + 1 } else x }
  else s.modBar grp scope idx fun x => { x with arr := x.arr + 1 }

def State.settleAll (s : State) (grp : Group) (l : List (Nat × Nat)) : State :=
  l.foldl (fun s b => s.barSettle 64 grp b.1 b.2) s

/-! ## The end of a group (R127, R234, R278, R368, R382) -/

/-- Posts in slots and unmatched takes of a group leave the engines (R278). -/
def State.withdrawNotices (s : State) (g : Group) : State :=
  let mine (t : TCmd) : Bool := t.group == g.id && t.eop == 11
  let posts := (s.quad g.quad).tcmds.filter fun t => mine t && !t.take && !t.acked
  let inSlot (t : TCmd) : Bool :=
    s.quads.all fun e => e.2.notices.all fun n => !(n.quad == g.quad && n.cmd == t.id && n.matched)
  let gone := (posts.filter inSlot).map TCmd.id
  let gone := gone ++ ((s.quad g.quad).tcmds.filter fun t => mine t && t.take && t.partner.isNone).map TCmd.id
  let f (e : Nat × QuadU) : Nat × QuadU :=
    (e.1, { e.2 with notices := e.2.notices.filter fun n => !(n.quad == g.quad && gone.contains n.cmd) })
  { s with quads := s.quads.map f }.updQuad g.quad fun q => { q with tcmds := q.tcmds.filter fun t => !gone.contains t.id }

/-- A launch counts a group that has ended; with its last one its status is written and its barriers go (R234, R238). -/
def State.launchCount (s : State) (n : Nat) (aband : Bool) : State :=
  let s := s.updLaunch n fun l => { l with ended := l.ended + 1, anyAbandoned := l.anyAbandoned || aband }
  match s.launch n with
  | none => s
  | some l =>
    if l.ended < l.groups then s
    else
      let s := s.launchStatus l.home l.status (statusWord (if l.anyAbandoned then 0x04 else 0x00) l.ended)
      { s with launches := removeBy Launch.id n s.launches
               bars := s.bars.filter fun b => b.scope == 4 || b.key != n }

/-- A group ends. -/
def State.endGroup (s : State) (gid : Nat) : State :=
  match s.group gid with
  | none => s
  | some g =>
    let s := (s.abandonCalls gid).freeOrbits gid
    let s := s.withdrawNotices g
    let s := ((s.updGroup gid fun g => { g with stat := .ended }).settleMarks g.quad).settleSlots g.die
    let wide := wideBars g.desc
    let s := wide.foldl (fun s b => s.modBar g b.1 b.2 Barrier.fewer) s
    let s := s.settleAll g wide
    (s.release g.rel).launchCount g.launch g.abandoned

/-- A warp ends: it leaves every expect (R295), the group's barriers and collections are evaluated again, and the group ends with its last warp. -/
def State.endWarp (s : State) (grp : Group) (wid : Nat) : State :=
  let waiting := (wideBars grp.desc).filter fun b => !s.groupArrived grp.id b.1 b.2
  let s := s.updWarp wid fun w => { w with ended := true }
  let num := match s.warp wid with | some w => w.num | none => 16
  let s := s.updGroup grp.id fun g =>
    { g with bars := g.bars.map Barrier.fewer
             conv := g.conv.map fun k => { k with expect := k.expect &&& ~~~(1#16 <<< num) } }
  if s.warps.any fun x => x.group == grp.id && !x.ended then
    let s := (waiting.filter fun b => s.groupArrived grp.id b.1 b.2).foldl (fun s b => s.groupCounts grp b.1 b.2) s
    let s := s.settleAll grp ((List.range grp.desc.gbars).map (fun i => (0, i)) ++ wideBars grp.desc)
    (List.range grp.desc.cvcount).foldl (fun s c => s.postCollection grp.id c) s
  else s.endGroup grp.id

/-- R127: a warp ends once its slices have exited, its queue has drained and its operations have completed. -/
def execWarpEnd (wid : Nat) (s : State) : Host.Outcome State Fault Refusal :=
  match s.warp wid with
  | none => .next s
  | some w =>
    match s.group w.group with
    | none => .next s
    | some grp => .next (if grp.stat == .resident && s.canEnd w grp then s.endWarp grp wid else s)

/-! ## The context image (R224, R225, R283, R290, R315, R367, R397) -/

def padTo (n : Nat) (l : List Byte) : List Byte := l ++ List.replicate (n - l.length) 0

def word4 (x : Word) : List Byte := leBytes x.toNat 4
def word8 (x : Dword) : List Byte := leBytes x.toNat 8

/-- Parked cause of a lane (R225). -/
def parkCode (w : Warp) (l : Nat) (ln : Lane) : Nat :=
  match ln.stat with
  | .parked .meeting => 1
  | .parked .warpWide => 2
  | .parked .barrier => 3
  | .parked .engine => 4
  | .parked .fetch => 5
  | .parked .debug => 6
  | .exited => 0
  | .ready =>
    match w.handler with
    | some h => if inMask h.lanes l then 0 else 6
    | none => if w.dbgPark.isSome then 6 else 0

/-- PC of a lane in the image: a lane parked at a word stands at it (R294). -/
def State.imagePc (s : State) (w : Warp) (l : Nat) (ln : Lane) : Word :=
  match s.gangs.find? fun g => g.warp == w.id && inMask g.lanes l with
  | some g => g.pc - 4
  | none => ln.pc

/-- The lane's slice has wholly exited. -/
def Warp.sliceGone (w : Warp) (l : Nat) : Bool := (List.range 4).all fun j => (w.lane (4 * (l / 4) + j)).stat == .exited

/-- The 32 barrier entries of a warp: b0–b15, then the ids of quad, die, pkg and pod scope. -/
def barIds : List (Nat × Nat) :=
  (List.range 16).map (fun i => (0, i)) ++ (List.range 4).flatMap fun k => (List.range 4).map fun i => (k + 1, i)

def TrapRegs.bytes (t : TrapRegs) : List Byte :=
  ([t.cause, t.pc, t.word, t.d, t.a, t.b, t.imm] ++
    [loWord t.lanes, hiWord t.lanes, loWord t.addr, hiWord t.addr, loWord t.aux, hiWord t.aux] ++ t.hscr).flatMap word4

/-- A warp record. Inside a debug handler bit 5 of +0x500 is set and bit 4 is not: R225 does not say whether both are (log 20). -/
def State.warpRecord (s : State) (w : Warp) (n : Nat) : List Byte :=
  let lanes := mapFrom (fun l ln => (l, ln)) 0 w.lanes
  let each (f : Nat → Lane → List Byte) (zero : List Byte) : List Byte :=
    lanes.flatMap fun x => if w.sliceGone x.1 then zero else f x.1 x.2
  let pcs := each (fun l ln => word4 (s.imagePc w l ln)) (leBytes 0 4)
  let meets := each (fun _ ln => word4 ln.meet) (leBytes 0 4)
  let preds := each (fun _ ln => leBytes (ln.preds ||| 1).toNat 1) [0]
  let stats := lanes.flatMap fun x =>
    leBytes ((if x.2.stat = .exited then 1 else 0) + 2 * parkCode w x.1 x.2) 1
  let masks := each (fun _ ln => word8 ln.wmask) (leBytes 0 8)
  let ss := (List.range 32).flatMap fun i => word4 (w.getS i)
  let hb := match w.handler with | some h => if h.debug then 0x20 else 0x10 | none => 0
  let flags := (List.range 12).flatMap fun f => leBytes (w.flag f) 1
  let bars := barIds.flatMap fun b =>
    let x := w.bar b.1 b.2
    word8 x.set ++ word4 (x.last.getD 0) ++ leBytes 0 4
  let regs := (List.range n).flatMap fun i => each (fun _ ln => word4 (tabGet 0 ln.v i)) (leBytes 0 4)
  let head := padTo 0x280 (pcs ++ meets ++ preds ++ stats) ++ masks ++ ss
  let mid := padTo 0x508 (head ++ leBytes ((w.k ||| 1).toNat + hb) 1) ++ flags ++ leBytes (w.prio % 8) 1
  padTo 0x800 (padTo 0x580 (padTo 0x520 mid ++ w.trap.bytes) ++ bars) ++ regs

/-- The entry of a convergence register (R293). -/
def State.convEntry (s : State) (g : Group) (c : Nat) : List Byte :=
  let k := g.convAt c
  let done := (s.groupWarps g.id).foldl (fun m w =>
    if maskSub w.live (s.signedLanes w.id c) then m + 2 ^ w.num else m) 0
  leBytes k.expect.toNat 2 ++ leBytes (if k.collecting then done else 0) 2 ++
    leBytes (k.ebits.toNat + (if k.collecting then 2 ^ 31 else 0)) 4 ++ word4 k.pc ++ word4 k.ob

/-- The group synchronisation section. -/
def State.groupSection (s : State) (g : Group) : List Byte :=
  let bars := (List.range 16).flatMap fun i =>
    let b := (g.bars[i]?).getD {}
    word4 b.exp ++ word4 b.arr ++ word4 b.gen ++ leBytes 0 4
  let marks := ((List.range g.macros).filter fun m => (s.quad g.quad).marks.contains (g.quadMacro m)).foldl
    (fun x m => x + 2 ^ m) 0
  let (code, eop, n) := g.merr
  (List.range 16).flatMap (s.convEntry g) ++ leBytes 0 64 ++ bars ++ leBytes marks 16 ++
    leBytes (code * 2 ^ 24 + eop * 2 ^ 16 + n) 4 ++ leBytes 0 12

/-- A tile of the tile section. -/
def QuadU.tileBytes (q : QuadU) (t : Nat) : List Byte :=
  padTo 64 [if q.ovf.contains t then 1 else 0] ++ (List.range 32).flatMap fun r =>
    (List.range 128).flatMap fun c => accBytes (q.accAt t r c)

/-- A copy record (R283); started as the save found the command. -/
def State.copyRecord (s : State) (t : TCmd) : List Byte :=
  let w := s.warp t.warp
  let sd := match w, t.sop with
    | some w, some o => (match lookupBy TOp.id w.ops o with
      | some x => (match x.kind with | .status d => d | _ => 0)
      | none => 0)
    | _, _ => 0
  let fl := (if t.sop.isNone then 1 else 0) + (if t.acq.isSome then 2 else 0) + (if t.rel.isSome then 4 else 0) + 8 * t.scope3 +
    (if t.take then 64 else 0) + (if t.started then 128 else 0)
  let n := (t.sectors + 63) / 64
  let pending := match t.parked with | [] => 0xFFFFFFFF | k :: r => r.foldl min k
  let bits := t.done.foldl (fun m k => m + 2 ^ k) 0
  let num := match w with | some w => w.num | none => 0
  leBytes t.eop 1 ++ leBytes fl 1 ++ leBytes sd 1 ++ leBytes num 1 ++ leBytes t.sectors 4 ++ leBytes pending 4 ++
    leBytes (if t.poisoned then 1 else 0) 1 ++ leBytes 0 1 ++ leBytes (0xC0 + 8 * n) 2 ++
    (List.range 10).flatMap (fun i => word4 ((t.regs[i]?).getD 0)) ++ leBytes 0 8 ++ leBytes t.mask.toNat 16 ++
    leBytes 0 48 ++ padTo 64 t.record ++ leBytes bits (8 * n)

/-- The orbit section (R367). -/
def State.orbitSection (s : State) (g : Group) : List Byte :=
  let mine := s.allOrbits.filter fun x => x.2.bound == some g.id
  if mine.isEmpty then []
  else leBytes mine.length 4 ++ leBytes 0 12 ++ mine.flatMap fun x =>
    leBytes (x.2.handle x.1) 1 ++ leBytes (if oLantern x.2.record then (if x.2.running then 3 else 1) else 0) 1 ++ leBytes 0 6

/-- The lumen section (R397). -/
def lumenSection (g : Group) : List Byte :=
  if g.slots.all LSlot.free then []
  else (List.range 4).flatMap fun i =>
    let l := g.lslot i
    leBytes l.vigil 4 ++ leBytes ((if l.balance = 0 then 0 else 1) + (if l.reserved then 2 else 0)) 4 ++ leBytes l.balance 8

/-- The image of a group, its copy records given. -/
def State.imageBytes (s : State) (g : Group) (cmds : List TCmd) : List Byte :=
  let ws := s.groupWarps g.id
  let secs : List (List Byte) :=
    [ws.flatMap fun w => s.warpRecord w g.allot, s.groupSection g, (s.quad g.quad).lread g.lbase g.desc.lbytes,
      g.tiles.flatMap (s.quad g.quad).tileBytes, cmds.flatMap s.copyRecord, s.orbitSection g, lumenSection g]
  let total := 0x100 + (secs.map List.length).sum
  let block := match s.launch g.launch with | some l => l.block | none => 0
  let head := leBytes 1 4 ++ leBytes (if g.acquired then 1 else 0) 4 ++ leBytes total 8 ++ word8 g.index ++ word8 block ++
    leBytes g.allot 1 ++ leBytes ws.length 1 ++ leBytes g.tiles.length 1
  let dirs := (secs.foldl (fun (r : List Byte × Nat) x =>
    (r.1 ++ leBytes (if x.isEmpty then 0 else r.2) 8 ++ leBytes x.length 8, r.2 + x.length)) ([], 0x100)).1
  padTo 0x100 (padTo 0x40 head ++ dirs) ++ secs.flatten

/-! ## Saving (R223, R282, R366, R398) -/

/-- A gang that stands at the boundary of a save: its lanes stay parked where they are. -/
def Gang.rests (s : State) (g : Gang) : Bool :=
  match g.wait with
  | .none => false
  | .fence _ _ _ => false
  | .acquire => false
  | .result _ _ => false
  | .lanes _ => match s.warp g.warp with
    | some w => (maskLanes g.lanes).any fun l => match (w.lane l).stat with | .parked _ => true | _ => false
    | none => false
  | _ => true

/-- Operations that a save leaves outstanding: status words, parked warp-wide words and signatures. -/
def savable (gangs : List Gang) (o : TOp) : Bool :=
  match o.kind with
  | .status _ => true
  | .warpWide _ _ => true
  | .accept => gangs.any fun g => match g.wait with
    | .signed _ _ op => op == o.id
    | .unsigned _ _ op => op == o.id
    | _ => false
  | _ => false

/-- A tile command that completes before a save. -/
def State.mustFinish (s : State) (quad : Nat) (t : TCmd) : Bool :=
  if t.eop = 10 then t.started && s.casting quad t
  else if t.isTake then t.partner.isSome
  else if t.isPost then t.acked || s.quads.any fun e => e.2.notices.any fun n => n.quad == quad && n.cmd == t.id && n.matched
  else false

/-- The lanes of a poison record cannot take its trap before the save: they stand parked inside their clauses, or behind another
gang's handler or debug event. The trap waits for their next boundary and stays with the warp. -/
def State.poisonRests (s : State) (w : Warp) (p : PoisonRec) : Bool :=
  (maskLanes p.lanes).all fun l => (w.lane l).stat == .exited || s.inGang w.id l || w.dbgPark.isSome ||
    (match w.handler with | some h => !inMask h.lanes l | none => false)

/-- A Vesper command that waits on a borrow which no draw now serves (R381). -/
def State.vborrowing (s : State) (g : Group) (m : Cmd) : Bool :=
  match s.vesperRun g m, m.vslot with
  | .wait t, some l => !s.drawing g.die (g.lslot l).vigil && !t.drawing g.die (g.lslot l).vigil
  | _, _ => false

/-- The Vesper commands of a group that a save withdraws: those that wait on a borrow, and those behind them (R398). Any other
completes before, one whose draw is on its way too (R404). -/
def State.vsavable (s : State) (g : Group) (ms : List Cmd) : Bool :=
  (ms.foldl (fun (r : Bool × List Cmd) m =>
    if r.2.any (sameSlot m) then (r.1, r.2 ++ [m])
    else if s.vborrowing g m then (r.1, r.2 ++ [m])
    else (false, r.2)) (true, [])).1

/-- Everything that R223, R282, R366 and R398 let complete first has completed; no store of the core is on its way, as FENCE.SC
of scope sys asks (R93, R103). -/
def State.readyToSave (s : State) (g : Group) : Bool :=
  let ws := s.groupWarps g.id
  let ids := ws.map Warp.id
  (s.gangs.all fun x => !ids.contains x.warp || x.rests s) && s.wtClear g.coreId &&
    (ws.all fun w => w.poison.all (s.poisonRests w) && w.sq.isEmpty && !s.hasCmds w.id && w.ops.all (savable s.gangs)) &&
    (s.quad g.quad).entries.all (fun e => e.group != g.id) &&
    (s.quad g.quad).tcmds.all (fun t => t.group != g.id || !s.mustFinish g.quad t) &&
    (s.vflights.all fun f => match f.msg with | .vsend _ _ _ w _ _ => !ids.contains w | _ => true) &&
    s.vsavable g ((s.die g.die).vcmds.filter fun m => m.group == g.id)

/-- A command as it is reposted: a withdrawn one starts anew; a copy keeps its record and its sectors, and runs again when the
engine starts it (R271, R282). -/
def TCmd.saved (t : TCmd) : TCmd :=
  if t.eop = 10 ∨ t.eop = 11 then
    { t with started := false, ready := [], inbound := [], sentReady := [], fetched := [], partner := none, placed := false }
  else { t with started := false, parked := [] }

/-- Commands that leave a quad's engine leave the rendezvous and the slots of the others (R282). -/
def State.unpair (s : State) (quad : Nat) (cmds : List TCmd) : State :=
  let gone := cmds.map TCmd.id
  let told := cmds.flatMap TCmd.ready
  let f (n : Nat) (x : TCmd) : TCmd :=
    { x with ready := x.ready.filter fun r => !(r.1 == quad && gone.contains r.2)
             sentReady := if told.contains (n, x.id) then x.sentReady.filter (· != quad) else x.sentReady }
  { s with quads := s.quads.map fun (e : Nat × QuadU) =>
      (e.1, { e.2 with notices := e.2.notices.filter fun x => !(x.quad == quad && gone.contains x.cmd)
                       tcmds := e.2.tcmds.map (f e.1) }) }

/-- The prefetches of a group end, with the sectors handled so far (R282). -/
def State.endPrefetches (s : State) (g : Group) : State :=
  ((s.quad g.quad).tcmds.filter fun t => t.group == g.id && t.eop == 13).foldl
    (fun s t => s.tileDone g.quad t 0 t.done.length) s

/-- Tiles of a group, numbered from its own a0. -/
def QuadU.saveAcc (q : QuadU) (tiles : List Nat) : Tab (BitVec 96 × BitVec 2) :=
  (mapFrom (fun i t => (i, t)) 0 tiles).flatMap fun x =>
    q.acc.filterMap fun e => if e.1 / 4096 = x.2 then some (x.1 * 4096 + e.1 % 4096, e.2) else none

/-- Waiters of a group leave the lists of the Orrery, the Vesper units and the synchronisation words. -/
def State.leaveLists (s : State) (g : Group) (ids : List Nat) : State :=
  let leave (u : DieU) : DieU :=
    { u with owaiters := u.owaiters.filter fun w => w.group != g.id
             vobjs := u.vobjs.map fun o => { o with waiters := o.waiters.filter fun w => w.group != g.id } }
  let s := { s with dieU := s.dieU.map leave }
  (s.gangs.filter fun x => ids.contains x.warp).foldl (fun s x =>
    match x.wait with
    | .swait _ off _ => s.addWaiter g.quad (g.lbase + off) (-1)
    | _ => s) s

/-- Where a group's image lies in the save buffer of its launch. -/
def State.imageRef (s : State) (g : Group) : Option Dword :=
  (s.launch g.launch).map fun l => refAdd l.save (g.index.toNat * l.savestride.toNat : Nat)

/-- Saves a group (R223): its contents leave its core and quad, and the image is written. -/
def State.saveGroup (s : State) (g : Group) : State :=
  let ids := (s.groupWarps g.id).map Warp.id
  let mine := (s.quad g.quad).tcmds.filter fun t => t.group == g.id
  let s := s.endPrefetches g
  let copies := mine.filter fun t => t.eop != 13
  let s := s.leaveLists g ids
  let img := s.imageBytes g copies
  let q := s.quad g.quad
  let n := g.desc.lbytes
  let inside (a : Nat) : Bool := decide (g.lbase ≤ a) && decide (a < g.lbase + n)
  let lmem := q.lantern.filterMap fun c => if inside c.1 then some (c.1 - g.lbase, c.2) else none
  let lbad := q.lpoison.filterMap fun l => if inside (64 * l) then some (l - g.lbase / 64) else none
  let marks := (List.range g.macros).filter fun m => q.marks.contains (g.quadMacro m)
  let s := s.unpair g.quad copies
  let ms := (List.range g.macros).map g.quadMacro
  let s := s.updQuad g.quad fun q =>
    { q with tcmds := q.tcmds.filter fun t => t.group != g.id, marks := q.marks.filter fun m => !ms.contains m }
  let vc := (s.die g.die).vcmds.filter fun m => m.group == g.id
  let s := s.updDie g.die fun u => { u with vcmds := u.vcmds.filter fun m => m.group != g.id }
  let seen (b : WarpBar) : WarpBar := { b with savedGen := (s.getBar g b.scope b.index).gen }
  let s := { s with warps := s.warps.map fun (w : Warp) =>
    if w.group = g.id then
      { w with mons := [], demoted := [], cands := [], bars := w.bars.map seen }
    else w }
  let save (x : Group) : Group :=
    { x with stat := .saved, saveLantern := lmem, savePoison := lbad, saveTiles := q.saveAcc g.tiles
             saveOvf := g.tiles.map q.ovf.contains, saveMarks := marks, saveCmds := copies.map TCmd.saved, saveVcmds := vc }
  let s := ((s.updGroup g.id save).acked 5).dropL1 g.coreId
  match s.imageRef g with
  | none => s
  | some r => s.engWrite g.die g.ctx r img

/-- A single-step event that is due at the boundary where a save finds a warp is taken before the save: by the gang that would
issue next there (R223). -/
def State.stepAtSave (s : State) (wid : Nat) : State :=
  match s.warp wid with
  | none => s
  | some w =>
    match s.group w.group, (List.range 16).filterMap (s.presents w (s.boundary w)) with
    | some g, p :: t =>
      let pc := t.foldl (fun (a b : Word) => if b.ult a then b else a) p
      let lanes := s.gangAt w pc
      if w.stepPend && w.handler.isNone && !(s.gangs.any fun x => x.warp == wid && x.wait == .none) then
        let word := (s.codeWord g.die g.ctx pc).getD 0
        (s.updWarp wid fun w => { w with stepPend := false }).deliver wid
          { lanes, regs := trapRegsAt pc word 0 true { cause := causeStep, lanes }, debug := true, hdr := pc, seta := 15
            setb := 15, rest := [] }
      else s
    | _, _ => s

/-- Preemption is requested: prefetches end at once, and the save takes place once nothing holds it. -/
def State.preempt (s : State) (gid : Nat) : State :=
  let s := s.updGroup gid fun g => if g.stat = .resident then { g with stat := .saving } else g
  let s := ((s.groupWarps gid).map Warp.id).foldl State.stepAtSave s
  match s.group gid with
  | none => s
  | some g =>
    let s := if g.stat == .saving then s.endPrefetches g else s
    if g.stat == .saving && s.readyToSave g then s.saveGroup g else s

/-- R223: preemption of a group. -/
def execPreemptionRequest (gid : Nat) (s : State) : Host.Outcome State Fault Refusal := .next (s.preempt gid)

/-! ## Reading the image back (R226) -/

/-- The context image of a saved group in its save buffer; none when the launch names no buffer that holds one. -/
inductive ImageRead where
  | absent
  | none
  | ok (bytes : List Byte)

/-- Reads a group's image. It waits for its page, and for a write of it that is still held. -/
def State.savedImage (s : State) (g : Group) : ImageRead :=
  match s.imageRef g with
  | .none => .none
  | some r =>
    if s.engRow g.ctx r 256 .r ≠ 0 then .none
    else if s.heldWrites.any fun h => h.ctx == g.ctx && h.ref == r then .absent
    else
      match s.engRead g.ctx r 256 with
      | .none => .absent
      | some (h, _) =>
        let n := recField h 8 8
        if s.engRow g.ctx r n .r ≠ 0 ∨ recField h 0 4 ≠ 1 ∨ recField h 0x10 8 ≠ g.index.toNat then .none
        else match s.engRead g.ctx r n with
          | .none => .absent
          | some (b, _) => .ok b

def recWord (b : List Byte) (off : Nat) : Word := BitVec.ofNat 32 (recField b off 4)
def recDword (b : List Byte) (off : Nat) : Dword := BitVec.ofNat 64 (recField b off 8)

/-- A lane as its warp record of n registers gives it. The PC of a lane that is parked at a word of its gang, when it is another
than the word's, is where the lane goes when its wait ends (R220). -/
def loadLane (b : List Byte) (n l : Nat) (at' : Option Word) (ln : Lane) : Lane :=
  let pc := recWord b (4 * l)
  let ln := match at' with
    | some p => if p = pc then ln else { ln with npc := some pc }
    | none => { ln with pc, released := ln.released && pc == ln.pc }
  { ln with
    meet := recWord b (0x100 + 4 * l), preds := BitVec.ofNat 8 (recField b (0x200 + l) 1) ||| 1
    wmask := recDword b (0x280 + 8 * l)
    v := (List.range n).foldl (fun t i => tabSet 0 t i (recWord b (0x800 + 256 * i + 4 * l))) [] }

/-- Trap registers in the order of R209. -/
def loadTrap (b : List Byte) (off : Nat) : TrapRegs :=
  let w (i : Nat) : Word := recWord b (off + 4 * i)
  { cause := w 0, pc := w 1, word := w 2, d := w 3, a := w 4, b := w 5, imm := w 6, lanes := recDword b (off + 28)
    addr := recDword b (off + 36), aux := recDword b (off + 44), hscr := (List.range 4).map fun i => w (13 + i) }

/-- A warp as its record gives it: registers, predicates, counts, priority, trap registers and barrier sets; a set of a barrier
that has advanced since the save is the one that the advance has left (R203). Lanes of wholly exited slices, which the record
holds as zeros, keep what they hold. -/
def State.loadWarp (s : State) (g : Group) (b : List Byte) (n : Nat) (w : Warp) : Warp :=
  let at' (l : Nat) : Option Word := (s.gangs.find? fun g => g.warp == w.id && inMask g.lanes l).map fun g => g.pc - 4
  let bars := (mapFrom (fun i x => (i, x)) 0 barIds).foldl (fun (w : Warp) x =>
    if w.bars.any fun y => y.scope == x.2.1 && y.index == x.2.2 && y.savedGen == (s.getBar g x.2.1 x.2.2).gen then
      w.setBar { w.bar x.2.1 x.2.2 with set := recDword b (0x580 + 16 * x.1) }
    else w) w
  { bars with
    lanes := mapFrom (fun l ln => if w.sliceGone l then ln else loadLane b n l (at' l) ln) 0 w.lanes
    s := (List.range 32).foldl (fun t i => tabSet 0 t i (recWord b (0x480 + 4 * i))) []
    k := BitVec.ofNat 4 (recField b 0x500 1) ||| 1
    flags := (List.range 12).foldl (fun t f => tabSet 0 t f (recField b (0x508 + f) 1)) []
    prio := recField b 0x514 1 % 8, trap := loadTrap b 0x520 }

/-- A convergence register as its entry gives it. -/
def loadConv (b : List Byte) (k : Conv) : Conv :=
  let e := recField b 4 4
  { k with expect := BitVec.ofNat 16 (recField b 0 2), ebits := BitVec.ofNat 21 e, collecting := e / 2 ^ 31 == 1
           pc := recWord b 8, ob := recWord b 12 }

/-- A group as the sections of its image give it: convergence registers, barriers, marks, error word, Lantern bytes, tiles. -/
def loadGroup (b : List Byte) (g : Group) : Group :=
  let off (i : Nat) : Nat := recField b (0x40 + 16 * i) 8
  let sync := b.drop (off 1)
  let e := recField sync (256 + 64 + 256 + 16) 4
  let tile (i : Nat) : List Byte := (b.drop (off 3 + i * (64 + 16 * 4096))).take (64 + 16 * 4096)
  { g with
    acquired := recField b 4 4 % 2 == 1
    conv := mapFrom (fun i (k : Conv) => loadConv (sync.drop (16 * i)) k) 0 g.conv
    bars := mapFrom (fun i (x : Barrier) =>
      let y := sync.drop (256 + 64 + 16 * i)
      { x with exp := recWord y 0, arr := recWord y 4, gen := recWord y 8 }) 0 g.bars
    saveMarks := (List.range g.macros).filter fun m => (recField sync (256 + 64 + 256) 16).testBit m
    merr := (e / 2 ^ 24, e / 2 ^ 16 % 256, e % 2 ^ 16)
    saveLantern := if g.desc.lbytes = 0 then [] else
      (mapFrom (fun i x => (i, x)) 0 ((b.drop (off 2)).take g.desc.lbytes)).filter fun c => c.2 != 0
    saveTiles := (List.range g.tiles.length).flatMap fun i =>
      let t := tile i
      (List.range 4096).filterMap fun x =>
        let v := recField t (64 + 16 * x) 16
        if v = 0 then none else some (i * 4096 + x, BitVec.ofNat 96 v, BitVec.ofNat 2 (v / 2 ^ 96))
    saveOvf := (List.range g.tiles.length).map fun i => recField (tile i) 0 1 % 2 == 1 }

/-- The state before a restore, with the warps and the group as the image gives them. What the image does not hold (the waits
of parked gangs, status operations, copy commands' names) is as the save left it. -/
def State.loadImage (s : State) (g : Group) (b : List Byte) : State × Group :=
  let n := recField b 0x20 1
  let recs := b.drop (recField b 0x40 8)
  let ids := (s.groupWarps g.id).map Warp.id
  let s := (mapFrom (fun i w => (i, w)) 0 ids).foldl (fun (s : State) x =>
    s.updWarp x.2 (s.loadWarp g (recs.drop (x.1 * (0x800 + 256 * n))) n)) s
  let g := loadGroup b g
  (s.updGroup g.id fun _ => g, g)

/-! ## Restoring (R226, R282, R290, R366, R398, R426) -/

/-- A waiting QPOP of a restored group: the queue may have gone, or hold a record. -/
def State.reenterPop (s : State) (g : Group) (x : Gang) (d slot h : Nat) : State :=
  let w : VWaiter := { gang := x.uid, warp := x.warp, group := g.id, d, slot }
  match s.vobj h with
  | none => ((s.updWarp x.warp fun y => y.putS d 0x19000000).setSlot g.id slot {}).endWait x.uid
  | some o =>
    match o.recs with
    | r :: t => (s.updV h fun o => { o with recs := t }).popTo w r
    | [] => s.updV h fun o => { o with waiters := o.waiters ++ [w] }

/-- Waiters of a group re-enter their lists, at the tail. -/
def State.enterLists (s : State) (g : Group) (ids : List Nat) : State :=
  (s.gangs.filter fun x => ids.contains x.warp).foldl (fun s x =>
    match x.wait with
    | .swait _ off _ => s.addWaiter g.quad (g.lbase + off) 1
    | .otake d tag =>
      let (id, s) := s.fresh
      let w : OWaiter := { id, gang := x.uid, warp := x.warp, group := g.id, ctx := g.ctx, die := g.die, tag, d }
      s.updDie g.die fun u => { u with owaiters := u.owaiters ++ [w] }
    | .qpop d slot h => s.reenterPop g x d slot h
    | .vwaitq d h =>
      let w : VWaiter := { gang := x.uid, warp := x.warp, group := g.id, d, slot := 4 }
      if hPkg h ≠ s.pkg.pkgid then s
      else if (s.vobj h).isNone then (s.updWarp x.warp fun y => y.putS d 0x19000000).endWait x.uid
      else (s.updV h fun o => { o with waiters := o.waiters ++ [w] }).testQuiet h
    | _ => s) s

/-- The Lantern contents, tiles and marks of a saved group in a quad. -/
def QuadU.putGroup (q : QuadU) (g : Group) (lbase : Nat) (tiles : List Nat) : QuadU :=
  let q := q.lzero lbase g.desc.lbytes
  let old := q.acc.filter fun e => !tiles.contains (e.1 / 4096)
  { q with
    lantern := g.saveLantern.foldl (fun m c => m.write (lbase + c.1) c.2) q.lantern
    lpoison := q.lpoison ++ g.savePoison.map (lbase / 64 + ·)
    acc := g.saveTiles.foldl (fun t e => tabSet (0, 0) t ((tiles[e.1 / 4096]?).getD 0 * 4096 + e.1 % 4096) e.2) old
    ovf := q.ovf.filter (fun t => !tiles.contains t) ++
      ((mapFrom (fun i b => (i, b)) 0 g.saveOvf).filter fun x => x.2).map fun x => (tiles[x.1]?).getD 0
    marks := q.marks ++ g.saveMarks.map (lbase / Config.macroBytes + ·)
    tcmds := q.tcmds ++ g.saveCmds }

/-- Restores a group on a core with an allocation and tiles there. A gang parked on a debug event goes on by a block that was
posted while it was saved (R214). -/
def State.restoreGroup (s : State) (g : Group) (die core lbase : Nat) (tiles : List Nat) : State :=
  let quad := die * Config.quadsPerDie + core / 4
  let slots := s.freeSlots (die * Config.coresPerDie + core) (s.groupWarps g.id).length
  let ids := (s.groupWarps g.id).map Warp.id
  let blocks := match s.launch g.launch with | some l => l.dbg | none => []
  let g' : Group :=
    { g with stat := .resident, die, core, quad, lbase, tiles, saveLantern := [], savePoison := [], saveTiles := [],
             saveOvf := [], saveMarks := [], saveCmds := [], saveVcmds := [], heldArrivals := []
             conv := g.conv.map fun k => { k with since := (s.die die).clk } }
  let s := (s.updQuad quad fun q => q.putGroup g lbase tiles).updGroup g.id fun _ => g'
  let s := (mapFrom (fun i w => (i, w)) 0 ids).foldl (fun s x =>
    s.updWarp x.2 fun w =>
      { w with slot := (slots[x.1]?).getD 0, dbg := debugLoad blocks g.index w.num
               dbgNext := if w.dbgPark.isSome then w.dbgNext else none }.meetRelease.wwEval
        s.pick) s
  let s := s.dropL1 g'.coreId
  let s := g.heldArrivals.foldl (fun s x => s.arrive quad (lbase + x.1) x.2.1 x.2.2) s
  let s := s.enterLists g' ids
  let s := s.updDie die fun u => { u with vcmds := u.vcmds ++ g.saveVcmds }
  let s := (s.allOrbits.filter fun x => x.2.bound == some g.id).foldl (fun s x => s.takeQueued x.1 x.2.num) s
  let s := ids.foldl State.barPoll s
  s.retryV die

/-- A launch or group of higher priority that a die would admit first (R236). -/
def State.mayRestore (s : State) (die : Nat) (gid : Nat) : Bool :=
  match (s.admissible die).find? fun x => s.itemFits die x with
  | some (.saved g) => g.id == gid
  | _ => false

/-- R226: the distributor restores a saved group on a core of any die that admits it: the one with the most free slice-rows
(R239). It reads the context image back from the save buffer; a group whose launch names no buffer comes back as it was
saved. -/
def execGroupRestore (gid core : Nat) (s : State) : Host.Outcome State Fault Refusal :=
  match s.group gid with
  | none => .next s
  | some g =>
    let die := core / Config.coresPerDie
    let s := (s.noteWait die).starve die
    if g.stat ≠ .saved ∨ ¬ s.mayRestore die gid ∨ 32 < (s.quad (core / 4)).tcmds.length + g.saveCmds.length then .next s
    else
      match s.bestCore die allCores (s.savedNeed g) with
      | none => .next s
      | some (c, a, ts) =>
        if c ≠ core % Config.coresPerDie then .next s
        else
          match s.savedImage g with
          | .absent => .next s
          | .none => .next ((s.restoreGroup g die c a ts).admitted (List.range 4) gid)
          | .ok b =>
            let s := match s.imageRef g with | some r => s.findSpan die g.ctx r b.length | none => s
            let x := s.loadImage g b
            .next ((x.1.restoreGroup x.2 die c a ts).admitted (List.range 4) gid)

end Sys2Proof.Machine
end

