-- ==== Sys2Proof/Machine/Accept.lean ====
section
/-! DEFINITION. Acceptance of engine commands from a core's command buffer (01_engines.md R11–R13, 05_memory_model.md
R106). -/

namespace Sys2Proof.Machine

/-- The command is an acquire (R106): its engine's reads follow the warp's earlier accesses. SARM has no such bit. -/
def Cmd.acquires (m : Cmd) : Bool := decide (8 ≤ m.eop) && m.eop != 12 && m.ebits.getLsbD 9

def Cmd.scope (m : Cmd) : Nat := (m.ebits.extractLsb' 5 3).toNat

/-- An earlier command of its warp to its engine is still in the buffer (R12). -/
def Cmd.behind (m : Cmd) (cmds : List Cmd) : Bool :=
  (cmds.takeWhile fun x => x.id != m.id).any fun x => x.warp == m.warp && engineOf x.eop == engineOf m.eop

/-- The engine of a command takes it; none while it cannot. -/
def State.engineTake (s : State) (grp : Group) (m : Cmd) : Option State :=
  match engineOf m.eop with
  | 0 => s.matrixAccept grp m
  | 1 => s.tileAccept grp m
  | 2 => s.launchAccept grp m
  | 3 => s.orreryAccept grp m
  | _ => s.vesperAccept grp m

/-- A command leaves the buffer when its engine accepts it. One that acquires waits first for what its warp has done: an engine
reads no core's L1, so under scope core, too, the stores have to reach the die (R106). -/
def State.acceptCmd (s : State) (core id : Nat) : State :=
  let cmds := (s.core core).cmds
  match lookupBy Cmd.id cmds id with
  | none => s
  | some m =>
    match s.group m.group, s.warp m.warp with
    | some grp, some w =>
      if m.behind cmds then s
      else if m.acquires && !s.releaseReadyAt w core (max 1 m.scope) m.id then s
      else
        match (if m.acquires then s.acked m.scope else s).engineTake grp m with
        | none => s
        | some s' =>
          (s'.updCore core fun u => { u with cmds := removeBy Cmd.id id u.cmds }).accepted m.warp m.op
    | _, _ => s

/-- A command that a die's engine has taken and that waits there is tried again. -/
def State.retryCmd (s : State) (id : Nat) : State :=
  let has (l : List Cmd) : Bool := l.any fun m => m.id == id
  (List.range 4).foldl (fun s d =>
    if has (s.die d).dcmds then s.retryD d
    else if has (s.die d).ocmds then s.retryO d
    else if has (s.die d).vcmds then s.retryV d
    else s) s

/-- R11, R12: an engine accepts a command, or goes on with one that it has accepted. -/
def execEngineCommandAccept (core cmd : Nat) (s : State) : Host.Outcome State Fault Refusal :=
  .next (if ((s.core core).cmds.any fun m => m.id == cmd) then s.acceptCmd core cmd else s.retryCmd cmd)

end Sys2Proof.Machine
end

