-- ==== Sys2Proof/Machine/Waits.lean ====
section
/-! DEFINITION. What a gang that waits inside its clause does when its turn comes (06_core_threads.md R115, 05_memory_model.md
R103, 10_core_uniform.md R201, 11_core_traps.md R220, 15_tiles.md R280, 16_lantern.md R294, 17_matrix_isa.md R314,
20_orrery_isa.md R357). -/

namespace Sys2Proof.Machine

/-- A lane of the gang is parked. -/
def Warp.anyParked (w : Warp) (lanes : Dword) : Bool :=
  (maskLanes lanes).any fun l => match (w.lane l).stat with | .parked _ => true | _ => false

/-- SWAIT's generation differs: its waiter leaves the count and the gang goes on (R280). -/
def State.pollSwait (s : State) (g : Gang) (grp : Group) (d off : Nat) (gen : Word) : State :=
  let now : Word := BitVec.ofNat 32 ((s.quad grp.quad).word (grp.lbase + off + 8))
  if now = gen then s
  else (s.addWaiter grp.quad (grp.lbase + off) (-1)).waitReturn g grp.coreId d now

/-- A gang held unsigned signs once its register collects nothing else (R294). Its word's operation takes a new name, so that
the posting waits for what the warp issued before this signature (R302). -/
def State.pollUnsigned (s : State) (g : Gang) (w : Warp) (grp : Group) (cv : Nat) (word : Word) (old : Nat) : State :=
  let k := grp.convAt cv
  let pc := g.pc - 4
  if k.collecting && (k.pc != pc || s.convLate grp k) then s
  else
    let (op, s) := s.fresh
    let w := { w with ops := updateBy TOp.id old (fun o => { o with id := op }) w.ops }
    let s := s.setWarp w
    let c : Ctx := ⟨g, w, grp, readView s w⟩
    let ob := c.rv.getS (word.extractLsb' 1 5).toNat
    let s' := s.sign c cv word pc ob op
    if (s'.gang g.uid).any fun x => x.wait != g.wait then s' else s'.endWait g.uid

/-- The wait of a gang ends when its condition holds; otherwise nothing changes. -/
def State.pollWait (s : State) (g : Gang) : State :=
  match s.warp g.warp with
  | none => s
  | some w =>
    match s.group w.group with
    | none => s
    | some grp =>
      if ¬ grp.onCore then s
      else
        match g.wait with
        | .none => s
        | .fence kind scope before =>
          if s.fenceReadyAt w g.lanes grp.coreId kind scope before then (s.fenceApply grp.coreId kind scope).endWait g.uid else s
        | .lanes wide =>
          if w.anyParked g.lanes then s else if wide then s.handOn grp.coreId g.uid else s.endWait g.uid
        | .acquire => if s.wtSeen grp.coreId then s.handOn grp.coreId g.uid else s
        | .result d v => s.waitReturn g grp.coreId d v
        | .swait d off gen => s.pollSwait g grp d off gen
        | .mwait mask before =>
          if s.mwaitDone grp w.id mask before then s.handOn grp.coreId g.uid else s
        | .owait d h =>
          match s.named grp.ctx h with
          | none => s.waitReturn g grp.coreId d 0x19000000
          | some o => if o.status = 0x17 || s.recordHeld o then s else s.waitReturn g grp.coreId d o.word
        | .unsigned cv word op => s.pollUnsigned g w grp cv word op
        | .otake _ _ => s
        | .qpop _ _ _ => s
        | .vwaitq _ _ => s
        | .signed _ _ _ => s

end Sys2Proof.Machine
end

