-- ==== Sys2Proof/Machine/Fault.lean ====
section
/-! DEFINITION. The fault unit: translations, page service, eviction, migration, scrubbing, spares and privileged registers
(14_memory_port.md R247–R264, 13_launch.md R235, R241, R242, 24_nearmem.md R416, R422), and accesses from outside
(26_ports_management.md R433, R437). -/

namespace Sys2Proof.Machine

/-! ## Frames -/

/-- The package whose frames a buffer uses. -/
def BufEntry.owner (e : BufEntry) (own : Nat) : Nat := if e.bflags.getLsbD 2 then e.peer else own

/-- The byte of a page that a physical number holds, when it lies in the page's frame. -/
def pageInv (own : Nat) (e : BufEntry) (p : PageEntry) (x : Nat) : Option Nat :=
  let pb := pageBytes e.pgsz
  if e.bflags.getLsbD 3 then
    if hostBase + p.frame * 4096 ≤ x ∧ x < hostBase + p.frame * 4096 + 4096 then some (x - hostBase - p.frame * 4096) else none
  else if x < hostBase ∧ physPkg x = e.owner own then
    match frameInv e.ilv p.stack (physStack x) (physAddr x) with
    | some y => if p.frame * pb ≤ y ∧ y < p.frame * pb + pb then some (y - p.frame * pb) else none
    | none => none
  else none

/-- Moves the bytes and poison of a page: `src` names the byte a number holds, `dst` its new number, `clr` the numbers that
are replaced. The copy finds the uncorrectable errors of the lines that it reads, as errors on demand (R259; log 38), and faults
of the cells show again in the lines that it writes. -/
def State.movePage (s : State) (src : Nat → Option Nat) (dst : Nat → Nat) (clr : Nat → Bool) : State :=
  let s := (s.latent.filter fun l => (src (64 * l)).isSome).foldl (fun s l => s.findError l 3) s
  let cells := s.mem.filterMap fun c => (src c.1).map fun q => (q, c.2)
  let base : Memory := s.mem.filter fun c => !clr c.1
  let lines (l : List Nat) : List Nat :=
    (l.filter fun x => !clr (64 * x)) ++ l.filterMap fun x => (src (64 * x)).map fun q => dst q / 64
  { s with
    mem := cells.foldl (fun m c => m.write (dst c.1) c.2) base
    poison := lines s.poison
    latent := (s.latent.filter fun x => !clr (64 * x)) ++ s.stuck.filter fun x => clr (64 * x)
    old := s.old.filter fun e => !clr (8 * e.1)
    bank := s.bank.filter fun e => !clr (64 * e.1)
    l1 := s.l1.filter fun c => !clr (64 * c.line)
    copies := s.copies.filter fun c => !clr (64 * c.line) }

/-- Stripe bytes of a class, the stacks over which its stripes go in turn, and a stack's place among them, if it is one of them
(R248); for the classes of one stack a stripe is a byte. -/
def stripesOf (ilv stk n : Nat) : Option (Nat × Nat × Nat) :=
  if ilv = 0 then some (4096, 12, n)
  else if ilv = 1 then some (65536, 12, n)
  else if ilv = 2 then (if n / 3 = stk / 3 then some (4096, 3, n % 3) else none)
  else if n = stk then some (1, 1, 0)
  else none

/-- The stack addresses of a frame on stack n, from the first on and below the second (R248). -/
def frameSpan (e : BufEntry) (stk frame n : Nat) : Nat × Nat :=
  match stripesOf e.ilv stk n with
  | none => (0, 0)
  | some (w, m, i) =>
    let before (x : Nat) : Nat := (x / w + (m - 1 - i)) / m * w
    (before (frame * pageBytes e.pgsz), before ((frame + 1) * pageBytes e.pgsz))

/-- Two frames of packages share a byte of a stack. -/
def framesMeet (own : Nat) (a b : BufEntry × Nat × Nat) : Bool :=
  !a.1.bflags.getLsbD 3 && !b.1.bflags.getLsbD 3 && a.1.owner own == b.1.owner own &&
    (List.range Config.hbmStacks).any fun n =>
      let x := frameSpan a.1 a.2.1 a.2.2 n
      let y := frameSpan b.1 b.2.1 b.2.2 n
      decide (max x.1 y.1 < min x.2 y.2)

/-- What names a frame: the class and page size of its buffer, and whose memory it is. -/
def frameName (e : BufEntry) (stack frame : Nat) : BufEntry × Nat × Nat :=
  ({ size := 0, ctx := 0, rights := 0, pgsz := e.pgsz, ilv := e.ilv, bflags := e.bflags &&& 0xC, peer := e.peer }, stack, frame)

/-- Frames that are not free: those of resident pages, of page directories that no entry names, of evictions, migrations and
changes in progress, and the withdrawn ones (R251, R255, R257, R263). -/
def State.usedFrames (s : State) : List (BufEntry × Nat × Nat) :=
  let at' (k : PageKey) (stack frame : Nat) : List (BufEntry × Nat × Nat) :=
    match s.buf k.ctx k.buf with
    | some e => [frameName e stack frame]
    | none => []
  ((s.pages.filter fun z => z.2.state == 1).flatMap (fun z => at' z.1 z.2.stack z.2.frame) ++
    (s.tables.filter fun z => z.2.2.state == 1).map (fun z => frameName z.1 z.2.2.stack z.2.2.frame) ++
    s.evictions.flatMap (fun z => at' z.key z.stack z.frame) ++
    s.migrations.flatMap (fun z => at' z.key z.oldStack z.oldFrame ++ at' z.key z.newStack z.newFrame) ++
    s.changes.flatMap (fun c => c.old.map fun f => frameName f.1 f.2.1 f.2.2) ++
    s.withdrawn.map fun f => frameName f.1 f.2.1 f.2.2).eraseDups

/-- A frame shares a byte with one that is not free. -/
def State.frameUsed (s : State) (e : BufEntry) (p : PageEntry) : Bool :=
  s.usedFrames.any (framesMeet s.pkg.pkgid (e, p.stack, p.frame))

/-- The bank placement of a frame (R249); pages of 256 MiB and 8 GiB have the same in every frame of a stack. -/
def placeOf (e : BufEntry) (stack frame : Nat) : Nat × Nat :=
  (stack, if e.pgsz ≤ 2 then frame % (2 ^ 23 / pageBytes e.pgsz) else 0)

/-- A frame keeps the placement of a page. -/
def placeOk (e : BufEntry) (p : PageEntry) (stack frame : Nat) : Bool :=
  e.ilv != 4 || (match p.place with
    | some x => x.2 == (placeOf e stack frame).2 && (decide (3 ≤ e.pgsz) || x.1 == stack)
    | none => true)

/-- Bytes of a stack below its compressed zone, which takes the top of it (R254; log 38). -/
def State.stackRoom (s : State) (stack : Nat) : Nat := Config.stackBytes - 65536 * (s.die (stack / 3)).regs.zonesize

/-- The stacks over which a page of a class lies: all, the three of a die, or one (R248). -/
def stacksOf (e : BufEntry) (stack : Nat) : List Nat :=
  if e.ilv ≤ 1 then List.range Config.hbmStacks else if e.ilv = 2 then (List.range 3).map (stack / 3 * 3 + ·) else [stack]

/-- Frames of a class: as far as no stack's compressed zone is reached. -/
def State.frameCount (s : State) (e : BufEntry) (stack : Nat) : Nat :=
  let ns := stacksOf e stack
  ns.length * (ns.map s.stackRoom).foldl min Config.stackBytes / pageBytes e.pgsz

/-- A frame lies in the frame space of a buffer's class. -/
def State.frameOk (s : State) (e : BufEntry) (stack frame : Nat) : Bool :=
  decide (stack < Config.hbmStacks) && decide (frame < s.frameCount e stack)

/-- The first number of n from one on that meets a condition. -/
def searchNat (ok : Nat → Bool) (a : Nat) : Nat → Option Nat
  | 0 => none
  | n + 1 => if ok a then some a else searchNat ok (a + 1) n

/-- A free frame for a page among some stacks, which keeps its placement. -/
def State.freeFrame (s : State) (e : BufEntry) (p : PageEntry) (among : List Nat) : Option (Nat × Nat) :=
  among.findSome? fun n =>
    (searchNat (fun f => s.frameOk e n f && placeOk e p n f && !s.frameUsed e { state := 1, mig := false, stack := n, frame := f })
      0 (s.frameCount e n)).map fun f => (n, f)

/-- Free storage of a stack in units of 64 KiB (R255, R264). -/
def State.freeUnits (s : State) (stack : Nat) : Nat :=
  let share (f : BufEntry × Nat × Nat) : Nat :=
    if f.1.bflags.getLsbD 3 || f.1.owner s.pkg.pkgid != s.pkg.pkgid then 0
    else (frameSpan f.1 f.2.1 f.2.2 stack).2 - (frameSpan f.1 f.2.1 f.2.2 stack).1
  (s.stackRoom stack - (s.usedFrames.map share).sum) / 65536

/-! ## Changes and invalidations (R250, R251) -/

def State.changing (s : State) (k : PageKey) : Bool := s.changes.any fun c => c.key == k

/-- A change to a listed page stalls the orbits and kernels that list it; the host is told each such kernel's stack and the
reference of its block (R368, R422). -/
def State.listStale (s : State) (k : PageKey) : State :=
  let listed (ctx : Nat) (l : List (Nat × Nat × Dword)) : Bool :=
    ctx == k.ctx && l.any fun x => x.1 == k.buf && x.2.1 == k.page
  let f (u : DieU) : DieU :=
    { u with orbits := u.orbits.map fun o =>
        if listed o.ctx o.plist && !oLantern o.record then { o with stalled := true } else o }
  let hit (u : StackU) : Bool := match u.running with | some r => listed r.kick.ctx r.plist && !r.stale | none => false
  let g (u : StackU) : StackU := if hit u then { u with running := u.running.map fun r => { r with stale := true } } else u
  let told := s.stackU.filterMap fun e => if hit e.2 then e.2.running.map fun r => [e.1, r.kick.ctx, r.kick.ref.toNat] else none
  let s := { s with dieU := s.dieU.map f, stackU := s.stackU.map fun e => (e.1, g e.2) }
  told.foldl (fun s v => s.post "page-list-stale" v) s

/-- A running kernel on a stack of a die lists a page, or one of the buffer that a shoot-down names (R252, R422). -/
def State.lampLists (s : State) (die : Nat) (k : PageKey) (busy : Bool) : Bool :=
  s.stackU.any fun e => e.1 / 3 == die && (match e.2.running with
    | some r => r.kick.ctx == k.ctx && (!busy || !r.passes.isEmpty) && r.plist.any fun x =>
        x.1 == k.buf && (x.2.1 == k.page || k.page == 2 ^ 64)
    | none => false)

/-- A page-entry change (R251): the new entry is written, the accessed bits clear, and an invalidation is sent to each die and
package that had one, and to each die whose Lamplighters list the page (R422). -/
def State.change (s : State) (k : PageKey) (f : PageEntry → PageEntry) : State :=
  let old := s.page k
  let dies := (List.range 4).filter fun d => old.accDies.getLsbD d || s.lampLists d k false
  let pkgs := ((List.range 64).filter old.accPkgs.getLsbD).map (4 + ·)
  let frames := match s.buf k.ctx k.buf with
    | some e => if old.state = 1 then [(e, old.stack, old.frame)] else []
    | none => []
  let (id, s) := s.fresh
  let s := (s.setPage k { f old with accDies := 0, accPkgs := 0 }).listStale k
  if dies.isEmpty && pkgs.isEmpty then s
  else { s with changes := s.changes ++ [{ id, key := k, await := dies ++ pkgs, invalidated := [], old := frames }] }

/-- A page has left a frame, which is withdrawn from the allocator when the page retires (R263). -/
def State.leaveFrame (s : State) (k : PageKey) (e : BufEntry) (stack frame : Nat) : State :=
  if (s.page k).retire then
    { s.setPage k { s.page k with retire := false } with withdrawn := s.withdrawn ++ [(e, stack, frame)] }
  else s

/-- A change is complete: a migration that has switched retires, and its old frame is free. -/
def State.changeDone (s : State) (k : PageKey) : State :=
  if s.changing k then s
  else
    let done (m : Migration) : Bool := m.key == k && m.switched
    let s := (s.migrations.filter done).foldl (fun s m => match s.buf k.ctx k.buf with
      | some e => s.leaveFrame k e m.oldStack m.oldFrame
      | none => s) s
    { s with migrations := s.migrations.filter fun m => !done m }

/-- Frames that a page's earlier translations name. -/
def State.oldFrames (s : State) (k : PageKey) : List (BufEntry × Nat × Nat) :=
  let ours := (s.evictions.filter fun e => e.key == k).map (fun e => (e.stack, e.frame)) ++
    (s.migrations.filter fun m => m.key == k).map fun m => (m.oldStack, m.oldFrame)
  (match s.buf k.ctx k.buf with | some e => ours.map fun f => (e, f) | none => []) ++
    (s.changes.filter fun c => c.key == k).flatMap Change.old

/-- Stores on their way from some cores into given frames. -/
def State.storesInto (s : State) (frames : List (BufEntry × Nat × Nat)) (mine : Nat → Bool) : Bool :=
  frames.any fun f =>
    let p : PageEntry := { state := 1, mig := false, stack := f.2.1, frame := f.2.2 }
    s.cores.any fun c => mine c.1 && c.2.wt.any fun x => x.cells.any fun y => (pageInv s.pkg.pkgid f.1 p y.1).isSome

/-- Stores on their way from some cores into frames of a page's earlier translations. -/
def State.oldStores (s : State) (k : PageKey) (mine : Nat → Bool) : Bool := s.storesInto (s.oldFrames k) mine

/-- R251: a fill by a die's walker sets the die's accessed bit, and dirty for a write; one for package n, numbered 4 + n, sets
the package's bit. -/
def execWalkerFill (die ctx buf page : Nat) (write : Bool) (s : State) : Host.Outcome State Fault Refusal :=
  let k : PageKey := ⟨ctx, buf, page⟩
  let p := s.page k
  .next (if (s.buf ctx buf).isNone then s
    else if die < 4 then s.fillPage die k write
    else if die < 68 ∧ die ≠ 4 + s.pkg.pkgid then
      s.setPage k { p with accPkgs := p.accPkgs ||| (1#64 <<< (die - 4)), dirty := p.dirty || write }
    else s)

/-- The distributors go on with host queue entries held on an absent page (R235). -/
def State.retakeEntries (s : State) : State :=
  s.pkg.queues.foldl (fun s e => State.takeEntries (e.2.tail - e.2.head) s e.1) s

/-! ## Accesses from outside (R109, R111, R433, R437) -/

/-- Physical numbers of a span inside a valid buffer, when its pages are resident. -/
def State.outsideSpan (s : State) (ctx : Nat) (r : Dword) (n : Nat) : Option (List Nat) :=
  match s.buf ctx (refBuf r) with
  | none => none
  | some e =>
    if e.size < refOff r + n then none
    else match s.physList ctx r n with | .ok ps => some ps | .error _ => none

/-- Stores performed at the home L2 for an agent outside the package, after the invalidations of every earlier write have
arrived: each such write is a release (R109, R111). -/
def State.outsideWrite (s : State) (ps : List Nat) (bs : List Byte) : State :=
  ((s.acked 5).writePoison ps).outsideCells (ps.zip bs)

/-- A fill for a package marks every page of a span as accessed by it (R251). -/
def State.remoteMark (s : State) (e : BufEntry) (pkg ctx : Nat) (r : Dword) (n : Nat) (write : Bool) : State :=
  let pb := pageBytes e.pgsz
  (List.range ((refOff r + n - 1) / pb + 1 - refOff r / pb)).foldl (fun s i =>
    let k : PageKey := ⟨ctx, refBuf r, refOff r / pb + i⟩
    let p := s.page k
    s.setPage k { p with accPkgs := p.accPkgs ||| (1#64 <<< pkg), dirty := p.dirty || write }) s

/-- Bytes that a remote access covers: an atomic's bytes are its two operands. -/
def RemoteReq.count (q : RemoteReq) : Nat := if q.kind ≤ 1 then q.bytes.length else q.bytes.length / 2

/-- The right that a remote access needs. -/
def RemoteReq.right (q : RemoteReq) : Right := if q.kind = 0 then .r else if q.kind = 1 then .w else .a

/-- An access of another package is performed on resident pages, and the reply goes back: what was read, or what an atomic found,
or poison (R111, R259, R437). -/
def State.remotePerform (s : State) (q : RemoteReq) (ps : List Nat) : State :=
  let reply (s : State) (v : List Nat) : State := s.post "remote-reply" (q.pkg :: v)
  let bad := (linesOf ps).any s.lineBad
  let found := (linesOf ps).foldl (fun s l => s.findError l 3) s
  if q.kind = 1 then reply (s.outsideWrite ps q.bytes) []
  else if bad then found.post "remote-poison" [q.pkg]
  else if q.kind = 0 then reply s ((ps.map s.mem.read).map BitVec.toNat)
  else
    let n := q.count
    let old := BitVec.ofNat 64 (leNat (ps.map s.mem.read))
    match atomNew (q.kind - 2) old (BitVec.ofNat 64 (leNat (q.bytes.take n))) (BitVec.ofNat 64 (leNat (q.bytes.drop n))) with
    | none => reply s [old.toNat]
    | some x => reply (s.outsideWrite ps (leBytes x.toNat n)) [old.toNat]

/-- An access of another package is checked and translated here, and performed; it waits while its page is absent, whose service it
asks for, and during a checkpoint (R437, R441). One that fails the check of R246 is answered with the row it meets. -/
def State.remoteTake (s : State) (q : RemoteReq) : State :=
  if s.pkg.checkpointing then { s with remote := s.remote ++ [q] }
  else
    let row := s.accessRow q.ctx q.ref q.count q.right
    match s.buf q.ctx (refBuf q.ref) with
    | some e =>
      if row ≠ 0 then s.post "remote-refused" [q.pkg, row]
      else
        match s.physList q.ctx q.ref q.count with
        | .error k => { s.want k with remote := (s.want k).remote ++ [q] }
        | .ok ps => (s.remoteMark e q.pkg q.ctx q.ref q.count (q.kind != 0)).remotePerform q ps
    | none => s.post "remote-refused" [q.pkg, row]

/-- The accesses of other packages that wait are tried again, in their order of arrival. -/
def State.remoteAgain (s : State) : State := s.remote.foldl State.remoteTake { s with remote := [] }

/-- Requests that wait for a page are replayed on every die, then those of other packages. -/
def State.replayAll (s : State) (k : PageKey) : State :=
  ((List.range 4).foldl (fun s d => (s.replay d k).wakeFetch d k) s).retakeEntries.remoteAgain

/-- R251: a page-entry change by the driver; the reserved bits of the pte are dropped. A page that leaves a frame while it retires
has that frame withdrawn (R263); one that becomes resident has the requests that wait for it replayed (R253). -/
def execPageEntryChange (ctx buf page : Nat) (pte : Dword) (s : State) : Host.Outcome State Fault Refusal :=
  let k : PageKey := ⟨ctx, buf, page⟩
  if s.changing k ∨ ¬ (s.oldFrames k).isEmpty then .next s
  else
    let st := pte.toNat / 2 ^ 62
    let stack := pte.toNat / 2 ^ 52 % 16
    let frame := pte.toNat % 2 ^ 52
    let place : Option (Nat × Nat) := match s.buf ctx buf with
      | some e => if st = 1 ∧ e.ilv = 4 then some (placeOf e stack frame) else none
      | none => none
    let p := s.page k
    let s := s.change k fun p =>
      { p with state := st, mig := pte.getLsbD 61, stack, frame, place := if p.place.isSome then p.place else place }
    let s := match s.buf ctx buf with
      | some e => if p.state = 1 ∧ (st ≠ 1 ∨ p.stack ≠ stack ∨ p.frame ≠ frame) then s.leaveFrame k e p.stack p.frame else s
      | none => s
    .next (if st = 1 then State.replayAll { s with wanted := s.wanted.filter (· != k) } k else s)

/-- A translation that a change ends: that of its page, or those of its buffer and the buffer's entry (R252). -/
def Change.ends (c : Change) (k : PageKey) : Bool :=
  k.ctx == c.key.ctx && k.buf == c.key.buf && (k.page == c.key.page || c.key.page == 2 ^ 64)

/-- The caches of a die drop what a change ends: its translation cache, its cores' TLBs and its quads' walk-ahead TLBs. -/
def State.dropTranslations (s : State) (die : Nat) (c : Change) : State :=
  let shoot := c.key.page == 2 ^ 64
  let s := s.updDie die fun u =>
    { u with xlat := u.xlat.filter fun k => !c.ends k
             xbuf := u.xbuf.filter fun b => !(shoot && b == (c.key.ctx, c.key.buf)) }
  { s with
    cores := s.cores.map fun (e : Nat × CoreU) =>
      if e.1 / Config.coresPerDie = die then (e.1, { e.2 with tlb := e.2.tlb.filter fun k => !c.ends k }) else e
    quads := s.quads.map fun (e : Nat × QuadU) =>
      if e.1 / Config.quadsPerDie = die then
        (e.1, { e.2 with walkTlb := e.2.walkTlb.filter fun x => !c.ends ⟨x.1, x.2.1, x.2.2⟩ })
      else e }

/-- R251, R252: an invalidation reaches a die, whose translation caches drop what it names, or another package. -/
def execTranslationInvalidation (die change : Nat) (s : State) : Host.Outcome State Fault Refusal :=
  match lookupBy Change.id s.changes change with
  | none => .next s
  | some c =>
    if ¬ c.await.contains die ∨ c.invalidated.contains die then .next s
    else
      let s := if die < 4 then s.dropTranslations die c else s
      .next { s with
        changes := updateBy Change.id change (fun c => { c with invalidated := c.invalidated ++ [die] }) s.changes }

/-- R251: a die acknowledges once no translated request of its is outstanding, and a package when it says so; with the last one
the change is complete. -/
def execInvalidationAck (die change : Nat) (s : State) : Host.Outcome State Fault Refusal :=
  match lookupBy Change.id s.changes change with
  | none => .next s
  | some c =>
    let mine (core : Nat) : Bool := core / Config.coresPerDie == die
    if ¬ c.await.contains die ∨ ¬ c.invalidated.contains die ∨
        (die < 4 ∧ (s.oldStores c.key mine ∨ s.lampLists die c.key true)) then .next s
    else
      let left := c.await.filter (· != die)
      if left.isEmpty then .next ({ s with changes := removeBy Change.id change s.changes }.changeDone c.key)
      else .next { s with changes := updateBy Change.id change (fun c => { c with await := left }) s.changes }

/-- A buffer table entry as the four 8-byte words of R244; a reserved field that is set makes it invalid. -/
def bufEntryOf (ws : List Dword) : BufEntry :=
  let w (i : Nat) : Nat := ((ws[i]?).getD 0).toNat
  let x := w 2
  let rsv := x / 2 ^ 56 + w 3
  { dir := BitVec.ofNat 64 (w 0), size := w 1, ctx := x % 2 ^ 16, rights := BitVec.ofNat 8 (x / 2 ^ 16), pgsz := x / 2 ^ 24 % 256, ilv := x / 2 ^ 32 % 256
    bflags := BitVec.ofNat 8 (x / 2 ^ 40) ||| (if rsv = 0 then 0 else 0x80), peer := x / 2 ^ 48 % 256 }

/-- The page entries that a buffer's new entry names: those of its page directory (R244, R247). The entries of the directory that
no entry names any more are kept under the old entry, and a buffer that names that directory finds them again; a page's bank
placement ends with its buffer (R249). Host-window buffers have no directory. -/
def State.turnPages (s : State) (ctx buf : Nat) (new : Option BufEntry) : State :=
  let old := (s.bufs.find? fun e => e.1 == (ctx, buf)).map (·.2)
  let dirOf (e : BufEntry) : Option Dword := if e.dir = 0 then none else some e.dir
  let into := new.bind dirOf
  if old.isSome && new.isSome && old.bind dirOf == into then s
  else
    let mine (z : PageKey × PageEntry) : Bool := z.1.ctx == ctx && z.1.buf == buf
    let kept : List (BufEntry × PageKey × PageEntry) := match old with
      | some e => if e.dir = 0 then [] else (s.pages.filter mine).map fun z => (e, z.1, { z.2 with place := none })
      | none => []
    let named (z : BufEntry × PageKey × PageEntry) : PageKey × PageEntry :=
      (⟨ctx, buf, z.2.1.page⟩, { z.2.2 with place := match new with
        | some e => if z.2.2.state = 1 ∧ e.ilv = 4 then some (placeOf e z.2.2.stack z.2.2.frame) else none
        | none => none })
    let again (z : BufEntry × PageKey × PageEntry) : Bool := into == some z.1.dir
    { s with pages := s.pages.filter (fun z => !mine z) ++ (s.tables.filter again).map named
             tables := s.tables.filter (fun z => !again z) ++ kept }

/-- R252: the driver changes a buffer table entry by a shoot-down, which is complete when every die has dropped the old entry
and the requests made under it are performed. The manual lets a request be checked under the old entry until then; the model's
checks use the new one at once, also for the requests that wait for a page (log 38). In recovery the driver reaches no such
command (R443). -/
def execBufferShootdown (ctx buf : Nat) (entry : List Dword) (s : State) : Host.Outcome State Fault Refusal :=
  if buf = 0 ∨ 2 ^ 20 ≤ buf ∨ s.pkg.boot.recovery then .next s
  else
    let frames := match s.buf ctx buf with
      | some e => (s.pages.filter fun z => z.1.ctx == ctx && z.1.buf == buf && z.2.state == 1).map fun z =>
          (e, z.2.stack, z.2.frame)
      | none => []
    let rest := s.bufs.filter fun e => e.1 != (ctx, buf)
    let e := bufEntryOf entry
    let new : Option BufEntry := if e.bflags.getLsbD 0 then some e else none
    let waits := ((s.dieU.flatMap fun u => (u.parking ++ u.missq).map ParkReq.key) ++ s.wanted).filter fun k =>
      k.ctx == ctx && k.buf == buf
    let s := s.turnPages ctx buf new
    let (id, s) := s.fresh
    let s := { s with
      bufs := rest ++ (match new with | some e => [((ctx, buf), e)] | none => [])
      changes := s.changes ++ [{ id, key := bufKey ctx buf, await := List.range 4, invalidated := [], old := frames }] }
    .next (waits.eraseDups.foldl State.replayAll s)

/-! ## Service (R253) -/

/-- Number of byte q of a page stored outside HBM under a handle (log 6). -/
def storeByte (zone : Bool) (handle q : Nat) : Nat := (if zone then zoneBase else tierBase) + handle * 2 ^ 33 + q

/-- The byte of a stored page that a number holds. -/
def storeInv (zone : Bool) (handle n x : Nat) : Option Nat :=
  let b := storeByte zone handle 0
  if b ≤ x ∧ x < b + n then some (x - b) else none

/-- The zone blocks that a handle names (log 38): stack, first block, count. -/
def zoneOf (h : Nat) : Nat × Nat × Nat := (h / 2 ^ 31, h / 512 % 2 ^ 22, h % 512)

/-- Stack address of a block of a stack's zone. -/
def State.zoneAddr (s : State) (stack block : Nat) : Nat := s.stackRoom stack + 4096 * block

/-- Lines of the zone blocks that a handle names. -/
def State.zoneLines (s : State) (h : Nat) : List Nat :=
  let z := zoneOf h
  (List.range (64 * z.2.2)).map fun i => physOf s.pkg.pkgid z.1 (s.zoneAddr z.1 z.2.1) / 64 + i

/-- Two handles name a common block. -/
def zoneMeet (a b : Nat) : Bool :=
  let x := zoneOf a
  let y := zoneOf b
  x.1 == y.1 && decide (x.2.1 < y.2.1 + y.2.2) && decide (y.2.1 < x.2.1 + x.2.2)

/-- Page entries, those of directories that no buffer names among them. -/
def State.allPages (s : State) : List PageEntry := s.pages.map (·.2) ++ s.tables.map fun z => z.2.2

/-- Handles of the pages in the zone, or on their way there. -/
def State.zoneHandles (s : State) : List Nat :=
  ((s.allPages.filter fun z => z.state == 2).map PageEntry.frame) ++ (s.evictions.filter Eviction.toZone).map Eviction.handle

/-- A page compressed to the blocks of a handle finds them free in the zone of one of its stacks: half its size or less (R254). -/
def State.zoneOk (s : State) (e : BufEntry) (stack h : Nat) : Bool :=
  let z := zoneOf h
  (stacksOf e stack).contains z.1 && decide (1 ≤ z.2.2) && decide (2 * 4096 * z.2.2 ≤ pageBytes e.pgsz) &&
    decide (z.2.1 + z.2.2 ≤ 16 * (s.die (z.1 / 3)).regs.zonesize) && !s.zoneHandles.any (zoneMeet h) &&
    !(s.stack z.1).zoneLost.any fun b => decide (z.2.1 ≤ b) && decide (b < z.2.1 + z.2.2)

/-- The uncorrectable errors and poison of the blocks of a handle arrive, in lines of the page that the manual leaves open, as
poison (R259, R263). -/
def State.zoneErrors (s : State) (h n : Nat) : State :=
  let ls := s.zoneLines h
  if ls.any s.lineBad then
    let s := ls.foldl (fun s l => s.findError l 3) s
    let first := storeByte true h 0 / 64
    let bad := ((List.range (n / 64)).filter fun i => s.pick (2 ^ 120 + i)).map (first + ·)
    { s with poison := s.poison ++ bad.filter fun l => !s.poison.contains l }
  else s

/-- A page becomes resident in a frame: zeros, or the stored bytes. The manual gives no step that clears the dirty bit, which is
clear from then on (log 38). -/
def State.supply (s : State) (k : PageKey) (e : BufEntry) (stack frame : Nat) : State :=
  let p := s.page k
  let own := s.pkg.pkgid
  let new : PageEntry := { state := 1, mig := false, stack, frame }
  let dst (x : Nat) : Bool := (pageInv own e new x).isSome
  let s :=
    if p.state = 0 then s.movePage (fun _ => none) id dst
    else
      let s := if p.state = 2 then s.zoneErrors p.frame (pageBytes e.pgsz) else s
      let src := storeInv (p.state == 2) p.frame (pageBytes e.pgsz)
      s.movePage src (pagePhys own e new) fun x => dst x || (src x).isSome
  State.change { s with wanted := s.wanted.filter (· != k) } k fun p =>
    { p with state := 1, mig := false, stack := if e.ilv = 2 ∨ 3 ≤ e.ilv then stack else 0, frame, dirty := false
             place := if e.ilv = 4 ∧ p.place.isNone then some (placeOf e stack frame) else p.place }

/-- Pages that the fault unit may evict. -/
def BufEntry.evictable (e : BufEntry) : Bool :=
  !e.bflags.getLsbD 1 && !e.bflags.getLsbD 2 && !e.bflags.getLsbD 3 && (e.pgsz == 1 || e.pgsz == 2)

/-- Stacks on which a page may be placed: one for each set of stacks of its class. -/
def placeStacks (e : BufEntry) : List Nat :=
  if e.ilv ≤ 1 then [0] else if e.ilv = 2 then [0, 3, 6, 9] else List.range Config.hbmStacks

/-- No frame can be freed for a page: none is free, and no page of its class could be evicted (R253). -/
def State.shortOfFrames (s : State) (e : BufEntry) (p : PageEntry) : Bool :=
  (s.freeFrame e p (placeStacks e)).isNone && s.evictions.isEmpty && !s.pages.any fun z =>
    z.2.state == 1 && (match s.buf z.1.ctx z.1.buf with
      | some x => x.evictable && x.ilv == e.ilv
      | none => false)

/-- A request waits for a page, or its service has been asked for. -/
def State.awaited (s : State) (k : PageKey) : Bool :=
  s.wanted.contains k || s.dieU.any fun u => u.parking.any (fun x => x.key == k) || u.missq.any fun x => x.key == k

/-- R253: the fault unit makes a page resident in a free frame and replays the requests that wait for it. When it has no frame
to take, and none can be freed, a frame shortage is recorded, which names the stack of the page's placement, else stack 0, and is
written by that stack's die (log 38). -/
def execPageServiceComplete (ctx buf page stack frame : Nat) (s : State) : Host.Outcome State Fault Refusal :=
  let k : PageKey := ⟨ctx, buf, page⟩
  match s.buf ctx buf with
  | none => .next s
  | some e =>
    let p := s.page k
    let new : PageEntry := { state := 1, mig := false, stack, frame }
    if p.state = 1 ∨ e.bflags.getLsbD 2 ∨ e.bflags.getLsbD 3 ∨ s.changing k ∨ ¬ (s.oldFrames k).isEmpty ∨
        e.size ≤ page * pageBytes e.pgsz then .next s
    else if ¬ s.frameOk e stack frame ∨ ¬ placeOk e p stack frame ∨ s.frameUsed e new then
      if s.awaited k && s.shortOfFrames e p then
        let n := match p.place with | some x => x.1 | none => 0
        .next (s.errRecord (n / 3) { kind := 8, stack := n, pch := 0, bank := 0, row := 0, loc := 0, bytes := 0, clk := 0 })
      else .next s
    else .next ((s.supply k e stack frame).replayAll k)

/-! ## Ageing and eviction (R254, R255) -/

/-- Clk of a die's clock in a microsecond, at its full rate of 1.3 GHz (R1, R264). -/
def clkPerUs : Nat := 1300

/-- A migration of a page begins (R257). -/
def State.beginMigration (s : State) (k : PageKey) (stack frame : Nat) (f : PageEntry → PageEntry) : State :=
  let p := s.page k
  let m : Migration := { key := k, oldStack := p.stack, oldFrame := p.frame, newStack := stack, newFrame := frame
                         bitmap := [], switched := false }
  { s with migrations := s.migrations ++ [m] }.change k fun p => f { p with mig := true }

/-- The only die that two visits in a row have found to access a page, when locality is on and it is not the page's own
(R256). -/
def State.localDie (s : State) (d : Nat) (e : BufEntry) (p : PageEntry) : Option Nat :=
  if (s.die d).regs.locmig = 1 ∧ (e.ilv = 2 ∨ e.ilv = 3) ∧ p.visits.head? = some p.accDies then
    ((List.range 4).find? fun x => p.accDies == 1#4 <<< x).filter fun x => x != p.stack / 3
  else none

/-- One page is visited: its accessed bits are noted and cleared by a change, or a migration for locality begins. -/
def State.visit (s : State) (d : Nat) (k : PageKey) : State :=
  let p := s.page k
  let clk := (s.die d).clk
  let seen (x : PageEntry) : PageEntry := { x with visits := (p.accDies :: p.visits).take 2, seen := clk }
  let free := !s.changing k && (s.oldFrames k).isEmpty && !p.mig
  match s.buf k.ctx k.buf with
  | none => s
  | some e =>
    match (s.localDie d e p).bind fun x => s.freeFrame e p (if e.ilv = 2 then [3 * x] else [3 * x, 3 * x + 1, 3 * x + 2]) with
    | some (n, f) => if free then s.beginMigration k n f seen else s.setPage k (seen p)
    | none => if (p.accDies = 0 ∧ p.accPkgs = 0) ∨ s.changing k then s.setPage k (seen p) else s.change k seen

/-- R255: every AGEPER interval a die's fault unit visits the evictable pages of its stacks (die 0 those spread over all
stacks). -/
def execAgingVisit (die : Nat) (s : State) : Host.Outcome State Fault Refusal :=
  let u := s.die die
  if 4 ≤ die ∨ u.clk < u.ageDue then .next s
  else
    let due (z : PageKey × PageEntry) : Bool :=
      z.2.state == 1 && (match s.buf z.1.ctx z.1.buf with
        | some e => e.evictable && (if e.ilv ≤ 1 then die == 0 else z.2.stack / 3 == die)
        | none => false)
    let ks := (s.pages.filter due).map (·.1)
    let s := s.updDie die fun u => { u with ageDue := u.clk + clkPerUs * u.regs.ageper }
    .next (ks.foldl (fun s k => s.visit die k) s)

/-- The order in which pages are evicted, least first (R255): bits clear since the last visit, the clean ones first; then by the
accessed bits set; then by the last visit. -/
def evictRank (p : PageEntry) : Nat × Nat :=
  let bits := ((List.range 4).filter p.accDies.getLsbD).length + ((List.range 64).filter p.accPkgs.getLsbD).length
  (if bits = 0 then (if p.dirty then 1 else 0) else 1 + bits, p.seen)

def rankLt (a b : Nat × Nat) : Bool := decide (a.1 < b.1) || (a.1 == b.1 && decide (a.2 < b.2))

/-- A page can be evicted now. -/
def State.canEvict (s : State) (k : PageKey) : Bool :=
  let p := s.page k
  (match s.buf k.ctx k.buf with | some e => e.evictable | none => false) && p.state == 1 && !p.mig && !s.changing k &&
    (s.oldFrames k).isEmpty

/-- The page is a first one of its class and stack in the order of eviction. -/
def State.firstVictim (s : State) (e : BufEntry) (k : PageKey) : Bool :=
  let p := s.page k
  let peer (z : PageKey × PageEntry) : Bool := s.canEvict z.1 && (match s.buf z.1.ctx z.1.buf with
    | some x => x.ilv == e.ilv && stacksOf x z.2.stack == stacksOf e p.stack
    | none => false)
  !(s.pages.any fun z => peer z && rankLt (evictRank z.2) (evictRank p))

/-- R254, R255: while a stack of its class is short of free frames, the first page in the order of eviction is evicted: to the
blocks of the zone that its handle names when it compresses, else to the capacity tier. -/
def execPageEviction (ctx buf page handle : Nat) (fits : Bool) (s : State) : Host.Outcome State Fault Refusal :=
  let k : PageKey := ⟨ctx, buf, page⟩
  match s.buf ctx buf with
  | none => .next s
  | some e =>
    let p := s.page k
    let low := (stacksOf e p.stack).any fun n => decide (s.freeUnits n < (s.die (n / 3)).regs.freelow)
    let taken := (s.allPages.any fun z => z.state == 3 && z.frame == handle) ||
      s.evictions.any fun z => !z.toZone && z.handle == handle
    if ¬ s.canEvict k ∨ ¬ low ∨ ¬ s.firstVictim e k ∨ (if fits then ¬ s.zoneOk e p.stack handle else taken) then .next s
    else
      let v : Eviction := { key := k, handle, toZone := fits, stack := p.stack, frame := p.frame }
      let s := { s with evictions := s.evictions ++ [v] }
      let out (p : PageEntry) : PageEntry :=
        { p with state := if fits then 2 else 3, frame := handle, stack := if 3 ≤ e.ilv then p.stack else 0 }
      .next (s.change k out)

/-- Lines that a unit writes whole: poison and unfound errors end, but for faults of the cells (R259). -/
def State.coverLines (s : State) (ls : List Nat) : State :=
  { s with poison := s.poison.filter fun l => !ls.contains l
           latent := (s.latent.filter fun l => !ls.contains l) ++ s.stuck.filter ls.contains }

/-- R255: the compression or copy ends and the frame is free; it waits for the change's acknowledgements. The zone blocks that
it writes are written whole (R259). -/
def execEvictionComplete (ctx buf page : Nat) (s : State) : Host.Outcome State Fault Refusal :=
  let k : PageKey := ⟨ctx, buf, page⟩
  match s.buf ctx buf, s.evictions.find? fun e => e.key == k with
  | some e, some v =>
    if s.changing k ∨ s.oldStores k (fun _ => true) then .next s
    else
      let old : PageEntry := { state := 1, mig := false, stack := v.stack, frame := v.frame }
      let src := pageInv s.pkg.pkgid e old
      let stale (x : Nat) : Bool := (storeInv v.toZone v.handle (pageBytes e.pgsz) x).isSome
      let s := s.movePage src (storeByte v.toZone v.handle) fun x => (src x).isSome || stale x
      let s := if v.toZone then s.coverLines (s.zoneLines v.handle) else s
      .next ({ s with evictions := s.evictions.filter fun x => x.key != k }.leaveFrame k e v.stack v.frame)
  | _, _ => .next s

/-! ## Migration (R256–R258) -/

/-- R256, R257: a migration of a resident page begins. -/
def execPageMigration (ctx buf page stack frame : Nat) (s : State) : Host.Outcome State Fault Refusal :=
  let k : PageKey := ⟨ctx, buf, page⟩
  match s.buf ctx buf with
  | none => .next s
  | some e =>
    let p := s.page k
    let new : PageEntry := { state := 1, mig := false, stack, frame }
    if p.state ≠ 1 ∨ e.bflags.getLsbD 2 ∨ e.bflags.getLsbD 3 ∨ p.mig ∨ s.changing k ∨ ¬ (s.oldFrames k).isEmpty ∨
        ¬ s.frameOk e stack frame ∨ ¬ placeOk e p stack frame ∨ s.frameUsed e new then .next s
    else .next (s.beginMigration k stack frame id)

/-- R257: the lines not yet copied are copied, each as its old home holds it, and the page switches to its new frame. -/
def execMigrationSwitch (ctx buf page : Nat) (s : State) : Host.Outcome State Fault Refusal :=
  let k : PageKey := ⟨ctx, buf, page⟩
  match s.buf ctx buf, s.migrations.find? fun m => m.key == k with
  | some e, some m =>
    if m.switched ∨ s.changing k ∨ s.oldStores k (fun _ => true) then .next s
    else
      let own := s.pkg.pkgid
      let old : PageEntry := { state := 1, mig := false, stack := m.oldStack, frame := m.oldFrame }
      let new : PageEntry := { state := 1, mig := false, stack := m.newStack, frame := m.newFrame }
      let src := pageInv own e old
      let s := s.movePage src (pagePhys own e new) fun x => (pageInv own e new x).isSome
      let full (x : Migration) : Migration :=
        if x.key = k then { x with switched := true, bitmap := List.range (pageBytes e.pgsz / 64) } else x
      let s := { s with migrations := s.migrations.map full }
      .next ((s.change k fun p =>
        { p with mig := false, stack := if e.ilv = 2 ∨ 3 ≤ e.ilv then m.newStack else 0, frame := m.newFrame }).changeDone k)
  | _, _ => .next s

/-! ## Scrubbing, spares, retirement (R259–R263) -/

/-- Lines of a row: 16 lines of 64 bytes (R447). -/
def rowLines (pkg stack bank row : Nat) : List Nat :=
  let a := (row / 8 * 1024 + bank) * 8192 + row % 8 * 1024
  (List.range 16).map fun i => (physOf pkg stack a) / 64 + i

def rowRec (kind stack bank row : Nat) : ErrRec :=
  { kind, stack, pch := bank / 16, bank := bank % 16, row, loc := (row / 8 * 1024 + bank) * 8192 + row % 8 * 1024
    bytes := 0, clk := 0 }

/-- A page whose frame holds a physical number. -/
def State.pageAt (s : State) (x : Nat) : Option (PageKey × BufEntry) :=
  s.pages.findSome? fun z =>
    match s.buf z.1.ctx z.1.buf with
    | some e => if z.2.state = 1 ∧ (pageInv s.pkg.pkgid e z.2 x).isSome then some (z.1, e) else none
    | none => none

/-- The base die copies lines of a stack: unreadable ones are copied as poison, recorded as found on demand (log 38), and the
faults of their cells, and with them the failures of their rows, are left behind (R260). -/
def State.recell (s : State) (stack : Nat) (ls : List Nat) : State :=
  let s := ls.foldl (fun s l => s.findError l 3) s
  let rows := ls.map fun l => (rowOf (physAddr (64 * l)))
  { s with stuck := s.stuck.filter fun l => !ls.contains l }.updStack stack fun u =>
    { u with failed := u.failed.filter fun f => !rows.any fun r => (r.1 * 16 + r.2.1, r.2.2) == f }

/-- A spare granule can take the row's granule: of a bank-chunked page only one that keeps each chunk in its bank, which the
manual leaves open (R249, R260). -/
def State.granuleOk (s : State) (line : Nat) : Bool :=
  match s.pageAt (64 * line) with
  | some (_, e) => e.ilv != 4 || s.pick (2 ^ 121)
  | none => true

/-- A page whose row has failed retires (R263): it migrates to a free frame of its class and size, or stays with the lines of
the row poisoned. Either way its frame is withdrawn once it has left. While a change or migration of it is in progress the row
waits. -/
def State.retirePage (s : State) (stack bank row : Nat) (k : PageKey) (e : BufEntry) : State :=
  let ls := rowLines s.pkg.pkgid stack bank row
  let p := s.page k
  if s.changing k ∨ p.mig ∨ ¬ (s.oldFrames k).isEmpty then
    s.updStack stack fun u => { u with failed := u.failed ++ [(bank, row)] }
  else
    let retire (p : PageEntry) : PageEntry := { p with retire := true }
    let s := match s.freeFrame e p (placeStacks e) with
      | some (n, f) => s.beginMigration k n f retire
      | none =>
        let s := (s.setPage k (retire p)).listStale k
        { s with poison := s.poison ++ ls.filter fun l => !s.poison.contains l }
    let ref := k.buf * 2 ^ 44 + k.page * pageBytes e.pgsz
    (s.errRecord (stack / 3) { rowRec 7 stack bank row with loc := ref, bytes := pageBytes e.pgsz }).post "capacity-degraded"
      [stack, k.ctx, ref, pageBytes e.pgsz]

/-- A failed row of the compressed zone withdraws its block; the pages in it go to the capacity tier first, their unreadable
lines as poison (R263). -/
def State.retireBlock (s : State) (stack block : Nat) : State :=
  let inside (h : Nat) : Bool :=
    let z := zoneOf h
    z.1 == stack && decide (z.2.1 ≤ block) && decide (block < z.2.1 + z.2.2)
  let s := (s.pages.filter fun z => z.2.state == 2 && inside z.2.frame).foldl (fun s z =>
    match s.buf z.1.ctx z.1.buf with
    | none => s
    | some e =>
      let n := pageBytes e.pgsz
      let (id, s) := s.fresh
      let s := s.zoneErrors z.2.frame n
      let src := storeInv true z.2.frame n
      let s := s.movePage src (storeByte false (2 ^ 51 + id)) fun x => (src x).isSome
      s.change z.1 fun p => { p with state := 3, frame := 2 ^ 51 + id }) s
  let s := (s.tables.filter fun z => z.2.2.state == 2 && inside z.2.2.frame).foldl (fun s z =>
    let n := pageBytes z.1.pgsz
    let (id, s) := s.fresh
    let s := s.zoneErrors z.2.2.frame n
    let src := storeInv true z.2.2.frame n
    let s := s.movePage src (storeByte false (2 ^ 51 + id)) fun x => (src x).isSome
    { s with tables := s.tables.map fun y =>
        if y = z then (y.1, y.2.1, { y.2.2 with state := 3, frame := 2 ^ 51 + id }) else y }) s
  s.updStack stack fun u => { u with zoneLost := u.zoneLost ++ [block] }

/-- A failed row takes the first resource of R260 that is free. -/
def State.replaceRow (s : State) (stack bank row : Nat) : State :=
  let u := s.stack stack
  let d := stack / 3
  let ls := rowLines s.pkg.pkgid stack bank row
  let a := physAddr (64 * ls.headD 0)
  if tabGet 0 u.spareRows bank < 4 then
    ((s.recell stack ls).updStack stack fun u =>
      { u with spareRows := tabSet 0 u.spareRows bank (tabGet 0 u.spareRows bank + 1), copies := u.copies ++ [⟨stack, bank, row⟩] }).errRecord
      d (rowRec 4 stack bank row)
  else if u.remaps < 512 then
    ((s.recell stack ls).updStack stack fun u => { u with remaps := u.remaps + 1, copies := u.copies ++ [⟨stack, bank, row⟩] }).errRecord d
      (rowRec 5 stack bank row)
  else if u.granules < 32 ∧ s.granuleOk (ls.headD 0) then
    let first := (physOf s.pkg.pkgid stack (a / 65536 * 65536)) / 64
    ((s.recell stack ((List.range 1024).map (first + ·))).updStack stack fun u =>
      { u with granules := u.granules + 1, moved := u.moved ++ [a / 65536] }).errRecord d (rowRec 6 stack bank row)
  else if s.stackRoom stack ≤ a then s.retireBlock stack ((a - s.stackRoom stack) / 4096)
  else
    match s.pageAt (64 * ls.headD 0) with
    | none => s
    | some (k, e) => s.retirePage stack bank row k e

/-- The failed rows of a stack are replaced, each unless the resource of an earlier one has replaced it too. -/
def State.replaceFailed (s : State) (stack : Nat) : State :=
  (s.stack stack).failed.eraseDups.foldl (fun s r =>
    if (s.stack stack).failed.contains r then
      (s.updStack stack fun u => { u with failed := u.failed.filter (· != r) }).replaceRow stack r.1 r.2
    else s) s

/-- R259, R260: once every SCRUBPER interval the scrubber has read every line of its stack; uncorrectable errors are recorded
and poisoned, and failed rows are replaced. -/
def execScrub (stack : Nat) (s : State) : Host.Outcome State Fault Refusal :=
  let die := s.die (stack / 3)
  if Config.hbmStacks ≤ stack ∨ die.clk < (s.stack stack).scrubDue then .next s
  else
    let mine (l : Nat) : Bool := decide (64 * l < hostBase) && physPkg (64 * l) == s.pkg.pkgid && physStack (64 * l) == stack
    let s := (s.latent.filter mine).foldl (fun s l => s.findError l 2) s
    let worn := ((s.stack stack).cerr.filter fun e => decide (die.regs.cethresh < e.2)).map fun e => (e.1 / 65536, e.1 % 65536)
    let s := worn.foldl (fun s r => s.errRecord (stack / 3) (rowRec 1 stack r.1 r.2)) s
    .next ((s.updStack stack fun u =>
      { u with failed := u.failed ++ worn, cerr := [], scrubDue := die.clk + clkPerUs * 1000000 * die.regs.scrubper }).replaceFailed
        stack)

/-- R260: a row copy finishes. -/
def execRowCopyComplete (stack bank row : Nat) (s : State) : Host.Outcome State Fault Refusal :=
  .next (s.updStack stack fun u => { u with copies := u.copies.filter (· != ⟨stack, bank, row⟩) })

/-! ## Privileged registers (R235, R241, R242, R264, R416) -/

/-- The limits of a fault-unit register; none for a number that is no register (R264). -/
def regLimit (s : State) (reg v : Nat) : Option Bool :=
  match reg with
  | 0x000 => some ((decide (v ≤ 262144) && s.pkg.negotiated.getLsbD 4 || v == 0) && s.launches.isEmpty && s.groups.isEmpty)
  | 0x008 => some (decide (v < 2 ^ 32))
  | 0x010 => some (decide (100 ≤ v) && decide (v ≤ 10000000))
  | 0x018 => some (decide (v ≤ 1))
  | 0x020 => some (decide (3600 ≤ v) && decide (v ≤ 604800))
  | 0x028 => some (decide (1 ≤ v) && decide (v ≤ 255))
  | 0x030 => some true
  | 0x038 => some ((List.range 11).any fun i => v == 2 ^ (6 + i))
  | _ => none

def FaultRegs.write (r : FaultRegs) (reg v : Nat) : FaultRegs :=
  match reg with
  | 0x000 => { r with zonesize := v }
  | 0x008 => { r with freelow := v }
  | 0x010 => { r with ageper := v }
  | 0x018 => { r with locmig := v }
  | 0x020 => { r with scrubper := v }
  | 0x028 => { r with cethresh := v }
  | 0x030 => { r with errbase := v }
  | 0x038 => { r with errsize := v }
  | _ => r

/-- A pool's register: minimum or cap of a class; a write that breaks a rule of R241 changes nothing. -/
def Pool.write (p : Pool) (cls : Nat) (cap : Bool) (v reserve : Nat) : Option Pool :=
  if cap then some { p with caps := listSet p.caps cls v }
  else
    let m := listSet p.mins cls v
    if p.entries < m.sum ∨ (m[1]?).getD 0 < reserve then none else some { p with mins := m }

/-- A host launch queue's register: 0 context, 1 base, 2 size, 3 home; a size starts the queue at head and tail 0 (R235). -/
def HQueue.write (q : HQueue) (f v : Nat) : Option HQueue :=
  match f with
  | 0 => some { q with ctx := v }
  | 1 => some { q with base := BitVec.ofNat 64 v }
  | 2 => if (List.range 13).any fun i => v == 2 ^ (4 + i) then some { q with size := v, head := 0, tail := 0 } else none
  | _ => if v < 4 then some { q with home := v } else none

/-- Replies for which a unit of a die holds space: those in its queues, and those of the reads that the distributor waits for
(R22, R241). -/
def State.replyReserve (s : State) (die unit : Nat) : Nat :=
  let u := s.die die
  let held := match u.pools[unit]? with | some p => (p.held[1]?).getD 0 | none => 0
  if unit = 3 then max held u.dcmds.length else held

/-- Maps a buffer of a context at an offset of the BAR2 window of the context's function, or takes it out of the window when it does
not fit at the offset (R433; log 21). -/
def State.mapBar2 (s : State) (ctx buf off : Nat) : Option State :=
  match s.buf ctx buf, tabFind s.pkg.ctxFn ctx with
  | some e, some _ =>
    let rest := s.pkg.bar2.filter fun x => !(x.1 == ctx && x.2.1 == buf)
    some { s with pkg := { s.pkg with
      bar2 := if off + e.size ≤ Config.bar2Bytes then rest ++ [(ctx, buf, off)] else rest } }
  | _, _ => none

/-- A span of a buffer lies in the BAR2 window of its context's function (R433). -/
def State.inBar2 (s : State) (ctx : Nat) (r : Dword) (n : Nat) : Bool :=
  (tabFind s.pkg.ctxFn ctx).isSome && s.pkg.bar2.any fun x =>
    x.1 == ctx && x.2.1 == refBuf r && decide (x.2.2 + refOff r + n ≤ Config.bar2Bytes)

/-- A register that the manual gives no offset, under the numbers of log 21: pools from 0x1000, congestion threshold 0x2000,
host queues from 0x4000, KICKIDX from 0x100000, code buffers from 0x200000, functions of contexts from 0x300000, BAR2 mappings
from 0x400000, package numbers 0x3000 and 0x3008. A virtual function needs SR-IOV (R442). -/
def State.otherReg (s : State) (die reg v : Nat) : Option State :=
  if 0x1000 ≤ reg ∧ reg < 0x1400 then
    let unit := (reg - 0x1000) / 0x100
    let cls := reg / 0x10 % 0x10
    if 3 ≤ cls ∨ reg % 8 ≠ 0 then none
    else
      match (s.die die).pools[unit]? with
      | none => none
      | some p => (p.write cls (reg % 0x10 == 8) v (s.replyReserve die unit)).map fun p =>
          s.updDie die fun u => { u with pools := listSet u.pools unit p }
  else if reg = 0x2000 then some (s.updDie die fun u => { u with congThresh := v })
  else if reg = 0x3000 then (if v < 64 then some { s with pkg := { s.pkg with pkgid := v } } else none)
  else if reg = 0x3008 then
    some { s with pkg := { s.pkg with pod := (List.range 64).filter fun i => v / 2 ^ i % 2 == 1 } }
  else if 0x4000 ≤ reg ∧ reg < 0x4000 + 256 * 32 ∧ reg % 8 = 0 then
    let qi := (reg - 0x4000) / 32
    let q := tabGet { ctx := 0, base := 0, size := 0, home := 0 } s.pkg.queues qi
    (q.write (reg / 8 % 4) v).map fun q => { s with pkg := { s.pkg with queues := tabPut s.pkg.queues qi q } }
  else if 0x100000 ≤ reg ∧ reg < 0x110000 then some { s with kickidx := tabPut s.kickidx (reg - 0x100000) v }
  else if 0x200000 ≤ reg ∧ reg < 0x210000 then some { s with code := tabPut s.code (reg - 0x200000) v }
  else if 0x300000 ≤ reg ∧ reg < 0x310000 then
    (if v < Config.functions ∧ (v = 0 ∨ s.pkg.negotiated.getLsbD 2) then
      some { s with pkg := { s.pkg with ctxFn := tabPut s.pkg.ctxFn (reg - 0x300000) v } } else none)
  else if 0x400000 ≤ reg ∧ reg < 0x410000 then s.mapBar2 (reg - 0x400000) (v % 2 ^ 20) (v / 2 ^ 20 * 4096)
  else none

/-- R264: a write of a privileged register; one outside its limit is ignored and reported, and so is every one in recovery, where
BAR0 exposes the recovery registers alone, which the manual does not give (R443). -/
def execRegisterWrite (die reg : Nat) (value : Dword) (s : State) : Host.Outcome State Fault Refusal :=
  let v := value.toNat
  let refused := s.post "register-refused" [die, reg, v]
  if 4 ≤ die ∨ s.pkg.boot.recovery then .next refused
  else
    match regLimit s reg v with
    | some true => .next (s.updDie die fun u => { u with regs := u.regs.write reg v })
    | some false => .next refused
    | none => .next ((s.otherReg die reg v).getD refused)

/-! ## The host window (R434) -/

/-- R434: the host withdraws a bus page: the page becomes absent by a change. -/
def execAtsInvalidation (ctx buf page : Nat) (s : State) : Host.Outcome State Fault Refusal :=
  let k : PageKey := ⟨ctx, buf, page⟩
  match s.buf ctx buf with
  | some e =>
    if e.bflags.getLsbD 3 ∧ (s.page k).state = 1 ∧ ¬ s.changing k then
      .next (s.change k fun p => { p with state := 0, frame := 0 })
    else .next s
  | none => .next s

/-- R434: the host answers a page request that it has been sent: the page is resident at a bus page, and the requests that wait are
replayed; a refused page fails the rights check. -/
def execPageRequestResponse (ctx buf page : Nat) (granted : Bool) (busPage : Nat) (s : State) :
    Host.Outcome State Fault Refusal :=
  let k : PageKey := ⟨ctx, buf, page⟩
  match s.buf ctx buf with
  | some e =>
    if ¬ e.bflags.getLsbD 3 ∨ ¬ s.pkg.pageReqs.contains k ∨ (s.page k).state = 1 ∨ s.changing k then .next s
    else
    let s := { s with pkg := { s.pkg with pageReqs := s.pkg.pageReqs.filter (· != k) }, wanted := s.wanted.filter (· != k) }
    if granted then .next ((s.change k fun p => { p with state := 1, frame := busPage }).replayAll k)
    else
      let s := s.setPage k { s.page k with state := 4 }
      .next ((s.post "page-request-refused" [ctx, buf, page]).replayAll k)
  | none => .next s

end Sys2Proof.Machine
end

