-- ==== Sys2Proof/Machine/Float.lean ====
section
/-! DEFINITION. Floating-point and conversion words (08_core_float.md R156–R168). -/

namespace Sys2Proof.Machine

/-- A 32-bit result of a format operation. -/
def w32 (x : Nat) : Word := BitVec.ofNat 32 x
def w64 (x : Nat) : Dword := BitVec.ofNat 64 x

/-! ## Three-operand words (R158, R159) -/

/-- R158: fadd32. -/
def execFadd32 (g : BitVec 4) (d a b : BitVec 7) (s : State) :
    Host.Outcome State Fault Refusal :=
  lane32 (.fadd32 g d a b) g d (fun rd => w32 (fadd .f32 (rd a.toNat).toNat (rd b.toNat).toNat)) s

/-- R158: fmul32. -/
def execFmul32 (g : BitVec 4) (d a b : BitVec 7) (s : State) :
    Host.Outcome State Fault Refusal :=
  lane32 (.fmul32 g d a b) g d (fun rd => w32 (fmul .f32 (rd a.toNat).toNat (rd b.toNat).toNat)) s

/-- R158: ffma32. -/
def execFfma32 (g : BitVec 4) (d a b : BitVec 7) (s : State) :
    Host.Outcome State Fault Refusal :=
  lane32 (.ffma32 g d a b) g d (fun rd => w32 (ffma .f32 (rd a.toNat).toNat (rd b.toNat).toNat (rd d.toNat).toNat)) s

/-- R158: fsub32. -/
def execFsub32 (g : BitVec 4) (d a b : BitVec 7) (s : State) :
    Host.Outcome State Fault Refusal :=
  lane32 (.fsub32 g d a b) g d (fun rd => w32 (fsub .f32 (rd a.toNat).toNat (rd b.toNat).toNat)) s

/-- R158: ffma2h. -/
def execFfma2h (g : BitVec 4) (d a b : BitVec 7) (s : State) :
    Host.Outcome State Fault Refusal :=
  lane32 (.ffma2h g d a b) g d (fun rd => w32 (ffma2 .f16 (rd a.toNat).toNat (rd b.toNat).toNat (rd d.toNat).toNat)) s

/-- R158: fadd64. -/
def execFadd64 (g : BitVec 4) (d a b : BitVec 7) (s : State) :
    Host.Outcome State Fault Refusal :=
  lane64 (.fadd64 g d a b) g d (fun rd => w64 (fadd .f64 (Rd.pair rd a.toNat).toNat (Rd.pair rd b.toNat).toNat)) s

/-- R158: fmul64. -/
def execFmul64 (g : BitVec 4) (d a b : BitVec 7) (s : State) :
    Host.Outcome State Fault Refusal :=
  lane64 (.fmul64 g d a b) g d (fun rd => w64 (fmul .f64 (Rd.pair rd a.toNat).toNat (Rd.pair rd b.toNat).toNat)) s

/-- R158: ffma64. -/
def execFfma64 (g : BitVec 4) (d a b : BitVec 7) (s : State) :
    Host.Outcome State Fault Refusal :=
  lane64 (.ffma64 g d a b) g d (fun rd => w64 (ffma .f64 (Rd.pair rd a.toNat).toNat (Rd.pair rd b.toNat).toNat (Rd.pair rd d.toNat).toNat)) s

/-! ## Extended words (R160–R165) -/

/-- R160: fmin32. -/
def execFmin32 (g : BitVec 4) (d a : BitVec 7) (s : State) :
    Host.Outcome State Fault Refusal :=
  lane32 (.fmin32 g d a) g d (fun rd => w32 (fminmax .f32 false (rd d.toNat).toNat (rd a.toNat).toNat)) s

/-- R160: fmax32. -/
def execFmax32 (g : BitVec 4) (d a : BitVec 7) (s : State) :
    Host.Outcome State Fault Refusal :=
  lane32 (.fmax32 g d a) g d (fun rd => w32 (fminmax .f32 true (rd d.toNat).toNat (rd a.toNat).toNat)) s

/-- R160: ffma2b. -/
def execFfma2b (g : BitVec 4) (d a : BitVec 7) (s : State) :
    Host.Outcome State Fault Refusal :=
  lane32 (.ffma2b g d a) g d (fun rd => w32 (ffma2 .bf16 (rd a.toNat).toNat (rd (a.toNat + 1)).toNat (rd d.toNat).toNat)) s

/-- R160: fclass32. -/
def execFclass32 (g : BitVec 4) (d a : BitVec 7) (s : State) :
    Host.Outcome State Fault Refusal :=
  lane32 (.fclass32 g d a) g d (fun rd => w32 (fclass .f32 (rd a.toNat).toNat)) s

/-- R160: fclass64. -/
def execFclass64 (g : BitVec 4) (d a : BitVec 7) (s : State) :
    Host.Outcome State Fault Refusal :=
  lane32 (.fclass64 g d a) g d (fun rd => w32 (fclass .f64 (Rd.pair rd a.toNat).toNat)) s

/-- R160: fclass16. -/
def execFclass16 (g : BitVec 4) (d a : BitVec 7) (s : State) :
    Host.Outcome State Fault Refusal :=
  lane32 (.fclass16 g d a) g d (fun rd => w32 (fclass .f16 ((rd a.toNat).toNat % 65536))) s

/-- R165: fneg32. -/
def execFneg32 (g : BitVec 4) (d a : BitVec 7) (s : State) :
    Host.Outcome State Fault Refusal :=
  lane32 (.fneg32 g d a) g d (fun rd => rd a.toNat ^^^ 0x80000000) s

/-- R165: fabs32. -/
def execFabs32 (g : BitVec 4) (d a : BitVec 7) (s : State) :
    Host.Outcome State Fault Refusal :=
  lane32 (.fabs32 g d a) g d (fun rd => rd a.toNat &&& 0x7FFFFFFF) s

/-- R160, R165: fneg64. -/
def execFneg64 (g : BitVec 4) (d a : BitVec 7) (s : State) :
    Host.Outcome State Fault Refusal :=
  lane64 (.fneg64 g d a) g d (fun rd => Rd.pair rd a.toNat ^^^ 0x8000000000000000) s

/-- R160, R165: fabs64. -/
def execFabs64 (g : BitVec 4) (d a : BitVec 7) (s : State) :
    Host.Outcome State Fault Refusal :=
  lane64 (.fabs64 g d a) g d (fun rd => Rd.pair rd a.toNat &&& 0x7FFFFFFFFFFFFFFF) s

/-- R160, R165: fmin64. -/
def execFmin64 (g : BitVec 4) (d a : BitVec 7) (s : State) :
    Host.Outcome State Fault Refusal :=
  lane64 (.fmin64 g d a) g d (fun rd => w64 (fminmax .f64 false (Rd.pair rd d.toNat).toNat (Rd.pair rd a.toNat).toNat)) s

/-- R160, R165: fmax64. -/
def execFmax64 (g : BitVec 4) (d a : BitVec 7) (s : State) :
    Host.Outcome State Fault Refusal :=
  lane64 (.fmax64 g d a) g d (fun rd => w64 (fminmax .f64 true (Rd.pair rd d.toNat).toNat (Rd.pair rd a.toNat).toNat)) s

/-! ## Tracked words (R162, R163) -/

/-- The writes of a tracked 32-bit and 64-bit result. -/
def write32 (d : BitVec 7) (x : Nat) (l : Nat) : List RegWrite := [⟨l, d.toNat, w32 x⟩]
def write64 (d : BitVec 7) (x : Nat) (l : Nat) : List RegWrite :=
  [⟨l, d.toNat, loWord (w64 x)⟩, ⟨l, d.toNat + 1, hiWord (w64 x)⟩]

/-- R162, R163: fdiv32. -/
def execFdiv32 (g : BitVec 4) (d a : BitVec 7) (s : State) :
    Host.Outcome State Fault Refusal :=
  laneTracked (.fdiv32 g d a) g (fun rd => write32 d (fdiv .f32 (rd d.toNat).toNat (rd a.toNat).toNat)) s

/-- R162, R163: fsqrt32. -/
def execFsqrt32 (g : BitVec 4) (d a : BitVec 7) (s : State) :
    Host.Outcome State Fault Refusal :=
  laneTracked (.fsqrt32 g d a) g (fun rd => write32 d (fsqrt .f32 (rd a.toNat).toNat)) s

/-- R162, R163: frsqrt32. -/
def execFrsqrt32 (g : BitVec 4) (d a : BitVec 7) (s : State) :
    Host.Outcome State Fault Refusal :=
  laneTracked (.frsqrt32 g d a) g (fun rd => write32 d (frsqrt .f32 (rd a.toNat).toNat)) s

/-- R162, R163: frcp32. -/
def execFrcp32 (g : BitVec 4) (d a : BitVec 7) (s : State) :
    Host.Outcome State Fault Refusal :=
  laneTracked (.frcp32 g d a) g (fun rd => write32 d (frcp .f32 (rd a.toNat).toNat)) s

/-- R162, R163: fexp2. -/
def execFexp2 (g : BitVec 4) (d a : BitVec 7) (s : State) :
    Host.Outcome State Fault Refusal :=
  laneTracked (.fexp2 g d a) g (fun rd => write32 d (fexp2 (rd a.toNat).toNat)) s

/-- R162, R163: flog2. -/
def execFlog2 (g : BitVec 4) (d a : BitVec 7) (s : State) :
    Host.Outcome State Fault Refusal :=
  laneTracked (.flog2 g d a) g (fun rd => write32 d (flog2 (rd a.toNat).toNat)) s

/-- R162: fdiv64. -/
def execFdiv64 (g : BitVec 4) (d a : BitVec 7) (s : State) :
    Host.Outcome State Fault Refusal :=
  laneTracked (.fdiv64 g d a) g (fun rd => write64 d (fdiv .f64 (Rd.pair rd d.toNat).toNat (Rd.pair rd a.toNat).toNat)) s

/-- R162: fsqrt64. -/
def execFsqrt64 (g : BitVec 4) (d a : BitVec 7) (s : State) :
    Host.Outcome State Fault Refusal :=
  laneTracked (.fsqrt64 g d a) g (fun rd => write64 d (fsqrt .f64 (Rd.pair rd a.toNat).toNat)) s

/-- R162: frsqrt64. -/
def execFrsqrt64 (g : BitVec 4) (d a : BitVec 7) (s : State) :
    Host.Outcome State Fault Refusal :=
  laneTracked (.frsqrt64 g d a) g (fun rd => write64 d (frsqrt .f64 (Rd.pair rd a.toNat).toNat)) s

/-- R162: frcp64. -/
def execFrcp64 (g : BitVec 4) (d a : BitVec 7) (s : State) :
    Host.Outcome State Fault Refusal :=
  laneTracked (.frcp64 g d a) g (fun rd => write64 d (frcp .f64 (Rd.pair rd a.toNat).toNat)) s

/-! ## Compares (R166) -/

/-- R166: fcmpF32. -/
def execFcmpF32 (c : BitVec 2) (t x y : BitVec 3) (a b : BitVec 7) (s : State) :
    Host.Outcome State Fault Refusal :=
  compareWord (.fcmpF32 c t x y a b) t x y
    (fun rd => fcond c.toNat (dec .f32 (rd a.toNat).toNat) (dec .f32 (rd b.toNat).toNat))
    (fun rd => c != 3 && (isNaN (dec .f32 (rd a.toNat).toNat) || isNaN (dec .f32 (rd b.toNat).toNat))) s

/-- R166: fcmpF64. -/
def execFcmpF64 (c : BitVec 2) (t x y : BitVec 3) (a b : BitVec 7) (s : State) :
    Host.Outcome State Fault Refusal :=
  compareWord (.fcmpF64 c t x y a b) t x y
    (fun rd => fcond c.toNat (dec .f64 (Rd.pair rd a.toNat).toNat) (dec .f64 (Rd.pair rd b.toNat).toNat))
    (fun rd => c != 3 && (isNaN (dec .f64 (Rd.pair rd a.toNat).toNat) || isNaN (dec .f64 (Rd.pair rd b.toNat).toNat))) s

/-- R166: fcmpF16. -/
def execFcmpF16 (c : BitVec 2) (t x y : BitVec 3) (a b : BitVec 7) (s : State) :
    Host.Outcome State Fault Refusal :=
  compareWord (.fcmpF16 c t x y a b) t x y
    (fun rd => fcond c.toNat (dec .f16 ((rd a.toNat).toNat % 65536)) (dec .f16 ((rd b.toNat).toNat % 65536)))
    (fun rd => c != 3 && (isNaN (dec .f16 ((rd a.toNat).toNat % 65536)) || isNaN (dec .f16 ((rd b.toNat).toNat % 65536)))) s

/-! ## Conversions (R167, R168) -/

/-- Target and source of each conversion pair (R167). -/
def cvtKinds (p : Nat) : Kind × Kind :=
  match p with
  | 0 => (.f32, .f64) | 1 => (.f64, .f32) | 2 => (.f16, .f32) | 3 => (.f32, .f16) | 4 => (.bf16, .f32)
  | 5 => (.f32, .bf16) | 6 => (.f16, .f64) | 7 => (.bf16, .f64) | 8 => (.e4m3, .f32) | 9 => (.e5m2, .f32)
  | 10 => (.e2m3, .f32) | 11 => (.e3m2, .f32) | 12 => (.e2m1, .f32) | 13 => (.i8, .f32) | 14 => (.dm8, .f32)
  | 15 => (.f32, .e4m3) | 16 => (.f32, .e5m2) | 17 => (.f32, .e2m3) | 18 => (.f32, .e3m2) | 19 => (.f32, .e2m1)
  | 20 => (.f32, .i8) | 21 => (.f32, .dm8) | 22 => (.i32, .f32) | 23 => (.n32, .f32) | 24 => (.f32, .i32)
  | 25 => (.f32, .n32) | 26 => (.i32, .f64) | 27 => (.f64, .i32) | 28 => (.i64, .f64) | 29 => (.f64, .i64)
  | 30 => (.n32, .f64) | _ => (.f64, .n32)

/-- Register bits of a source (R156): the bits of the format, the bits above them ignored. -/
def kindBits : Kind → Nat
  | .f64 | .i64 => 64
  | .f32 | .i32 | .n32 => 32
  | .f16 | .bf16 => 16
  | .e4m3 | .e5m2 | .dm8 | .i8 => 8
  | .e2m3 | .e3m2 => 6
  | .e2m1 => 4

/-- The converted value of the register bits of a source. -/
def cvtValue (p sat rnd x : Nat) : Nat :=
  let k := cvtKinds p
  convert (dec k.2 (x % 2 ^ kindBits k.2)) k.1 rnd (sat = 1)

/-- R168: cvt. -/
def execCvt (p : BitVec 5) (t : BitVec 1) (r : BitVec 2) (g : BitVec 4) (d a : BitVec 7) (s : State) :
    Host.Outcome State Fault Refusal :=
  laneWord (.cvt p t r g d a) g (fun rd ln =>
    let x := if cvtSrcPair p.toNat then (Rd.pair rd a.toNat).toNat else (rd a.toNat).toNat
    let y := cvtValue p.toNat t.toNat r.toNat x
    if cvtDstPair p.toNat then ln.putPair d.toNat (w64 y) else ln.put d.toNat (w32 y)) s

end Sys2Proof.Machine
end

