-- ==== Sys2Proof/Machine/Near.lean ====
section
/-! DEFINITION. The near-memory engine: near-bank words, passes, kicks and the Lamplighter (24_nearmem.md R407–R427). -/

namespace Sys2Proof.Machine

/-! ## Bit columns -/

/-- The columns that meet a condition. -/
def colsOf (f : Nat → Bool) : BitVec 2048 :=
  BitVec.ofNat 2048 ((List.range 2048).foldl (fun m c => if f c then m + 2 ^ c else m) 0)

def Pass.slice (p : Pass) (j : Nat) : BitVec 2048 := tabGet 0 p.z j

def Pass.setSlice (p : Pass) (j : Nat) (x : BitVec 2048) : Pass := { p with z := tabSet 0 p.z j x }

def Pass.tag (p : Pass) (t : BitVec 1) : BitVec 2048 := if t = 0 then p.t0 else p.t1

def Pass.setTag (p : Pass) (t : BitVec 1) (x : BitVec 2048) : Pass := if t = 0 then { p with t0 := x } else { p with t1 := x }

/-- Count of the innermost open loop. -/
def Pass.count (p : Pass) : Nat := match p.loops with | l :: _ => l.1 | [] => 0

/-- Effective slice (R409). -/
def Pass.eff (p : Pass) (rel : Bool) (slice : Nat) : Nat := if rel then slice + p.count else slice

/-- A slice field that names a slice. -/
def fieldSlice (f : BitVec 9) : Option Nat := if f.extractLsb' 0 7 = 127 then none else some (f.extractLsb' 0 7).toNat

/-- The effective slices of the fields of KEY or MASK, each with its key bit. -/
def Pass.named (p : Pass) (fs : List (BitVec 9)) : List (Nat × Bool) :=
  fs.filterMap fun f => (fieldSlice f).map fun n => (p.eff (f.getLsbD 8) n, f.getLsbD 7)

def Pass.next (p : Pass) : Pass := { p with pc := p.pc + 1 }

/-- A slice beyond 95 stops the pass at its word (R412). -/
def Pass.stop (p : Pass) : Pass := { p with ended := true, bad := true }

/-- The slices that MASK selects. -/
def Pass.selected (p : Pass) : List Nat := (List.range 96).filter p.mask.getLsbD

/-! ## Blocks, buffers and chunks (R417, R419, R421) -/

/-- Fields of an argument block. -/
def nkid (b : List Byte) : Nat := recField b 4 2
def naflags (b : List Byte) : Nat := recField b 6 2
def ncount (b : List Byte) : Nat := recField b 8 8
def nbuf (b : List Byte) (i : Nat) : Dword := BitVec.ofNat 64 (recField b (0x10 + 8 * i) 8)
def narg (b : List Byte) (i : Nat) : Word := BitVec.ofNat 32 (recField b (0x30 + 8 * i) 4)
def nplist (b : List Byte) : Dword := BitVec.ofNat 64 (recField b 0x50 8)
def npcount (b : List Byte) : Nat := recField b 0x58 4
def nsync (b : List Byte) : Nat := recField b 0x5C 4
def narrive (b : List Byte) : Nat := recField b 0x60 4
def nstop (b : List Byte) : Bool := naflags b / 32 % 2 == 1
def nacq (b : List Byte) : Bool := naflags b % 2 == 1
def nchunks (b : List Byte) : Nat := (ncount b + 2047) / 2048

/-- The page that a pte describes. -/
def pteEntry (pte : Dword) : PageEntry :=
  { state := pte.toNat / 2 ^ 62, mig := pte.getLsbD 61, stack := pte.toNat / 2 ^ 52 % 16, frame := pte.toNat % 2 ^ 52 }

/-- The page-list entry of a page. -/
def listEntry (l : List (Nat × Nat × Dword)) (buf page : Nat) : Option PageEntry :=
  (l.find? fun x => x.1 == buf && x.2.1 == page).map fun x => pteEntry x.2.2

/-- Physical number of the first byte of chunk c of a buffer, through the page list and the listed buffers' entries. -/
def State.chunkPhys (s : State) (pbufs : List (Nat × BufEntry)) (b : List Byte) (l : List (Nat × Nat × Dword)) (i c : Nat) :
    Option Nat :=
  s.listedPhys pbufs l (refAdd (nbuf b i) (8192 * c : Nat))

/-- Physical number of a running kernel's chunk. -/
def State.kchunk (s : State) (r : NKernel) (i c : Nat) : Nat := (s.chunkPhys r.pbufs r.block r.plist i c).getD 0

/-- Elements of a chunk as a kernel with or without an acquire reads them (R423). -/
def State.elems (s : State) (acq : Bool) (p : Nat) : List Nat :=
  let p := s.served p
  (List.range 2048).map fun c => leNat ((List.range 4).map fun i => s.bankByte acq (p + 4 * c + i))

/-- The banks hold what was written to lines by their units. -/
def State.bankHolds (s : State) (ls : List Nat) : State := { s with bank := s.bank.filter fun e => !ls.contains e.1 }

/-- Columns that lie in poisoned lines of a chunk. -/
def State.badCols (s : State) (p : Nat) : BitVec 2048 := colsOf fun c => s.lineBad (lineOf (s.served p + 4 * c))

/-- A read of a chunk finds its uncorrectable errors. -/
def State.findChunk (s : State) (p : Nat) : State := (List.range 128).foldl (fun s i => s.findError (lineOf (s.served p) + i) 3) s

/-- Columns of a chunk below the element count. -/
def validCols (b : List Byte) (chunk : Nat) : BitVec 2048 := colsOf fun c => decide (2048 * chunk + c < ncount b)

/-- Writes the valid columns of a chunk; lines that hold a poisoned column are written poisoned. The new state and their
number (R415, R424). -/
def State.putChunk (s : State) (p : Nat) (v q : BitVec 2048) (x : Nat → Nat) : State × Nat :=
  let cols := (List.range 2048).filter v.getLsbD
  let cells := cols.flatMap fun c => mapFrom (fun i b => (p + 4 * c + i, b)) 0 (leBytes (x c) 4)
  let ps := cells.map (·.1)
  let ls := linesOf ps
  let bad := ls.filter fun l => (List.range 16).any fun i => q.getLsbD (16 * (l - lineOf p) + i)
  let s := s.writePoison ps
  let s := (s.outsideCells cells).bankHolds ls
  ({ s with poison := s.poison ++ bad.filter fun l => !s.poison.contains l }, bad.length)

/-! ## The words (R410, R411) -/

/-- The running pass whose word runs. -/
def State.pass (s : State) : Option (NKernel × Pass) :=
  match (s.stack s.curPass.1).running with
  | none => none
  | some r => (lookupBy Pass.chunk r.passes s.curPass.2).bind fun p => if p.ended then none else some (r, p)

def State.updKernel (s : State) (stack : Nat) (f : NKernel → NKernel) : State :=
  s.updStack stack fun u => { u with running := u.running.map f }

def State.setPass (s : State) (p : Pass) : State :=
  s.updKernel s.curPass.1 fun r => { r with passes := updateBy Pass.chunk p.chunk (fun _ => p) r.passes }

/-- A near-bank word: what it does with the pass, and with memory. -/
def nearWord (f : State → NKernel → Pass → State × Pass) (s : State) : Host.Outcome State Fault Refusal :=
  match s.pass with
  | none => .fault .noPass
  | some (r, p) =>
    let x := f s r p
    .next (x.1.setPass x.2)

/-- A word that touches only the pass. -/
def passWord (f : Pass → Pass) (s : State) : Host.Outcome State Fault Refusal := nearWord (fun s _ p => (s, f p)) s

/-- Loads 32 slices from elements. -/
def Pass.loadSlices (p : Pass) (b : Nat) (x : Nat → Nat) : Pass :=
  (List.range 32).foldl (fun p j => p.setSlice (b + j) (colsOf fun c => (x c).testBit j)) p

/-- R411: sld. -/
def execNbSld (r : BitVec 1) (sl : BitVec 7) (c : BitVec 3) (s : State) : Host.Outcome State Fault Refusal :=
  nearWord (fun s k p =>
    let b := p.eff (r == 1) sl.toNat
    if 64 < b then (s, p.stop)
    else if c.toNat ≤ 3 then
      let a := s.kchunk k c.toNat p.chunk
      let es := s.elems (nacq k.block) a
      (s.findChunk a, { (p.loadSlices b fun c => (es[c]?).getD 0).next with q := p.q ||| s.badCols a })
    else (s, (p.loadSlices b fun _ => (narg k.block (c.toNat - 4)).toNat).next)) s

/-- R411, R415: sst; under the stop policy a pass that has met poison writes nothing more. -/
def execNbSst (r : BitVec 1) (sl : BitVec 7) (b : BitVec 2) (s : State) : Host.Outcome State Fault Refusal :=
  nearWord (fun s k p =>
    let base := p.eff (r == 1) sl.toNat
    if 64 < base then (s, p.stop)
    else if nstop k.block && p.q != 0 then (s, p.next)
    else
      let a := s.kchunk k b.toNat p.chunk
      let x (c : Nat) : Nat :=
        (List.range 32).foldl (fun m j => if (p.slice (base + j)).getLsbD c then m + 2 ^ j else m) 0
      let y := s.putChunk a p.valid p.q x
      (y.1.updKernel s.curPass.1 fun r => { r with poisoned := r.poisoned + y.2 }, p.next)) s

/-- R411: key. -/
def execNbKey (a b c : BitVec 9) (s : State) : Host.Outcome State Fault Refusal :=
  passWord (fun p =>
    let fs := p.named [a, b, c]
    if fs.any fun x => decide (96 ≤ x.1) then p.stop
    else
      { p.next with
        key := fs.foldl (fun k x => (k &&& ~~~(1#96 <<< x.1)) ||| (if x.2 then 1#96 <<< x.1 else 0#96)) p.key }) s

/-- R411: mask. -/
def execNbMask (a b c : BitVec 9) (s : State) : Host.Outcome State Fault Refusal :=
  passWord (fun p =>
    let fs := p.named [a, b, c]
    if fs.any fun x => decide (96 ≤ x.1) then p.stop
    else { p.next with mask := fs.foldl (fun m x => m ||| (1#96 <<< x.1)) 0#96 }) s

/-- Columns whose selected slices equal the key. -/
def Pass.matches' (p : Pass) : BitVec 2048 :=
  p.selected.foldl (fun m j => m &&& (if p.key.getLsbD j then p.slice j else ~~~p.slice j)) (BitVec.allOnes 2048)

/-- R411: cmp; mode 3 is never installed, and does nothing. -/
def execNbCmp (m : BitVec 2) (t : BitVec 1) (s : State) : Host.Outcome State Fault Refusal :=
  passWord (fun p =>
    let x := p.matches'
    let old := p.tag t
    (p.setTag t (if m = 0 then x else if m = 1 then old &&& x else if m = 2 then old ||| x else old)).next) s

/-- R411: wr. -/
def execNbWr (t : BitVec 1) (s : State) : Host.Outcome State Fault Refusal :=
  passWord (fun p =>
    let x := p.tag t
    (p.selected.foldl (fun p j =>
      p.setSlice j (if p.key.getLsbD j then p.slice j ||| x else p.slice j &&& ~~~x)) p).next) s

/-- R411: tagand. -/
def execNbTagand (d a b : BitVec 1) (s : State) : Host.Outcome State Fault Refusal :=
  passWord (fun p => (p.setTag d (p.tag a &&& p.tag b)).next) s

/-- R411: tagor. -/
def execNbTagor (d a b : BitVec 1) (s : State) : Host.Outcome State Fault Refusal :=
  passWord (fun p => (p.setTag d (p.tag a ||| p.tag b)).next) s

/-- R411: tagnot. -/
def execNbTagnot (d a : BitVec 1) (s : State) : Host.Outcome State Fault Refusal :=
  passWord (fun p => (p.setTag d (~~~p.tag a)).next) s

/-- Shift of a tag by n columns. -/
def shiftCols (x : BitVec 2048) (n : Int) : BitVec 2048 := if 0 ≤ n then x <<< n.toNat else x >>> (-n).toNat

/-- R411: tagsh. -/
def execNbTagsh (d a : BitVec 1) (n : BitVec 9) (s : State) : Host.Outcome State Fault Refusal :=
  passWord (fun p => (p.setTag d (shiftCols (p.tag a) n.toInt)).next) s

/-- R411: loop. -/
def execNbLoop (n : BitVec 9) (s : State) : Host.Outcome State Fault Refusal :=
  passWord (fun p => { p.next with loops := (0, n.toNat, p.pc + 1) :: p.loops }) s

/-- R411: end. -/
def execNbEnd (s : State) : Host.Outcome State Fault Refusal :=
  passWord (fun p =>
    match p.loops with
    | [] => { p with ended := true }
    | (c, n, ret) :: t =>
      if c + 1 < n then { p with pc := ret, loops := (c + 1, n, ret) :: t } else { p.next with loops := t }) s

/-! ## Installation (R412) -/

/-- A slice field: 0–95, or 127 where none is allowed; its key bit where allowed. -/
def nearField (f : BitVec 9) (none' key : Bool) : Bool :=
  (decide ((f.extractLsb' 0 7).toNat < 96) || (none' && f.extractLsb' 0 7 == 127)) && (key || !f.getLsbD 7)

/-- A word that the Lamplighter takes: assigned, reserved bits and modes 0, slices in range. -/
def nearWordOk (w : Word) : Bool :=
  let f1 : BitVec 9 := fld w 18 9
  let f2 : BitVec 9 := fld w 9 9
  let f3 : BitVec 9 := fld w 0 9
  let bit (f : BitVec 9) : Bool := decide (f.toNat < 2)
  let base := nearField f1 true false && (f1.getLsbD 8 || decide ((f1.extractLsb' 0 7).toNat ≤ 64))
  match (fld w 27 5).toNat with
  | 1 => base && decide (f2.toNat < 8) && f3 == 0
  | 2 => base && decide (f2.toNat < 4) && f3 == 0
  | 3 => nearField f1 true true && nearField f2 true true && nearField f3 true true
  | 4 => nearField f1 true false && nearField f2 true false && nearField f3 true false
  | 5 => decide (f1.toNat < 6) && f2 == 0 && f3 == 0
  | 6 => bit f1 && f2 == 0 && f3 == 0
  | 7 => bit f1 && bit f2 && bit f3
  | 8 => bit f1 && bit f2 && bit f3
  | 9 => bit f1 && bit f2 && f3 == 0
  | 10 => bit f1 && bit f2
  | 11 => f2 == 0 && f3 == 0
  | 12 => f1 == 0 && f2 == 0 && f3 == 0
  | _ => false

/-- Loops nest at most four deep, each has its END, and the kernel ends with an END at depth 0. -/
def nestOk : Nat → List Word → Bool
  | _, [] => false
  | d, w :: t =>
    match (fld w 27 5).toNat with
    | 11 => decide (d < 4) && nestOk (d + 1) t
    | 12 => (d == 0 && t.isEmpty) || nestOk (d - 1) t
    | _ => nestOk d t

def nearProgOk (ws : List Word) : Bool := decide (ws.length ≤ 1024) && ws.all nearWordOk && nestOk 0 ws

/-- R412: the driver installs a kernel; a kernel that breaks a rule is refused. -/
def execNbuInstall (stack ctx kid : Nat) (words : List Word) (s : State) : Host.Outcome State Fault Refusal :=
  if Config.hbmStacks ≤ stack ∨ ¬ s.pkg.negotiated.getLsbD 5 ∨ kid < 0x100 ∨ 0x10000 ≤ kid ∨ ¬ nearProgOk words then
    .next (s.post "install-refused" [stack, ctx, kid])
  else
    .next (s.updStack stack fun u =>
      { u with table := (u.table.filter fun p => !(p.ctx == ctx && p.kid == kid)) ++ [{ ctx, kid, words }] })

/-! ## Checks of a block (R418, R421) -/

/-- Buffers that a kernel reads and writes. -/
structure NUse where
  reads : List Nat
  writes : List Nat

def State.prog (s : State) (stack ctx kid : Nat) : Option NProg :=
  (s.stack stack).table.find? fun p => p.ctx == ctx && p.kid == kid

/-- The buffers of a kernel id, when it is installed. -/
def State.kernelUse (s : State) (stack ctx kid : Nat) : Option NUse :=
  match kid with
  | 1 => some ⟨[0, 1], [1]⟩
  | 2 => some ⟨[0], [0]⟩
  | 3 => some ⟨[0, 1], [2]⟩
  | 4 => some ⟨[0], [1]⟩
  | _ =>
    (s.prog stack ctx kid).map fun p =>
      { reads := (p.words.filterMap fun w =>
          if fld w 27 5 = 1#5 ∧ (fld w 9 3).toNat < 4 then some (fld w 9 3).toNat else none).eraseDups
        writes := (p.words.filterMap fun w =>
          if fld w 27 5 = 2#5 then some (fld w 9 2).toNat else none).eraseDups }

def NUse.all (u : NUse) : List Nat := (u.reads ++ u.writes).eraseDups

/-- The block itself can be read and written by its context. -/
def State.blockRow (s : State) (k : Kick) : Bool :=
  k.ref.toNat % 128 == 0 && s.accessRow k.ctx k.ref 128 .r == 0 && s.accessRow k.ctx k.ref 128 .w == 0 &&
    !s.isKick k.ctx k.ref

/-- The group's allocation holds the completion word. -/
def State.syncFits (s : State) (k : Kick) (b : List Byte) : Bool :=
  nsync b == noSync || (match s.group k.group with | some g => syncOk (nsync b) g.desc.lbytes | none => false)

def arriveOk (b : List Byte) : Bool := decide (1 ≤ narrive b) && decide (narrive b ≤ 2 ^ 31)

/-- Orders 1 to 3 of R418. -/
def State.blockCode (s : State) (stack : Nat) (k : Kick) (b : List Byte) : Nat :=
  let u := s.kernelUse stack k.ctx (nkid b)
  let used := match u with | some u => u.all | none => []
  let n := 4 * ncount b
  let e (i : Nat) : Option BufEntry := s.buf k.ctx (refBuf (nbuf b i))
  let outside (i : Nat) : Bool := match e i with | some x => decide (x.size < refOff (nbuf b i) + n) | none => true
  let lrow := s.engRow k.ctx (nplist b) (16 * npcount b) .r
  let rightBad (i : Nat) : Bool :=
    match e i, u with
    | some x, some u => x.ctx != k.ctx || !(x.rights.getLsbD 4 && x.ilv == 4) || (u.reads.contains i && !x.rights.getLsbD 0) ||
        (u.writes.contains i && !x.rights.getLsbD 1)
    | _, _ => true
  let scope := naflags b / 4 % 8
  let rsv := recField b 0x64 20 + recField b 0x7C 4 + naflags b / 64
  let used4 (i : Nat) : Bool := if used.contains i then refOff (nbuf b i) % 8192 != 0 else nbuf b i != 0
  let limits := ncount b == 0 || decide (2 ^ 40 < ncount b) || !arriveOk b || npcount b == 0 || decide (65536 < npcount b)
  if used.any outside || lrow == 2 || !s.syncFits k b then 0x02
  else if used.any rightBad || lrow == 3 then 0x03
  else if rsv != 0 || recField b 0 4 != 1 || u.isNone || limits || (List.range 4).any used4 || decide (scope < 3) ||
      decide (5 < scope) then 0x10
  else 0

/-- R421: the page list covers the used buffers, on this stack of this package, with each chunk number in one bank. -/
def State.listOk (s : State) (stack : Nat) (k : Kick) (b : List Byte) (used : List Nat) (l : List (Nat × Nat × Dword)) :
    Bool :=
  let pages (i : Nat) : List Nat :=
    match s.buf k.ctx (refBuf (nbuf b i)) with
    | none => []
    | some e =>
      let pb := pageBytes e.pgsz
      let a := refOff (nbuf b i) / pb
      (List.range ((refOff (nbuf b i) + 4 * ncount b - 1) / pb - a + 1)).map (a + ·)
  (used.all fun i => (pages i).all fun n =>
    match listEntry l (refBuf (nbuf b i)) n with
    | some p => p.state == 1 && !p.mig && p.stack == stack
    | none => false) &&
  (used.all fun i => match s.buf k.ctx (refBuf (nbuf b i)) with
    | some e => !e.bflags.getLsbD 2 && !e.bflags.getLsbD 3
    | none => false) &&
  (List.range (nchunks b)).all fun c =>
    match used.map fun i => (s.chunkPhys (s.listBufs k.ctx l) b l i c).map bankOf with
    | [] => true
    | x :: t => t.all (· == x)

/-! ## Completion (R418, R426) -/

/-- Steps 2 and 3: the status, and after it the arrival where the kicking group has its allocation. The base die sends no
translation request for the write, which waits while its page is absent (R10). -/
def State.nearReport (s : State) (stack : Nat) (k : Kick) (b : List Byte) (code count : Nat) : State :=
  let arrival :=
    if nsync b = noSync ∨ ¬ s.syncFits k b ∨ ¬ arriveOk b then none
    else some (k.group, nsync b, narrive b, code == 0x01 || code == 0x13)
  s.putArrive { id := 0, die := stack / 3, ctx := k.ctx, ref := refAdd k.ref 0x78, bytes := leBytes (statusWord code count).toNat 4
                tells := [], base := true, arrival }

/-- SUM32's total over the chunks' sums, in ascending order. -/
def NKernel.total (r : NKernel) : Nat :=
  (List.range (nchunks r.block)).foldl (fun t c => fadd .f32 t (tabGet 0 r.sums c).toNat) 0

/-- SUM32 writes its total into element 0 of buffer 1. -/
def State.putTotal (s : State) (r : NKernel) : State :=
  let p := s.kchunk r 1 0
  let s := s.writePoison ((List.range 4).map (p + ·))
  let s := (s.outsideCells (mapFrom (fun i b => (p + i, b)) 0 (leBytes r.total 4))).bankHolds [lineOf p]
  if r.poisoned = 0 ∨ s.poison.contains (lineOf p) then s else { s with poison := s.poison ++ [lineOf p] }

/-- The running kernel completes when none of its passes runs and no more is to run. A SUM32 that stops has written no line
(R414). -/
def State.nearFinish (s : State) (stack : Nat) : State :=
  match (s.stack stack).running with
  | none => s
  | some r =>
    if ¬ r.passes.isEmpty ∨ (¬ r.stopping ∧ r.chunks.length < nchunks r.block) then s
    else
      let s := if nkid r.block = 4 ∧ ¬ r.stopping then s.putTotal r else s
      let code := if r.code ≠ 0 then r.code else if r.poisoned = 0 then 0x00 else 0x01
      let s := s.updStack stack fun u => { u with running := none }
      let s := if naflags r.block / 2 % 2 = 1 then s.acked (naflags r.block / 4 % 8) else s
      s.nearReport stack r.kick r.block code (if nkid r.block = 4 ∧ r.stopping then 0 else r.poisoned)

/-! ## Kicks and starts (R416, R418, R422) -/

/-- Takes the first kick on its way to a stack off the way. -/
def State.popKick (s : State) (stack : Nat) : State := s.updStack stack fun u => { u with arriving := u.arriving.tail }

/-- R416, R418: a kick reaches its Lamplighter and joins the queue, or is refused when 64 wait. -/
def execKick (stack : Nat) (s : State) : Host.Outcome State Fault Refusal :=
  match (s.stack stack).arriving with
  | [] => .next s
  | k :: _ =>
    if k.ref.getLsbD 0 then .next s
    else if (s.stack stack).queue.length < 64 then .next ((s.popKick stack).updStack stack fun u => { u with queue := u.queue ++ [k] })
    else if s.blockRow k then
      match s.engRead k.ctx k.ref 128 with
      | none => .next s
      | some (b, _) => .next ((s.popKick stack).nearReport stack k b 0x12 0)
    else .next ((s.popKick stack).post "kick-fault" [stack, k.ctx, k.ref.toNat])

/-- A line lies in a chunk of a buffer that a kernel uses. -/
def State.inChunks (s : State) (r : NKernel) (used : List Nat) (l : Nat) : Bool :=
  r.plist.any fun x => match r.pbufs.find? fun y => y.1 == x.1 with
    | none => false
    | some (_, e) => match pageInv s.pkg.pkgid e (pteEntry x.2.2) (64 * l) with
      | none => false
      | some q => used.any fun i =>
          let o := x.2.1 * pageBytes e.pgsz + q
          let a := refOff (nbuf r.block i)
          refBuf (nbuf r.block i) == x.1 && decide (a ≤ o) && decide (o < a + 8192 * nchunks r.block)

/-- A kernel starts. Its acquire has the home slices write back the lines of its chunks (R423). -/
def State.nearBegin (s : State) (stack : Nat) (r : NKernel) (used : List Nat) : State :=
  let s := if nacq r.block then { s with bank := s.bank.filter fun e => !s.inChunks r used e.1 } else s
  s.updStack stack fun u => { u with running := some r }

/-- R418: the Lamplighter starts the next queued kernel, or completes it with the first failure of its checks; absent pages
hold it. -/
def execNbuKernelStart (stack : Nat) (s : State) : Host.Outcome State Fault Refusal :=
  match (s.stack stack).running, (s.stack stack).queue with
  | none, k :: rest =>
    let popped := s.updStack stack fun u => { u with queue := rest }
    if ¬ s.blockRow k then .next (popped.post "kick-fault" [stack, k.ctx, k.ref.toNat])
    else
      match s.engRead k.ctx k.ref 128 with
      | none => .next s
      | some (b, _) =>
        let popped := popped.findSpan (stack / 3) k.ctx k.ref 128
        if k.gone then .next (popped.nearReport stack k b 0x04 0)
        else
        match s.blockCode stack k b with
        | 0 =>
          match s.engRead k.ctx (nplist b) (16 * npcount b) with
          | none => .next s
          | some (lb, _) =>
            let popped := popped.findSpan (stack / 3) k.ctx (nplist b) (16 * npcount b)
            let l := plistOf lb (npcount b)
            let used := match s.kernelUse stack k.ctx (nkid b) with | some u => u.all | none => []
            if s.listOk stack k b used l then
              .next (popped.nearBegin stack { kick := k, block := b, plist := l, pbufs := s.listBufs k.ctx l } used)
            else .next (popped.nearReport stack k b 0x11 0)
        | code => .next (popped.nearReport stack k b code 0)
  | _, _ => .next s

/-- R422: a refresh kick re-reads the page list of the running kernel, which goes on, or completes with 0x11; one whose block fails is
dropped with an event (R418, R427). -/
def execListRefresh (stack : Nat) (s : State) : Host.Outcome State Fault Refusal :=
  match (s.stack stack).arriving with
  | [] => .next s
  | k :: _ =>
    if ¬ k.ref.getLsbD 0 then .next s
    else if ¬ s.blockRow { k with ref := k.ref - 1 } then
      .next ((s.popKick stack).post "kick-fault" [stack, k.ctx, k.ref.toNat])
    else
      match (s.stack stack).running with
      | none => .next (s.popKick stack)
      | some r =>
        if r.kick.ctx ≠ k.ctx ∨ r.kick.ref ≠ k.ref - 1 then .next (s.popKick stack)
        else
          match s.engRead k.ctx (refAdd r.kick.ref 0x50) 12 with
          | none => .next s
          | some (f, _) =>
            let die := stack / 3
            let popped := (s.popKick stack).findSpan die k.ctx (refAdd r.kick.ref 0x50) 12
            let ref := BitVec.ofNat 64 (recField f 0 8)
            let n := recField f 8 4
            let used := match s.kernelUse stack k.ctx (nkid r.block) with | some u => u.all | none => []
            let fail (s : State) := (s.updKernel stack fun r => { r with code := 0x11, stopping := true }).nearFinish stack
            if s.engRow k.ctx ref (16 * n) .r ≠ 0 ∨ n = 0 ∨ 65536 < n then .next (fail popped)
            else
              match s.engRead k.ctx ref (16 * n) with
              | none => .next s
              | some (lb, _) =>
                let l := plistOf lb n
                let popped := popped.findSpan die k.ctx ref (16 * n)
                if s.listOk stack r.kick r.block used l then
                  .next (popped.updKernel stack fun r => { r with plist := l, pbufs := s.listBufs k.ctx l, stale := false })
                else .next (fail popped)

/-! ## Passes (R414, R415, R420) -/

/-- The pass over a chunk can begin: the unit of its bank has ended those over lower chunks; none does in a checkpoint (R441). -/
def State.passDue (s : State) (stack : Nat) (r : NKernel) (c : Nat) : Bool :=
  let i := match s.kernelUse stack r.kick.ctx (nkid r.block) with | some u => u.all.headD 0 | none => 0
  let bank (x : Nat) : Nat := bankOf (s.kchunk r i x)
  !r.stopping && !r.stale && !s.pkg.checkpointing && decide (c < nchunks r.block) && !r.chunks.contains c &&
    (List.range c).all fun x => r.chunks.contains x || bank x != bank c

/-- Begins the pass over a chunk, with all its state clear (R407). -/
def State.beginPass (s : State) (stack c : Nat) : State :=
  match (s.stack stack).running with
  | none => s
  | some r =>
    if s.passDue stack r c && !(r.passes.any fun p => p.chunk == c) then
      s.updKernel stack fun r => { r with passes := r.passes ++ [{ chunk := c, valid := validCols r.block c }] }
    else s

/-- Result of a library kernel for one element. -/
def libElem (kid : Nat) (b : List Byte) (x y : Nat) : Nat :=
  match kid with
  | 1 => ffma .f32 (narg b 0).toNat x (fmul .f32 (narg b 1).toNat y)
  | 2 => fmul .f32 (narg b 0).toNat x
  | _ => fadd .f32 x y

/-- A whole pass of a library kernel (R414): the new state, and whether it met poison. -/
def State.libPass (s : State) (stack : Nat) (r : NKernel) (c : Nat) : State × Bool :=
  let kid := nkid r.block
  let p0 := s.kchunk r 0 c
  let p1 := s.kchunk r 1 c
  let two := kid == 1 || kid == 3
  let q := s.badCols p0 ||| (if two then s.badCols p1 else 0)
  let v := validCols r.block c
  let x := s.elems (nacq r.block) p0
  let y := if two then s.elems (nacq r.block) p1 else []
  let s := s.findChunk p0
  let s := if two then s.findChunk p1 else s
  let at' (l : List Nat) (i : Nat) : Nat := (l[i]?).getD 0
  if kid = 4 then
    let sum := ((List.range 2048).filter v.getLsbD).foldl (fun t i => fadd .f32 t (at' x i)) 0
    (s.updKernel stack fun r =>
      { r with sums := tabPut r.sums c (BitVec.ofNat 32 sum), poisoned := if q = 0 then r.poisoned else 1 }, q != 0)
  else if nstop r.block && q != 0 then (s, true)
  else
    let out := s.kchunk r (if kid = 1 then 1 else if kid = 2 then 0 else 2) c
    let z := s.putChunk out v q fun i => libElem kid r.block (at' x i) (at' y i)
    (z.1.updKernel stack fun r => { r with poisoned := r.poisoned + z.2 }, q != 0)

/-- A pass has ended: its chunk is done, and poison under stop or a bad slice stops the kernel (R412, R415). -/
def State.passDone (s : State) (stack c : Nat) (met bad : Bool) : State :=
  let f (r : NKernel) : NKernel :=
    let halt := bad || (met && nstop r.block)
    { r with passes := removeBy Pass.chunk c r.passes, chunks := r.chunks ++ [c]
             stopping := r.stopping || halt
             poisoned := if met && nstop r.block && nkid r.block == 4 then 0 else r.poisoned
             code := if r.code ≠ 0 then r.code else if bad then 0x14 else if halt then 0x13 else 0 }
  (s.updKernel stack f).nearFinish stack

/-- R420: the pass over a chunk ends; a library kernel's pass runs whole. -/
def execNbuPassEnd (stack chunk : Nat) (s : State) : Host.Outcome State Fault Refusal :=
  match (s.stack stack).running with
  | none => .next s
  | some r =>
    if nkid r.block < 0x100 then
      if s.passDue stack r chunk then
        let x := s.libPass stack r chunk
        .next (x.1.passDone stack chunk x.2 false)
      else .next s
    else
      match lookupBy Pass.chunk r.passes chunk with
      | none => .next s
      | some p => if p.ended then .next (s.passDone stack chunk (p.q != 0) p.bad) else .next s

/-! ## Contexts (R426) -/

/-- R426: a context is destroyed: its kernels complete with 0x04, one whose block lies on an absent page when it can be read; its
unbound orbits go. -/
def execContextDestroy (ctx : Nat) (s : State) : Host.Outcome State Fault Refusal :=
  let one (s : State) (n : Nat) : State :=
    let gone := (s.stack n).queue.filter fun k => k.ctx == ctx
    let mark (k : Kick) : Kick := if k.ctx = ctx then { k with gone := true } else k
    let s := s.updStack n fun u =>
      { u with queue := u.queue.filter (fun k => k.ctx != ctx || (s.blockRow k && (s.engRead k.ctx k.ref 128).isNone)) |>.map mark
               arriving := (u.arriving.filter fun k => k.ctx != ctx || !k.ref.getLsbD 0).map mark }
    let s := gone.foldl (fun s k =>
      if s.blockRow k then
        match s.engRead k.ctx k.ref 128 with
        | some (b, _) => s.nearReport n k b 0x04 0
        | none => s
      else s.post "kick-fault" [n, k.ctx, k.ref.toNat]) s
    let mine := match (s.stack n).running with | some r => r.kick.ctx == ctx | none => false
    if mine then (s.updKernel n fun r => { r with code := if r.code = 0 then 0x04 else r.code, stopping := true }).nearFinish n
    else s
  let s := (List.range Config.hbmStacks).foldl one s
  let free := s.allOrbits.filter fun x => x.2.ctx == ctx && x.2.bound.isNone
  .next (free.foldl (fun s x => s.delOrbit x.1 x.2.num) s)

end Sys2Proof.Machine
end

