-- ==== Sys2Proof/Machine/Mgmt.lean ====
section
/-! DEFINITION. Host, fabric and management: writes and atomics from outside, pod barriers, ports, checkpoints, features,
boot, attestation, monitors and power (26_ports_management.md R433–R446, 05_memory_model.md R109, R111, 11_core_traps.md
R214). -/

namespace Sys2Proof.Machine

/-! ## Accesses from outside (R109, R111, R433, R437) -/

/-- Physical numbers of a span that an access through BAR2 reaches, when its pages are resident (R433). -/
def State.barSpan (s : State) (ctx : Nat) (r : Dword) (n : Nat) : Option (List Nat) :=
  if s.inBar2 ctx r n then s.outsideSpan ctx r n else none

/-- The service of an absent page that an access through BAR2 meets is asked for (R253). -/
def State.barWants (s : State) (ctx : Nat) (r : Dword) (n : Nat) : State :=
  match s.buf ctx (refBuf r), s.physList ctx r n with
  | some e, .error k => if s.inBar2 ctx r n && decide (refOff r + n ≤ e.size) then s.want k else s
  | _, _ => s

/-- R109, R433: a host or peer write through the BAR2 window of a context's function is performed at its sys point; it waits while
a page is absent. -/
def execHostWrite (ctx : Nat) (ref : Dword) (bytes : List Byte) (s : State) : Host.Outcome State Fault Refusal :=
  match s.barSpan ctx ref bytes.length with
  | none => .next (s.barWants ctx ref bytes.length)
  | some ps => .next (s.outsideWrite ps bytes)

/-- New value of an AtomicOp: 0 FetchAdd, 1 Swap, 2 CAS. -/
def hostAtom (kind : Nat) (old a b : Dword) : Dword := if kind = 0 then old + a else if kind = 1 then a else if old = a then b else old

/-- R433: an AtomicOp is completed at the home L2, and its old value returned; a poisoned line is left as it is. -/
def execHostAtomicop (ctx : Nat) (ref : Dword) (kind : Nat) (wide : Bool) (a b : Dword) (s : State) :
    Host.Outcome State Fault Refusal :=
  let n := if wide then 8 else 4
  let cut (x : Dword) : Dword := if wide then x else (loWord x).setWidth 64
  if 2 < kind ∨ ref.toNat % n ≠ 0 then .next s
  else
    match s.barSpan ctx ref n with
    | none => .next (s.barWants ctx ref n)
    | some ps =>
      if (linesOf ps).any s.lineBad then .next ((linesOf ps).foldl (fun s l => s.findError l 3) s)
      else
        let old := BitVec.ofNat 64 (leNat (ps.map s.mem.read))
        let new := hostAtom kind old (cut a) (cut b)
        .next ((s.outsideWrite ps (leBytes new.toNat n)).post "atomicop" [old.toNat])

/-- R437: an access of another package of the pod reaches this one: kind 0 read, 1 write, 2 + op an atomic with its operands, each
half of the bytes. An own number stands for a host or peer read through BAR2 (R433; log 39). No router runs before the firmware is
verified (R443). -/
def execRemoteAccess (pkg ctx : Nat) (ref : Dword) (kind : Nat) (bytes : List Byte) (s : State) :
    Host.Outcome State Fault Refusal :=
  let n := bytes.length
  if ¬ s.pkg.boot.booted then .next s
  else if pkg = s.pkg.pkgid then
    match s.barSpan ctx ref n with
    | some ps => .next (if kind = 0 then s.remotePerform ⟨pkg, ctx, ref, 0, bytes⟩ ps else s)
    | none => .next (if kind = 0 then s.barWants ctx ref n else s)
  else if s.pkg.pod.contains pkg && s.pkg.negotiated.getLsbD 3 then .next (s.remoteTake ⟨pkg, ctx, ref, kind, bytes⟩)
  else .next s

/-! ## Pod barriers (R438) -/

/-- The home holds a barrier that an arrival of another package names before it has launched a group of the key: the packet tells
how many groups share it (R238; log 39). -/
def State.podBar (s : State) (key i n : Nat) : State :=
  if n = 0 || s.bars.any (fun b => isNetBar 4 i key 0 b && b.bar.exp != 0) then s
  else
    { s with bars := s.bars.filter (fun b => !isNetBar 4 i key 0 b) ++
        [{ scope := 4, index := i, key, part := 0, bar := { exp := BitVec.ofNat 32 n } }] }

/-- R201, R438: an arrival reaches the home of a pod barrier: one of this package's, or one of another package; at another home it
leaves this package. The number holds the barrier's index below 16; 16 more say that a group of another package has ended, which
lowers the expected count; the rest div 32 is the groups that share the key (log 39). -/
def execPodBarrierArrival (key index : Nat) (s : State) : Host.Outcome State Fault Refusal :=
  let i := index % 16
  let home := key % 64 == s.pkg.pkgid
  let outside := home && !s.pkg.pod.isEmpty && s.pkg.negotiated.getLsbD 3
  let ends := index / 16 % 2 == 1
  let s := if outside then s.podBar key i (index / 32) else s
  let f (b : NetBar) : NetBar :=
    if ¬ isNetBar 4 i key 0 b then b
    else if ends then (if outside && b.bar.exp != 0 then { b with bar := { b.bar with exp := b.bar.exp - 1 } } else b)
    else if 0 < b.sent then
      { b with sent := b.sent - 1, bar := if home then { b.bar with arr := b.bar.arr + 1 } else b.bar }
    else if outside then { b with bar := { b.bar with arr := b.bar.arr + 1 } }
    else b
  .next { s with bars := s.bars.map f }

/-- R201, R438: the home's advance reaches this package: the generation rises and its lanes are released. -/
def execPodBarrierAdvance (key index : Nat) (s : State) : Host.Outcome State Fault Refusal :=
  match s.bars.find? (isNetBar 4 index key 0) with
  | none => .next s
  | some b =>
    let due := if key % 64 = s.pkg.pkgid then b.bar.arr != 0 && decide (b.bar.exp.toNat ≤ b.bar.arr.toNat)
      else s.pkg.pod.contains (key % 64)
    if due then
      match s.groups.find? fun g => g.stat != .ended && barUnit s g 4 == (key, 0) && decide (index < g.desc.odbars) with
      | some g => .next ((s.barAdvance g 4 index false).barSettle 64 g 4 index)
      | none =>
        let f (x : NetBar) : NetBar :=
          if isNetBar 4 index key 0 x then { x with bar := { x.bar with gen := x.bar.gen + 1, arr := 0 } } else x
        .next { s with bars := s.bars.map f }
    else .next s

/-! ## Ports (R440) -/

/-- R440: one of the package's Meridian ports, 32 on each die, fails, once; its traffic takes other links, and packages that no
path reaches are reported. -/
def execMeridianPortFailure (port : Nat) (unreachable : List Nat) (s : State) : Host.Outcome State Fault Refusal :=
  let d := port / Config.portsPerDie
  let p := port % Config.portsPerDie
  if Config.meridianPorts ≤ port ∨ (s.die d).failedPorts.contains p then .next s
  else
    let new := unreachable.filter fun p => !s.pkg.unreachable.contains p && p != s.pkg.pkgid
    let s := { s with pkg := { s.pkg with unreachable := s.pkg.unreachable ++ new } }
    let s := s.updDie d fun u => { u with failedPorts := u.failedPorts ++ [p] }
    .next (new.foldl (fun s p => s.post "package-unreachable" [p]) (s.post "link-degraded" [d, p]))

/-! ## Checkpoints (R441) -/

/-- Groups that still occupy a core. -/
def State.onCores (s : State) : List Nat := (s.groups.filter Group.onCore).map Group.id

/-- A number of the package's device memory or of its compressed zone (R441). -/
def deviceByte (own p : Nat) : Bool :=
  (decide (p < hostBase) && physPkg p == own) || (decide (zoneBase ≤ p) && decide (p < tierBase))

/-- What step 5 of a checkpoint writes. -/
def State.image (s : State) : Image :=
  { negotiated := s.pkg.negotiated, mem := s.mem.filter fun c => deviceByte s.pkg.pkgid c.1, poison := s.poison ++ s.latent
    bufs := s.bufs, pages := s.pages, tables := s.tables, kickidx := s.kickidx, code := s.code, launches := s.launches
    groups := s.groups, warps := s.warps, gangs := s.gangs, bars := s.bars, dieU := s.dieU, stackU := s.stackU
    vflights := s.vflights, nextId := s.nextId }

/-- What still moves at a checkpoint: groups on cores, near-bank passes, stores and engines' writes on their way, and pages on their
way (R441, steps 1 to 4). -/
def State.moving (s : State) : Bool :=
  !s.onCores.isEmpty || (s.stackU.any fun e => match e.2.running with | some r => !r.passes.isEmpty | none => false) ||
    (s.cores.any fun c => !c.2.wt.isEmpty) || !s.heldWrites.isEmpty || !s.changes.isEmpty || !s.migrations.isEmpty ||
    !s.evictions.isEmpty

/-- Orbits that a checkpoint paused go on (R366). -/
def State.orbitsGoOn (s : State) : State :=
  s.allOrbits.foldl (fun s x => if s.orbitPaused x.2 then s else s.takeQueued x.1 x.2.num) s

/-- R441: a checkpoint: no group starts, every resident group is preempted, kernels and orbits pause, and once all have, the
package performs its fence and writes its image to the safe tier, unreadable lines as poison; then the traffic of other packages
goes on. Without feature bit 9 it is refused. -/
def execCheckpoint (s : State) : Host.Outcome State Fault Refusal :=
  if ¬ s.pkg.negotiated.getLsbD 9 then .next (s.post "checkpoint-refused" [])
  else
    let s := if s.pkg.checkpointing then s else { s with
      pkg := { s.pkg with checkpointing := true, checkpointed := s.onCores } }
    let s := s.onCores.foldl State.preempt s
    if s.moving then .next s
    else
      let s := s.acked 5
      let s := { s with safeTier := some s.image, pkg := { s.pkg with checkpointing := false } }
      .next ((s.post "checkpoint-taken" s.pkg.checkpointed).orbitsGoOn.remoteAgain)

/-- A die with the Orrery, Vesper and distributor state of an image. -/
def DieU.fromImage (u i : DieU) : DieU :=
  { u with orbits := i.orbits, owaiters := i.owaiters, ocmds := i.ocmds, vobjs := i.vobjs, vgens := i.vgens, purses := i.purses
           vcmds := i.vcmds, dcmds := i.dcmds }

/-- A stack with the Lamplighter state of an image. -/
def StackU.fromImage (u i : StackU) : StackU :=
  { u with arriving := i.arriving, queue := i.queue, running := i.running, table := i.table }

/-- The package with an image written back: every line of its device memory is written whole, and no cache holds any. -/
def State.writeBack (s : State) (i : Image) : State :=
  let own := s.pkg.pkgid
  let keep : Memory := s.mem.filter fun c => !deviceByte own c.1
  { s with
    mem := i.mem.foldl (fun m c => m.write c.1 c.2) keep
    poison := s.poison.filter (fun l => !deviceByte own (64 * l)) ++ i.poison
    latent := s.latent.filter (fun l => !deviceByte own (64 * l)) ++ s.stuck
    old := [], bank := [], loose := [], l1 := [], copies := [], invals := []
    bufs := i.bufs, pages := i.pages, tables := i.tables, kickidx := i.kickidx, code := i.code, launches := i.launches
    groups := i.groups, warps := i.warps, gangs := i.gangs, bars := i.bars, vflights := i.vflights
    dieU := (List.range 4).map fun d => (s.die d).fromImage ((i.dieU[d]?).getD {})
    stackU := (List.range Config.hbmStacks).map fun n => (n, (s.stack n).fromImage (tabGet {} i.stackU n))
    nextId := max s.nextId i.nextId }

/-- R441: a restore writes the image of the safe tier back into a package of the same feature word on which no group runs; the
groups are then restored as room allows (R226), and the orbits go on. -/
def execCheckpointRestore (s : State) : Host.Outcome State Fault Refusal :=
  match s.safeTier with
  | none => .next (s.post "restore-refused" [])
  | some i =>
    if s.moving ∨ s.pkg.checkpointing ∨ i.negotiated ≠ s.pkg.negotiated then .next (s.post "restore-refused" [])
    else .next (s.writeBack i).orbitsGoOn

/-! ## Features, boot and identity (R442–R444) -/

/-- R442: the driver writes the feature word at start: what is not offered stays clear. -/
def execFeatureWordWrite (word : BitVec 128) (s : State) : Host.Outcome State Fault Refusal :=
  if ¬ s.pkg.boot.booted ∨ s.pkg.boot.recovery ∨ ¬ s.launches.isEmpty ∨ ¬ s.groups.isEmpty then .next s
  else
    let w := word &&& s.pkg.offered &&& 0x7FF
    let zone (u : DieU) : DieU := if w.getLsbD 4 then u else { u with regs := { u.regs with zonesize := 0 } }
    .next { s with pkg := { s.pkg with negotiated := w }, dieU := s.dieU.map zone }

/-- Leaves of the device identity key and of a session key (R444). -/
def fusedLeaves : Nat := 2 ^ 15
def sessionLeaves : Nat := 2 ^ 10

/-- A fused leaf signs a fresh session key; with the last one used, attestation is no longer offered. -/
def PkgU.newSession (p : PkgU) : PkgU :=
  if p.boot.fuseLeaf < fusedLeaves then
    let n := p.boot.fuseLeaf + 1
    { p with boot := { p.boot with fuseLeaf := n, session := true, sessLeaf := 0 }
             offered := if n = fusedLeaves then p.offered &&& ~~~0x400#128 else p.offered }
  else { p with boot := { p.boot with session := false } }

/-- R443: the boot ROM verifies the firmware image: it runs, or the package stays in recovery. -/
def execBoot (signatureOk : Bool) (version : Nat) (s : State) : Host.Outcome State Fault Refusal :=
  if s.pkg.boot.booted then .next s
  else if signatureOk && decide (s.pkg.boot.minVersion ≤ version) then
    let p := { s.pkg with boot := { s.pkg.boot with booted := true, recovery := false, version, digest := Config.digest s.free } }
    .next { s with pkg := p.newSession }
  else .next { s with pkg := { s.pkg with boot := { s.pkg.boot with recovery := true } } }

/-- R444: a report is signed by the next leaf of the session key; a spent key takes another fused leaf. -/
def execAttestationRequest (nonce : BitVec 256) (s : State) : Host.Outcome State Fault Refusal :=
  if ¬ s.pkg.boot.booted ∨ ¬ s.pkg.negotiated.getLsbD 10 then .next (s.post "attestation-refused" [])
  else
    let p := if s.pkg.boot.session && decide (s.pkg.boot.sessLeaf < sessionLeaves) then s.pkg else s.pkg.newSession
    if ¬ p.boot.session then .next ({ s with pkg := p }.post "attestation-refused" [])
    else
      let b := { p.boot with sessLeaf := p.boot.sessLeaf + 1 }
      .next { s with
        pkg := { p with boot := b, reports := p.reports ++ [⟨nonce, b.digest, p.negotiated, b.minVersion, b.fuseLeaf, b.sessLeaf⟩] } }

/-! ## Monitors and power (R445, R446) -/

/-- R445: the monitors of a die are sampled with the die's clock: 64 temperatures, then its supply voltages and its ring
oscillators. -/
def execMonitorSample (die : Nat) (temps others : List Nat) (s : State) : Host.Outcome State Fault Refusal :=
  if 4 ≤ die ∨ temps.length ≠ Config.monitorTemps ∨ others.length ≠ Config.supplyRails + Config.ringMonitors then .next s
  else
    let x : Sample := { clk := (s.die die).clk, temps, volts := others.take Config.supplyRails, rings := others.drop Config.supplyRails }
    .next { s with pkg := { s.pkg with monitors := tabPut s.pkg.monitors die x } }

/-- Hottest sensor of a die at its latest sample. -/
def State.hottest (s : State) (die : Nat) : Nat := (tabGet {} s.pkg.monitors die).temps.foldl max 0

/-- R446: the power limit is set between 1.5 kW and 3.6 kW. -/
def execPowerLimitWrite (watts : Nat) (s : State) : Host.Outcome State Fault Refusal :=
  if 1500 ≤ watts ∧ watts ≤ 3600 ∧ ¬ s.pkg.boot.recovery then .next { s with pkg := { s.pkg with powerLimit := watts } }
  else .next (s.post "register-refused" [watts])

/-- The package draws its limit or is near it: what it draws, and how near is near, are free values (R446; log 16). -/
def State.nearPower (s : State) : Bool :=
  decide (s.pkg.powerLimit ≤ Config.drawn s.free + Config.powerMargin)

/-- R446: near the limit the power manager lowers a die's clock by 26 MHz, down to 0.65 GHz; away from it the clock of a die below
105 °C rises again, up to 1.3 GHz. -/
def execPowerClockStep (die : Nat) (raise : Bool) (s : State) : Host.Outcome State Fault Refusal :=
  .next (if raise then
      (if s.nearPower || decide (105 ≤ s.hottest die) then s else s.updDie die fun u => { u with mhz := min 1300 (u.mhz + 26) })
    else if s.nearPower then s.updDie die fun u => { u with mhz := max 650 (u.mhz - 26) }
    else s)

/-- R446: a die whose hottest sensor reads 105 °C drops to 0.65 GHz. -/
def execThermalThrottle (die : Nat) (s : State) : Host.Outcome State Fault Refusal :=
  if 105 ≤ s.hottest die then .next ((s.updDie die fun u => { u with mhz := 650 }).post "thermal" [die]) else .next s

/-- R446: at 115 °C the package stops all clocks. -/
def execThermalShutdown (s : State) : Host.Outcome State Fault Refusal :=
  if (List.range 4).any fun d => decide (115 ≤ s.hottest d) then .next { s with pkg := { s.pkg with stopped := true } }
  else .next s

/-! ## The host ends a group (R214) -/

/-- R214: the host ends a group whose gang is parked on a debug event. -/
def execHostEndGroup (gid : Nat) (s : State) : Host.Outcome State Fault Refusal :=
  match (s.groupWarps gid).findSome? Warp.dbgPark with
  | some r => .next (s.endGroupFault gid r.regs)
  | none => .next s

end Sys2Proof.Machine
end

