-- ==== Sys2Proof/Machine/Dispatch.lean ====
section
/-! DEFINITION. Dispatch: one arm per instruction. -/

namespace Sys2Proof.Machine

/-- The meaning of an instruction at a state. -/
def exec (i : Instr) (s : State) : Host.Outcome State Fault Refusal :=
  match i with
  | .add a1 a2 a3 a4 => Sys2Proof.Machine.execAdd a1 a2 a3 a4 s
  | .sub a1 a2 a3 a4 => Sys2Proof.Machine.execSub a1 a2 a3 a4 s
  | .mul a1 a2 a3 a4 => Sys2Proof.Machine.execMul a1 a2 a3 a4 s
  | .mulhi a1 a2 a3 a4 => Sys2Proof.Machine.execMulhi a1 a2 a3 a4 s
  | .mulhn a1 a2 a3 a4 => Sys2Proof.Machine.execMulhn a1 a2 a3 a4 s
  | .and a1 a2 a3 a4 => Sys2Proof.Machine.execAnd a1 a2 a3 a4 s
  | .or a1 a2 a3 a4 => Sys2Proof.Machine.execOr a1 a2 a3 a4 s
  | .xor a1 a2 a3 a4 => Sys2Proof.Machine.execXor a1 a2 a3 a4 s
  | .shl a1 a2 a3 a4 => Sys2Proof.Machine.execShl a1 a2 a3 a4 s
  | .shrn a1 a2 a3 a4 => Sys2Proof.Machine.execShrn a1 a2 a3 a4 s
  | .shri a1 a2 a3 a4 => Sys2Proof.Machine.execShri a1 a2 a3 a4 s
  | .mini a1 a2 a3 a4 => Sys2Proof.Machine.execMini a1 a2 a3 a4 s
  | .maxi a1 a2 a3 a4 => Sys2Proof.Machine.execMaxi a1 a2 a3 a4 s
  | .minn a1 a2 a3 a4 => Sys2Proof.Machine.execMinn a1 a2 a3 a4 s
  | .maxn a1 a2 a3 a4 => Sys2Proof.Machine.execMaxn a1 a2 a3 a4 s
  | .sel a1 a2 a3 a4 => Sys2Proof.Machine.execSel a1 a2 a3 a4 s
  | .fadd32 a1 a2 a3 a4 => Sys2Proof.Machine.execFadd32 a1 a2 a3 a4 s
  | .fmul32 a1 a2 a3 a4 => Sys2Proof.Machine.execFmul32 a1 a2 a3 a4 s
  | .ffma32 a1 a2 a3 a4 => Sys2Proof.Machine.execFfma32 a1 a2 a3 a4 s
  | .fsub32 a1 a2 a3 a4 => Sys2Proof.Machine.execFsub32 a1 a2 a3 a4 s
  | .fadd64 a1 a2 a3 a4 => Sys2Proof.Machine.execFadd64 a1 a2 a3 a4 s
  | .fmul64 a1 a2 a3 a4 => Sys2Proof.Machine.execFmul64 a1 a2 a3 a4 s
  | .ffma64 a1 a2 a3 a4 => Sys2Proof.Machine.execFfma64 a1 a2 a3 a4 s
  | .ffma2h a1 a2 a3 a4 => Sys2Proof.Machine.execFfma2h a1 a2 a3 a4 s
  | .ld32 a1 a2 a3 a4 => Sys2Proof.Machine.execLd32 a1 a2 a3 a4 s
  | .ld64 a1 a2 a3 a4 => Sys2Proof.Machine.execLd64 a1 a2 a3 a4 s
  | .ld128 a1 a2 a3 a4 => Sys2Proof.Machine.execLd128 a1 a2 a3 a4 s
  | .st32 a1 a2 a3 a4 => Sys2Proof.Machine.execSt32 a1 a2 a3 a4 s
  | .st64 a1 a2 a3 a4 => Sys2Proof.Machine.execSt64 a1 a2 a3 a4 s
  | .st128 a1 a2 a3 a4 => Sys2Proof.Machine.execSt128 a1 a2 a3 a4 s
  | .lds a1 a2 a3 a4 => Sys2Proof.Machine.execLds a1 a2 a3 a4 s
  | .sts a1 a2 a3 a4 => Sys2Proof.Machine.execSts a1 a2 a3 a4 s
  | .mov a1 a2 a3 => Sys2Proof.Machine.execMov a1 a2 a3 s
  | .not a1 a2 a3 => Sys2Proof.Machine.execNot a1 a2 a3 s
  | .neg a1 a2 a3 => Sys2Proof.Machine.execNeg a1 a2 a3 s
  | .abs a1 a2 a3 => Sys2Proof.Machine.execAbs a1 a2 a3 s
  | .popc a1 a2 a3 => Sys2Proof.Machine.execPopc a1 a2 a3 s
  | .clz a1 a2 a3 => Sys2Proof.Machine.execClz a1 a2 a3 s
  | .ctz a1 a2 a3 => Sys2Proof.Machine.execCtz a1 a2 a3 s
  | .brev a1 a2 a3 => Sys2Proof.Machine.execBrev a1 a2 a3 s
  | .sext8 a1 a2 a3 => Sys2Proof.Machine.execSext8 a1 a2 a3 s
  | .sext16 a1 a2 a3 => Sys2Proof.Machine.execSext16 a1 a2 a3 s
  | .andn a1 a2 a3 => Sys2Proof.Machine.execAndn a1 a2 a3 s
  | .orn a1 a2 a3 => Sys2Proof.Machine.execOrn a1 a2 a3 s
  | .rotl a1 a2 a3 => Sys2Proof.Machine.execRotl a1 a2 a3 s
  | .rotr a1 a2 a3 => Sys2Proof.Machine.execRotr a1 a2 a3 s
  | .addsi a1 a2 a3 => Sys2Proof.Machine.execAddsi a1 a2 a3 s
  | .subsi a1 a2 a3 => Sys2Proof.Machine.execSubsi a1 a2 a3 s
  | .addsn a1 a2 a3 => Sys2Proof.Machine.execAddsn a1 a2 a3 s
  | .subsn a1 a2 a3 => Sys2Proof.Machine.execSubsn a1 a2 a3 s
  | .bfxn a1 a2 a3 => Sys2Proof.Machine.execBfxn a1 a2 a3 s
  | .bfxi a1 a2 a3 => Sys2Proof.Machine.execBfxi a1 a2 a3 s
  | .bfi a1 a2 a3 => Sys2Proof.Machine.execBfi a1 a2 a3 s
  | .mov64 a1 a2 a3 => Sys2Proof.Machine.execMov64 a1 a2 a3 s
  | .neg64 a1 a2 a3 => Sys2Proof.Machine.execNeg64 a1 a2 a3 s
  | .sext64 a1 a2 a3 => Sys2Proof.Machine.execSext64 a1 a2 a3 s
  | .add64 a1 a2 a3 => Sys2Proof.Machine.execAdd64 a1 a2 a3 s
  | .sub64 a1 a2 a3 => Sys2Proof.Machine.execSub64 a1 a2 a3 s
  | .mul64 a1 a2 a3 => Sys2Proof.Machine.execMul64 a1 a2 a3 s
  | .shl64 a1 a2 a3 => Sys2Proof.Machine.execShl64 a1 a2 a3 s
  | .shrn64 a1 a2 a3 => Sys2Proof.Machine.execShrn64 a1 a2 a3 s
  | .shri64 a1 a2 a3 => Sys2Proof.Machine.execShri64 a1 a2 a3 s
  | .mini64 a1 a2 a3 => Sys2Proof.Machine.execMini64 a1 a2 a3 s
  | .maxi64 a1 a2 a3 => Sys2Proof.Machine.execMaxi64 a1 a2 a3 s
  | .minn64 a1 a2 a3 => Sys2Proof.Machine.execMinn64 a1 a2 a3 s
  | .maxn64 a1 a2 a3 => Sys2Proof.Machine.execMaxn64 a1 a2 a3 s
  | .mulwi a1 a2 a3 => Sys2Proof.Machine.execMulwi a1 a2 a3 s
  | .mulwn a1 a2 a3 => Sys2Proof.Machine.execMulwn a1 a2 a3 s
  | .popc64 a1 a2 a3 => Sys2Proof.Machine.execPopc64 a1 a2 a3 s
  | .clz64 a1 a2 a3 => Sys2Proof.Machine.execClz64 a1 a2 a3 s
  | .exit a1 => Sys2Proof.Machine.execExit a1 s
  | .brr a1 a2 => Sys2Proof.Machine.execBrr a1 a2 s
  | .callr a1 a2 a3 => Sys2Proof.Machine.execCallr a1 a2 a3 s
  | .meetr a1 a2 => Sys2Proof.Machine.execMeetr a1 a2 s
  | .fmin32 a1 a2 a3 => Sys2Proof.Machine.execFmin32 a1 a2 a3 s
  | .fmax32 a1 a2 a3 => Sys2Proof.Machine.execFmax32 a1 a2 a3 s
  | .fmin64 a1 a2 a3 => Sys2Proof.Machine.execFmin64 a1 a2 a3 s
  | .fmax64 a1 a2 a3 => Sys2Proof.Machine.execFmax64 a1 a2 a3 s
  | .fdiv32 a1 a2 a3 => Sys2Proof.Machine.execFdiv32 a1 a2 a3 s
  | .fdiv64 a1 a2 a3 => Sys2Proof.Machine.execFdiv64 a1 a2 a3 s
  | .fsqrt32 a1 a2 a3 => Sys2Proof.Machine.execFsqrt32 a1 a2 a3 s
  | .fsqrt64 a1 a2 a3 => Sys2Proof.Machine.execFsqrt64 a1 a2 a3 s
  | .frsqrt32 a1 a2 a3 => Sys2Proof.Machine.execFrsqrt32 a1 a2 a3 s
  | .frsqrt64 a1 a2 a3 => Sys2Proof.Machine.execFrsqrt64 a1 a2 a3 s
  | .frcp32 a1 a2 a3 => Sys2Proof.Machine.execFrcp32 a1 a2 a3 s
  | .frcp64 a1 a2 a3 => Sys2Proof.Machine.execFrcp64 a1 a2 a3 s
  | .fexp2 a1 a2 a3 => Sys2Proof.Machine.execFexp2 a1 a2 a3 s
  | .flog2 a1 a2 a3 => Sys2Proof.Machine.execFlog2 a1 a2 a3 s
  | .fneg32 a1 a2 a3 => Sys2Proof.Machine.execFneg32 a1 a2 a3 s
  | .fabs32 a1 a2 a3 => Sys2Proof.Machine.execFabs32 a1 a2 a3 s
  | .fneg64 a1 a2 a3 => Sys2Proof.Machine.execFneg64 a1 a2 a3 s
  | .fabs64 a1 a2 a3 => Sys2Proof.Machine.execFabs64 a1 a2 a3 s
  | .ffma2b a1 a2 a3 => Sys2Proof.Machine.execFfma2b a1 a2 a3 s
  | .fclass32 a1 a2 a3 => Sys2Proof.Machine.execFclass32 a1 a2 a3 s
  | .fclass64 a1 a2 a3 => Sys2Proof.Machine.execFclass64 a1 a2 a3 s
  | .fclass16 a1 a2 a3 => Sys2Proof.Machine.execFclass16 a1 a2 a3 s
  | .cvt a1 a2 a3 a4 a5 a6 => Sys2Proof.Machine.execCvt a1 a2 a3 a4 a5 a6 s
  | .ld8n a1 a2 a3 => Sys2Proof.Machine.execLd8n a1 a2 a3 s
  | .ld8i a1 a2 a3 => Sys2Proof.Machine.execLd8i a1 a2 a3 s
  | .ld16n a1 a2 a3 => Sys2Proof.Machine.execLd16n a1 a2 a3 s
  | .ld16i a1 a2 a3 => Sys2Proof.Machine.execLd16i a1 a2 a3 s
  | .st8 a1 a2 a3 => Sys2Proof.Machine.execSt8 a1 a2 a3 s
  | .st16 a1 a2 a3 => Sys2Proof.Machine.execSt16 a1 a2 a3 s
  | .lds8n a1 a2 a3 => Sys2Proof.Machine.execLds8n a1 a2 a3 s
  | .lds8i a1 a2 a3 => Sys2Proof.Machine.execLds8i a1 a2 a3 s
  | .lds16n a1 a2 a3 => Sys2Proof.Machine.execLds16n a1 a2 a3 s
  | .lds16i a1 a2 a3 => Sys2Proof.Machine.execLds16i a1 a2 a3 s
  | .sts8 a1 a2 a3 => Sys2Proof.Machine.execSts8 a1 a2 a3 s
  | .sts16 a1 a2 a3 => Sys2Proof.Machine.execSts16 a1 a2 a3 s
  | .lds64 a1 a2 a3 => Sys2Proof.Machine.execLds64 a1 a2 a3 s
  | .lds128 a1 a2 a3 => Sys2Proof.Machine.execLds128 a1 a2 a3 s
  | .sts64 a1 a2 a3 => Sys2Proof.Machine.execSts64 a1 a2 a3 s
  | .sts128 a1 a2 a3 => Sys2Proof.Machine.execSts128 a1 a2 a3 s
  | .gredAdd a1 a2 a3 => Sys2Proof.Machine.execGredAdd a1 a2 a3 s
  | .gredFadd32 a1 a2 a3 => Sys2Proof.Machine.execGredFadd32 a1 a2 a3 s
  | .gredMini a1 a2 a3 => Sys2Proof.Machine.execGredMini a1 a2 a3 s
  | .gredMaxi a1 a2 a3 => Sys2Proof.Machine.execGredMaxi a1 a2 a3 s
  | .gredMinn a1 a2 a3 => Sys2Proof.Machine.execGredMinn a1 a2 a3 s
  | .gredMaxn a1 a2 a3 => Sys2Proof.Machine.execGredMaxn a1 a2 a3 s
  | .latomAdd a1 a2 a3 => Sys2Proof.Machine.execLatomAdd a1 a2 a3 s
  | .latomAnd a1 a2 a3 => Sys2Proof.Machine.execLatomAnd a1 a2 a3 s
  | .latomOr a1 a2 a3 => Sys2Proof.Machine.execLatomOr a1 a2 a3 s
  | .latomXor a1 a2 a3 => Sys2Proof.Machine.execLatomXor a1 a2 a3 s
  | .latomMini a1 a2 a3 => Sys2Proof.Machine.execLatomMini a1 a2 a3 s
  | .latomMaxi a1 a2 a3 => Sys2Proof.Machine.execLatomMaxi a1 a2 a3 s
  | .latomMinn a1 a2 a3 => Sys2Proof.Machine.execLatomMinn a1 a2 a3 s
  | .latomMaxn a1 a2 a3 => Sys2Proof.Machine.execLatomMaxn a1 a2 a3 s
  | .latomSwap a1 a2 a3 => Sys2Proof.Machine.execLatomSwap a1 a2 a3 s
  | .latomCas a1 a2 a3 => Sys2Proof.Machine.execLatomCas a1 a2 a3 s
  | .latomAdd64 a1 a2 a3 => Sys2Proof.Machine.execLatomAdd64 a1 a2 a3 s
  | .latomSwap64 a1 a2 a3 => Sys2Proof.Machine.execLatomSwap64 a1 a2 a3 s
  | .latomCas64 a1 a2 a3 => Sys2Proof.Machine.execLatomCas64 a1 a2 a3 s
  | .latomFadd32 a1 a2 a3 => Sys2Proof.Machine.execLatomFadd32 a1 a2 a3 s
  | .atomAdd a1 a2 a3 a4 a5 => Sys2Proof.Machine.execAtomAdd a1 a2 a3 a4 a5 s
  | .atomAnd a1 a2 a3 a4 a5 => Sys2Proof.Machine.execAtomAnd a1 a2 a3 a4 a5 s
  | .atomOr a1 a2 a3 a4 a5 => Sys2Proof.Machine.execAtomOr a1 a2 a3 a4 a5 s
  | .atomXor a1 a2 a3 a4 a5 => Sys2Proof.Machine.execAtomXor a1 a2 a3 a4 a5 s
  | .atomMini a1 a2 a3 a4 a5 => Sys2Proof.Machine.execAtomMini a1 a2 a3 a4 a5 s
  | .atomMaxi a1 a2 a3 a4 a5 => Sys2Proof.Machine.execAtomMaxi a1 a2 a3 a4 a5 s
  | .atomMinn a1 a2 a3 a4 a5 => Sys2Proof.Machine.execAtomMinn a1 a2 a3 a4 a5 s
  | .atomMaxn a1 a2 a3 a4 a5 => Sys2Proof.Machine.execAtomMaxn a1 a2 a3 a4 a5 s
  | .atomSwap a1 a2 a3 a4 a5 => Sys2Proof.Machine.execAtomSwap a1 a2 a3 a4 a5 s
  | .atomCas a1 a2 a3 a4 a5 => Sys2Proof.Machine.execAtomCas a1 a2 a3 a4 a5 s
  | .atomAdd64 a1 a2 a3 a4 a5 => Sys2Proof.Machine.execAtomAdd64 a1 a2 a3 a4 a5 s
  | .atomSwap64 a1 a2 a3 a4 a5 => Sys2Proof.Machine.execAtomSwap64 a1 a2 a3 a4 a5 s
  | .atomCas64 a1 a2 a3 a4 a5 => Sys2Proof.Machine.execAtomCas64 a1 a2 a3 a4 a5 s
  | .atomFadd32 a1 a2 a3 a4 a5 => Sys2Proof.Machine.execAtomFadd32 a1 a2 a3 a4 a5 s
  | .cmpI32 a1 a2 a3 a4 a5 a6 => Sys2Proof.Machine.execCmpI32 a1 a2 a3 a4 a5 a6 s
  | .cmpN32 a1 a2 a3 a4 a5 a6 => Sys2Proof.Machine.execCmpN32 a1 a2 a3 a4 a5 a6 s
  | .cmpI64 a1 a2 a3 a4 a5 a6 => Sys2Proof.Machine.execCmpI64 a1 a2 a3 a4 a5 a6 s
  | .fcmpF32 a1 a2 a3 a4 a5 a6 => Sys2Proof.Machine.execFcmpF32 a1 a2 a3 a4 a5 a6 s
  | .fcmpF64 a1 a2 a3 a4 a5 a6 => Sys2Proof.Machine.execFcmpF64 a1 a2 a3 a4 a5 a6 s
  | .cmpiI32 a1 a2 a3 a4 a5 a6 => Sys2Proof.Machine.execCmpiI32 a1 a2 a3 a4 a5 a6 s
  | .fcmpF16 a1 a2 a3 a4 a5 a6 => Sys2Proof.Machine.execFcmpF16 a1 a2 a3 a4 a5 a6 s
  | .testb a1 a2 a3 a4 a5 a6 => Sys2Proof.Machine.execTestb a1 a2 a3 a4 a5 a6 s
  | .movi a1 a2 a3 => Sys2Proof.Machine.execMovi a1 a2 a3 s
  | .addi a1 a2 a3 => Sys2Proof.Machine.execAddi a1 a2 a3 s
  | .andi a1 a2 a3 => Sys2Proof.Machine.execAndi a1 a2 a3 s
  | .ori a1 a2 a3 => Sys2Proof.Machine.execOri a1 a2 a3 s
  | .xori a1 a2 a3 => Sys2Proof.Machine.execXori a1 a2 a3 s
  | .brl a1 a2 => Sys2Proof.Machine.execBrl a1 a2 s
  | .meet a1 a2 a3 => Sys2Proof.Machine.execMeet a1 a2 a3 s
  | .calll a1 a2 a3 => Sys2Proof.Machine.execCalll a1 a2 a3 s
  | .ballot a1 a2 a3 => Sys2Proof.Machine.execBallot a1 a2 a3 s
  | .vote a1 a2 a3 a4 => Sys2Proof.Machine.execVote a1 a2 a3 a4 s
  | .matchMembers a1 a2 a3 a4 => Sys2Proof.Machine.execMatchMembers a1 a2 a3 a4 s
  | .shflIdx a1 a2 a3 a4 => Sys2Proof.Machine.execShflIdx a1 a2 a3 a4 s
  | .shflUp a1 a2 a3 a4 => Sys2Proof.Machine.execShflUp a1 a2 a3 a4 s
  | .shflDown a1 a2 a3 a4 => Sys2Proof.Machine.execShflDown a1 a2 a3 a4 s
  | .shflXor a1 a2 a3 a4 => Sys2Proof.Machine.execShflXor a1 a2 a3 a4 s
  | .reduceAdd a1 a2 a3 a4 => Sys2Proof.Machine.execReduceAdd a1 a2 a3 a4 s
  | .reduceMin a1 a2 a3 a4 => Sys2Proof.Machine.execReduceMin a1 a2 a3 a4 s
  | .reduceMax a1 a2 a3 a4 => Sys2Proof.Machine.execReduceMax a1 a2 a3 a4 s
  | .reduceAnd a1 a2 a3 a4 => Sys2Proof.Machine.execReduceAnd a1 a2 a3 a4 s
  | .reduceOr a1 a2 a3 a4 => Sys2Proof.Machine.execReduceOr a1 a2 a3 a4 s
  | .reduceXor a1 a2 a3 a4 => Sys2Proof.Machine.execReduceXor a1 a2 a3 a4 s
  | .scanAdd a1 a2 a3 a4 => Sys2Proof.Machine.execScanAdd a1 a2 a3 a4 s
  | .scanMin a1 a2 a3 a4 => Sys2Proof.Machine.execScanMin a1 a2 a3 a4 s
  | .scanMax a1 a2 a3 a4 => Sys2Proof.Machine.execScanMax a1 a2 a3 a4 s
  | .uadd a1 a2 a3 a4 => Sys2Proof.Machine.execUadd a1 a2 a3 a4 s
  | .usub a1 a2 a3 a4 => Sys2Proof.Machine.execUsub a1 a2 a3 a4 s
  | .umul a1 a2 a3 a4 => Sys2Proof.Machine.execUmul a1 a2 a3 a4 s
  | .umulhi a1 a2 a3 a4 => Sys2Proof.Machine.execUmulhi a1 a2 a3 a4 s
  | .uand a1 a2 a3 a4 => Sys2Proof.Machine.execUand a1 a2 a3 a4 s
  | .uor a1 a2 a3 a4 => Sys2Proof.Machine.execUor a1 a2 a3 a4 s
  | .uxor a1 a2 a3 a4 => Sys2Proof.Machine.execUxor a1 a2 a3 a4 s
  | .ushl a1 a2 a3 a4 => Sys2Proof.Machine.execUshl a1 a2 a3 a4 s
  | .ushrn a1 a2 a3 a4 => Sys2Proof.Machine.execUshrn a1 a2 a3 a4 s
  | .ushri a1 a2 a3 a4 => Sys2Proof.Machine.execUshri a1 a2 a3 a4 s
  | .umini a1 a2 a3 a4 => Sys2Proof.Machine.execUmini a1 a2 a3 a4 s
  | .umaxi a1 a2 a3 a4 => Sys2Proof.Machine.execUmaxi a1 a2 a3 a4 s
  | .usel a1 a2 a3 a4 a5 a6 => Sys2Proof.Machine.execUsel a1 a2 a3 a4 a5 a6 s
  | .uadd64 a1 a2 a3 a4 => Sys2Proof.Machine.execUadd64 a1 a2 a3 a4 s
  | .usub64 a1 a2 a3 a4 => Sys2Proof.Machine.execUsub64 a1 a2 a3 a4 s
  | .ucmpI32 a1 a2 a3 a4 a5 a6 => Sys2Proof.Machine.execUcmpI32 a1 a2 a3 a4 a5 a6 s
  | .ucmpN32 a1 a2 a3 a4 a5 a6 => Sys2Proof.Machine.execUcmpN32 a1 a2 a3 a4 a5 a6 s
  | .ucmpI64 a1 a2 a3 a4 a5 a6 => Sys2Proof.Machine.execUcmpI64 a1 a2 a3 a4 a5 a6 s
  | .uld32 a1 a2 a3 a4 => Sys2Proof.Machine.execUld32 a1 a2 a3 a4 s
  | .uld64 a1 a2 a3 a4 => Sys2Proof.Machine.execUld64 a1 a2 a3 a4 s
  | .ust32 a1 a2 a3 a4 => Sys2Proof.Machine.execUst32 a1 a2 a3 a4 s
  | .ust64 a1 a2 a3 a4 => Sys2Proof.Machine.execUst64 a1 a2 a3 a4 s
  | .ulds a1 a2 a3 a4 => Sys2Proof.Machine.execUlds a1 a2 a3 a4 s
  | .usts a1 a2 a3 a4 => Sys2Proof.Machine.execUsts a1 a2 a3 a4 s
  | .usrd a1 a2 a3 => Sys2Proof.Machine.execUsrd a1 a2 a3 s
  | .uswr a1 a2 a3 => Sys2Proof.Machine.execUswr a1 a2 a3 s
  | .bar a1 a2 a3 a4 => Sys2Proof.Machine.execBar a1 a2 a3 a4 s
  | .acquire a1 => Sys2Proof.Machine.execAcquire a1 s
  | .yield a1 => Sys2Proof.Machine.execYield a1 s
  | .mwait a1 a2 => Sys2Proof.Machine.execMwait a1 a2 s
  | .trap a1 a2 a3 => Sys2Proof.Machine.execTrap a1 a2 a3 s
  | .fenceNear a1 a2 => Sys2Proof.Machine.execFenceNear a1 a2 s
  | .fenceFar a1 a2 => Sys2Proof.Machine.execFenceFar a1 a2 s
  | .fenceAcq a1 a2 => Sys2Proof.Machine.execFenceAcq a1 a2 s
  | .fenceRel a1 a2 => Sys2Proof.Machine.execFenceRel a1 a2 s
  | .fenceAr a1 a2 => Sys2Proof.Machine.execFenceAr a1 a2 s
  | .fenceSc a1 a2 => Sys2Proof.Machine.execFenceSc a1 a2 s
  | .rtt a1 a2 => Sys2Proof.Machine.execRtt a1 a2 s
  | .lread a1 a2 a3 a4 => Sys2Proof.Machine.execLread a1 a2 a3 a4 s
  | .lwrite a1 a2 a3 a4 => Sys2Proof.Machine.execLwrite a1 a2 a3 a4 s
  | .pread a1 a2 a3 => Sys2Proof.Machine.execPread a1 a2 a3 s
  | .pwrite a1 a2 a3 => Sys2Proof.Machine.execPwrite a1 a2 a3 s
  | .mread a1 a2 a3 a4 => Sys2Proof.Machine.execMread a1 a2 a3 a4 s
  | .mwrite a1 a2 a3 a4 => Sys2Proof.Machine.execMwrite a1 a2 a3 a4 s
  | .barrd a1 a2 a3 a4 => Sys2Proof.Machine.execBarrd a1 a2 a3 a4 s
  | .barwr a1 a2 a3 a4 => Sys2Proof.Machine.execBarwr a1 a2 a3 a4 s
  | .swait a1 a2 a3 a4 => Sys2Proof.Machine.execSwait a1 a2 a3 a4 s
  | .mquery a1 a2 a3 a4 => Sys2Proof.Machine.execMquery a1 a2 a3 a4 s
  | .otake a1 a2 a3 a4 => Sys2Proof.Machine.execOtake a1 a2 a3 a4 s
  | .owait a1 a2 a3 => Sys2Proof.Machine.execOwait a1 a2 a3 s
  | .ostat a1 a2 a3 a4 => Sys2Proof.Machine.execOstat a1 a2 a3 a4 s
  | .qpop a1 a2 a3 a4 a5 => Sys2Proof.Machine.execQpop a1 a2 a3 a4 a5 s
  | .vwaitq a1 a2 a3 a4 a5 => Sys2Proof.Machine.execVwaitq a1 a2 a3 a4 a5 s
  | .vstat a1 a2 a3 a4 => Sys2Proof.Machine.execVstat a1 a2 a3 a4 s
  | .umovi a1 a2 a3 => Sys2Proof.Machine.execUmovi a1 a2 a3 s
  | .ului a1 a2 a3 => Sys2Proof.Machine.execUlui a1 a2 a3 s
  | .uaddi a1 a2 a3 => Sys2Proof.Machine.execUaddi a1 a2 a3 s
  | .uandi a1 a2 a3 => Sys2Proof.Machine.execUandi a1 a2 a3 s
  | .uori a1 a2 a3 => Sys2Proof.Machine.execUori a1 a2 a3 s
  | .ucmpi a1 a2 a3 a4 a5 a6 => Sys2Proof.Machine.execUcmpi a1 a2 a3 a4 a5 a6 s
  | .clause a1 a2 a3 a4 => Sys2Proof.Machine.execClause a1 a2 a3 a4 s
  | .bra a1 a2 => Sys2Proof.Machine.execBra a1 a2 s
  | .call a1 a2 => Sys2Proof.Machine.execCall a1 a2 s
  | .brx a1 a2 => Sys2Proof.Machine.execBrx a1 a2 s
  | .ret a1 => Sys2Proof.Machine.execRet a1 s
  | .cset a1 a2 a3 => Sys2Proof.Machine.execCset a1 a2 a3 s
  | .mma a1 a2 a3 a4 a5 a6 => Sys2Proof.Machine.execMma a1 a2 a3 a4 a5 a6 s
  | .mstat a1 a2 a3 a4 => Sys2Proof.Machine.execMstat a1 a2 a3 a4 s
  | .munstat a1 a2 a3 a4 => Sys2Proof.Machine.execMunstat a1 a2 a3 a4 s
  | .mzero a1 a2 a3 a4 => Sys2Proof.Machine.execMzero a1 a2 a3 a4 s
  | .scac a1 a2 a3 a4 => Sys2Proof.Machine.execScac a1 a2 a3 a4 s
  | .mtread a1 a2 a3 a4 a5 => Sys2Proof.Machine.execMtread a1 a2 a3 a4 a5 s
  | .tcopy a1 a2 a3 a4 a5 a6 a7 => Sys2Proof.Machine.execTcopy a1 a2 a3 a4 a5 a6 a7 s
  | .tstore a1 a2 a3 a4 a5 a6 a7 => Sys2Proof.Machine.execTstore a1 a2 a3 a4 a5 a6 a7 s
  | .tmcast a1 a2 a3 a4 a5 a6 a7 a8 => Sys2Proof.Machine.execTmcast a1 a2 a3 a4 a5 a6 a7 a8 s
  | .tnotice a1 a2 a3 a4 a5 a6 a7 a8 => Sys2Proof.Machine.execTnotice a1 a2 a3 a4 a5 a6 a7 a8 s
  | .sarm a1 a2 a3 a4 => Sys2Proof.Machine.execSarm a1 a2 a3 a4 s
  | .tpref a1 a2 a3 a4 a5 a6 a7 => Sys2Proof.Machine.execTpref a1 a2 a3 a4 a5 a6 a7 s
  | .launch a1 a2 a3 a4 a5 a6 a7 => Sys2Proof.Machine.execLaunch a1 a2 a3 a4 a5 a6 a7 s
  | .oload a1 a2 a3 a4 a5 a6 a7 => Sys2Proof.Machine.execOload a1 a2 a3 a4 a5 a6 a7 s
  | .obind a1 a2 a3 a4 a5 a6 a7 => Sys2Proof.Machine.execObind a1 a2 a3 a4 a5 a6 a7 s
  | .orun a1 a2 a3 a4 a5 a6 a7 => Sys2Proof.Machine.execOrun a1 a2 a3 a4 a5 a6 a7 s
  | .ostep a1 a2 a3 a4 a5 a6 a7 => Sys2Proof.Machine.execOstep a1 a2 a3 a4 a5 a6 a7 s
  | .odone a1 a2 a3 a4 a5 a6 a7 => Sys2Proof.Machine.execOdone a1 a2 a3 a4 a5 a6 a7 s
  | .odense a1 a2 a3 a4 a5 a6 a7 => Sys2Proof.Machine.execOdense a1 a2 a3 a4 a5 a6 a7 s
  | .ostop a1 a2 a3 a4 a5 a6 a7 a8 => Sys2Proof.Machine.execOstop a1 a2 a3 a4 a5 a6 a7 a8 s
  | .vnew a1 a2 a3 a4 a5 a6 a7 => Sys2Proof.Machine.execVnew a1 a2 a3 a4 a5 a6 a7 s
  | .vfree a1 a2 a3 a4 => Sys2Proof.Machine.execVfree a1 a2 a3 a4 s
  | .vspawn a1 a2 a3 a4 a5 a6 a7 a8 => Sys2Proof.Machine.execVspawn a1 a2 a3 a4 a5 a6 a7 a8 s
  | .vsend a1 a2 a3 a4 a5 a6 a7 a8 => Sys2Proof.Machine.execVsend a1 a2 a3 a4 a5 a6 a7 a8 s
  | .qpush a1 a2 a3 a4 a5 a6 a7 a8 => Sys2Proof.Machine.execQpush a1 a2 a3 a4 a5 a6 a7 a8 s
  | .bsend a1 a2 a3 a4 a5 a6 a7 a8 => Sys2Proof.Machine.execBsend a1 a2 a3 a4 a5 a6 a7 a8 s
  | .vgive a1 a2 a3 a4 a5 a6 a7 a8 => Sys2Proof.Machine.execVgive a1 a2 a3 a4 a5 a6 a7 a8 s
  | .vborrow a1 a2 a3 a4 a5 => Sys2Proof.Machine.execVborrow a1 a2 a3 a4 a5 s
  | .nbSld a1 a2 a3 => Sys2Proof.Machine.execNbSld a1 a2 a3 s
  | .nbSst a1 a2 a3 => Sys2Proof.Machine.execNbSst a1 a2 a3 s
  | .nbKey a1 a2 a3 => Sys2Proof.Machine.execNbKey a1 a2 a3 s
  | .nbMask a1 a2 a3 => Sys2Proof.Machine.execNbMask a1 a2 a3 s
  | .nbCmp a1 a2 => Sys2Proof.Machine.execNbCmp a1 a2 s
  | .nbWr a1 => Sys2Proof.Machine.execNbWr a1 s
  | .nbTagand a1 a2 a3 => Sys2Proof.Machine.execNbTagand a1 a2 a3 s
  | .nbTagor a1 a2 a3 => Sys2Proof.Machine.execNbTagor a1 a2 a3 s
  | .nbTagnot a1 a2 => Sys2Proof.Machine.execNbTagnot a1 a2 s
  | .nbTagsh a1 a2 a3 => Sys2Proof.Machine.execNbTagsh a1 a2 a3 s
  | .nbLoop a1 => Sys2Proof.Machine.execNbLoop a1 s
  | .nbEnd => Sys2Proof.Machine.execNbEnd s
  | .clauseFetch a1 a2 => Sys2Proof.Machine.execClauseFetch a1 a2 s
  | .issueChoice a1 => Sys2Proof.Machine.execIssueChoice a1 s
  | .gangPromotion a1 a2 a3 => Sys2Proof.Machine.execGangPromotion a1 a2 a3 s
  | .engineCommandAccept a1 a2 => Sys2Proof.Machine.execEngineCommandAccept a1 a2 s
  | .trackedOpComplete a1 a2 => Sys2Proof.Machine.execTrackedOpComplete a1 a2 s
  | .storeQueueLeave a1 => Sys2Proof.Machine.execStoreQueueLeave a1 s
  | .spinDemotionEnd a1 a2 => Sys2Proof.Machine.execSpinDemotionEnd a1 a2 s
  | .spinDemotionTimeout a1 a2 => Sys2Proof.Machine.execSpinDemotionTimeout a1 a2 s
  | .warpEnd a1 => Sys2Proof.Machine.execWarpEnd a1 s
  | .poisonTrap a1 => Sys2Proof.Machine.execPoisonTrap a1 s
  | .debugConfigPost a1 a2 => Sys2Proof.Machine.execDebugConfigPost a1 a2 s
  | .collectionPost a1 a2 => Sys2Proof.Machine.execCollectionPost a1 a2 s
  | .convergenceTimeout a1 a2 => Sys2Proof.Machine.execConvergenceTimeout a1 a2 s
  | .preemptionRequest a1 => Sys2Proof.Machine.execPreemptionRequest a1 s
  | .groupRestore a1 a2 => Sys2Proof.Machine.execGroupRestore a1 a2 s
  | .groupAdmit a1 => Sys2Proof.Machine.execGroupAdmit a1 s
  | .admissionStarvation a1 => Sys2Proof.Machine.execAdmissionStarvation a1 s
  | .launchForward a1 a2 => Sys2Proof.Machine.execLaunchForward a1 a2 s
  | .hostQueueDoorbell a1 a2 => Sys2Proof.Machine.execHostQueueDoorbell a1 a2 s
  | .stealRequest a1 => Sys2Proof.Machine.execStealRequest a1 s
  | .stealReply a1 => Sys2Proof.Machine.execStealReply a1 s
  | .remainderReport a1 => Sys2Proof.Machine.execRemainderReport a1 s
  | .congestionSample a1 a2 a3 => Sys2Proof.Machine.execCongestionSample a1 a2 a3 s
  | .memoryRequest a1 => Sys2Proof.Machine.execMemoryRequest a1 s
  | .pageServiceComplete a1 a2 a3 a4 a5 => Sys2Proof.Machine.execPageServiceComplete a1 a2 a3 a4 a5 s
  | .walkerFill a1 a2 a3 a4 a5 => Sys2Proof.Machine.execWalkerFill a1 a2 a3 a4 a5 s
  | .pageEntryChange a1 a2 a3 a4 => Sys2Proof.Machine.execPageEntryChange a1 a2 a3 a4 s
  | .translationInvalidation a1 a2 => Sys2Proof.Machine.execTranslationInvalidation a1 a2 s
  | .invalidationAck a1 a2 => Sys2Proof.Machine.execInvalidationAck a1 a2 s
  | .bufferShootdown a1 a2 a3 => Sys2Proof.Machine.execBufferShootdown a1 a2 a3 s
  | .agingVisit a1 => Sys2Proof.Machine.execAgingVisit a1 s
  | .pageEviction a1 a2 a3 a4 a5 => Sys2Proof.Machine.execPageEviction a1 a2 a3 a4 a5 s
  | .pageMigration a1 a2 a3 a4 a5 => Sys2Proof.Machine.execPageMigration a1 a2 a3 a4 a5 s
  | .migrationSwitch a1 a2 a3 => Sys2Proof.Machine.execMigrationSwitch a1 a2 a3 s
  | .scrub a1 => Sys2Proof.Machine.execScrub a1 s
  | .rowCopyComplete a1 a2 a3 => Sys2Proof.Machine.execRowCopyComplete a1 a2 a3 s
  | .registerWrite a1 a2 a3 => Sys2Proof.Machine.execRegisterWrite a1 a2 a3 s
  | .tileCommandStart a1 a2 => Sys2Proof.Machine.execTileCommandStart a1 a2 s
  | .walkAheadFill a1 a2 a3 => Sys2Proof.Machine.execWalkAheadFill a1 a2 a3 s
  | .sectorDeliver a1 a2 a3 => Sys2Proof.Machine.execSectorDeliver a1 a2 a3 s
  | .tmcastReady a1 a2 a3 => Sys2Proof.Machine.execTmcastReady a1 a2 a3 s
  | .tmcastSector a1 a2 a3 => Sys2Proof.Machine.execTmcastSector a1 a2 a3 s
  | .noticePostPlace a1 a2 => Sys2Proof.Machine.execNoticePostPlace a1 a2 s
  | .noticeMatch a1 a2 => Sys2Proof.Machine.execNoticeMatch a1 a2 s
  | .noticeAck a1 a2 => Sys2Proof.Machine.execNoticeAck a1 a2 s
  | .matrixPassGrant a1 => Sys2Proof.Machine.execMatrixPassGrant a1 s
  | .matrixRowResult a1 a2 => Sys2Proof.Machine.execMatrixRowResult a1 a2 s
  | .macroMark a1 a2 => Sys2Proof.Machine.execMacroMark a1 a2 s
  | .macroUnmark a1 a2 => Sys2Proof.Machine.execMacroUnmark a1 a2 s
  | .orreryCombinationDone a1 a2 => Sys2Proof.Machine.execOrreryCombinationDone a1 a2 s
  | .callHandoff a1 a2 => Sys2Proof.Machine.execCallHandoff a1 a2 s
  | .lumenReturn a1 a2 => Sys2Proof.Machine.execLumenReturn a1 a2 s
  | .purseDraw a1 a2 => Sys2Proof.Machine.execPurseDraw a1 a2 s
  | .purseRecall a1 a2 => Sys2Proof.Machine.execPurseRecall a1 a2 s
  | .vsendMessage a1 a2 => Sys2Proof.Machine.execVsendMessage a1 a2 s
  | .binTimer a1 a2 => Sys2Proof.Machine.execBinTimer a1 a2 s
  | .kick a1 => Sys2Proof.Machine.execKick a1 s
  | .nbuKernelStart a1 => Sys2Proof.Machine.execNbuKernelStart a1 s
  | .nbuPassEnd a1 a2 => Sys2Proof.Machine.execNbuPassEnd a1 a2 s
  | .listRefresh a1 => Sys2Proof.Machine.execListRefresh a1 s
  | .nbuInstall a1 a2 a3 a4 => Sys2Proof.Machine.execNbuInstall a1 a2 a3 a4 s
  | .contextDestroy a1 => Sys2Proof.Machine.execContextDestroy a1 s
  | .hostWrite a1 a2 a3 => Sys2Proof.Machine.execHostWrite a1 a2 a3 s
  | .atsInvalidation a1 a2 a3 => Sys2Proof.Machine.execAtsInvalidation a1 a2 a3 s
  | .pageRequestResponse a1 a2 a3 a4 a5 => Sys2Proof.Machine.execPageRequestResponse a1 a2 a3 a4 a5 s
  | .remoteAccess a1 a2 a3 a4 a5 => Sys2Proof.Machine.execRemoteAccess a1 a2 a3 a4 a5 s
  | .podBarrierArrival a1 a2 => Sys2Proof.Machine.execPodBarrierArrival a1 a2 s
  | .podBarrierAdvance a1 a2 => Sys2Proof.Machine.execPodBarrierAdvance a1 a2 s
  | .meridianPortFailure a1 a2 => Sys2Proof.Machine.execMeridianPortFailure a1 a2 s
  | .checkpoint => Sys2Proof.Machine.execCheckpoint s
  | .checkpointRestore => Sys2Proof.Machine.execCheckpointRestore s
  | .featureWordWrite a1 => Sys2Proof.Machine.execFeatureWordWrite a1 s
  | .boot a1 a2 => Sys2Proof.Machine.execBoot a1 a2 s
  | .attestationRequest a1 => Sys2Proof.Machine.execAttestationRequest a1 s
  | .monitorSample a1 a2 a3 => Sys2Proof.Machine.execMonitorSample a1 a2 a3 s
  | .powerLimitWrite a1 => Sys2Proof.Machine.execPowerLimitWrite a1 s
  | .powerClockStep a1 a2 => Sys2Proof.Machine.execPowerClockStep a1 a2 s
  | .thermalThrottle a1 => Sys2Proof.Machine.execThermalThrottle a1 s
  | .thermalShutdown => Sys2Proof.Machine.execThermalShutdown s
  | .hostEndGroup a1 => Sys2Proof.Machine.execHostEndGroup a1 s
  | .hostAtomicop a1 a2 a3 a4 a5 a6 => Sys2Proof.Machine.execHostAtomicop a1 a2 a3 a4 a5 a6 s
  | .evictionComplete a1 a2 a3 => Sys2Proof.Machine.execEvictionComplete a1 a2 a3 s
  | .matrixEntryComplete a1 a2 => Sys2Proof.Machine.execMatrixEntryComplete a1 a2 s

end Sys2Proof.Machine
end

