-- ==== Sys2Proof/Machine/Run.lean ====
section
/-! DEFINITION. One turn of each agent: a gang issues its next word, a near-bank pass runs its next word, an engine takes an
event, a die's clk advances; and the order in which they move when none is named (log 2). -/

namespace Sys2Proof.Machine

/-- The fault of R50 that a word shows when no instruction has it: an unassigned opcode, or bits set in a reserved field of
an assigned one. -/
def badWordFault (i : Option Instr) (c : Ctx) : Option Nat :=
  match i with
  | none => some 2
  | some i => if subfieldOk i = false ∨ trapRegOutside i c then some 2 else some 3

/-- The gang of this name issues a word. -/
noncomputable def issueWord (uid : Nat) (w : Word) (s : State) : Host.Outcome State Fault Refusal :=
  let s := { s with cur := uid }
  match decodeOpcode w with
  | none => issue (badWordFault none) (fun _ _ => .stall) s
  | some i =>
    if encodeCore i = some w then exec i s else issue (badWordFault (some i)) (fun _ _ => .stall) s

/-- A core of a gang. -/
def State.gangCore (s : State) (g : Gang) : Nat := match s.warp g.warp with | some w => s.warpCore w | none => 0

/-- The lane or the uniform pipe of a core is free for a word in this clk: each takes one word a clk (R49, R243). A CLAUSE word
takes neither. -/
def State.pipeFree (s : State) (core : Nat) (w : Word) : Bool :=
  let u := s.core core
  let now := (s.die (core / Config.coresPerDie)).clk + 1
  isClauseWord w || (if w.getLsbD 31 then u.uniClk != now else u.laneClk != now)

/-- A word takes its pipe. -/
def State.takePipe (s : State) (core : Nat) (w : Word) : State :=
  let now := (s.die (core / Config.coresPerDie)).clk + 1
  if isClauseWord w then s
  else s.updCore core fun u => if w.getLsbD 31 then { u with uniClk := now } else { u with laneClk := now }

/-- A gang could issue its next word: its pipe is free and the word would not stall, which leaves the gang as it is. -/
noncomputable def couldIssue (s : State) (g : Gang) : Bool :=
  g.wait == .none && (match g.rest with
    | [] => false
    | w :: _ => s.pipeFree (s.gangCore g) w && (match issueWord g.uid w s with
      | .next s' => s'.gang g.uid != some g
      | _ => true))

/-- The words of a core's started clauses issue in start order: no gang started before could issue (R243). -/
noncomputable def inStartOrder (s : State) (g : Gang) : Bool :=
  (s.gangs.takeWhile fun x => x.uid != g.uid).all fun x => s.gangCore x != s.gangCore g || !couldIssue s x

/-- A word that issues takes its pipe; one that stalls leaves the gang as it is, and the pipe free. -/
def State.issued (s : State) (g : Gang) (w : Word) (r : Host.Outcome State Fault Refusal) : Host.Outcome State Fault Refusal :=
  match r with
  | .next s' => .next (if s'.gang g.uid = some g then s' else s'.takePipe (s.gangCore g) w)
  | r => r

/-- A gang sees its wait end, or issues its next word when its pipe is free and it is its turn (R243). -/
noncomputable def issueTurn (uid : Nat) (s : State) : Host.Outcome State Fault Refusal :=
  match s.gang uid with
  | none => .next s
  | some g =>
    if g.wait = .none then
      match g.rest with
      | [] => .next (s.finish uid)
      | w :: _ => if s.pipeFree (s.gangCore g) w && inStartOrder s g then s.issued g w (issueWord uid w s) else .next s
    else .next (s.pollWait g)

/-- The word that a pass runs next. -/
def State.passNext (s : State) (stack chunk : Nat) : Option Word :=
  match (s.stack stack).running with
  | none => none
  | some r =>
    match lookupBy Pass.chunk r.passes chunk, s.prog stack r.kick.ctx (nkid r.block) with
    | some p, some k => if p.ended then none else k.words[p.pc]?
    | _, _ => none

/-- A pass of an installed kernel begins when it is due, and runs its next word (R420). -/
noncomputable def nbuTurn (stack chunk : Nat) (s : State) : Host.Outcome State Fault Refusal :=
  let user := match (s.stack stack).running with | some r => decide (0x100 ≤ nkid r.block) | none => false
  let s := if user then s.beginPass stack chunk else s
  match s.passNext stack chunk with
  | none => .next s
  | some w =>
    match decodeNear w with
    | none => .next s
    | some i => exec i { s with curPass := (stack, chunk) }

/-- A die's clk advances by n (R5), after its candidates and its distributor's first item have been noted as of now (R236, R243);
the fault unit replaces the rows of its stacks that have failed (R260). -/
def tickDie (d n : Nat) (s : State) : State :=
  let s := ((s.lookCands d).noteWait d).updDie d fun u => { u with clk := u.clk + n }
  [3 * d, 3 * d + 1, 3 * d + 2].foldl (fun s k => if (s.stack k).failed.isEmpty then s else s.replaceFailed k) s

/-- One turn; an engine's draws anew from the free values (log 1), as each word of a gang does. -/
noncomputable def runTurn (t : Turn) (s : State) : Host.Outcome State Fault Refusal :=
  match t with
  | .issue g => issueTurn g s
  | .nbu k c => nbuTurn k c s.draw
  | .event e => exec e s.draw
  | .inval d l => .next (s.invalArrive d l)
  | .tick d n => .next (tickDie d n s)

/-! ## The order when no turn is named (log 2) -/

/-- Events of a warp. -/
noncomputable def warpTurns (s : State) (w : Warp) : List Turn :=
  let ops := w.ops.filterMap fun o =>
    match o.kind with
    | .done _ => some (Turn.event (.trackedOpComplete w.id o.id))
    | .accesses _ => some (.event (.memoryRequest o.id))
    | .gred _ _ => some (.event (.memoryRequest o.id))
    | _ => none
  let pcs := ((List.range 16).filterMap (s.presents w (s.boundary w))).eraseDups
  ops ++ (if w.sq.isEmpty then [] else [.event (.storeQueueLeave w.id)]) ++
    (if w.poison.isEmpty then [] else [.event (.poisonTrap w.id)]) ++
    pcs.map (fun pc => .event (.clauseFetch w.id pc)) ++
    (if w.allExited && !w.ended then [.event (.warpEnd w.id)] else [])

/-- Events of a core. -/
noncomputable def coreTurns (e : Nat × CoreU) : List Turn :=
  e.2.wt.map (fun x => .event (.memoryRequest x.id)) ++ e.2.cmds.map fun m => .event (.engineCommandAccept e.1 m.id)

/-- Events of a tile command. -/
noncomputable def tileTurns (quad : Nat) (t : TCmd) : List Turn :=
  if ¬ t.started then [.event (.tileCommandStart quad t.id)]
  else
    let sec := ((List.range t.sectors).find? fun k => !t.done.contains k).map fun k => Turn.event (.sectorDeliver quad t.id k)
    (if t.eop = 10 then ((t.named quad).filter (· != quad)).map fun j => .event (.tmcastReady quad j t.id) else []) ++
      t.inbound.map (fun x => .event (.tmcastSector quad t.id x.1)) ++
      (if t.isPost then (if t.acked then [.event (.noticeAck quad t.id)] else [.event (.noticePostPlace quad t.id)])
       else if t.isTake && t.partner.isNone then [.event (.noticeMatch quad t.id)] else []) ++ sec.toList

/-- Events of a quad. -/
noncomputable def quadTurns (e : Nat × QuadU) : List Turn :=
  e.2.tcmds.flatMap (tileTurns e.1) ++
    (if e.2.entries.isEmpty then [] else [.event (.matrixPassGrant e.1)]) ++
    e.2.entries.flatMap fun x =>
      match x.eop with
      | 1 => [.event (.matrixRowResult e.1 x.id)]
      | 2 => [.event (.macroMark e.1 x.id)]
      | 3 => [.event (.macroUnmark e.1 x.id)]
      | _ => [.event (.matrixEntryComplete e.1 x.id)]

/-- Events of a die's Orrery and Vesper units. -/
noncomputable def dieTurns (s : State) (d : Nat) : List Turn :=
  let u := s.die d
  (u.orbits.flatMap fun o => [Turn.event (.callHandoff d o.num), .event (.orreryCombinationDone d o.num)]) ++
    (u.vobjs.filter fun o => o.recalled).map (fun o => .event (.purseRecall d o.num)) ++
    (u.vobjs.filter fun o => o.since.isSome).map (fun o => .event (.binTimer d o.num)) ++
    (u.dcmds ++ u.ocmds ++ u.vcmds).map (fun m => .event (.engineCommandAccept (d * Config.coresPerDie) m.id)) ++
    [.event (.groupAdmit d)]

noncomputable def flightTurn (f : VFlight) : Turn :=
  match f.msg with
  | .ret _ _ _ => .event (.lumenReturn f.die f.id)
  | .draw _ _ => .event (.purseDraw f.die f.id)
  | .ask _ _ _ => .event (.purseDraw f.die f.id)
  | .vsend _ _ _ _ _ _ => .event (.vsendMessage f.die f.id)

/-- Events of a Lamplighter. -/
noncomputable def stackTurns (e : Nat × StackU) : List Turn :=
  (if e.2.arriving.isEmpty then [] else [.event (.kick e.1), .event (.listRefresh e.1)]) ++
    (if e.2.queue.isEmpty then [] else [.event (.nbuKernelStart e.1)]) ++
    match e.2.running with
    | none => []
    | some r =>
      r.passes.flatMap (fun p => [.nbu e.1 p.chunk, .event (.nbuPassEnd e.1 p.chunk)]) ++
        (((List.range (nchunks r.block)).find? fun c => !r.chunks.contains c).map fun c =>
          [Turn.nbu e.1 c, .event (.nbuPassEnd e.1 c)]).getD []

/-- Page changes, evictions and migrations in progress, pages that requests wait for, visits and scrubs that are due. -/
noncomputable def pageTurns (s : State) : List Turn :=
  (s.changes.flatMap fun c => c.await.flatMap fun d =>
    [Turn.event (.translationInvalidation d c.id), .event (.invalidationAck d c.id)]) ++
    s.evictions.map (fun e => .event (.evictionComplete e.key.ctx e.key.buf e.key.page)) ++
    (s.migrations.filter fun m => !m.switched).map (fun m => .event (.migrationSwitch m.key.ctx m.key.buf m.key.page)) ++
    ((s.wanted ++ s.dieU.flatMap fun u => (u.parking ++ u.missq).map ParkReq.key).eraseDups.filterMap fun k =>
      match s.buf k.ctx k.buf with
      | none => none
      | some e => (s.freeFrame e (s.page k) (placeStacks e)).map fun x =>
          Turn.event (.pageServiceComplete k.ctx k.buf k.page x.1 x.2)) ++
    (((List.range 4).filter fun d => decide ((s.die d).ageDue ≤ (s.die d).clk)).map fun d => .event (.agingVisit d)) ++
    ((List.range Config.hbmStacks).filter fun n => decide ((s.stack n).scrubDue ≤ (s.die (n / 3)).clk)).map fun n =>
      .event (.scrub n)

/-- Every agent with something to do, in the default order: gangs, warps, engines, pages, launches, cores. -/
noncomputable def agents (s : State) : List Turn :=
  s.gangs.map (fun g => .issue g.uid) ++ s.warps.flatMap (warpTurns s) ++ s.cores.flatMap coreTurns ++
    s.invals.map (fun x => .inval x.1 x.2) ++ s.heldWrites.map (fun h => .event (.memoryRequest h.id)) ++
    s.quads.flatMap quadTurns ++ (s.vflights.filter fun f => decide (f.die < 4)).map flightTurn ++ s.stackU.flatMap stackTurns ++ pageTurns s ++
    (s.groups.filter fun g => g.stat == .resident).flatMap (fun g =>
      (List.range g.desc.cvcount).flatMap fun c =>
        [Turn.event (.collectionPost g.id c), .event (.convergenceTimeout g.id c)]) ++
    (List.range 4).flatMap (dieTurns s) ++
    s.launches.flatMap (fun l => (List.range 4).map fun d => .event (.launchForward l.id d)) ++
    ((s.groups.filter Group.onCore).map Group.coreId).eraseDups.map fun c => .event (.issueChoice c)

/-- The turn has an effect: something besides the count of draws changes, or the machine stops. -/
noncomputable def hasEffect (s : State) (t : Turn) : Bool :=
  match runTurn t s with
  | .next s' => decide ({ s' with free := s.free, cur := s.cur, curPass := s.curPass } ≠ s)
  | _ => true

/-- The move when no turn is named: the first agent of the default order that can move; time passes when none can. -/
noncomputable def defaultTurn (s : State) : Host.Outcome State Fault Refusal :=
  match (agents s).find? (hasEffect s) with
  | some t => runTurn t s
  | none => .next ((List.range 4).foldl (fun s d => tickDie d 1 s) s)

/-- One step: the next agent in turn moves; with all clocks stopped nothing does (R446). -/
noncomputable def oneStep (s : State) : Host.Outcome State Fault Refusal :=
  if s.pkg.stopped then .fault .clocksStopped
  else
    match s.turns with
    | [] => defaultTurn s
    | t :: ts => runTurn t { s with turns := ts }

/-! ## Placing one instruction (log 11) -/

/-- A group of one warp, resident on core 0 of die 0, whose gang of all lanes stands at a word. A CLAUSE word is the gang's
header, followed by as many words as it says. -/
def wordState (s : State) (w : Word) : State :=
  let header := isClauseWord w
  let desc : KDesc := { tiles := 8, cvcount := 16, gbars := 16, qbars := 4, dbars := 4, pbars := 4, odbars := 4, full := 96,
                        prolog := 96, lbytes := 2 ^ 21 }
  let grp : Group := { id := 2, launch := 1, index := 0, ctx := 1, desc, die := 0, core := 0, quad := 0, acquired := true,
                       lbase := 0, tiles := List.range 8, bars := List.replicate 16 { exp := 1 },
                       conv := List.replicate 16 { expect := 1 }, slots := List.replicate 4 {} }
  let warp : Warp := { id := 3, group := 2, num := 0, slot := 0, lanes := List.replicate 64 {} }
  let fill := List.replicate (fld w 20 4).toNat (0x00200000 : Word)
  let gang : Gang := { uid := 4, warp := 3, lanes := BitVec.allOnes 64, hdr := 0, index := if header then 0 else 1
                       rest := if header then w :: fill else [w] }
  { s with groups := [grp], warps := [warp], gangs := [gang], nextId := max s.nextId 5, turns := [.issue 4] }

/-- A kernel of one near-bank word running on stack 0, at the word. -/
def passState (s : State) (w : Word) : State :=
  let k : NKernel := { kick := { ref := 0, ctx := 1, group := 0 }, plist := []
                       block := [1, 0, 0, 0, 0, 1, 0, 0, 1] ++ List.replicate 119 0
                       passes := [{ chunk := 0, valid := 1 }] }
  { (s.updStack 0 fun u => { u with running := some k, table := [{ ctx := 1, kid := 0x100, words := [w] }] }) with
    turns := [.nbu 0 0] }

/-- The state with one word where the next step runs it: a core's word, or a near-bank word where the core's decoder refuses
it. -/
noncomputable def placeWord (s : State) (w : Word) : State :=
  match decodeWord w with
  | .ok _ => wordState s w
  | .error _ => if (decodeNearWord w).isSome then passState s w else wordState s w

end Sys2Proof.Machine
end

