-- ==== Sys2Proof/Machine/Step.lean ====
section
/-! DEFINITION. The step function, and the placement of one instruction where the next step runs it. -/

namespace Sys2Proof.Machine

/-- One step of the package (log 2). -/
noncomputable def step (s : State) : Host.Outcome State Fault Refusal := oneStep s

/-- The state with one instruction where the next step runs it (log 11). -/
noncomputable def State.withFetchWord (s : State) (nbits w : Nat) : State := placeWord s (BitVec.ofNat 32 (w % 2 ^ nbits))

end Sys2Proof.Machine
end

