-- ==== Sys2Proof/Safety.lean ====
section
/-! DEFINITION. What counts as a safe run, and the terms that claims about words use: when a word issues, and what stays as
it was when it has retired. -/

namespace Sys2Proof.Machine

/-- A step is safe when it answers a next state: no fault and no refusal. -/
def StepSafe (s : State) : Prop := ∃ t, step s = .next t

/-- What every step keeps: memory in its canonical form, and the package's four dies. -/
structure State.Inv (s : State) : Prop where
  mem : s.mem.wf = true
  dies : s.dieU.length = 4

/-! ## When a word issues -/

/-- The word i is at issue: gang, warp and group are c, no debug event is due before it, and it passes every check of
R50. -/
structure Issues (s : State) (c : Ctx) (i : Instr) : Prop where
  ctx : s.ctx = some c
  quiet : c.debugDue = none
  sound : issueFault i c = none

/-! ## What a retired word leaves as it was -/

/-- The registers of a lane: v registers, predicates and meeting register. -/
def Lane.regs (ln : Lane) : Tab Word × BitVec 8 × Word := (ln.v, ln.preds, ln.meet)

/-- A warp without what the passage of its lanes from word to word changes. -/
def Warp.still (w : Warp) : Warp :=
  { w with lanes := [], ops := [], bars := [], mons := [], demoted := [], noBreak := [], stepPend := false }

/-- A group without its barriers' counts. -/
def Group.still (g : Group) : Group := { g with bars := [] }

/-- A state without gangs, warps, groups, barriers and L1 lines, and without the count of draws. -/
def State.still (s : State) : State := { s with gangs := [], warps := [], groups := [], bars := [], l1 := [], free := 0 }

/-- A tracked operation is as it was, except that a warp-wide execution may have taken place. -/
def OpKept (o p : TOp) : Prop := p.id = o.id ∧ ((∀ ls got, o.kind ≠ .warpWide ls got) → p = o)

/-- A warp's registers, flags, store queue, operations and trap state are as they were. -/
structure WarpKept (a b : Warp) : Prop where
  still : b.still = a.still
  lanes : b.lanes.map Lane.regs = a.lanes.map Lane.regs
  ops : ∀ (n : Nat) (o : TOp), a.ops[n]? = some o → ∃ p, b.ops[n]? = some p ∧ OpKept o p

/-- State t is state s after the issuing gang's word has retired: the gang has moved on and nothing but the progress of
lanes and barriers differs. -/
structure Retired (c : Ctx) (s t : State) : Prop where
  state : t.still = s.still
  warps : ∀ (n : Nat) (w : Warp), s.warp n = some w → ∃ x, t.warp n = some x ∧ WarpKept w x
  groups : ∀ (n : Nat) (g : Group), s.group n = some g → ∃ x, t.group n = some x ∧ x.still = g.still
  l1 : t.l1.Sublist s.l1
  gangs : ∀ n : Nat, n ≠ c.g.uid → t.gang n = s.gang n
  next : ∀ g x : Gang, s.gang c.g.uid = some g → t.gang c.g.uid = some x →
    x = { g with index := g.index + 1, rest := g.rest.tail }

/-- A warp without what taking a trap or debug event changes as well. -/
def Warp.untrapped (w : Warp) : Warp :=
  { w.still with flags := [], cands := [], handler := none, pendTraps := [], poison := [], dbgPark := none, trap := {} }

/-- A warp's registers, store queue and operations are as they were, whatever trap or debug event it has taken. -/
structure WarpHeld (a b : Warp) : Prop where
  held : b.untrapped = a.untrapped
  lanes : b.lanes.map Lane.regs = a.lanes.map Lane.regs
  ops : ∀ (n : Nat) (o : TOp), a.ops[n]? = some o → ∃ p, b.ops[n]? = some p ∧ OpKept o p

/-- A group without its barriers' counts, whether R214 has ended it or not. -/
def Group.untrapped (g : Group) : Group := { g.still with abandoned := false }

/-- A state without gangs, warps, groups, barriers and L1 lines, the count of draws and the events posted to the host. -/
def State.untrapped (s : State) : State := { s.still with pkg := { s.pkg with events := [] } }

/-- State t is state s, but for the progress of lanes and barriers, after a trap or debug event may have been taken. -/
structure Watched (s t : State) : Prop where
  state : t.untrapped = s.untrapped
  warps : ∀ (n : Nat) (w : Warp), s.warp n = some w → ∃ x, t.warp n = some x ∧ WarpHeld w x
  groups : ∀ (n : Nat) (g : Group), s.group n = some g → ∃ x, t.group n = some x ∧ x.untrapped = g.untrapped
  l1 : t.l1.Sublist s.l1

/-- The word i completes: exec answers a next state, which is s' once the word has retired. -/
def Completes (s : State) (c : Ctx) (i : Instr) (s' : State) : Prop := ∃ t, exec i s = .next t ∧ Retired c s' t

/-- A word i that makes accesses completes: exec answers a next state, which is s' once the word has retired; where a
watchpoint sees an access, its debug event is taken as well (R217). -/
def CompletesAcc (s : State) (c : Ctx) (i : Instr) (acc : List WatchAcc) (s' : State) : Prop :=
  ∃ t, exec i s = .next t ∧ Watched s' t ∧
    ((c.w.inHandler c.g.lanes = true ∨ watchHit c.w c.g.lanes acc = none) → Retired c s' t)

/-- Where a lane stands: its pc, and whether it has exited. -/
def Lane.stand (ln : Lane) : Word × Bool := (ln.pc, ln.stat == .exited)

/-- Where a lane of a gang stands when its clause has ended: exited, or at the target it has taken, or at the next clause. -/
def Lane.after (next : Word) (ln : Lane) : Word × Bool := if ln.exiting then (next, true) else (ln.npc.getD next, false)

/-- The clause has ended: the gang's lanes stand where they go, and every other lane of the warp where it stood. -/
def Departs (c : Ctx) (s t : State) : Prop :=
  ∀ w, s.warp c.w.id = some w → ∃ x, t.warp c.w.id = some x ∧
    ∀ (l : Nat) (ln : Lane), w.lanes[l]? = some ln → ∃ lm, x.lanes[l]? = some lm ∧
      lm.stand = if inMask c.g.lanes l then ln.after (c.g.pc + 4) else ln.stand

/-- The word i, which sends lanes elsewhere, completes: its effect is s', and where it stands last in its clause the lanes
then stand where they go. -/
def Transfers (s : State) (c : Ctx) (i : Instr) (s' : State) : Prop :=
  ∃ t, exec i s = .next t ∧ Retired c s' t ∧
    (c.g.rest.tail = [] → c.g.wait = .none → c.grp.abandoned = false → Departs c s' t)

/-- The word i waits: exec answers the same state, and the gang stays at the word. -/
def Stalls (s : State) (i : Instr) : Prop := exec i s = .next s

/-- The word i raises the trap: exec answers the state in which the gang's lanes have taken it. -/
def Traps (s : State) (c : Ctx) (i : Instr) (t : TrapSpec) : Prop := exec i s = .next (s.trapHere c false t)

/-! ## Register writes -/

/-- The guarded lanes of the gang write a value to one register. -/
def State.putLanes (s : State) (c : Ctx) (g : BitVec 4) (d : BitVec 7) (f : Rd → Word) : State :=
  s.setWarp (c.mapGuarded g fun rd ln => ln.put d.toNat (f rd))

/-- The guarded lanes of the gang write a value to a register pair. -/
def State.putPairs (s : State) (c : Ctx) (g : BitVec 4) (d : BitVec 7) (f : Rd → Dword) : State :=
  s.setWarp (c.mapGuarded g fun rd ln => ln.putPair d.toNat (f rd))

/-- The active lanes of the gang write predicates. -/
def State.putPreds (s : State) (c : Ctx) (f : Rd → BitVec 8 → BitVec 8) : State :=
  s.setWarp (c.mapActive fun rd ln => { ln with preds := f rd ln.preds })

/-- The warp writes a uniform register when the guard holds. -/
def State.putUni (s : State) (c : Ctx) (k : BitVec 3) (d : BitVec 5) (x : Word) : State :=
  if guardUni k c.w then s.setWarp (c.w.putS d.toNat x) else s

/-- The warp writes a uniform register pair when the guard holds. -/
def State.putUniPair (s : State) (c : Ctx) (k : BitVec 3) (d : BitVec 5) (x : Dword) : State :=
  if guardUni k c.w then s.setWarp (c.w.putSPair d.toNat x) else s

/-! ## Tracked operations and store-queue entries -/

/-- The warp of the gang has one more tracked operation, counted on the given flags. -/
def State.track (s : State) (c : Ctx) (fa fb : Option Nat) (kind : OpKind) : State :=
  ({ s with nextId := s.nextId + 1 } : State).addOp c.w.id (c.newOp s.nextId fa fb kind)

/-- The same, by a word that no quiet iteration may hold (R131). -/
def State.trackLoud (s : State) (c : Ctx) (fa fb : Option Nat) (kind : OpKind) : State :=
  (s.track c fa fb kind).updWarp c.w.id Warp.unquiet

/-- The warp's store queue has one more entry, counted on setb. -/
def State.enqueue (s : State) (c : Ctx) (items : List StoreItem) : State :=
  ({ s with nextId := s.nextId + 1 } : State).updWarp c.w.id fun w =>
    { w.unquiet with sq := w.sq ++ [{ id := s.nextId, items, fb := c.g.fb, lanes := c.g.lanes, word := c.g.word,
                                      wordPc := c.g.pc }] }

end Sys2Proof.Machine
end

