-- ==== Sys2Proof/Forms.lean ====
section
/-! DEFINITION. The manual's tables of words, as claims read them: for each word of a table its guard, its destination and
the value it forms from the registers its lane or warp reads. Values are written as the tables write them, by exact
arithmetic on numbers and bits. -/

namespace Sys2Proof.Machine

/-- A lane word that writes a value: guard, destination and the value from the lane's registers as read. -/
structure LaneForm (α : Type) where
  guard : BitVec 4
  dest : BitVec 7
  value : Rd → α

/-- A uniform word that writes a value: guard, destination and the value from the warp's registers as read. -/
structure UniForm (α : Type) where
  guard : BitVec 3
  dest : BitVec 5
  value : Warp → α

/-! ## Exact values -/

def word (x : Nat) : Word := BitVec.ofNat 32 x
def wordI (x : Int) : Word := BitVec.ofInt 32 x
def dword (x : Nat) : Dword := BitVec.ofNat 64 x
def dwordI (x : Int) : Dword := BitVec.ofInt 64 x

/-- The word with given bits. -/
@[irreducible] def wordBits (b : Nat → Bool) : Word := (List.range 32).foldl (fun w i => if b i then w ||| (1#32 <<< i) else w) 0

/-- The shift count of R144 and R146: bits 7:0 of the operand. -/
def count8 (k : Word) : Nat := k.toNat % 256

/-- Number of set bits; of zero bits above the highest set bit; of zero bits below the lowest. -/
def setBits {n : Nat} (x : BitVec n) : Nat := (List.range n).countP x.getLsbD
def zerosAbove {n : Nat} (x : BitVec n) : Nat := ((List.range n).takeWhile fun i => !x.getLsbD (n - 1 - i)).length
def zerosBelow {n : Nat} (x : BitVec n) : Nat := ((List.range n).takeWhile fun i => !x.getLsbD i).length

/-- Clamp of R143. -/
def clamp (x lo hi : Int) : Int := if x < lo then lo else if hi < x then hi else x

/-- Position and width used of a field specification (R147). -/
def fpos (f : Word) : Nat := f.toNat % 32
def fwid (f : Word) : Nat := min (min (f.toNat / 256 % 64) 32) (32 - fpos f)

/-! ## Integer words of a lane (R144–R147) -/

/-- LR words 0–14: value of a op b. -/
def lr32 (i : Instr) : Option (LaneForm Word) :=
  match i with
  | .add g d a b => some ⟨g, d, fun r => word ((r a.toNat).toNat + (r b.toNat).toNat)⟩
  | .sub g d a b => some ⟨g, d, fun r => wordI ((r a.toNat).toInt - (r b.toNat).toInt)⟩
  | .mul g d a b => some ⟨g, d, fun r => word ((r a.toNat).toNat * (r b.toNat).toNat)⟩
  | .mulhi g d a b => some ⟨g, d, fun r => wordI ((r a.toNat).toInt * (r b.toNat).toInt / 2 ^ 32)⟩
  | .mulhn g d a b => some ⟨g, d, fun r => word ((r a.toNat).toNat * (r b.toNat).toNat / 2 ^ 32)⟩
  | .and g d a b => some ⟨g, d, fun r => wordBits fun j => (r a.toNat).getLsbD j && (r b.toNat).getLsbD j⟩
  | .or g d a b => some ⟨g, d, fun r => wordBits fun j => (r a.toNat).getLsbD j || (r b.toNat).getLsbD j⟩
  | .xor g d a b => some ⟨g, d, fun r => wordBits fun j => (r a.toNat).getLsbD j != (r b.toNat).getLsbD j⟩
  | .shl g d a b => some ⟨g, d, fun r => word ((r a.toNat).toNat * 2 ^ count8 (r b.toNat))⟩
  | .shrn g d a b => some ⟨g, d, fun r => word ((r a.toNat).toNat / 2 ^ count8 (r b.toNat))⟩
  | .shri g d a b => some ⟨g, d, fun r => wordI ((r a.toNat).toInt / 2 ^ count8 (r b.toNat))⟩
  | .mini g d a b => some ⟨g, d, fun r => wordI (min (r a.toNat).toInt (r b.toNat).toInt)⟩
  | .maxi g d a b => some ⟨g, d, fun r => wordI (max (r a.toNat).toInt (r b.toNat).toInt)⟩
  | .minn g d a b => some ⟨g, d, fun r => word (min (r a.toNat).toNat (r b.toNat).toNat)⟩
  | .maxn g d a b => some ⟨g, d, fun r => word (max (r a.toNat).toNat (r b.toNat).toNat)⟩
  | _ => none

/-- LI words 0–4, in place on d with a signed immediate (R145). -/
def li32 (i : Instr) : Option (LaneForm Word) :=
  match i with
  | .movi g d m => some ⟨g, d, fun _ => wordI m.toInt⟩
  | .addi g d m => some ⟨g, d, fun r => wordI ((r d.toNat).toInt + m.toInt)⟩
  | .andi g d m => some ⟨g, d, fun r => wordBits fun j => (r d.toNat).getLsbD j && (wordI m.toInt).getLsbD j⟩
  | .ori g d m => some ⟨g, d, fun r => wordBits fun j => (r d.toNat).getLsbD j || (wordI m.toInt).getLsbD j⟩
  | .xori g d m => some ⟨g, d, fun r => wordBits fun j => (r d.toNat).getLsbD j != (wordI m.toInt).getLsbD j⟩
  | _ => none

/-- LX words that write one register (R146, R147). -/
def lx32 (i : Instr) : Option (LaneForm Word) :=
  match i with
  | .mov g d a => some ⟨g, d, fun r => r a.toNat⟩
  | .not g d a => some ⟨g, d, fun r => wordBits fun j => !(r a.toNat).getLsbD j⟩
  | .neg g d a => some ⟨g, d, fun r => wordI (0 - (r a.toNat).toInt)⟩
  | .abs g d a => some ⟨g, d, fun r => word (r a.toNat).toInt.natAbs⟩
  | .popc g d a => some ⟨g, d, fun r => word (setBits (r a.toNat))⟩
  | .clz g d a => some ⟨g, d, fun r => word (zerosAbove (r a.toNat))⟩
  | .ctz g d a => some ⟨g, d, fun r => word (zerosBelow (r a.toNat))⟩
  | .brev g d a => some ⟨g, d, fun r => wordBits fun j => (r a.toNat).getLsbD (31 - j)⟩
  | .sext8 g d a => some ⟨g, d, fun r => wordI ((r a.toNat).setWidth 8).toInt⟩
  | .sext16 g d a => some ⟨g, d, fun r => wordI ((r a.toNat).setWidth 16).toInt⟩
  | .andn g d a => some ⟨g, d, fun r => wordBits fun j => (r d.toNat).getLsbD j && !(r a.toNat).getLsbD j⟩
  | .orn g d a => some ⟨g, d, fun r => wordBits fun j => (r d.toNat).getLsbD j || !(r a.toNat).getLsbD j⟩
  | .rotl g d a =>
    some ⟨g, d, fun r => wordBits fun j => (r d.toNat).getLsbD ((j + 32 - (r a.toNat).toNat % 32) % 32)⟩
  | .rotr g d a => some ⟨g, d, fun r => wordBits fun j => (r d.toNat).getLsbD ((j + (r a.toNat).toNat % 32) % 32)⟩
  | .addsi g d a => some ⟨g, d, fun r => wordI (clamp ((r d.toNat).toInt + (r a.toNat).toInt) (-(2 ^ 31)) (2 ^ 31 - 1))⟩
  | .subsi g d a => some ⟨g, d, fun r => wordI (clamp ((r d.toNat).toInt - (r a.toNat).toInt) (-(2 ^ 31)) (2 ^ 31 - 1))⟩
  | .addsn g d a => some ⟨g, d, fun r => wordI (clamp ((r d.toNat).toNat + (r a.toNat).toNat) 0 (2 ^ 32 - 1))⟩
  | .subsn g d a => some ⟨g, d, fun r => wordI (clamp ((r d.toNat).toNat - (r a.toNat).toNat) 0 (2 ^ 32 - 1))⟩
  | .bfxn g d a =>
    some ⟨g, d, fun r =>
      let f := r a.toNat
      wordBits fun j => decide (j < fwid f) && (r d.toNat).getLsbD (fpos f + j)⟩
  | .bfxi g d a =>
    some ⟨g, d, fun r =>
      let f := r a.toNat
      wordBits fun j => fwid f != 0 && (r d.toNat).getLsbD (fpos f + min j (fwid f - 1))⟩
  | .bfi g d a =>
    some ⟨g, d, fun r =>
      let f := r (a.toNat + 1)
      wordBits fun j => if fpos f ≤ j ∧ j < fpos f + fwid f then (r a.toNat).getLsbD (j - fpos f) else (r d.toNat).getLsbD j⟩
  | .popc64 g d a => some ⟨g, d, fun r => word (setBits (Rd.pair r a.toNat))⟩
  | .clz64 g d a => some ⟨g, d, fun r => word (zerosAbove (Rd.pair r a.toNat))⟩
  | _ => none

/-- LX words that write a register pair (R146). -/
def lx64 (i : Instr) : Option (LaneForm Dword) :=
  match i with
  | .mov64 g d a => some ⟨g, d, fun r => Rd.pair r a.toNat⟩
  | .neg64 g d a => some ⟨g, d, fun r => dwordI (0 - (Rd.pair r a.toNat).toInt)⟩
  | .sext64 g d a => some ⟨g, d, fun r => dwordI (r a.toNat).toInt⟩
  | .add64 g d a => some ⟨g, d, fun r => dword ((Rd.pair r d.toNat).toNat + (Rd.pair r a.toNat).toNat)⟩
  | .sub64 g d a => some ⟨g, d, fun r => dwordI ((Rd.pair r d.toNat).toInt - (Rd.pair r a.toNat).toInt)⟩
  | .mul64 g d a => some ⟨g, d, fun r => dword ((Rd.pair r d.toNat).toNat * (Rd.pair r a.toNat).toNat)⟩
  | .shl64 g d a => some ⟨g, d, fun r => dword ((Rd.pair r d.toNat).toNat * 2 ^ count8 (r a.toNat))⟩
  | .shrn64 g d a => some ⟨g, d, fun r => dword ((Rd.pair r d.toNat).toNat / 2 ^ count8 (r a.toNat))⟩
  | .shri64 g d a => some ⟨g, d, fun r => dwordI ((Rd.pair r d.toNat).toInt / 2 ^ count8 (r a.toNat))⟩
  | .mini64 g d a => some ⟨g, d, fun r => dwordI (min (Rd.pair r d.toNat).toInt (Rd.pair r a.toNat).toInt)⟩
  | .maxi64 g d a => some ⟨g, d, fun r => dwordI (max (Rd.pair r d.toNat).toInt (Rd.pair r a.toNat).toInt)⟩
  | .minn64 g d a => some ⟨g, d, fun r => dword (min (Rd.pair r d.toNat).toNat (Rd.pair r a.toNat).toNat)⟩
  | .maxn64 g d a => some ⟨g, d, fun r => dword (max (Rd.pair r d.toNat).toNat (Rd.pair r a.toNat).toNat)⟩
  | .mulwi g d a => some ⟨g, d, fun r => dwordI ((r d.toNat).toInt * (r a.toNat).toInt)⟩
  | .mulwn g d a => some ⟨g, d, fun r => dword ((r d.toNat).toNat * (r a.toNat).toNat)⟩
  | _ => none

/-! ## Float words of a lane (R158–R165) -/

/-- The FP32 and FP64 patterns of a register and a pair. -/
abbrev Rd.f32 (r : Rd) (c : BitVec 7) : Nat := (r c.toNat).toNat
abbrev Rd.f64 (r : Rd) (c : BitVec 7) : Nat := (Rd.pair r c.toNat).toNat

/-- Untracked float words that write one register. The operations are those of the number formats (R75, R158–R164). -/
def fp32 (i : Instr) : Option (LaneForm Word) :=
  match i with
  | .fadd32 g d a b => some ⟨g, d, fun r => word (fadd .f32 (r.f32 a) (r.f32 b))⟩
  | .fsub32 g d a b => some ⟨g, d, fun r => word (fsub .f32 (r.f32 a) (r.f32 b))⟩
  | .fmul32 g d a b => some ⟨g, d, fun r => word (fmul .f32 (r.f32 a) (r.f32 b))⟩
  | .ffma32 g d a b => some ⟨g, d, fun r => word (ffma .f32 (r.f32 a) (r.f32 b) (r.f32 d))⟩
  | .ffma2h g d a b => some ⟨g, d, fun r => word (ffma2 .f16 (r.f32 a) (r.f32 b) (r.f32 d))⟩
  | .ffma2b g d a => some ⟨g, d, fun r => word (ffma2 .bf16 (r.f32 a) (r (a.toNat + 1)).toNat (r.f32 d))⟩
  | .fmin32 g d a => some ⟨g, d, fun r => word (fminmax .f32 false (r.f32 d) (r.f32 a))⟩
  | .fmax32 g d a => some ⟨g, d, fun r => word (fminmax .f32 true (r.f32 d) (r.f32 a))⟩
  | .fneg32 g d a => some ⟨g, d, fun r => wordBits fun j => (r a.toNat).getLsbD j != decide (j = 31)⟩
  | .fabs32 g d a => some ⟨g, d, fun r => word ((r.f32 a) % 2 ^ 31)⟩
  | .fclass32 g d a => some ⟨g, d, fun r => word (fclass .f32 (r.f32 a))⟩
  | .fclass64 g d a => some ⟨g, d, fun r => word (fclass .f64 (r.f64 a))⟩
  | .fclass16 g d a => some ⟨g, d, fun r => word (fclass .f16 ((r.f32 a) % 2 ^ 16))⟩
  | _ => none

/-- Untracked float words that write a pair. -/
def fp64 (i : Instr) : Option (LaneForm Dword) :=
  match i with
  | .fadd64 g d a b => some ⟨g, d, fun r => dword (fadd .f64 (r.f64 a) (r.f64 b))⟩
  | .fmul64 g d a b => some ⟨g, d, fun r => dword (fmul .f64 (r.f64 a) (r.f64 b))⟩
  | .ffma64 g d a b => some ⟨g, d, fun r => dword (ffma .f64 (r.f64 a) (r.f64 b) (r.f64 d))⟩
  | .fmin64 g d a => some ⟨g, d, fun r => dword (fminmax .f64 false (r.f64 d) (r.f64 a))⟩
  | .fmax64 g d a => some ⟨g, d, fun r => dword (fminmax .f64 true (r.f64 d) (r.f64 a))⟩
  | .fneg64 g d a => some ⟨g, d, fun r => dword ((r.f64 a + 2 ^ 63) % 2 ^ 64)⟩
  | .fabs64 g d a => some ⟨g, d, fun r => dword ((r.f64 a) % 2 ^ 63)⟩
  | _ => none

/-- Tracked float words: the pattern of the result, 32 or 64 bits by pair (R162, R163). -/
def fpTracked (i : Instr) : Option (Bool × LaneForm Nat) :=
  match i with
  | .fdiv32 g d a => some (false, ⟨g, d, fun r => fdiv .f32 (r.f32 d) (r.f32 a)⟩)
  | .fdiv64 g d a => some (true, ⟨g, d, fun r => fdiv .f64 (r.f64 d) (r.f64 a)⟩)
  | .fsqrt32 g d a => some (false, ⟨g, d, fun r => fsqrt .f32 (r.f32 a)⟩)
  | .fsqrt64 g d a => some (true, ⟨g, d, fun r => fsqrt .f64 (r.f64 a)⟩)
  | .frsqrt32 g d a => some (false, ⟨g, d, fun r => frsqrt .f32 (r.f32 a)⟩)
  | .frsqrt64 g d a => some (true, ⟨g, d, fun r => frsqrt .f64 (r.f64 a)⟩)
  | .frcp32 g d a => some (false, ⟨g, d, fun r => frcp .f32 (r.f32 a)⟩)
  | .frcp64 g d a => some (true, ⟨g, d, fun r => frcp .f64 (r.f64 a)⟩)
  | .fexp2 g d a => some (false, ⟨g, d, fun r => fexp2 (r.f32 a)⟩)
  | .flog2 g d a => some (false, ⟨g, d, fun r => flog2 (r.f32 a)⟩)
  | _ => none

/-- The register writes of a result of 32 or 64 bits in a lane. -/
def resultWrites (pair : Bool) (d : BitVec 7) (x l : Nat) : List RegWrite :=
  if pair then [⟨l, d.toNat, word x⟩, ⟨l, d.toNat + 1, word (x / 2 ^ 32)⟩] else [⟨l, d.toNat, word x⟩]

/-- Target and source format of each conversion pair (R167). -/
def conversions : List (Kind × Kind) :=
  [(.f32, .f64), (.f64, .f32), (.f16, .f32), (.f32, .f16), (.bf16, .f32), (.f32, .bf16), (.f16, .f64), (.bf16, .f64)] ++
  [(.e4m3, .f32), (.e5m2, .f32), (.e2m3, .f32), (.e3m2, .f32), (.e2m1, .f32), (.i8, .f32), (.dm8, .f32), (.f32, .e4m3)] ++
  [(.f32, .e5m2), (.f32, .e2m3), (.f32, .e3m2), (.f32, .e2m1), (.f32, .i8), (.f32, .dm8), (.i32, .f32), (.n32, .f32)] ++
  [(.f32, .i32), (.f32, .n32), (.i32, .f64), (.f64, .i32), (.i64, .f64), (.f64, .i64), (.n32, .f64), (.f64, .n32)]

/-- A format that takes a register pair (R156). -/
def Kind.wide (k : Kind) : Bool := k = .f64 || k = .i64

/-- Register bits of a format (R156). -/
def Kind.bits (k : Kind) : Nat :=
  match k with
  | .f64 | .i64 => 64
  | .f32 | .i32 | .n32 => 32
  | .f16 | .bf16 => 16
  | .e4m3 | .e5m2 | .dm8 | .i8 => 8
  | .e2m3 | .e3m2 => 6
  | .e2m1 => 4

/-- The bits of a source of a format in register code a, those above the format ignored (R156). -/
def Rd.bits (r : Rd) (k : Kind) (a : BitVec 7) : Nat := (if k.wide then r.f64 a else r.f32 a) % 2 ^ k.bits

/-- The converted pattern, rounded by rnd and saturated where sat is set (R77, R78). -/
def convertBits (dst src : Kind) (sat : BitVec 1) (rnd : BitVec 2) (x : Nat) : Nat :=
  convert (dec src x) dst rnd.toNat (sat = 1)

/-! ## Compares (R38, R148, R166) -/

/-- A compare: combining type, destinations, condition and whether its operands are unordered under a condition other
than un. -/
structure CmpForm where
  ctype : BitVec 3
  pd1 : BitVec 3
  pd2 : BitVec 3
  cond : Rd → Bool
  unord : Rd → Bool

/-- A numeric relation by cond2: eq, lt, le, nz. -/
def relI (c : BitVec 2) (x y : Int) : Bool :=
  if c = 0 then decide (x = y) else if c = 1 then decide (x < y) else if c = 2 then decide (x ≤ y) else decide (x ≠ 0)

/-- A float relation by cond2: eq, lt, le, un. -/
def fcmpForm (k : Kind) (c : BitVec 2) (t p q : BitVec 3) (x y : Rd → Nat) : CmpForm :=
  { ctype := t, pd1 := p, pd2 := q, cond := fun r => fcond c.toNat (dec k (x r)) (dec k (y r))
    unord := fun r => c != 3 && (isNaN (dec k (x r)) || isNaN (dec k (y r))) }

def compares (i : Instr) : Option CmpForm :=
  match i with
  | .cmpI32 c t p q a b => some ⟨t, p, q, fun r => relI c (r a.toNat).toInt (r b.toNat).toInt, fun _ => false⟩
  | .cmpN32 c t p q a b => some ⟨t, p, q, fun r => relI c (r a.toNat).toNat (r b.toNat).toNat, fun _ => false⟩
  | .cmpI64 c t p q a b => some ⟨t, p, q, fun r => relI c (Rd.pair r a.toNat).toInt (Rd.pair r b.toNat).toInt, fun _ => false⟩
  | .cmpiI32 c t p q a b => some ⟨t, p, q, fun r => relI c (r a.toNat).toInt b.toInt, fun _ => false⟩
  | .testb c t p q a b =>
    some ⟨t, p, q, fun r =>
      if c = 2 then (List.range 32).any fun j => (r a.toNat).getLsbD j && (r b.toNat).getLsbD j
      else (r a.toNat).getLsbD ((r b.toNat).toNat % 32) == decide (c = 0), fun _ => false⟩
  | .fcmpF32 c t p q a b => some (fcmpForm .f32 c t p q (·.f32 a) (·.f32 b))
  | .fcmpF64 c t p q a b => some (fcmpForm .f64 c t p q (·.f64 a) (·.f64 b))
  | .fcmpF16 c t p q a b => some (fcmpForm .f16 c t p q (fun r => r.f32 a % 2 ^ 16) (fun r => r.f32 b % 2 ^ 16))
  | _ => none

/-! ## Uniform words (R190–R192) -/

abbrev Warp.u (w : Warp) (c : BitVec 5) : Word := w.getS c.toNat
abbrev Warp.uPair (w : Warp) (c : BitVec 5) : Dword := w.getSPair c.toNat

def uni32Form (i : Instr) : Option (UniForm Word) :=
  match i with
  | .uadd k d a b => some ⟨k, d, fun w => word ((w.u a).toNat + (w.u b).toNat)⟩
  | .usub k d a b => some ⟨k, d, fun w => wordI ((w.u a).toInt - (w.u b).toInt)⟩
  | .umul k d a b => some ⟨k, d, fun w => word ((w.u a).toNat * (w.u b).toNat)⟩
  | .umulhi k d a b => some ⟨k, d, fun w => wordI ((w.u a).toInt * (w.u b).toInt / 2 ^ 32)⟩
  | .uand k d a b => some ⟨k, d, fun w => wordBits fun j => (w.u a).getLsbD j && (w.u b).getLsbD j⟩
  | .uor k d a b => some ⟨k, d, fun w => wordBits fun j => (w.u a).getLsbD j || (w.u b).getLsbD j⟩
  | .uxor k d a b => some ⟨k, d, fun w => wordBits fun j => (w.u a).getLsbD j != (w.u b).getLsbD j⟩
  | .ushl k d a b => some ⟨k, d, fun w => word ((w.u a).toNat * 2 ^ count8 (w.u b))⟩
  | .ushrn k d a b => some ⟨k, d, fun w => word ((w.u a).toNat / 2 ^ count8 (w.u b))⟩
  | .ushri k d a b => some ⟨k, d, fun w => wordI ((w.u a).toInt / 2 ^ count8 (w.u b))⟩
  | .umini k d a b => some ⟨k, d, fun w => wordI (min (w.u a).toInt (w.u b).toInt)⟩
  | .umaxi k d a b => some ⟨k, d, fun w => wordI (max (w.u a).toInt (w.u b).toInt)⟩
  | .usel k d a b p n => some ⟨k, d, fun w => if kBit w.k p.toNat = decide (n = 0) then w.u a else w.u b⟩
  | .umovi k d m => some ⟨k, d, fun _ => wordI m.toInt⟩
  | .ului k d m => some ⟨k, d, fun _ => word (m.toNat * 2 ^ 15)⟩
  | .uaddi k d m => some ⟨k, d, fun w => wordI ((w.u d).toInt + m.toInt)⟩
  | .uandi k d m => some ⟨k, d, fun w => wordBits fun j => (w.u d).getLsbD j && m.getLsbD j⟩
  | .uori k d m => some ⟨k, d, fun w => wordBits fun j => (w.u d).getLsbD j || m.getLsbD j⟩
  | _ => none

def uni64Form (i : Instr) : Option (UniForm Dword) :=
  match i with
  | .uadd64 k d a b => some ⟨k, d, fun w => dword ((w.uPair a).toNat + (w.uPair b).toNat)⟩
  | .usub64 k d a b => some ⟨k, d, fun w => dwordI ((w.uPair a).toInt - (w.uPair b).toInt)⟩
  | _ => none

/-- A uniform compare: guard, destinations and condition. -/
structure UCmpForm where
  guard : BitVec 3
  kd1 : BitVec 2
  kd2 : BitVec 2
  cond : Warp → Bool

def uniCompares (i : Instr) : Option UCmpForm :=
  match i with
  | .ucmpI32 k p q a b c => some ⟨k, p, q, fun w => relI c (w.u a).toInt (w.u b).toInt⟩
  | .ucmpN32 k p q a b c => some ⟨k, p, q, fun w => relI c (w.u a).toNat (w.u b).toNat⟩
  | .ucmpI64 k p q a b c => some ⟨k, p, q, fun w => relI c (w.uPair a).toInt (w.uPair b).toInt⟩
  | .ucmpi k d c p q m => some ⟨k, p, q, fun w => relI c (w.u d).toInt m.toInt⟩
  | _ => none

/-! ## Accesses (R171, R174, R175, R180, R181, R193) -/

/-- A lane access form: guard, space, bytes, signed extension, register field and the lane's address. -/
structure MemForm where
  guard : BitVec 4
  space : Space
  bytes : Nat
  signed : Bool := false
  reg : BitVec 7
  addr : Rd → Dword

/-- Address of a memory form: the offset field of the reference, plus the scaled offset, within 2^44; the buffer index
stays (R171). -/
def refPlus (a : BitVec 7) (off : Int) (r : Rd) : Dword :=
  let x := (Rd.pair r a.toNat).toNat
  dword (x / 2 ^ 44 * 2 ^ 44 + (((x % 2 ^ 44 : Nat) + off) % 2 ^ 44).toNat)

/-- Address of a Lantern form, modulo 2^32. -/
def offPlus (a : BitVec 7) (off : Int) (r : Rd) : Dword := dword ((((r a.toNat).toNat + off) % 2 ^ 32).toNat)

def loads (i : Instr) : Option MemForm :=
  match i with
  | .ld32 g d a o => some ⟨g, .mem, 4, false, d, refPlus a (4 * o.toInt)⟩
  | .ld64 g d a o => some ⟨g, .mem, 8, false, d, refPlus a (8 * o.toInt)⟩
  | .ld128 g d a o => some ⟨g, .mem, 16, false, d, refPlus a (16 * o.toInt)⟩
  | .lds g d a o => some ⟨g, .lantern, 4, false, d, offPlus a (4 * o.toInt)⟩
  | .ld8n g d a => some ⟨g, .mem, 1, false, d, refPlus a 0⟩
  | .ld8i g d a => some ⟨g, .mem, 1, true, d, refPlus a 0⟩
  | .ld16n g d a => some ⟨g, .mem, 2, false, d, refPlus a 0⟩
  | .ld16i g d a => some ⟨g, .mem, 2, true, d, refPlus a 0⟩
  | .lds8n g d a => some ⟨g, .lantern, 1, false, d, offPlus a 0⟩
  | .lds8i g d a => some ⟨g, .lantern, 1, true, d, offPlus a 0⟩
  | .lds16n g d a => some ⟨g, .lantern, 2, false, d, offPlus a 0⟩
  | .lds16i g d a => some ⟨g, .lantern, 2, true, d, offPlus a 0⟩
  | .lds64 g d a => some ⟨g, .lantern, 8, false, d, offPlus a 0⟩
  | .lds128 g d a => some ⟨g, .lantern, 16, false, d, offPlus a 0⟩
  | _ => none

def stores (i : Instr) : Option MemForm :=
  match i with
  | .st32 g d a o => some ⟨g, .mem, 4, false, d, refPlus a (4 * o.toInt)⟩
  | .st64 g d a o => some ⟨g, .mem, 8, false, d, refPlus a (8 * o.toInt)⟩
  | .st128 g d a o => some ⟨g, .mem, 16, false, d, refPlus a (16 * o.toInt)⟩
  | .sts g d a o => some ⟨g, .lantern, 4, false, d, offPlus a (4 * o.toInt)⟩
  | .st8 g d a => some ⟨g, .mem, 1, false, d, refPlus a 0⟩
  | .st16 g d a => some ⟨g, .mem, 2, false, d, refPlus a 0⟩
  | .sts8 g d a => some ⟨g, .lantern, 1, false, d, offPlus a 0⟩
  | .sts16 g d a => some ⟨g, .lantern, 2, false, d, offPlus a 0⟩
  | .sts64 g d a => some ⟨g, .lantern, 8, false, d, offPlus a 0⟩
  | .sts128 g d a => some ⟨g, .lantern, 16, false, d, offPlus a 0⟩
  | _ => none

/-- The low n bytes of an operand, little-endian, from register code c upward. -/
def operandBytes (r : Rd) (c n : Nat) : List Byte :=
  (List.range n).map fun i => BitVec.ofNat 8 ((r (c + i / 4)).toNat / 2 ^ (8 * (i % 4)))

/-- Operation number, scope and order of an atomic (R180): 0 add, 1 and, 2 or, 3 xor, 4 mini, 5 maxi, 6 minn, 7 maxn,
8 swap, 9 cas, 10 add64, 11 swap64, 12 cas64, 13 fadd32. -/
structure AtomForm where
  guard : BitVec 4
  space : Space
  op : Nat
  scope : Nat := 0
  order : Nat := 0
  d : BitVec 7
  a : BitVec 7

def atomics (i : Instr) : Option AtomForm :=
  match i with
  | .atomAdd p o g d a => some ⟨g, .mem, 0, p.toNat, o.toNat, d, a⟩
  | .atomAnd p o g d a => some ⟨g, .mem, 1, p.toNat, o.toNat, d, a⟩
  | .atomOr p o g d a => some ⟨g, .mem, 2, p.toNat, o.toNat, d, a⟩
  | .atomXor p o g d a => some ⟨g, .mem, 3, p.toNat, o.toNat, d, a⟩
  | .atomMini p o g d a => some ⟨g, .mem, 4, p.toNat, o.toNat, d, a⟩
  | .atomMaxi p o g d a => some ⟨g, .mem, 5, p.toNat, o.toNat, d, a⟩
  | .atomMinn p o g d a => some ⟨g, .mem, 6, p.toNat, o.toNat, d, a⟩
  | .atomMaxn p o g d a => some ⟨g, .mem, 7, p.toNat, o.toNat, d, a⟩
  | .atomSwap p o g d a => some ⟨g, .mem, 8, p.toNat, o.toNat, d, a⟩
  | .atomCas p o g d a => some ⟨g, .mem, 9, p.toNat, o.toNat, d, a⟩
  | .atomAdd64 p o g d a => some ⟨g, .mem, 10, p.toNat, o.toNat, d, a⟩
  | .atomSwap64 p o g d a => some ⟨g, .mem, 11, p.toNat, o.toNat, d, a⟩
  | .atomCas64 p o g d a => some ⟨g, .mem, 12, p.toNat, o.toNat, d, a⟩
  | .atomFadd32 p o g d a => some ⟨g, .mem, 13, p.toNat, o.toNat, d, a⟩
  | .latomAdd g d a => some ⟨g, .lantern, 0, 0, 0, d, a⟩
  | .latomAnd g d a => some ⟨g, .lantern, 1, 0, 0, d, a⟩
  | .latomOr g d a => some ⟨g, .lantern, 2, 0, 0, d, a⟩
  | .latomXor g d a => some ⟨g, .lantern, 3, 0, 0, d, a⟩
  | .latomMini g d a => some ⟨g, .lantern, 4, 0, 0, d, a⟩
  | .latomMaxi g d a => some ⟨g, .lantern, 5, 0, 0, d, a⟩
  | .latomMinn g d a => some ⟨g, .lantern, 6, 0, 0, d, a⟩
  | .latomMaxn g d a => some ⟨g, .lantern, 7, 0, 0, d, a⟩
  | .latomSwap g d a => some ⟨g, .lantern, 8, 0, 0, d, a⟩
  | .latomCas g d a => some ⟨g, .lantern, 9, 0, 0, d, a⟩
  | .latomAdd64 g d a => some ⟨g, .lantern, 10, 0, 0, d, a⟩
  | .latomSwap64 g d a => some ⟨g, .lantern, 11, 0, 0, d, a⟩
  | .latomCas64 g d a => some ⟨g, .lantern, 12, 0, 0, d, a⟩
  | .latomFadd32 g d a => some ⟨g, .lantern, 13, 0, 0, d, a⟩
  | _ => none

/-- The bytes of an atomic's location. -/
def AtomForm.bytes (f : AtomForm) : Nat := if [10, 11, 12].contains f.op then 8 else 4

/-- The lane's address of an atomic. -/
def AtomForm.addr (f : AtomForm) (r : Rd) : Dword :=
  match f.space with
  | .mem => Rd.pair r f.a.toNat
  | .lantern => dword (r f.a.toNat).toNat

/-- Operand and compare value of an atomic: register code d upward. -/
def AtomForm.operands (f : AtomForm) (r : Rd) : Dword × Dword :=
  if f.op = 9 then (dword (r f.d.toNat).toNat, dword (r (f.d.toNat + 1)).toNat)
  else if f.op = 12 then (Rd.pair r f.d.toNat, Rd.pair r (f.d.toNat + 2))
  else if f.bytes = 8 then (Rd.pair r f.d.toNat, 0)
  else (dword (r f.d.toNat).toNat, 0)

/-- Gather-reduce words: guard, operation, destination and reference (R181). -/
def gathers (i : Instr) : Option (BitVec 4 × Nat × BitVec 7 × BitVec 7) :=
  match i with
  | .gredAdd g d a => some (g, 0, d, a)
  | .gredFadd32 g d a => some (g, 1, d, a)
  | .gredMini g d a => some (g, 2, d, a)
  | .gredMaxi g d a => some (g, 3, d, a)
  | .gredMinn g d a => some (g, 4, d, a)
  | .gredMaxn g d a => some (g, 5, d, a)
  | _ => none

/-- A uniform access form. -/
structure UMemForm where
  guard : BitVec 3
  space : Space
  bytes : Nat
  reg : BitVec 5
  addr : Warp → Dword

def uRefPlus (a : BitVec 5) (off : Int) (w : Warp) : Dword :=
  let x := (w.uPair a).toNat
  dword (x / 2 ^ 44 * 2 ^ 44 + (((x % 2 ^ 44 : Nat) + off) % 2 ^ 44).toNat)

def uOffPlus (a : BitVec 5) (off : Int) (w : Warp) : Dword := dword ((((w.u a).toNat + off) % 2 ^ 32).toNat)

def uniLoads (i : Instr) : Option UMemForm :=
  match i with
  | .uld32 k d a o => some ⟨k, .mem, 4, d, uRefPlus a (4 * o.toInt)⟩
  | .uld64 k d a o => some ⟨k, .mem, 8, d, uRefPlus a (8 * o.toInt)⟩
  | .ulds k d a o => some ⟨k, .lantern, 4, d, uOffPlus a (4 * o.toInt)⟩
  | _ => none

def uniStores (i : Instr) : Option UMemForm :=
  match i with
  | .ust32 k d a o => some ⟨k, .mem, 4, d, uRefPlus a (4 * o.toInt)⟩
  | .ust64 k d a o => some ⟨k, .mem, 8, d, uRefPlus a (8 * o.toInt)⟩
  | .usts k d a o => some ⟨k, .lantern, 4, d, uOffPlus a (4 * o.toInt)⟩
  | _ => none

/-! ## Warp-wide words (R183–R186) -/

/-- A warp-wide word: member mask field, destination, whether its result is a pair, and the result of lane l from every
lane's registers and predicates and from the members. -/
structure WideForm where
  mask : BitVec 6
  dest : BitVec 7
  pair : Bool
  value : (Nat → Rd) → (Nat → BitVec 8) → (Nat → Bool) → Nat → Dword

/-- The mask of the lanes that meet a condition. -/
def lanesMask (b : Nat → Bool) : Dword := maskOf ((List.range 64).filter b)

/-- The members, ascending. -/
def members (m : Nat → Bool) : List Nat := (List.range 64).filter m

/-- x of lane j: register code a, or the pair for w64, as a signed number. -/
def wideOperand (w : BitVec 1) (a : BitVec 7) (r : Nat → Rd) (j : Nat) : Int :=
  if w = 1 then (Rd.pair (r j) a.toNat).toInt else ((r j) a.toNat).toInt

/-- A shuffle from lane k, which t and the lane's own number give; k outside 0 to 63 receives the lane's own x. -/
def shuffle (d a : BitVec 7) (w : BitVec 1) (k : Int → Int → Int) (r : Nat → Rd) (m : Nat → Bool) (l : Nat) : Dword :=
  let n := k l (((r l) d.toNat).toNat % 64)
  let src := if n < 0 ∨ 63 < n then l else n.toNat
  if m src then dwordI (wideOperand w a r src) else 0

/-- Combines x over lanes. -/
def combine (w : BitVec 1) (a : BitVec 7) (f : Dword → Dword → Dword) (r : Nat → Rd) (ls : List Nat) : Dword :=
  match ls.map fun j => dwordI (wideOperand w a r j) with
  | [] => 0
  | x :: t => t.foldl f x

def reduceForm (m : BitVec 6) (d a : BitVec 7) (w : BitVec 1) (f : Dword → Dword → Dword) : WideForm :=
  ⟨m, d, w == 1, fun r _ mem _ => combine w a f r (members mem)⟩

def scanForm (m : BitVec 6) (d a : BitVec 7) (w : BitVec 1) (f : Dword → Dword → Dword) : WideForm :=
  ⟨m, d, w == 1, fun r _ mem l => combine w a f r ((members mem).filter fun j => decide (j ≤ l))⟩

def shuffleForm (m : BitVec 6) (d a : BitVec 7) (w : BitVec 1) (k : Int → Int → Int) : WideForm :=
  ⟨m, d, w == 1, fun r _ mem l => shuffle d a w k r mem l⟩

def sumOf (x y : Dword) : Dword := dwordI (x.toInt + y.toInt)
def lessOf (x y : Dword) : Dword := dwordI (min x.toInt y.toInt)
def moreOf (x y : Dword) : Dword := dwordI (max x.toInt y.toInt)

def wideWords (i : Instr) : Option WideForm :=
  match i with
  | .ballot p m d => some ⟨m, d, true, fun _ ps mem _ => lanesMask fun j => mem j && predBit (ps j) p.toNat⟩
  | .vote p m d t =>
    some ⟨m, d, false, fun _ ps mem _ =>
      let holds (j : Nat) : Bool := predBit (ps j) p.toNat
      if (if t = 0 then (members mem).all holds else (members mem).any holds) then 1 else 0⟩
  | .matchMembers m d a w =>
    some ⟨m, d, true, fun r _ mem l => lanesMask fun j => mem j && (wideOperand w a r j == wideOperand w a r l)⟩
  | .shflIdx m d a w => some (shuffleForm m d a w fun _ t => t)
  | .shflUp m d a w => some (shuffleForm m d a w fun l t => l - t)
  | .shflDown m d a w => some (shuffleForm m d a w fun l t => l + t)
  | .shflXor m d a w => some (shuffleForm m d a w fun l t => (Nat.xor l.toNat t.toNat : Nat))
  | .reduceAdd m d a w => some (reduceForm m d a w sumOf)
  | .reduceMin m d a w => some (reduceForm m d a w lessOf)
  | .reduceMax m d a w => some (reduceForm m d a w moreOf)
  | .reduceAnd m d a w => some (reduceForm m d a w (· &&& ·))
  | .reduceOr m d a w => some (reduceForm m d a w (· ||| ·))
  | .reduceXor m d a w => some (reduceForm m d a w (· ^^^ ·))
  | .scanAdd m d a w => some (scanForm m d a w sumOf)
  | .scanMin m d a w => some (scanForm m d a w lessOf)
  | .scanMax m d a w => some (scanForm m d a w moreOf)
  | _ => none

/-! ## Waiting words -/

/-- S[d] := v for the warp of the gang. -/
def State.writeS (s : State) (c : Ctx) (d : BitVec 5) (v : Word) : State := s.updWarp c.w.id fun w => w.putS d.toNat v

/-- A value that stands as a tracked operation on seta and is written when it completes. -/
def State.trackS (s : State) (c : Ctx) (d : BitVec 5) (v : Word) : State :=
  s.track c c.g.fa none (.done [⟨uniLane, d.toNat, v⟩])

/-- A record popped into the registers from d: status 0 with the lumens, the payload's length, its words (R393). -/
def Warp.popped (w : Warp) (d : BitVec 5) (r : Rec) : Warp :=
  (List.range 8).foldl (fun x i => x.putS (d.toNat + 2 + i) ((r.payload[i]?).getD 0))
    ((w.putS d.toNat (statusWord 0 r.lumens)).putS (d.toNat + 1) (word r.payload.length))

/-! ## Engine commands (R11, R207) -/

/-- A word that issues an engine command: guard, eop5, where its status goes, and the operands it takes. -/
structure CmdForm where
  guard : BitVec 3
  eop : Nat
  status : Option Nat
  regs : Warp → List Word

/-- Registers s(n) to s(n + count − 1). -/
def uRegs (n count : Nat) (w : Warp) : List Word := (List.range count).map fun j => w.getS (n + j)

/-- The status destination, if one is asked for. -/
def statusTo (ns : BitVec 1) (d : BitVec 5) : Option Nat := if ns = 0 then some d.toNat else none

def commands (i : Instr) : Option CmdForm :=
  match i with
  | .mstat k _ _ a => some ⟨k, 2, none, fun w => [w.u a]⟩
  | .munstat k _ _ a => some ⟨k, 3, none, fun w => [w.u a]⟩
  | .mzero k t _ _ => some ⟨k, 4, none, fun _ => [word t.toNat]⟩
  | .scac k _ _ a => some ⟨k, 5, none, fun w => [w.u a]⟩
  | .mtread k t _ _ a => some ⟨k, 6, none, fun w => uRegs a.toNat 2 w ++ [word t.toNat]⟩
  | .tcopy k c d n .. => some ⟨k, 8, statusTo n d, uRegs c.toNat 10⟩
  | .tstore k c d n .. => some ⟨k, 9, statusTo n d, uRegs c.toNat 10⟩
  | .tmcast k c d n _ _ _ m => some ⟨k, 10, statusTo n d, fun w => uRegs c.toNat 10 w ++ uRegs m.toNat 4 w⟩
  | .tnotice k c d n .. => some ⟨k, 11, statusTo n d, uRegs c.toNat 10⟩
  | .sarm k a b _ => some ⟨k, 12, none, fun w => [w.u a, w.u b]⟩
  | .tpref k c d n .. => some ⟨k, 13, statusTo n d, uRegs c.toNat 10⟩
  | .launch k l d n .. => some ⟨k, 14, statusTo n d, uRegs l.toNat 2⟩
  | .oload k a d n .. => some ⟨k, 16, statusTo n d, uRegs a.toNat 2⟩
  | .obind k a d n .. => some ⟨k, 17, statusTo n d, uRegs a.toNat 4⟩
  | .orun k a d n .. => some ⟨k, 18, statusTo n d, uRegs a.toNat 1⟩
  | .ostep k a d n .. => some ⟨k, 19, statusTo n d, uRegs a.toNat 1⟩
  | .odone k a d n .. => some ⟨k, 20, statusTo n d, uRegs a.toNat 2⟩
  | .odense k a d n .. => some ⟨k, 21, statusTo n d, uRegs a.toNat 6⟩
  | .ostop k a d n .. => some ⟨k, 22, statusTo n d, uRegs a.toNat 1⟩
  | .vnew k a d _ _ t _ => some ⟨k, 23, some d.toNat, uRegs a.toNat (if t = 0 then 1 else 2)⟩
  | .vfree k a d n => some ⟨k, 24, statusTo n d, uRegs a.toNat 1⟩
  | .vspawn k a d n .. => some ⟨k, 25, statusTo n d, uRegs a.toNat 4⟩
  | .vsend k a d n .. => some ⟨k, 26, statusTo n d, uRegs a.toNat 12⟩
  | .qpush k a d n .. => some ⟨k, 27, statusTo n d, uRegs a.toNat 12⟩
  | .bsend k a d n .. => some ⟨k, 28, statusTo n d, uRegs a.toNat 12⟩
  | .vgive k a d n .. => some ⟨k, 29, statusTo n d, uRegs a.toNat 2⟩
  | .vborrow k a d n _ => some ⟨k, 30, statusTo n d, uRegs a.toNat 2⟩
  | _ => none

/-- A command enters the core's command buffer: it is counted for acceptance on setb, and for its status, where it has
one, on seta (R11, R15). -/
def State.issueCmd (s : State) (c : Ctx) (f : CmdForm) : State :=
  let n := s.nextId
  let acc := c.newOp (n + 1) none c.g.fb .accept
  let ops := match f.status with
    | some d => [acc, c.newOp (n + 2) c.g.fa none (.status d)]
    | none => [acc]
  let m : Cmd := { id := n, warp := c.w.id, group := c.grp.id, ctx := c.grp.ctx, eop := f.eop, ebits := fld c.g.word 0 21
                   regs := f.regs c.rv, op := some (n + 1), sop := if f.status.isSome then some (n + 2) else none
                   lanes := c.g.lanes }
  (({ s with nextId := n + 3 } : State).updWarp c.w.id fun w => { w.unquiet with ops := w.ops ++ ops }).updCore
    c.grp.coreId fun u => { u with cmds := u.cmds ++ [m] }

/-- The Lantern stores and atomics that a warp issued before a name are performed. -/
def LanternDone (w : Warp) (before : Nat) : Prop :=
  (∀ x ∈ w.sq, x.id < before → ∀ it ∈ x.items, it.space ≠ .lantern) ∧
    ∀ o ∈ w.ops, o.id < before → ∀ l, o.kind = .accesses l → ∀ a ∈ l, a.space = .lantern → isAtomic a = false

/-- No entry but an MMA's becomes ready unchecked: none of some entries is. -/
def Calm (entries : List MEntry) : Prop := ∀ x ∈ entries, x.eop = 1 ∨ x.checked = true ∨ x.ready entries = false

/-- The macro of a quad lies in an allocation that a group there holds. -/
def MacroHeld (s : State) (quad m : Nat) : Prop := ∃ h ∈ s.quadUsers quad, h.quadMacro 0 ≤ m ∧ m < h.quadMacro h.macros

end Sys2Proof.Machine
end

