-- ==== Sys2Proof/Certificates/Slice0/Obligations.lean ====
section
/-! DEFINITION. The statements for the provers, each with the rules of the manual it rests on. A statement speaks of a word
i at issue through `Issues s c i`: c is the issuing gang with its warp, group and registers as read. `Completes s c i s'`
says that exec answers a next state, which is s' once the word has retired, with everything else as it was; the forms of
the words and their values stand in the tables of Forms. -/

section Statements
open Sys2Proof Sys2Proof.Machine

/-! ## Lane arithmetic -/

/-- R143–R147: the integer words of a lane. A three-operand, immediate or extended word writes its result, a register or a
pair, in every active lane whose guard is true, and nothing else; the guard field of SEL selects, and every active lane
writes. -/
def Obligations.IntegerWords : Prop :=
  (∀ (s : State) (c : Ctx) (i : Instr) (f : LaneForm Word), lr32 i = some f ∨ li32 i = some f ∨ lx32 i = some f →
    Issues s c i → Completes s c i (s.putLanes c f.guard f.dest f.value)) ∧
  (∀ (s : State) (c : Ctx) (i : Instr) (f : LaneForm Dword), lx64 i = some f → Issues s c i →
    Completes s c i (s.putPairs c f.guard f.dest f.value)) ∧
  ∀ (s : State) (c : Ctx) (p : BitVec 4) (d a b : BitVec 7), Issues s c (.sel p d a b) →
    Completes s c (.sel p d a b) (s.setWarp (c.mapActive fun r ln =>
      ln.put d.toNat (if predBit ln.preds (p.toNat / 2) = decide (p.toNat % 2 = 0) then r a.toNat else r b.toNat)))

/-- R156–R168: the float words of a lane, with the operations of the number formats. An untracked word, CVT among them,
writes its result. Division, roots, reciprocals, FEXP2 and FLOG2 are tracked on seta: the result stands in an operation that
writes it later, and with no lane left by the guard the count falls at once (R32). -/
def Obligations.FloatWords : Prop :=
  (∀ (s : State) (c : Ctx) (i : Instr) (f : LaneForm Word), fp32 i = some f → Issues s c i →
    Completes s c i (s.putLanes c f.guard f.dest f.value)) ∧
  (∀ (s : State) (c : Ctx) (i : Instr) (f : LaneForm Dword), fp64 i = some f → Issues s c i →
    Completes s c i (s.putPairs c f.guard f.dest f.value)) ∧
  (∀ (s : State) (c : Ctx) (i : Instr) (pair : Bool) (f : LaneForm Nat), fpTracked i = some (pair, f) → Issues s c i →
    (c.guarded f.guard ≠ 0 → Completes s c i (s.track c c.g.fa none
      (.done ((maskLanes (c.guarded f.guard)).flatMap fun l => resultWrites pair f.dest (f.value (c.rd l)) l)))) ∧
    (c.guarded f.guard = 0 → Completes s c i (s.fallNow c.w.id c.g.fa none))) ∧
  ∀ (s : State) (c : Ctx) (p : BitVec 5) (t : BitVec 1) (r : BitVec 2) (g : BitVec 4) (d a : BitVec 7) (dst src : Kind),
    conversions[p.toNat]? = some (dst, src) → Issues s c (.cvt p t r g d a) →
    Completes s c (.cvt p t r g d a)
      (if dst.wide then s.putPairs c g d fun x => dword (convertBits dst src t r (x.bits src a))
       else s.putLanes c g d fun x => word (convertBits dst src t r (x.bits src a)))

/-- R38, R148, R149, R166: a compare writes both destination predicates in every active lane. R38, R30: what the combining
types leave in pd1 and pd2, where the rule's q1 is what pd1 holds after the compare, true for p0 (the model's choice for
pd2 of the combining types when pd1 is p0, log 17); no other predicate changes. -/
def Obligations.CompareWords : Prop :=
  (∀ (s : State) (c : Ctx) (i : Instr) (f : CmpForm), compares i = some f → Issues s c i →
     Completes s c i (s.putPreds c fun r p => comparePreds f.ctype f.pd1 f.pd2 (f.cond r) (f.unord r) p)) ∧
  ∀ (t x y : BitVec 3) (c u : Bool) (p : BitVec 8), x ≠ y →
    let q := comparePreds t x y c u p
    let old := predBit p x.toNat
    let q1 := predBit q x.toNat
    (x = 0 → q1 = true) ∧
    (x ≠ 0 → q1 = match t.toNat with
      | 0 => c
      | 1 => c && !u
      | 2 => old && c
      | 3 => old || c
      | 4 => old && !c
      | 5 => old || !c
      | 6 => c
      | _ => old != c) ∧
    (y ≠ 0 → predBit q y.toNat = match t.toNat with
      | 0 => !c
      | 1 => !c && !u
      | 6 => old
      | _ => !q1) ∧
    ∀ n, n ≠ x.toNat → n ≠ y.toNat → predBit q n = predBit p n

/-- R30: p0 and k0 read as true, and a write to them changes nothing. -/
def Obligations.ZeroPredicates : Prop :=
  (∀ (p : BitVec 8), predBit p 0 = true) ∧ (∀ (p : BitVec 8) (b : Bool), setPred p 0 b = p) ∧
  (∀ (p : BitVec 8) (n m : Nat) (b : Bool), 0 < n → n < 8 → m < 8 →
    predBit (setPred p n b) m = if m = n then b else predBit p m) ∧
  (∀ (k : BitVec 4), kBit k 0 = true) ∧ (∀ (k : BitVec 4) (b : Bool), setK k 0 b = k) ∧
  ∀ (k : BitVec 4) (n m : Nat) (b : Bool), 0 < n → n < 4 → m < 4 →
    kBit (setK k n b) m = if m = n then b else kBit k m

/-- R31: a lane whose guard is false keeps every register, predicate and meeting register under a guarded write, and so does
a lane that is not active in the gang; the others change as the word says. -/
def Obligations.GuardedLanes : Prop :=
  ∀ (c : Ctx) (g : BitVec 4) (f : Rd → Lane → Lane) (l : Nat) (ln : Lane), c.w.lanes[l]? = some ln → l < 64 →
    (c.mapGuarded g f).lanes[l]? = some
      (if inMask c.g.lanes l ∧ predBit ln.preds (g.toNat / 2) = decide (g.toNat % 2 = 0) then f (c.rd l) ln else ln)

/-! ## Number formats -/

/-- R75: rounding to nearest gives a multiple of 2^q no further than half a unit away, and the even one of two at that
distance; directed roundings give the neighbour on their side. R70, R157: a NaN operand gives the canonical quiet NaN of
FP32 or FP64 in every sum, product and fused multiply-add, division and root. -/
def Obligations.NumberFormats : Prop :=
  (∀ (s : Bool) (m : Nat) (e q : Int), e < q →
     let k := (q - e).toNat
     let near := roundQ 0 s m e q false
     (2 * (near * 2 ^ k) ≤ 2 * m + 2 ^ k ∧ 2 * m ≤ 2 * (near * 2 ^ k) + 2 ^ k) ∧
     ((2 * (near * 2 ^ k) = 2 * m + 2 ^ k ∨ 2 * m = 2 * (near * 2 ^ k) + 2 ^ k) → near % 2 = 0) ∧
     roundQ 1 s m e q false = m / 2 ^ k ∧
     roundQ 2 s m e q false = (if s then m / 2 ^ k else (m + 2 ^ k - 1) / 2 ^ k) ∧
     roundQ 3 s m e q false = if s then (m + 2 ^ k - 1) / 2 ^ k else m / 2 ^ k) ∧
  ∀ (k : Kind), k = .f32 ∨ k = .f64 → ∀ (a b d : Nat), isNaN (dec k a) = true →
    fadd k a b = k.fmt.canon ∧ fadd k b a = k.fmt.canon ∧ fsub k a b = k.fmt.canon ∧ fsub k b a = k.fmt.canon ∧
    fmul k a b = k.fmt.canon ∧ fmul k b a = k.fmt.canon ∧
    ffma k a b d = k.fmt.canon ∧ ffma k b a d = k.fmt.canon ∧ ffma k b d a = k.fmt.canon ∧
    fdiv k a b = k.fmt.canon ∧ fdiv k b a = k.fmt.canon ∧ fsqrt k a = k.fmt.canon ∧ frsqrt k a = k.fmt.canon ∧
    frcp k a = k.fmt.canon

/-- R165: FNEG and FABS change only the sign bit. R161: the lesser or greater of two operands, compared numerically with −0
less than +0; of one NaN and another operand the other, of two NaNs the canonical quiet NaN. -/
def Obligations.SignAndChoice : Prop :=
  (∀ (r : Rd) (g : BitVec 4) (d a : BitVec 7) (n : Nat),
    (∀ f, fp32 (.fneg32 g d a) = some f → n < 32 →
      (f.value r).getLsbD n = ((r a.toNat).getLsbD n != decide (n = 31))) ∧
    (∀ f, fp32 (.fabs32 g d a) = some f → n < 32 →
      (f.value r).getLsbD n = ((r a.toNat).getLsbD n && decide (n ≠ 31))) ∧
    (∀ f, fp64 (.fneg64 g d a) = some f → n < 64 →
      (f.value r).getLsbD n = ((Rd.pair r a.toNat).getLsbD n != decide (n = 63))) ∧
    ∀ f, fp64 (.fabs64 g d a) = some f → n < 64 →
      (f.value r).getLsbD n = ((Rd.pair r a.toNat).getLsbD n && decide (n ≠ 63))) ∧
  ∀ (k : Kind) (bits a b : Nat), (k, bits) ∈ [(Kind.f32, 32), (Kind.f64, 64)] → a < 2 ^ bits → b < 2 ^ bits →
    let x := dec k a
    let y := dec k b
    let least := fminmax k false a b
    let most := fminmax k true a b
    (isNaN x = true → isNaN y = true → least = k.fmt.canon ∧ most = k.fmt.canon) ∧
    (isNaN x = true → isNaN y = false → least = b ∧ most = b) ∧
    (isNaN x = false → isNaN y = true → least = a ∧ most = a) ∧
    (isNaN x = false → isNaN y = false →
      (fcond 1 x y = true → least = a ∧ most = b) ∧ (fcond 1 y x = true → least = b ∧ most = a) ∧
      (fcond 0 x y = true → a = b → least = a ∧ most = a) ∧
      (fcond 0 x y = true → a ≠ b → least = 2 ^ (bits - 1) ∧ most = 0))

/-! ## Lane memory words -/

/-- R172, R174–R176: a load or store checks its lanes' addresses. A load then stands as one tracked operation on seta, one
access for each lane, performed later; nothing is read at issue. A store enters the warp's store queue as one entry, its
lanes ascending, each with its own address and bytes, and stalls while the queue holds 16 entries. R172: the check of lane
words, atomics and gather-reduces: the rows alignment, bounds, rights and stationary macro, in this order; the trap is that of
the first row that any lane meets, with the lanes that meet it and the address of the first of them. The kick buffer meets
neither bounds nor rights. -/
def Obligations.LaneAccesses : Prop :=
  (∀ (s : State) (grp : Group) (sp : Space) (need : AccNeed) (n : Nat) (as : List (Nat × Dword)),
     let entry (a : Dword) : Option BufEntry := s.buf grp.ctx (refBuf a)
     let lacks (e : BufEntry) : Prop := match need with
       | .load => e.rights.getLsbD 0 = false
       | .store => e.rights.getLsbD 1 = false
       | .atomic => e.rights.getLsbD 2 = false
       | .gred => ¬ (e.rights.getLsbD 0 = true ∧ e.rights.getLsbD 4 = true ∧ e.ilv = 4)
     let meets (row : Nat) (a : Dword) : Prop := match row with
       | 1 => (sp = .lantern ∨ need = .atomic ∨ need = .gred) ∧ a.toNat % n ≠ 0
       | 2 => (sp = .lantern ∧ grp.desc.lbytes < a.toNat + n) ∨ (sp = .mem ∧ s.isKick grp.ctx a = false ∧
           (refBuf a = 0 ∨ entry a = none ∨ ∃ e, entry a = some e ∧ e.size < refOff a + n))
       | 3 => sp = .mem ∧ s.isKick grp.ctx a = false ∧ ∃ e, entry a = some e ∧ (e.ctx ≠ grp.ctx ∨ lacks e)
       | _ => sp = .lantern ∧ need ≠ .load ∧ (s.quad grp.quad).stationary (grp.lbase + a.toNat) n = true
     (checkLanes s grp sp need n as = none ↔ ∀ x ∈ as, ∀ row, row ∈ [1, 2, 3, 4] → ¬ meets row x.2) ∧
     ∀ row ∈ [1, 2, 3, 4], ∀ (before : List (Nat × Dword)) (y : Nat × Dword) (after : List (Nat × Dword)),
       as = before ++ y :: after → meets row y.2 → (∀ x ∈ before, ¬ meets row x.2) →
       (∀ x ∈ as, ∀ r, 1 ≤ r → r < row → ¬ meets r x.2) →
       ∃ t, checkLanes s grp sp need n as = some t ∧ t.cause = row + 1 ∧ t.addr = y.2 ∧
         ∀ l, l < 64 → (inMask t.lanes l = true ↔ ∃ x ∈ as, x.1 = l ∧ meets row x.2)) ∧
  (∀ (s : State) (c : Ctx) (i : Instr) (f : MemForm), loads i = some f → Issues s c i →
     let as := c.addrs f.guard f.addr
     (∀ t, checkLanes s c.grp f.space .load f.bytes as = some t → Traps s c i t) ∧
     (checkLanes s c.grp f.space .load f.bytes as = none → c.guarded f.guard = 0 →
       Completes s c i (s.fallNow c.w.id c.g.fa none)) ∧
     (checkLanes s c.grp f.space .load f.bytes as = none → c.guarded f.guard ≠ 0 →
       CompletesAcc s c i (watchOf f.space f.bytes 0 as) (s.track c c.g.fa none
         (.accesses (as.map fun x => ⟨x.1, f.space, x.2, f.bytes, f.reg.toNat, .load f.signed⟩))))) ∧
  ∀ (s : State) (c : Ctx) (i : Instr) (f : MemForm), stores i = some f → Issues s c i →
    let as := c.addrs f.guard f.addr
    (∀ t, checkLanes s c.grp f.space .store f.bytes as = some t → Traps s c i t) ∧
    (checkLanes s c.grp f.space .store f.bytes as = none → c.guarded f.guard = 0 →
      Completes s c i (s.fallNow c.w.id none c.g.fb)) ∧
    (checkLanes s c.grp f.space .store f.bytes as = none → c.guarded f.guard ≠ 0 → 16 ≤ c.w.sq.length → Stalls s i) ∧
    (checkLanes s c.grp f.space .store f.bytes as = none → c.guarded f.guard ≠ 0 → c.w.sq.length < 16 →
      CompletesAcc s c i (watchOf f.space f.bytes 1 as)
        (s.enqueue c (as.map fun x => ⟨x.1, f.space, x.2, operandBytes (c.rd x.1) f.reg.toNat f.bytes⟩)))

/-- R180: an atomic checks its lanes' addresses and then stands as one tracked operation on both flags, one access for each
lane, with its operand and compare values as read. R180: the new value of an atomic, on a location of 32 bits holding x with
operand a and compare value b, and of 64 bits. -/
def Obligations.LaneAtomics : Prop :=
  (∀ (s : State) (c : Ctx) (i : Instr) (f : AtomForm), atomics i = some f → Issues s c i →
     let as := c.addrs f.guard f.addr
     (∀ t, checkLanes s c.grp f.space .atomic f.bytes as = some t → Traps s c i t) ∧
     (checkLanes s c.grp f.space .atomic f.bytes as = none → c.guarded f.guard = 0 →
       Completes s c i (s.fallNow c.w.id c.g.fa c.g.fb)) ∧
     (checkLanes s c.grp f.space .atomic f.bytes as = none → c.guarded f.guard ≠ 0 →
       CompletesAcc s c i (watchOf f.space f.bytes 2 as) (s.track c c.g.fa c.g.fb
         (.accesses (as.map fun x => ⟨x.1, f.space, x.2, f.bytes, f.d.toNat, .atomic f.op f.scope f.order
           (f.operands (c.rd x.1)).1 (f.operands (c.rd x.1)).2⟩))))) ∧
  (∀ (x a : Word) (b : Dword),
    let new (op : Nat) := atomNew op (dword x.toNat) (dword a.toNat) b
    let is (y : Word) : Option Dword := some (dword y.toNat)
    new 0 = is (word (x.toNat + a.toNat)) ∧
    new 1 = is (wordBits fun j => x.getLsbD j && a.getLsbD j) ∧
    new 2 = is (wordBits fun j => x.getLsbD j || a.getLsbD j) ∧
    new 3 = is (wordBits fun j => x.getLsbD j != a.getLsbD j) ∧
    new 4 = is (wordI (min x.toInt a.toInt)) ∧ new 5 = is (wordI (max x.toInt a.toInt)) ∧
    new 6 = is (word (min x.toNat a.toNat)) ∧ new 7 = is (word (max x.toNat a.toNat)) ∧
    new 8 = is a ∧ (new 13 = is (word (fadd .f32 x.toNat a.toNat)))) ∧
  (∀ (x a b : Word), atomNew 9 (dword x.toNat) (dword a.toNat) (dword b.toNat) =
    if x = a then some (dword b.toNat) else none) ∧
  ∀ (x a b : Dword), atomNew 10 x a b = some (dword (x.toNat + a.toNat)) ∧ atomNew 11 x a b = some a ∧
    atomNew 12 x a b = if x = a then some b else none

/-- R181, R182, R172: a gather-reduce checks its references, is held at issue until every earlier store of the warp is
performed, and then stands as one tracked operation on seta. -/
def Obligations.GatherReduceWords : Prop :=
  ∀ (s : State) (c : Ctx) (i : Instr) (g : BitVec 4) (op : Nat) (d a : BitVec 7), gathers i = some (g, op, d, a) →
    Issues s c i →
    let as := c.addrs g fun r => Rd.pair r a.toNat
    (∀ t, checkLanes s c.grp .mem .gred 4 as = some t → Traps s c i t) ∧
    (checkLanes s c.grp .mem .gred 4 as = none → c.guarded g = 0 → Completes s c i (s.fallNow c.w.id c.g.fa none)) ∧
    (checkLanes s c.grp .mem .gred 4 as = none → c.guarded g ≠ 0 → s.storesDone c.w c.grp.coreId 3 = false → Stalls s i) ∧
    (checkLanes s c.grp .mem .gred 4 as = none → c.guarded g ≠ 0 → s.storesDone c.w c.grp.coreId 3 = true →
      CompletesAcc s c i (watchOf .mem 4 0 as) (s.track c c.g.fa none
        (.gred op (as.map fun x => ⟨x.1, .mem, x.2, 4, d.toNat, .load false⟩))))

/-! ## Control and warp-wide words -/

/-- R150, R152: each lane transfer and EXIT. A lane whose guard is true takes the target, a signed displacement in words
from the word itself or the value of a register, and a call first writes its link pair, X + 4 below X; the target of CALLR
is read before the link is written. When the clause has ended the lane stands there, a lane of EXIT has exited, and a lane
whose guard is false stands at the next clause. R153, R154: MEET writes the old meeting value to its destination and sets
the meeting register to the header it locates; MEETR sets it to a register's value. Nothing else of the lanes' registers
changes. R197, R198: a uniform transfer moves every active lane to its target when its guard is true, and to the next clause
otherwise; CALL then writes the link pair. BRX adds S[29], RET goes to S[30]. -/
def Obligations.TransferWords : Prop :=
  (∀ (s : State) (c : Ctx),
     let x := c.g.pc
     let go (t : Word) (ln : Lane) : Lane := { ln with npc := some t, xfer := some ⟨x, c.g.word, c.g.index⟩ }
     let link (d : BitVec 7) (ln : Lane) : Lane := (ln.put d.toNat (x + 4)).put (d.toNat + 1) x
     (∀ (g : BitVec 4) (m : BitVec 14), Issues s c (.brl g m) →
       Transfers s c (.brl g m) (s.setWarp (c.mapGuarded g fun _ ln => go (wordI (x.toInt + 4 * m.toInt)) ln))) ∧
     (∀ (g : BitVec 4) (d : BitVec 7) (m : BitVec 14), Issues s c (.calll g d m) →
       Transfers s c (.calll g d m)
         (s.setWarp (c.mapGuarded g fun _ ln => link d (go (wordI (x.toInt + 4 * m.toInt)) ln)))) ∧
     (∀ (g : BitVec 4) (a : BitVec 7), Issues s c (.brr g a) →
       Transfers s c (.brr g a) (s.setWarp (c.mapGuarded g fun r ln => go (r a.toNat) ln))) ∧
     (∀ (g : BitVec 4) (d a : BitVec 7), Issues s c (.callr g d a) →
       Transfers s c (.callr g d a) (s.setWarp (c.mapGuarded g fun r ln => link d (go (r a.toNat) ln)))) ∧
     ∀ (g : BitVec 4), Issues s c (.exit g) →
       Transfers s c (.exit g) (s.setWarp (c.mapGuarded g fun _ ln => { ln with exiting := true }))) ∧
  (∀ (s : State) (c : Ctx),
     (∀ (g : BitVec 4) (d : BitVec 7) (m : BitVec 14), Issues s c (.meet g d m) →
       Completes s c (.meet g d m) (s.setWarp (c.mapGuarded g fun _ ln =>
         { ln.put d.toNat ln.meet with meet := wordI (c.g.pc.toInt + 4 * m.toInt) }))) ∧
     ∀ (g : BitVec 4) (a : BitVec 7), Issues s c (.meetr g a) →
       Completes s c (.meetr g a) (s.setWarp (c.mapGuarded g fun r ln => { ln with meet := r a.toNat }))) ∧
  ∀ (s : State) (c : Ctx),
    let x := c.g.pc
    let go (t : Word) (link : Warp → Warp) : State :=
      s.setWarp (link (c.mapActive fun _ ln => { ln with npc := some t, xfer := some ⟨x, c.g.word, c.g.index⟩ }))
    let when (k : BitVec 3) (t : State) : State := if guardUni k c.w then t else s
    (∀ (k : BitVec 3) (m : BitVec 21), Issues s c (.bra k m) →
      Transfers s c (.bra k m) (when k (go (wordI (x.toInt + 4 * m.toInt)) fun w => w))) ∧
    (∀ (k : BitVec 3) (m : BitVec 21), Issues s c (.call k m) →
      Transfers s c (.call k m) (when k (go (wordI (x.toInt + 4 * m.toInt)) fun w =>
        ((w.putS 30 (x + 4)).putS 31 x)))) ∧
    (∀ (k : BitVec 3) (m : BitVec 21), Issues s c (.brx k m) →
      Transfers s c (.brx k m) (when k (go (wordI (x.toInt + 4 * m.toInt + (c.rv.getS 29).toNat)) fun w => w))) ∧
    ∀ (k : BitVec 3), Issues s c (.ret k) → Transfers s c (.ret k) (when k (go (c.rv.getS 30) fun w => w))

/-- R183–R186: a warp-wide word has no guard. A lane whose mask omits it, or whose mask differs from that of a lane at the
word with either naming the other, raises the member trap. When the active lanes hold one mask whose members that have not
exited are all active in the gang, and no other warp-wide word of the warp is parked, every member takes its result and the
gang goes on. While a member is missing the lanes park. Where the missing members stand parked in another gang at the word
with the same mask, the arrival completes the execution for both: every lane of either has its result, from the registers of
all members now, and none is parked at the word any more. -/
def Obligations.WarpWideWords : Prop :=
  (∀ (s : State) (c : Ctx) (i : Instr) (f : WideForm), wideWords i = some f → Issues s c i →
    encodeCore i = some c.g.word →
    let mask (l : Nat) : Dword := Rd.pair (c.rd l) (2 * f.mask.toNat)
    let bad := memberFails c.w c.g.pc ((maskLanes c.g.lanes).map fun l => (l, mask l))
    (∀ l a, bad.head? = some (l, a) →
      Traps s c i { cause := 7, lanes := maskOf (bad.map (·.1)), aux := a }) ∧
    ∀ (m : Dword), (∀ l, l < 64 → inMask c.g.lanes l → mask l = m ∧ inMask m l) →
      (∀ o ∈ c.w.ops, ∀ ls got, o.kind ≠ .warpWide ls got) →
      ((∀ l, l < 64 → inMask m l → inMask c.w.live l → inMask c.g.lanes l) → c.g.lanes &&& ~~~c.w.live = 0 →
        Completes s c i (s.track c c.g.fa none (.done ((maskLanes c.g.lanes).flatMap fun l =>
          resultWrites f.pair f.dest (f.value c.rd (fun j => (c.w.lane j).preds) (inMask (m &&& c.w.live)) l).toNat l)))) ∧
      ((∃ l, l < 64 ∧ inMask m l ∧ inMask c.w.live l ∧ ¬ inMask c.g.lanes l) →
        Completes s c i ((s.track c c.g.fa none (.warpWide c.g.lanes [])).updGang c.g.uid fun g => { g with wait := .lanes false }))) ∧
  ∀ (s : State) (c : Ctx) (i : Instr) (f : WideForm) (m ls : Dword) (n : Nat) (o : TOp) (got : List RegWrite),
    wideWords i = some f → Issues s c i → encodeCore i = some c.g.word → c.w.ops[n]? = some o → o.kind = .warpWide ls got →
    o.wordPc = c.g.pc → o.word = c.g.word →
    (∀ (k : Nat) (p : TOp), c.w.ops[k]? = some p → k ≠ n → ∀ ps gs, p.kind ≠ .warpWide ps gs) →
    (∀ l, l < 64 → inMask c.g.lanes l = true → Rd.pair (c.rd l) (2 * f.mask.toNat) = m ∧ inMask m l = true) →
    (∀ l, l < 64 → inMask ls l = true → (c.w.lane l).stat = .parked .warpWide ∧ (c.w.lane l).wmask = m ∧
      inMask m l = true ∧ inMask c.g.lanes l = false) →
    (∀ l, l < 64 → inMask m l = true → inMask c.w.live l = true → inMask c.g.lanes l = true ∨ inMask ls l = true) →
    c.g.lanes &&& ~~~c.w.live = 0 →
    let results (x : Dword) : List RegWrite := (maskLanes x).flatMap fun l =>
      resultWrites f.pair f.dest (f.value c.rd (fun j => (c.w.lane j).preds) (inMask (m &&& c.w.live)) l).toNat l
    ∃ t x, exec i s = .next t ∧ t.warp c.w.id = some x ∧
      (∃ p, x.ops[n]? = some p ∧ p.id = o.id ∧ p.kind = .done (got ++ results ls)) ∧
      (∃ p ∈ x.ops, p.id = s.nextId ∧ p.kind = .done (results c.g.lanes)) ∧
      ∀ l, l < 64 → inMask ls l = true → (x.lane l).stat ≠ .parked .warpWide

/-! ## Uniform words -/

/-- R190, R191, R189: a uniform arithmetic word writes its result, or pair, when its guard is true. R192, R42: a uniform
compare writes its condition and its complement when its guard is true. -/
def Obligations.UniformWords : Prop :=
  ((∀ (s : State) (c : Ctx) (i : Instr) (f : UniForm Word), uni32Form i = some f → Issues s c i →
     Completes s c i (s.putUni c f.guard f.dest (f.value c.rv))) ∧
   ∀ (s : State) (c : Ctx) (i : Instr) (f : UniForm Dword), uni64Form i = some f → Issues s c i →
     Completes s c i (s.putUniPair c f.guard f.dest (f.value c.rv))) ∧
  ∀ (s : State) (c : Ctx) (i : Instr) (f : UCmpForm), uniCompares i = some f → Issues s c i →
    Completes s c i (if guardUni f.guard c.w then
      s.setWarp { c.w with k := setK (setK c.w.k f.kd1.toNat (f.cond c.rv)) f.kd2.toNat (!f.cond c.rv) } else s)

/-- R193, R189: a uniform load stands as one tracked operation with one access for the gang; a uniform store enters the
store queue. Both check their address as R172 gives; the check fails for all active lanes together. -/
def Obligations.UniformAccesses : Prop :=
  (∀ (s : State) (c : Ctx) (sp : Space) (need : AccNeed) (n : Nat) (a : Dword),
    (checkUni s c sp need n a = none ↔ checkLanes s c.grp sp need n [(0, a)] = none) ∧
    ∀ t, checkLanes s c.grp sp need n [(0, a)] = some t → checkUni s c sp need n a = some { t with lanes := c.g.lanes } ∧
      t.addr = a) ∧
  (∀ (s : State) (c : Ctx) (i : Instr) (f : UMemForm), uniLoads i = some f → Issues s c i →
    let a := f.addr c.rv
    (guardUni f.guard c.w = false → Completes s c i (s.fallNow c.w.id c.g.fa none)) ∧
    (guardUni f.guard c.w = true → ∀ t, checkUni s c f.space .load f.bytes a = some t → Traps s c i t) ∧
    (guardUni f.guard c.w = true → checkUni s c f.space .load f.bytes a = none →
      CompletesAcc s c i [⟨uniLane, f.space, a, f.bytes, 0⟩]
        (s.trackLoud c c.g.fa none (.accesses [⟨uniLane, f.space, a, f.bytes, f.reg.toNat, .load false⟩])))) ∧
  ∀ (s : State) (c : Ctx) (i : Instr) (f : UMemForm), uniStores i = some f → Issues s c i →
    let a := f.addr c.rv
    (guardUni f.guard c.w = false → Completes s c i (s.fallNow c.w.id none c.g.fb)) ∧
    (guardUni f.guard c.w = true → ∀ t, checkUni s c f.space .store f.bytes a = some t → Traps s c i t) ∧
    (guardUni f.guard c.w = true → checkUni s c f.space .store f.bytes a = none → 16 ≤ c.w.sq.length → Stalls s i) ∧
    (guardUni f.guard c.w = true → checkUni s c f.space .store f.bytes a = none → c.w.sq.length < 16 →
      CompletesAcc s c i [⟨uniLane, f.space, a, f.bytes, 1⟩]
        (s.enqueue c [⟨uniLane, f.space, a, operandBytes c.rv.getS f.reg.toNat f.bytes⟩]))

/-- R194–R196, R209: USRD writes a special register's value when its guard is true, at once below 0x100 and as a tracked
operation from there on; reading clklo captures the whole count, whose high word clkhi returns. USWR writes prio, bounded by
the launch priority, a group word, TRAP_PC or a handler scratch register, when its guard is true. -/
def Obligations.SpecialRegisters : Prop :=
  (∀ (s : State) (c : Ctx) (k : BitVec 3) (d : BitVec 5) (n : BitVec 10), Issues s c (.usrd k d n) →
     let v := srValue s c n.toNat
     let clk := (s.die c.grp.die).clk
     (guardUni k c.w = false → Completes s c (.usrd k d n)
       (if n.toNat < 0x100 then s else s.fallNow c.w.id c.g.fa none)) ∧
     (guardUni k c.w = true → n.toNat < 0x100 → n ≠ 0x0C → Completes s c (.usrd k d n) (s.setWarp (c.w.putS d.toNat v))) ∧
     (guardUni k c.w = true → n = 0x0C → Completes s c (.usrd k d n)
       (s.setWarp { c.w.putS d.toNat v with clkCap := dword clk })) ∧
     (guardUni k c.w = true → 0x100 ≤ n.toNat → Completes s c (.usrd k d n)
       (s.track c c.g.fa none (.done [⟨uniLane, d.toNat, v⟩]))) ∧
     ∀ x ∈ [(0x00, word c.w.num), (0x01, word c.grp.desc.warps), (0x02, loWord c.grp.index), (0x03, hiWord c.grp.index),
         (0x04, loWord c.g.lanes), (0x05, hiWord c.g.lanes), (0x06, loWord c.w.live), (0x07, hiWord c.w.live),
         (0x08, word (c.grp.die * 512 + c.grp.core)), (0x09, word (c.grp.die * 128 + c.grp.core / 4)),
         (0x0A, word s.pkg.pkgid), (0x0B, word c.grp.allot), (0x0C, word clk), (0x0D, hiWord c.w.clkCap),
         (0x0E, word c.w.prio), (0x0F, word c.grp.desc.lbytes), (0x20, c.w.trap.cause), (0x21, c.w.trap.pc),
         (0x22, c.w.trap.word), (0x23, c.w.trap.d), (0x24, c.w.trap.a), (0x25, c.w.trap.b), (0x26, c.w.trap.imm),
         (0x27, loWord c.w.trap.lanes), (0x28, hiWord c.w.trap.lanes), (0x29, loWord c.w.trap.addr),
         (0x2A, hiWord c.w.trap.addr), (0x2B, loWord c.w.trap.aux), (0x2C, hiWord c.w.trap.aux)],
       n.toNat = x.1 → v = x.2) ∧
  ∀ (s : State) (c : Ctx) (k : BitVec 3) (a : BitVec 5) (n : BitVec 10), Issues s c (.uswr k a n) →
    let x := c.rv.getS a.toNat
    (guardUni k c.w = false → Completes s c (.uswr k a n) s) ∧
    (guardUni k c.w = true → n = 0x0E → Completes s c (.uswr k a n)
      (s.updWarp c.w.id fun w => { w with prio := min (x.toNat % 8) c.grp.prio })) ∧
    (guardUni k c.w = true → 0x10 ≤ n.toNat → n.toNat < 0x14 → Completes s c (.uswr k a n)
      (s.updGroup c.grp.id fun g => { g with gwords := tabSet 0 g.gwords (n.toNat - 0x10) x })) ∧
    (guardUni k c.w = true → n = 0x21 → Completes s c (.uswr k a n)
      (s.updWarp c.w.id fun w =>
        { w with trap := { w.trap with pc := x }, handler := w.handler.map fun h => { h with wrotePc := true } })) ∧
    (guardUni k c.w = true → 0x2D ≤ n.toNat → n.toNat < 0x31 → Completes s c (.uswr k a n)
      (s.updWarp c.w.id fun w => { w with trap := { w.trap with hscr := listSet w.trap.hscr (n.toNat - 0x2D) x } }))

/-! ## Clauses, barriers, allotment and fences -/

/-- R47, R14, R48: a clause header waits until the flags it names read clear and no count would pass 63; then the counts of
its flags rise by its tracked words and the words of the clause issue on those flags. A header whose framing is not sound
raises the illegal-encoding trap. -/
def Obligations.ClauseWord : Prop :=
  ∀ (s : State) (c : Ctx) (l : BitVec 4) (m : BitVec 12) (a b : BitVec 4), s.ctx = some c → c.debugDue = none →
    let ws := c.g.rest.tail
    let sound := framingOk c.g.word c.g.pc ws = true ∧ l.toNat = ws.length
    let clear := (∀ f, f < 12 → m.getLsbD f = true → c.w.flag f = 0) ∧
      ∀ f, f < 12 → c.w.flag f + (if f = a.toNat then countA ws else 0) + (if f = b.toNat then countB ws else 0) ≤ 63
    (¬ sound → Traps s c (.clause l m a b) { cause := 1, lanes := c.g.lanes, aux := 1 }) ∧
    (sound → ¬ clear → Stalls s (.clause l m a b)) ∧
    (sound → clear → Completes s c (.clause l m a b)
      ((s.updWarp c.w.id fun w => w.raiseFor a.toNat b.toNat ws).updGang c.g.uid fun g =>
        { g with seta := a.toNat, setb := b.toNat }))

/-- R200–R203, R219, R222: BAR acts when its guard is true: sync and arrive enter the gang's lanes into the barrier once the
warp's earlier accesses are performed (R103); wait parks the lanes until the generation moves on, and where it has moved on
already the gang goes on, as an acquire of a scope wider than core. BARRD reads a barrier's expected count, arrived count or
generation, 0 for one that is not granted, and a free value for a pod barrier that another package holds (log 39); BARWR
writes the field, and nothing for a barrier that is not granted. -/
def Obligations.BarrierWords : Prop :=
  ∀ (s : State) (c : Ctx),
    (∀ (k : BitVec 3) (m : BitVec 2) (p : BitVec 3) (j : BitVec 4), Issues s c (.bar k m p j) →
      let ready := s.releaseReady c.w c.grp.coreId p.toNat
      (guardUni k c.w = false → Completes s c (.bar k m p j) s) ∧
      (guardUni k c.w = true → m = 2 →
        let gen := (s.getBar c.grp p.toNat j.toNat).gen
        ((c.w.bar p.toNat j.toNat).last = some gen → Completes s c (.bar k m p j)
          ((s.setWarp (barWait c.w c.g.lanes gen p.toNat j.toNat)).waitLanes c (p != 0))) ∧
        ((c.w.bar p.toNat j.toNat).last ≠ some gen → Completes s c (.bar k m p j)
          (if p = 0 then s else s.acquireGang c.grp.coreId c.g.uid))) ∧
      (guardUni k c.w = true → m ≠ 2 → ready = false → Stalls s (.bar k m p j)) ∧
      (guardUni k c.w = true → m ≠ 2 → ready = true → Completes s c (.bar k m p j)
        ((((s.acked p.toNat).setWarp (barEnter c.w c.g.lanes (m == 0) p.toNat j.toNat)).barSettle 64 c.grp p.toNat
          j.toNat).waitLanes c (p != 0)))) ∧
    (∀ (k : BitVec 3) (d a : BitVec 5) (x : BitVec 2), Issues s c (.barrd k d a x) →
      let sel := (c.rv.getS a.toNat).toNat
      let granted := decide (sel % 8 ≤ 4 ∧ sel / 256 % 16 < c.grp.desc.barCount (sel % 8))
      let q := s.getBar c.grp (sel % 8) (sel / 256 % 16)
      let away := s.barAway c.grp (sel % 8)
      (granted = false → Completes s c (.barrd k d a x) (s.putUni c k d 0)) ∧
      (granted = true → away = false → Completes s c (.barrd k d a x)
        (s.putUni c k d (if x = 0 then q.exp else if x = 1 then q.arr else q.gen))) ∧
      (granted = true → away = true → ∃ v, Completes s c (.barrd k d a x) (s.putUni c k d v))) ∧
    ∀ (k : BitVec 3) (d a : BitVec 5) (x : BitVec 2), Issues s c (.barwr k d a x) →
      let sel := (c.rv.getS a.toNat).toNat
      let granted := decide (sel % 8 ≤ 4 ∧ sel / 256 % 16 < c.grp.desc.barCount (sel % 8))
      let ready := s.releaseReady c.w c.grp.coreId (sel % 8)
      ((guardUni k c.w = false ∨ granted = false) → Completes s c (.barwr k d a x) s) ∧
      (guardUni k c.w = true → granted = true → ready = false → Stalls s (.barwr k d a x)) ∧
      (guardUni k c.w = true → granted = true → ready = true → Completes s c (.barwr k d a x)
        ((s.acked (sel % 8)).barWrite c.grp (sel % 8) (sel / 256 % 16) x (c.rv.getS d.toNat)))

/-- R204, R205: ACQUIRE gives the group its full allotment once, the added registers reading 0, and does nothing again;
YIELD demotes the gang's path from the end of the clause. Both need a true guard. R102, R103, R105: a fence with a false
guard does nothing; with a true guard it has its effect at once where its condition holds, and otherwise the gang waits for
it. FENCE.NEAR waits for nothing. -/
def Obligations.SynchronisationWords : Prop :=
  (∀ (s : State) (c : Ctx) (k : BitVec 3),
     (Issues s c (.acquire k) → Completes s c (.acquire k) (if guardUni k c.w ∧ c.grp.acquired = false then
       let u := s.updGroup c.grp.id fun g => { g with acquired := true }
       { u with warps := s.warps.map fun (w : Warp) =>
         if w.group = c.grp.id then
           { w with lanes := w.lanes.map fun ln => { ln with v := ln.v.filter fun e => decide (e.1 < c.grp.desc.prolog) } }
         else w }
       else s)) ∧
     (Issues s c (.yield k) → Completes s c (.yield k)
       (if guardUni k c.w then s.updGang c.g.uid fun g => { g with yield := true } else s))) ∧
  ∀ (s : State) (c : Ctx) (k p : BitVec 3),
    (Issues s c (.fenceNear k p) → Completes s c (.fenceNear k p) s) ∧
    ∀ (x : Instr × Nat), x ∈ [(.fenceFar k p, 1), (.fenceAcq k p, 2), (.fenceRel k p, 3), (.fenceAr k p, 4),
        (.fenceSc k p, 5)] → Issues s c x.1 →
      let ready := s.fenceReady c.w c.g.lanes c.grp.coreId x.2 p.toNat
      (guardUni k c.w = false → Completes s c x.1 s) ∧
      (guardUni k c.w = true → ready = true → Completes s c x.1 (s.fenceApply c.grp.coreId x.2 p.toNat)) ∧
      (guardUni k c.w = true → ready = false →
        Completes s c x.1 (s.updGang c.g.uid fun g => { g with wait := .fence x.2 p.toNat s.nextId }))

/-! ## Traps and handlers -/

/-- R212, R50: TRAP with a true guard raises the software trap with S[a] in TRAP_AUX, and with a false one does nothing. A
core word that fails a check of R50 raises the illegal-encoding trap with the check's number in all active lanes. R208–R210,
R214: taking a trap. Outside a handler and with a handler entry in the group's descriptor the gang ends; its lanes stand
ready at the entry, every other lane as it was; the TRAP registers hold the cause with the word's index, its address and its
fields; the handler holds the lanes and what is left of the clause; memory and every lane's registers are kept. With no
handler entry, or inside a handler that holds the lanes, the trap ends the group: the host receives the trap registers, the
group is abandoned and its lanes outside a clause exit. In a group that has ended so a trap makes its lanes exit. -/
def Obligations.TrapWords : Prop :=
  (∀ (s : State) (c : Ctx),
     (∀ (k : BitVec 3) (a x : BitVec 5), Issues s c (.trap k a x) →
       (guardUni k c.w = true → Traps s c (.trap k a x)
         { cause := 10, lanes := c.g.lanes, aux := dword (c.rv.getS a.toNat).toNat }) ∧
       (guardUni k c.w = false → Completes s c (.trap k a x) s)) ∧
     ∀ (w : Word) (i : Instr) (n : Nat), encodeCore i = some w → (∀ l m a b, i ≠ .clause l m a b) → s.ctx = some c →
       c.debugDue = none → issueFault i c = some n → Traps s c i { cause := 1, lanes := c.g.lanes, aux := dword n }) ∧
  (∀ (s : State) (c : Ctx) (t : TrapSpec), s.ctx = some c → c.w.handler = none → c.w.dbgPark = none →
     c.grp.desc.handler ≠ 0xFFFFFFFF → c.grp.abandoned = false →
     let u := s.trapHere c false t
     let f := wordFields c.g.word
     u.gang c.g.uid = none ∧ Watched s u ∧ ∃ x, u.warp c.w.id = some x ∧
       x.trap = { cause := word (t.cause % 256 + 256 * (c.g.index % 16)), pc := c.g.pc, word := c.g.word, d := f.d, a := f.a,
                  b := f.b, imm := f.imm, lanes := t.lanes, addr := t.addr,
                  aux := if t.cause = 1 then t.aux ||| f.aux else t.aux, hscr := c.w.trap.hscr } ∧
       x.handler = some { debug := false, lanes := c.g.lanes, hdr := c.g.hdr, seta := c.g.seta, setb := c.g.setb,
                          rest := c.g.rest, yield := c.g.yield } ∧
       ∀ (l : Nat) (ln : Lane), c.w.lanes[l]? = some ln → x.lanes[l]? = some
         (if inMask c.g.lanes l then
            { ln with pc := c.grp.desc.handler, npc := none, xfer := none, stat := .ready, released := false }
          else ln)) ∧
  (∀ (s : State) (c : Ctx) (t : TrapSpec), s.ctx = some c → c.grp.abandoned = true →
     let u := s.trapHere c false t
     u.gang c.g.uid = none ∧ u.pkg = s.pkg ∧ Watched s u ∧ ∃ x, u.warp c.w.id = some x ∧ x.handler = c.w.handler ∧
       ∀ (l : Nat) (ln : Lane), c.w.lanes[l]? = some ln → x.lanes[l]? = some
         (if inMask c.g.lanes l then { ln with stat := .exited, exiting := false, npc := none, xfer := none } else ln)) ∧
  ∀ (s : State) (c : Ctx) (t : TrapSpec), s.ctx = some c → c.grp.abandoned = false →
    ((c.w.handler = none ∧ c.w.dbgPark = none ∧ c.grp.desc.handler = 0xFFFFFFFF) ∨
      ∃ h, c.w.handler = some h ∧ c.g.lanes &&& ~~~h.lanes = 0) →
    let u := s.trapHere c false t
    (∃ x, u.group c.w.group = some x ∧ x.abandoned = true) ∧
    (∃ e, u.pkg.events.getLast? = some e ∧ e.kind = "group-fault" ∧ e.vals.head? = some c.w.group) ∧
    ∃ x, u.warp c.w.id = some x ∧ x.handler = none ∧
      ∀ (l : Nat) (ln : Lane), x.lanes[l]? = some ln →
        (∀ g ∈ u.gangs, g.warp = c.w.id → inMask g.lanes l = false) → ln.stat = .exited

/-- R213: RTT returns the handler's lanes that have not exited. A trap taken at a header (index 0) resumes there; one taken
inside a clause continues it as a gang of those lanes, at the trapping word in retry mode and after it in skip mode. While
another gang of the handler's lanes is inside a clause, and not at an RTT, RTT waits (the model's choice, log 19). R219, R220:
LREAD, PREAD and
MREAD read a register, the predicates, the pc or the meeting register of the lane that S[a]<5:0> names, 0 for a register
beyond the allotment or of an exited lane, and 1 for predicate 0. LWRITE, PWRITE and MWRITE write them, but for an exited
lane, a register beyond the allotment and predicate 0; a tracked write of the register that is still outstanding is lost or
lands later, by free choice. A lane of the handler takes a written pc where it resumes, a lane outside every clause at
once. -/
def Obligations.HandlerWords : Prop :=
  (∀ (s : State) (c : Ctx) (k : BitVec 3) (m : BitVec 1) (h : Handler), Issues s c (.rtt k m) → c.w.handler = some h →
     let live := h.lanes &&& c.w.live
     let index := (c.w.trap.cause.extractLsb' 8 4).toNat
     let left := if m = 1 then h.rest.tail else h.rest
     (guardUni k c.w = false → Completes s c (.rtt k m) s) ∧
     (guardUni k c.w = true → s.handlerBusy c = true → Stalls s (.rtt k m)) ∧
     (guardUni k c.w = true → s.handlerBusy c = false → c.w.pendTraps = [] → h.resume = [] → h.wrotePc = false →
       c.w.lanes.length ≤ 64 → s.gang s.nextId = none →
       ∃ t x, exec (.rtt k m) s = .next t ∧ t.warp c.w.id = some x ∧ x.handler = none ∧ t.mem = s.mem ∧
         x.lanes.map Lane.regs = c.w.lanes.map Lane.regs ∧
         (index = 0 → ∀ (l : Nat) (ln : Lane), x.lanes[l]? = some ln → inMask live l → ln.pc = c.w.trap.pc) ∧
         (index ≠ 0 → left ≠ [] → live ≠ 0 →
           t.gang s.nextId = some { uid := s.nextId, warp := c.g.warp, lanes := live, hdr := h.hdr, index := index + m.toNat,
                                    rest := left, seta := h.seta, setb := h.setb, yield := h.yield }))) ∧
  (∀ (s : State) (c : Ctx),
     let lane (a : BitVec 5) : Nat := (c.rv.getS a.toNat).toNat % 64
     let gone (l : Nat) : Bool := (c.w.lane l).stat == .exited
     (∀ (k : BitVec 3) (d a b : BitVec 5), Issues s c (.lread k d a b) →
       let code := (c.rv.getS b.toNat).toNat % 128
       Completes s c (.lread k d a b) (s.putUni c k d
         (if gone (lane a) = false ∧ (96 ≤ code ∨ code < c.grp.allot) then readCode c.rv (lane a) code else 0))) ∧
     (∀ (k : BitVec 3) (d a : BitVec 5), Issues s c (.pread k d a) →
       Completes s c (.pread k d a) (s.putUni c k d
         (if gone (lane a) then 0 else word ((c.w.lane (lane a)).preds.toNat / 2 * 2 + 1)))) ∧
     ∀ (k : BitVec 3) (d a : BitVec 5), (∀ x : BitVec 1, Issues s c (.mread k d a x)) →
       Completes s c (.mread k d a 0) (s.putUni c k d (if gone (lane a) then 0 else lanePc c.w (lane a))) ∧
       Completes s c (.mread k d a 1) (s.putUni c k d (if gone (lane a) then 0 else (c.w.lane (lane a)).meet))) ∧
  ∀ (s : State) (c : Ctx),
    let lane (a : BitVec 5) : Nat := (c.rv.getS a.toNat).toNat % 64
    let here (a : BitVec 5) (f : Lane → Lane) : State :=
      s.setWarp { c.w with lanes := listModify (fun ln => if ln.stat = .exited then ln else f ln) c.w.lanes (lane a) }
    (∀ (k : BitVec 3) (d a b : BitVec 5), Issues s c (.lwrite k d a b) →
      let code := (c.rv.getS b.toNat).toNat % 128
      let x := c.rv.getS d.toNat
      let reach := (c.w.lane (lane a)).stat ≠ .exited ∧ (96 ≤ code ∨ code < c.grp.allot)
      (¬ (guardUni k c.w = true ∧ reach) → Completes s c (.lwrite k d a b) s) ∧
      (guardUni k c.w = true → reach → code < 96 → Completes s c (.lwrite k d a b)
        (s.setWarp { s.overwrite c.w (lane a) code with lanes := listModify (fun ln => ln.put code x) c.w.lanes (lane a) })) ∧
      (guardUni k c.w = true → reach → 96 ≤ code → Completes s c (.lwrite k d a b)
        (s.setWarp ((s.overwrite c.w uniLane (code - 96)).putS (code - 96) x)))) ∧
    (∀ (k : BitVec 3) (d a : BitVec 5), Issues s c (.pwrite k d a) →
      let x := c.rv.getS d.toNat
      Completes s c (.pwrite k d a) (if guardUni k c.w then
        here a fun ln => { ln with preds := (x.setWidth 8 &&& 0xFE) ||| (ln.preds &&& 1) } else s)) ∧
    ∀ (k : BitVec 3) (d a : BitVec 5), (∀ x : BitVec 1, Issues s c (.mwrite k d a x)) →
      let x := c.rv.getS d.toNat
      (guardUni k c.w = false → ∀ b : BitVec 1, Completes s c (.mwrite k d a b) s) ∧
      (guardUni k c.w = true → Completes s c (.mwrite k d a 1) (here a fun ln => { ln with meet := x })) ∧
      (guardUni k c.w = true → ∀ h, c.w.handler = some h → inMask h.lanes (lane a) = true →
        Completes s c (.mwrite k d a 0)
          (s.setWarp { c.w with handler := some { h with resume := tabPut h.resume (lane a) x } })) ∧
      (guardUni k c.w = true → (∀ h, c.w.handler = some h → inMask h.lanes (lane a) = false) →
        s.inGang c.w.id (lane a) = false → ∀ ln, c.w.lanes[lane a]? = some ln → ln.stat ≠ .exited →
        ∃ t v lm, exec (.mwrite k d a 0) s = .next t ∧ t.warp c.w.id = some v ∧ v.lanes[lane a]? = some lm ∧ lm.pc = x ∧
          lm.regs = ln.regs)

/-! ## Engine words -/

/-- R280, R314, R315: SWAIT reads its synchronisation word's generation: another one than S[b] is written at once and
acquires; otherwise the word counts a waiter and the gang parks in engine wait. MWAIT goes on at once, as an acquire, when
none of the slots it names is busy and no earlier matrix command of the warp that marks one of them is still to be posted
(the model's reading, log 22), and otherwise parks. An acquire holds the gang until no store of its core is on its way (the
model's reading, log 7). MQUERY reads a tile's overflow flag, the busy slots, the first error, which it clears, or the number of entries, as a
tracked operation. -/
def Obligations.EngineWaits : Prop :=
  (∀ (s : State) (c : Ctx) (k : BitVec 3) (d a b : BitVec 5), Issues s c (.swait k d a b) →
     let off := (c.rv.getS a.toNat).toNat
     let at' := c.grp.lbase + off
     let now := word ((s.quad c.grp.quad).word (at' + 8))
     let fails := checkUni s c .lantern .load 16 (dword off)
     (guardUni k c.w = false → Completes s c (.swait k d a b) s) ∧
     (guardUni k c.w = true → ∀ t, fails = some t → Traps s c (.swait k d a b) t) ∧
     (guardUni k c.w = true → fails = none → now ≠ c.rv.getS b.toNat →
       Completes s c (.swait k d a b) ((s.writeS c d now).acquireGang c.grp.coreId c.g.uid)) ∧
     (guardUni k c.w = true → fails = none → now = c.rv.getS b.toNat →
       Completes s c (.swait k d a b) ((s.addWaiter c.grp.quad at' 1).engineWait c (.swait d.toNat off now)))) ∧
  ∀ (s : State) (c : Ctx),
    (∀ (k : BitVec 3) (a : BitVec 5), Issues s c (.mwait k a) →
      let mask := (c.rv.getS a.toNat).setWidth 8
      let clear := s.mwaitDone c.grp c.w.id mask s.nextId
      (guardUni k c.w = false → Completes s c (.mwait k a) s) ∧
      (guardUni k c.w = true → clear = true → Completes s c (.mwait k a) (s.acquireGang c.grp.coreId c.g.uid)) ∧
      (guardUni k c.w = true → clear = false → Completes s c (.mwait k a) (s.engineWait c (.mwait mask s.nextId)))) ∧
    ∀ (k : BitVec 3) (d a : BitVec 5) (x : BitVec 2), Issues s c (.mquery k d a x) →
      let tile := (c.rv.getS a.toNat).toNat % 8
      let err := c.grp.merr
      let n := ((s.quad c.grp.quad).entries.filter fun e => e.group == c.grp.id).length
      (guardUni k c.w = false → Completes s c (.mquery k d a x) (s.fallNow c.w.id c.g.fa none)) ∧
      (guardUni k c.w = true → x = 0 → tile < c.grp.desc.tiles → Completes s c (.mquery k d a x)
        (s.trackS c d (if (s.quad c.grp.quad).ovf.contains (c.grp.quadTile tile) then 1 else 0))) ∧
      (guardUni k c.w = true → x = 0 → c.grp.desc.tiles ≤ tile → ∃ v, Completes s c (.mquery k d a x) (s.trackS c d v)) ∧
      (guardUni k c.w = true → x = 1 → Completes s c (.mquery k d a x)
        (s.trackS c d (word (s.busySlots c.grp).toNat))) ∧
      (guardUni k c.w = true → x = 2 → Completes s c (.mquery k d a x)
        ((s.updGroup c.grp.id fun g => { g with merr := (0, 0, 0) }).trackS c d
          (word (err.1 * 2 ^ 24 + err.2.1 * 2 ^ 16 + err.2.2)))) ∧
      (guardUni k c.w = true → x = 3 → Completes s c (.mquery k d a x) (s.trackS c d (word n)))

/-- R357–R359: OWAIT writes an orbit's status word as an acquire when it does not run, 0x19 where no orbit of the context
has the handle, and parks while it runs. OSTAT reads a value of the orbit as a tracked operation. OTAKE parks as a waiter;
in its poll form it takes the first of the ready calls that matches it where no earlier waiter matches a ready call, and
writes 0 where no ready call matches it. -/
def Obligations.OrreryWords : Prop :=
  ∀ (s : State) (c : Ctx),
    let handle (a : BitVec 5) : Nat := (c.rv.getS a.toNat).toNat % 256
    (∀ (k : BitVec 3) (d a : BitVec 5), Issues s c (.owait k d a) →
      (guardUni k c.w = false → Completes s c (.owait k d a) s) ∧
      (guardUni k c.w = true → s.named c.grp.ctx (handle a) = none →
        Completes s c (.owait k d a) (s.writeS c d 0x19000000)) ∧
      (guardUni k c.w = true → ∀ o, s.named c.grp.ctx (handle a) = some o →
        (o.status = 0x17 → Completes s c (.owait k d a) (s.engineWait c (.owait d.toNat (handle a)))) ∧
        (o.status ≠ 0x17 → Completes s c (.owait k d a) ((s.writeS c d o.word).acquireGang c.grp.coreId c.g.uid)))) ∧
    (∀ (k : BitVec 3) (d a : BitVec 5) (x : BitVec 4), Issues s c (.ostat k d a x) →
      (guardUni k c.w = false → Completes s c (.ostat k d a x) (s.fallNow c.w.id c.g.fa none)) ∧
      (guardUni k c.w = true → s.named c.grp.ctx (handle a) = none →
        Completes s c (.ostat k d a x) (s.trackS c d 0x19000000)) ∧
      (guardUni k c.w = true → ∀ o, s.named c.grp.ctx (handle a) = some o →
        ∃ v, Completes s c (.ostat k d a x) (s.trackS c d v) ∧
          ∀ e ∈ [(0, o.word), (1, word (o.mstate + o.evhit * 256)), (2, word o.t), (3, word (o.t / 2 ^ 32)), (4, word o.h),
            (5, word (o.h / 2 ^ 32)), (6, word o.te), (7, word (o.te / 2 ^ 32)), (8, word o.naccept), (9, word o.nreject),
            (10, word o.nrhs), (11, word o.nsolve), (12, word o.nevent), (13, word o.nnfail), (14, o.lastFail),
            (15, word (o.calls.filter fun c => c.token.isSome).length)], x.toNat = e.1 → v = e.2)) ∧
    ∀ (k : BitVec 3) (d a : BitVec 5) (m : BitVec 1), Issues s c (.otake k d a m) → c.g.wait = .none →
      let w : OWaiter := { id := s.nextId, gang := c.g.uid, warp := c.w.id, group := c.grp.id, ctx := c.grp.ctx
                           die := c.grp.die, tag := (c.rv.getS a.toNat).toNat % 65536, d := d.toNat }
      let u : State := { s with nextId := s.nextId + 1 }
      (guardUni k c.w = false → Completes s c (.otake k d a m) s) ∧
      (guardUni k c.w = true → m = 0 → Completes s c (.otake k d a m)
        ((u.updDie c.grp.die fun v => { v with owaiters := v.owaiters ++ [w] }).engineWait c (.otake d.toNat w.tag))) ∧
      (guardUni k c.w = true → m = 1 →
        (∀ die, die < 4 → (s.readyCalls die).all (fun x => !w.fits die x.1) = true) →
        Completes s c (.otake k d a m) (u.writeS c d 0)) ∧
      (guardUni k c.w = true → m = 1 → ∀ (die : Nat) (o : Orbit) (q : OCall) (before after : List (Nat × Orbit × OCall)),
        s.callsInOrder = before ++ (die, o, q) :: after → w.fits die o = true → (∀ y ∈ before, w.fits y.1 y.2.1 = false) →
        (∀ v ∈ s.waiters, ∀ y ∈ s.callsInOrder, v.fits y.1 y.2.1 = false) →
        Completes s c (.otake k d a m) ((u.updWarp c.w.id Warp.unquiet).hand die o q w))

/-- R393–R395: QPOP takes the queue's first record into its slot and registers, as an acquire; with the queue empty it parks,
or, in its try form, writes 0x1E. VWAITQ writes the released vigil's word as an acquire, or parks, after giving its lumens
back where it is asked to; a vigil of another package it waits for in any case (the model's choice, log 36, as is the stall until
the release is met), but in a slot that holds it the checks of the slot come first. Both write 0x19 for a handle that names no queue or vigil
of the context, 0x1B where the slot does not allow the word, and 0x18 where a die's 4,096 waiters are taken (R377). VSTAT
reads a value as a tracked operation; a value of another package's object stays on its way (log 36). Each completes in every state in
which it issues, but for a VWAITQ that waits, as a release, for the warp's earlier accesses. -/
def Obligations.VesperWords : Prop :=
  ∀ (s : State) (c : Ctx),
    let handle (a : BitVec 5) : Nat := (c.rv.getS a.toNat).toNat % 2 ^ 24
    (∀ (k : BitVec 3) (d a : BitVec 5) (m : BitVec 1) (l : BitVec 2), Issues s c (.qpop k d a m l) → c.g.wait = .none →
      let i := Instr.qpop k d a m l
      let h := handle a
      let w : VWaiter := { gang := c.g.uid, warp := c.w.id, group := c.grp.id, d := d.toNat, slot := l.toNat }
      let free := (c.grp.lslot l.toNat).free
      (guardUni k c.w = false → Completes s c i s) ∧
      (guardUni k c.w = true → s.vvalid c.grp.ctx h [1] = none → Completes s c i (s.writeS c d 0x19000000)) ∧
      (guardUni k c.w = true → ∀ o, s.vvalid c.grp.ctx h [1] = some o →
        (free = false → Completes s c i (s.writeS c d 0x1B000000)) ∧
        (free = true → ∀ r rs, o.recs = r :: rs → Completes s c i
          ((((s.updV h fun o => { o with recs := rs }).updWarp c.w.id fun x => x.popped d r).setSlot c.grp.id l.toNat
            { vigil := r.vigil, balance := r.lumens }).acquireGang c.grp.coreId c.g.uid)) ∧
        (free = true → o.recs = [] → m = 1 → Completes s c i (s.writeS c d 0x1E000000)) ∧
        (free = true → o.recs = [] → m = 0 → 4096 ≤ s.vwaiters (hDie h) → Completes s c i (s.writeS c d 0x18000000)) ∧
        (free = true → o.recs = [] → m = 0 → s.vwaiters (hDie h) < 4096 → Completes s c i
          (((s.updV h fun o => { o with waiters := o.waiters ++ [w] }).setSlot c.grp.id l.toNat
            { reserved := true }).engineWait c (.qpop d.toNat l.toNat h))))) ∧
    (∀ (k : BitVec 3) (d a : BitVec 5) (g : BitVec 1) (l : BitVec 2), Issues s c (.vwaitq k d a g l) →
      let i := Instr.vwaitq k d a g l
      let h := handle a
      let sl := c.grp.lslot l.toNat
      let mine := sl.balance ≠ 0 ∧ sl.vigil = h
      let w : VWaiter := { gang := c.g.uid, warp := c.w.id, group := c.grp.id, d := d.toNat, slot := 4 }
      let watch (u : State) : State := u.updV h fun o => { o with watched := true, recalled := o.recalled || !o.watched }
      let park (u : State) : State :=
        ((watch u).updV h fun o => { o with waiters := o.waiters ++ [w] }).engineWait c (.vwaitq d.toNat h)
      (guardUni k c.w = false → Completes s c i s) ∧
      (guardUni k c.w = true → hPkg h ≠ s.pkg.pkgid → h ≠ 0 →
        let released := s.releaseReadyAt c.w c.grp.coreId 4 s.nextId
        (¬ mine → Completes s c i (s.engineWait c (.vwaitq d.toNat h))) ∧
        (g = 0 → mine → Completes s c i (s.writeS c d 0x1B000000)) ∧
        (g = 1 → mine → released = false → Stalls s i) ∧
        (g = 1 → mine → released = true → Completes s c i
          ((((s.acked 4).setSlot c.grp.id l.toNat {}).vreturn c.grp.die h sl.balance false).engineWait c
            (.vwaitq d.toNat h)))) ∧
      (guardUni k c.w = true → (hPkg h = s.pkg.pkgid ∨ h = 0) → s.vvalid c.grp.ctx h [0] = none →
        Completes s c i (s.writeS c d 0x19000000)) ∧
      (guardUni k c.w = true → (hPkg h = s.pkg.pkgid ∨ h = 0) → ∀ o, s.vvalid c.grp.ctx h [0] = some o →
        let released := s.releaseReadyAt c.w c.grp.coreId o.scope s.nextId
        let given : State := ((s.acked o.scope).setSlot c.grp.id l.toNat {}).vreturn c.grp.die h sl.balance false
        let goes (u : State) : Prop :=
          (o.quiet = true → Completes s c i (((watch u).writeS c d o.quietWord).acquireGang c.grp.coreId c.g.uid)) ∧
          (o.quiet = false → 4096 ≤ s.vwaiters (hDie h) → Completes s c i (s.writeS c d 0x18000000)) ∧
          (o.quiet = false → s.vwaiters (hDie h) < 4096 → Completes s c i (park u))
        (g = 0 → mine → Completes s c i (s.writeS c d 0x1B000000)) ∧
        (g = 1 → mine → released = false → Stalls s i) ∧
        (g = 1 → mine → released = true → goes given) ∧
        (¬ mine → goes s))) ∧
    ∀ (k : BitVec 3) (d a x : BitVec 5), Issues s c (.vstat k d a x) →
      (guardUni k c.w = false → Completes s c (.vstat k d a x) (s.fallNow c.w.id c.g.fa none)) ∧
      (guardUni k c.w = true → (8 ≤ x.toNat ∨ handle a = 0 ∨ hPkg (handle a) = s.pkg.pkgid) →
        Completes s c (.vstat k d a x) (s.trackS c d (vstatValue s c a x.toNat))) ∧
      (guardUni k c.w = true → x.toNat < 8 → handle a ≠ 0 → hPkg (handle a) ≠ s.pkg.pkgid →
        Completes s c (.vstat k d a x) (s.track c c.g.fa none (.status d.toNat)))

/-- R294, R303: CSET writes a convergence register's expected warps among the group's, after which R295 applies. MMA signs
for the gang's lanes: an expected warp starts the collection, joins it at the same pc within its time, or waits unsigned
beside another or one whose time is over (R296); a warp not expected signs nothing and its count falls at once. -/
def Obligations.ConvergenceWords : Prop :=
  ∀ (s : State) (c : Ctx),
    (∀ (k : BitVec 3) (cv : BitVec 4) (a : BitVec 5), Issues s c (.cset k cv a) → cv.toNat < c.grp.desc.cvcount →
      let x := word ((c.rv.getS a.toNat).toNat % 2 ^ c.grp.desc.warps)
      (guardUni k c.w = false → Completes s c (.cset k cv a) (s.fallNow c.w.id none c.g.fb)) ∧
      (guardUni k c.w = true → Completes s c (.cset k cv a)
        ((((s.fallNow c.w.id none c.g.fb).updWarp c.w.id Warp.unquiet).updConv c.grp.id cv.toNat fun q =>
          { q with expect := x.setWidth 16 }).postCollection c.grp.id cv.toNat))) ∧
    ∀ (k : BitVec 3) (cv : BitVec 4) (sl : BitVec 3) (w : BitVec 8) (ob : BitVec 5) (z : BitVec 1),
      Issues s c (.mma k cv sl w ob z) → cv.toNat < c.grp.desc.cvcount → 1 ≤ c.grp.desc.tiles →
      let i := Instr.mma k cv sl w ob z
      let q := c.grp.convAt cv.toNat
      let expected := c.w.num < 16 ∧ q.expect.getLsbD c.w.num = true
      let late := s.convLate c.grp q
      let u := s.track c none c.g.fb .accept
      (guardUni k c.w = false → Completes s c i (s.fallNow c.w.id none c.g.fb)) ∧
      (guardUni k c.w = true → ¬ expected → (∀ o ∈ c.w.ops, o.id ≠ s.nextId) →
        Completes s c i (({ s with nextId := s.nextId + 1 } : State).fallNow c.w.id none c.g.fb)) ∧
      (guardUni k c.w = true → expected → q.collecting = false → Completes s c i
        ((u.updConv c.grp.id cv.toNat fun q =>
          { q with collecting := true, pc := c.g.pc, ob := c.rv.getS ob.toNat, ebits := c.g.word.setWidth 21
                   since := (s.die c.grp.die).clk }).engineWait c (.signed cv.toNat c.g.word s.nextId))) ∧
      (guardUni k c.w = true → expected → q.collecting = true → q.pc = c.g.pc → late = false → Completes s c i
        (u.engineWait c (.signed cv.toNat c.g.word s.nextId))) ∧
      (guardUni k c.w = true → expected → q.collecting = true → (q.pc ≠ c.g.pc ∨ late = true) → Completes s c i
        (u.engineWait c (.unsigned cv.toNat c.g.word s.nextId)))

/-- R11, R32: an engine command enters the core's command buffer with its operands as read, counted for acceptance and for
its status; the word stalls while the buffer holds eight commands, and with a false guard the counts fall at once. -/
def Obligations.EngineCommands : Prop :=
  ∀ (s : State) (c : Ctx) (i : Instr) (f : CmdForm), commands i = some f → Issues s c i →
    let cmds := (s.core c.grp.coreId).cmds
    (guardUni f.guard c.w = false →
      Completes s c i (s.fallNow c.w.id (if f.status.isSome then c.g.fa else none) c.g.fb)) ∧
    (guardUni f.guard c.w = true → 8 ≤ cmds.length → Stalls s i) ∧
    (guardUni f.guard c.w = true → cmds.length < 8 → Completes s c i (s.issueCmd c f))

/-! ## Near-bank words -/

/-- R409–R412: the near-bank words that touch only their pass, column by column; i is the count of the innermost open loop.
A slice beyond 95 stops the pass at its word. CMP's mode 3 is unassigned and never installed. -/
def Obligations.NearPassWords : Prop :=
  ∀ (s : State) (r : NKernel) (p : Pass), s.pass = some (r, p) →
    let runs (i : Instr) (q : Pass) : Prop := exec i s = .next (s.setPass q)
    let next : Pass := { p with pc := p.pc + 1 }
    let stop : Pass := { p with ended := true, bad := true }
    let tag (t : BitVec 1) : BitVec 2048 := if t = 0 then p.t0 else p.t1
    let put (t : BitVec 1) (x : BitVec 2048) : Pass := if t = 0 then { next with t0 := x } else { next with t1 := x }
    let slice (j : Nat) : BitVec 2048 := tabGet 0 p.z j
    let count : Nat := match p.loops with | l :: _ => l.1 | [] => 0
    let named (f : BitVec 9) (j : Nat) : Bool :=
      decide (f.toNat % 128 ≠ 127) && f.toNat % 128 + (if f.getLsbD 8 then count else 0) == j
    (∀ a b c : BitVec 9, (∃ f ∈ [a, b, c], ∃ j, 96 ≤ j ∧ named f j = true) →
      runs (.nbKey a b c) stop ∧ runs (.nbMask a b c) stop) ∧
    (∀ a b c : BitVec 9, (∀ f ∈ [a, b, c], ∀ j, 96 ≤ j → named f j = false) →
      (∃ k, runs (.nbKey a b c) { next with key := k } ∧ ∀ j, j < 96 → k.getLsbD j =
        match [c, b, a].find? (named · j) with | some f => f.getLsbD 7 | none => p.key.getLsbD j) ∧
      ∃ m, runs (.nbMask a b c) { next with mask := m } ∧ ∀ j, j < 96 → m.getLsbD j = [a, b, c].any (named · j)) ∧
    (∀ (m : BitVec 2) (t : BitVec 1), m ≠ 3 → ∃ x, runs (.nbCmp m t) (put t x) ∧ ∀ c, c < 2048 →
      let hit := (List.range 96).all fun j => !p.mask.getLsbD j || (slice j).getLsbD c == p.key.getLsbD j
      x.getLsbD c = if m = 0 then hit else if m = 1 then (tag t).getLsbD c && hit else (tag t).getLsbD c || hit) ∧
    (∀ t : BitVec 1, ∃ q : Pass, runs (.nbWr t) q ∧ { q with z := p.z } = next ∧ ∀ j c, c < 2048 →
      (tabGet 0 q.z j).getLsbD c =
        if p.mask.getLsbD j && (tag t).getLsbD c then p.key.getLsbD j else (slice j).getLsbD c) ∧
    (∀ d a b : BitVec 1,
      (∃ x, runs (.nbTagand d a b) (put d x) ∧ ∀ c, c < 2048 → x.getLsbD c = ((tag a).getLsbD c && (tag b).getLsbD c)) ∧
      (∃ x, runs (.nbTagor d a b) (put d x) ∧ ∀ c, c < 2048 → x.getLsbD c = ((tag a).getLsbD c || (tag b).getLsbD c)) ∧
      (∃ x, runs (.nbTagnot d a) (put d x) ∧ ∀ c, c < 2048 → x.getLsbD c = !(tag a).getLsbD c) ∧
      ∀ n : BitVec 9, ∃ x, runs (.nbTagsh d a n) (put d x) ∧ ∀ c : Nat, c < 2048 → x.getLsbD c =
        (decide (0 ≤ c - n.toInt ∧ c - n.toInt ≤ 2047) && (tag a).getLsbD (c - n.toInt).toNat)) ∧
    (∀ n : BitVec 9, runs (.nbLoop n) { next with loops := (0, n.toNat, p.pc + 1) :: p.loops }) ∧
    (p.loops = [] → runs .nbEnd { p with ended := true }) ∧
    ∀ c n back t, p.loops = (c, n, back) :: t →
      (c + 1 < n → runs .nbEnd { p with pc := back, loops := (c + 1, n, back) :: t }) ∧
      (¬ c + 1 < n → runs .nbEnd { next with loops := t })

/-- R411, R412, R415, R423: SLD turns a chunk, or a scalar, into 32 slices and gathers the columns of poisoned lines; each
byte is the one at its home or, in a kernel without an acquire, may be the one that its bank still holds. SST writes the
valid columns from 32 slices, and nothing once the pass has met poison under the stop policy. A base beyond 64 stops the
pass. What stands in memory is stated where no page of the package is migrating, and for SST no error undetected. -/
def Obligations.NearMemoryWords : Prop :=
  ∀ (s : State) (r : NKernel) (p : Pass), s.pass = some (r, p) →
    let next : Pass := { p with pc := p.pc + 1 }
    let count : Nat := match p.loops with | l :: _ => l.1 | [] => 0
    let base (rel : BitVec 1) (z : BitVec 7) : Nat := z.toNat + if rel = 1 then count else 0
    let chunk (b : Nat) : Nat := s.kchunk r b p.chunk
    (∀ (rel : BitVec 1) (z : BitVec 7), 64 < base rel z →
      (∀ c, exec (.nbSld rel z c) s = .next (s.setPass { p with ended := true, bad := true })) ∧
      ∀ b, exec (.nbSst rel z b) s = .next (s.setPass { p with ended := true, bad := true })) ∧
    (∀ (rel : BitVec 1) (z : BitVec 7) (src : BitVec 3), base rel z ≤ 64 →
      let older (n : Nat) (b : Nat) : Prop := ∃ x ∈ tabGet [] s.bank (n / 64), b = ((x[n % 64]?).getD 0).toNat
      let acquires := naflags r.block % 2 = 1
      ∃ (u : State) (q : Pass) (element : Nat → Nat),
        exec (.nbSld rel z src) s = .next (u.setPass q) ∧ { q with z := p.z, q := p.q } = next ∧
        ((3 < src.toNat ∨ s.latent = []) → u = s) ∧
        (3 < src.toNat → q.q = p.q ∧ ∀ c, element c = recField r.block (0x30 + 8 * (src.toNat - 4)) 4) ∧
        (src.toNat ≤ 3 → s.migrations = [] → ∀ c, c < 2048 →
          let at' := chunk src.toNat + 4 * c
          q.q.getLsbD c = (p.q.getLsbD c || s.lineBad (at' / 64)) ∧ element c < 2 ^ 32 ∧
          ∀ i, i < 4 → let b := element c / 256 ^ i % 256
            b = (s.mem.read (at' + i)).toNat ∨ (¬ acquires ∧ older (at' + i) b)) ∧
        ∀ j c, c < 2048 → (tabGet 0 q.z j).getLsbD c =
          if base rel z ≤ j ∧ j < base rel z + 32 then (element c).testBit (j - base rel z)
          else (tabGet 0 p.z j).getLsbD c) ∧
    ∀ (rel : BitVec 1) (z : BitVec 7) (b : BitVec 2), base rel z ≤ 64 →
      let halted := naflags r.block / 32 % 2 = 1 ∧ p.q ≠ 0
      (halted → exec (.nbSst rel z b) s = .next (s.setPass next)) ∧
      (¬ halted → ∃ u : State, exec (.nbSst rel z b) s = .next (u.setPass next) ∧
        (s.migrations = [] → s.latent = [] →
          (∀ c, c < 2048 → p.valid.getLsbD c = true → ∀ j, j < 32 →
            (leNat (u.mem.readBytes (chunk b.toNat + 4 * c) 4)).testBit j = (tabGet 0 p.z (base rel z + j)).getLsbD c) ∧
          ∀ x, (∀ c, c < 2048 → p.valid.getLsbD c = true → x < chunk b.toNat + 4 * c ∨ chunk b.toNat + 4 * c + 4 ≤ x) →
            u.mem.read x = s.mem.read x))

/-- R413: the 17 words of the full adder for bit i, the count of the innermost loop: then z(32 + i) holds the sum bit of
every column, z95 the carry out, and every other slice what it held. -/
def Obligations.FullAdder : Prop :=
  ∀ (s : State) (r : NKernel) (p : Pass) (i n back : Nat) (t : List (Nat × Nat × Nat)), s.pass = some (r, p) →
    p.loops = (i, n, back) :: t → i < 32 →
    let a (rel key : BitVec 1) (z : BitVec 7) : BitVec 9 := rel ++ key ++ z
    let pattern (x y c : BitVec 1) : Instr := .nbKey (a 1 x 0) (a 1 y 32) (a 0 c 95)
    let visit (x y c v d : BitVec 1) : List Instr := [pattern x y c, .nbCmp 0 0, pattern x v d, .nbWr 0]
    let words := Instr.nbMask (a 1 0 0) (a 1 0 32) (a 0 0 95) :: (visit 0 0 1 1 0 ++ visit 1 1 0 0 1 ++ visit 0 1 1 0 1 ++
      visit 1 0 0 1 0)
    let run (u : State) (w : Instr) : Option State := match exec w u with | .next v => some v | _ => none
    let bit (q : Pass) (j c : Nat) : Bool := (tabGet 0 q.z j).getLsbD c
    ∃ u x q, words.foldlM run s = some u ∧ u.pass = some (x, q) ∧ q.pc = p.pc + 17 ∧ q.loops = p.loops ∧ u.mem = s.mem ∧
      ∀ c, c < 2048 →
        (bit q (32 + i) c).toNat + 2 * (bit q 95 c).toNat =
          (bit p i c).toNat + (bit p (32 + i) c).toNat + (bit p 95 c).toNat ∧
        ∀ j, j ≠ 32 + i → j ≠ 95 → bit q j c = bit p j c

/-! ## Events of cores and warps -/

/-- R115–R117, R138, R140, R141: a fetch at a pc that a path presents, with no clause fetched for it. The gang's lanes stand
ready there at a clause boundary, and no lane of their slices that is ready and not spin-demoted stands lower. The clause is
held whole as a candidate, from now on when its wait mask reads clear, after its page has entered the translation caches; an
absent page parks the lanes; a target without right X raises trap 8, one that is no clause or is badly framed trap 1. R121:
lanes whose page was absent when they came to their meeting there arrive at it now. R134: demotions that a write has hit or
that have stood 4,096 clk are over. -/
def Obligations.ClauseFetch : Prop :=
  ∀ (s : State) (wid : Nat) (pc : Word) (x : Warp) (grp : Group), s.warp wid = some x → s.group x.group = some grp →
    let clk := (s.die grp.die).clk
    let w := x.lapsed clk
    let u : State := s.setWarp w
    let lanes := u.gangAt w pc
    let late := w.lateLanes lanes
    (∀ d, d ∈ w.demoted ↔ d ∈ x.demoted ∧ d.hit = false ∧ clk < d.since + 4096) ∧
    { w with demoted := x.demoted, mons := x.mons } = x ∧
    (∀ l, inMask lanes l = true → l < 64 ∧ (w.lane l).pc = pc ∧ (w.lane l).stat = .ready ∧ u.inGang w.id l = false ∧
      ∀ k, k < 64 → k / 4 = l / 4 → inMask (u.boundary w) k = true → inMask w.demotedLanes k = false →
        pc.toNat ≤ (w.lane k).pc.toNat) ∧
    ((lanes = 0 ∨ grp.stat ≠ .resident ∨ ∃ c ∈ w.cands, c.pc = pc) → exec (.clauseFetch wid pc) s = .next u) ∧
    (lanes ≠ 0 → grp.stat = .resident → (∀ c ∈ w.cands, c.pc ≠ pc) →
      (∀ ws, u.fetchClause grp.die grp.ctx pc = .words ws → late = 0 →
        let header := (ws.headD 0).toNat
        let clear := ∀ f, f < 12 → header.testBit (8 + f) = true → w.flag f = 0
        ∃ since, (clear → since = some clk) ∧ (¬ clear → since = none) ∧ exec (.clauseFetch wid pc) s = .next
          ((u.fetched grp pc ws.length).updWarp wid fun w =>
            { w with cands := w.cands ++ [{ pc, words := ws, since, promoted := false }] }).draw) ∧
      (∀ ws, u.fetchClause grp.die grp.ctx pc = .words ws → late ≠ 0 → ∃ t y, exec (.clauseFetch wid pc) s = .next t ∧
        t.warp wid = some y ∧ y.cands = x.cands ∧ t.mem = s.mem ∧
        (∀ (l : Nat) (ln : Lane), x.lanes[l]? = some ln → ∃ m, y.lanes[l]? = some m ∧
          { m with stat := ln.stat, released := ln.released } = ln ∧
          (inMask late l = true → m.stat = .parked .meeting ∨ (m.stat = .ready ∧ m.released = true))) ∧
        ∀ l, inMask late l = true → inMask lanes l = true ∧ (w.lane l).meet = pc ∧ (w.lane l).released = false) ∧
      (∀ k, u.fetchClause grp.die grp.ctx pc = .absent k → ∃ t y, exec (.clauseFetch wid pc) s = .next t ∧
        t.warp wid = some y ∧ t.mem = s.mem ∧ ∀ (l : Nat) (ln : Lane), x.lanes[l]? = some ln →
          y.lanes[l]? = some (if inMask lanes l then { ln with stat := .parked .fetch } else ln)) ∧
      ∀ (e : Fetch) (h : Word) (cause : Nat),
        ((e = .execute ∧ cause = 8) ∨ (e = .badTarget h ∧ cause = 1) ∨ (e = .framing h ∧ cause = 1)) →
        u.fetchClause grp.die grp.ctx pc = e → ∃ r, exec (.clauseFetch wid pc) s = .next (u.deliver wid r) ∧
          r.debug = false ∧ r.regs.cause.toNat % 256 = cause ∧ r.regs.lanes = r.lanes ∧ maskSub r.lanes lanes = true)

/-- R243: each clk a core starts at most one clause, that of its first candidate: promoted gangs come first, then those
neither held nor spin-demoted, then held ones, then demoted ones, and among these the higher priority, the earlier ready
time and the lower warp slot. The gang forms at the clause's pc and its header issues. A candidate of 64 clk, neither held
nor demoted, is promoted. The choice answers a next state in every state: with no candidate, or a clause already started at
this clk, nothing starts; lanes of the gang that arrive at a meeting only now park there first (R121). Demotions
that are over end before (R134). A debug record that waits for a clause boundary of a warp of the core is loaded before (R215). -/
def Obligations.IssueOrder : Prop :=
  ∀ (s : State) (core : Nat),
    let clk := (s.die (core / 512)).clk
    let a : State := ((s.warps.filter fun w => s.warpCore w == core).map Warp.id).foldl State.loadDebug s
    let now (w : Warp) : Warp := match a.group w.group with
      | some grp => if grp.coreId = core then a.refreshCands (w.lapsed clk) grp clk else w
      | none => w
    let u : State := { a with warps := a.warps.map now }
    (∃ t, exec (.issueChoice core) s = .next t) ∧
    (((u.core core).startClk = clk + 1 ∨ u.candidates core = []) → exec (.issueChoice core) s = .next u) ∧
    (∀ x ∈ u.candidates core, (∀ y ∈ u.candidates core, y = x ∨ x.2.2 < y.2.2) → (u.core core).startClk ≠ clk + 1 →
      u.gang u.nextId = none → ∀ w grp, u.warp x.1 = some w → u.group w.group = some grp →
        let h := x.2.1.words.headD 0
        let arrived := w.arriveLate (u.gangAt w x.2.1.pc)
        let c : State := (u.updCore core fun v => { v with startClk := clk + 1 }).setWarp arrived
        let lanes := c.gangAt arrived x.2.1.pc
        let gang : Gang := { uid := u.nextId, warp := x.1, lanes, hdr := x.2.1.pc, index := 0, rest := x.2.1.words }
        let v : State := ({ c with nextId := u.nextId + 1, gangs := u.gangs ++ [gang], cur := u.nextId } : State).updWarp x.1
          fun w => { (w.mapLanes lanes fun _ ln => { ln with released := false }) with
            cands := w.cands.filter fun c => c.pc != x.2.1.pc }
        (lanes = 0 → exec (.issueChoice core) s = .next c) ∧
        (lanes ≠ 0 → ∃ t, exec (.clause (h.extractLsb' 20 4) (h.extractLsb' 8 12) (h.extractLsb' 4 4) (h.extractLsb' 0 4)) v = .next t ∧
          exec (.issueChoice core) s = .next t)) ∧
    (∀ (w v : Warp) (g k : Group) (a b : Cand) (ta tb : Nat), ta < 2 ^ 70 → tb < 2 ^ 70 → w.slot < 16 → v.slot < 16 →
      let demoted (w : Warp) (c : Cand) : Bool := maskSub (s.gangAt w c.pc) w.demotedLanes
      let before := candKey s w g a ta < candKey s v k b tb
      (a.promoted = true → b.promoted = false → before) ∧
      (a.promoted = false → b.promoted = false →
        (demoted w a = false → demoted v b = true → before) ∧
        (demoted w a = false → demoted v b = false → s.held w g a.words = false → s.held v k b.words = true → before) ∧
        (demoted w a = demoted v b → s.held w g a.words = s.held v k b.words → v.prio < w.prio → w.prio < 8 → before) ∧
        (demoted w a = demoted v b → s.held w g a.words = s.held v k b.words → v.prio = w.prio →
          (ta < tb ∨ (ta = tb ∧ w.slot < v.slot)) → before)) ∧
      (a.promoted = true → b.promoted = true → (ta < tb ∨ (ta = tb ∧ w.slot < v.slot)) → before)) ∧
    ∀ (wid : Nat) (pc : Word) (w : Warp) (grp : Group), s.warp wid = some w → s.group w.group = some grp → grp.coreId = core →
      let due (c : Cand) : Bool := c.pc == pc && (c.since.any fun t => decide (t + 64 ≤ (s.die grp.die).clk)) &&
        !s.held w grp c.words && !maskSub (s.gangAt w pc) w.demotedLanes
      exec (.gangPromotion core wid pc) s = .next (s.updWarp wid fun x =>
        { x with cands := x.cands.map fun c => if due c then { c with promoted := true } else c })

/-- R134: a demotion ends by a write to a span it watches, or 4,096 clk after it began, and its monitor starts again.
Nothing else changes. R179: the lanes that received poison from one word enter the handler once they stand outside a
clause, those at the lowest one's header together; the others enter later, at their own (the model's choice, log 20).
TRAP_WORD holds the word, TRAP_ADDR what the lowest lane's access named, and TRAP_PC the header. Of several records the first
of which a lane can enter is taken. R214, R215, R442: a debug configuration block of a launch is refused when a reserved field
of any record is set or the debug feature is off, and, by the model's inference (log 43), when its version is not 1, an offset
is misaligned or an enabled watch range is empty. Otherwise each warp that it names takes its record, which is loaded at a boundary where
no gang of the warp is inside a clause; a gang parked on a debug event then goes on. -/
def Obligations.WarpEvents : Prop :=
  (∀ (s : State) (wid : Nat) (h : Word) (w : Warp) (grp : Group), s.warp wid = some w → s.group w.group = some grp →
     let ends (i : Instr) (ended : Demotion → Prop) : Prop :=
       ∃ t x, exec i s = .next t ∧ t.warp wid = some x ∧ { x with demoted := w.demoted, mons := w.mons } = w ∧
         (∀ d, d ∈ x.demoted ↔ d ∈ w.demoted ∧ ¬ ended d) ∧
         ∀ (n : Nat) (m : Monitor), w.mons[n]? = some m → ∃ k, x.mons[n]? = some k ∧
           ((∃ d ∈ w.demoted, ended d ∧ d.header = m.header) → k = { m with digests := [], quietRun := 0 }) ∧
           ((∀ d ∈ w.demoted, ended d → d.header ≠ m.header) → k = m)
     ends (.spinDemotionEnd wid h) (fun d => d.header = h ∧ d.hit = true) ∧
     ends (.spinDemotionTimeout wid h) (fun d => d.header = h ∧ d.since + 4096 ≤ (s.die grp.die).clk)) ∧
  (∀ (s : State) (wid : Nat) (w : Warp) (grp : Group), s.warp wid = some w → s.group w.group = some grp →
     let live (p : PoisonRec) : Dword := w.lanesWhere fun l ln => inMask p.lanes l && ln.stat != .exited
     let may (p : PoisonRec) (l : Nat) : Prop := inMask (live p) l = true ∧ s.inGang wid l = false ∧ w.dbgPark = none ∧
       ∀ h, w.handler = some h → inMask h.lanes l = true
     let records := w.poison.filter fun p => live p != 0
     ((∀ p ∈ records, ∀ l, ¬ may p l) →
       exec (.poisonTrap wid) s = .next (s.updWarp wid fun w => { w with poison := records })) ∧
     ∀ (before : List PoisonRec) (p : PoisonRec) (after : List PoisonRec) (k : Nat), records = before ++ p :: after →
       (∀ q ∈ before, ∀ l, ¬ may q l) → may p k → (∀ l, l < k → ¬ may p l) →
       w.handler = none → grp.desc.handler ≠ 0xFFFFFFFF → grp.abandoned = false →
       let pc := (w.lane k).pc
       let lanes := w.lanesWhere fun l ln => inMask (live p) l && !s.inGang wid l && ln.pc == pc
       let left := live p &&& ~~~lanes
       ∃ t x h, exec (.poisonTrap wid) s = .next t ∧ t.warp wid = some x ∧
         x.poison = before ++ (if left = 0 then after else { p with lanes := left } :: after) ∧
         x.trap.cause = word (p.cause % 256) ∧ x.trap.word = p.word ∧
         x.trap.addr = ((p.addrs.find? fun e => e.1 == k || e.1 == uniLane).map (·.2)).getD 0 ∧
         x.trap.lanes = lanes ∧ x.trap.pc = pc ∧ (p.cause = 6 → x.trap.aux = dword p.wordPc.toNat) ∧
         x.handler = some h ∧ h.lanes = lanes ∧ h.rest = [] ∧
         ∀ (l : Nat) (ln : Lane), w.lanes[l]? = some ln → x.lanes[l]? = some (if inMask lanes l then
           { ln with pc := grp.desc.handler, npc := none, xfer := none, stat := .ready, released := false } else ln)) ∧
  (∀ (s : State) (lid : Nat) (block : List Word),
    let at' (i : Nat) : Nat := ((block[i]?).getD 0).toNat
    let rec' (w : Nat) : List Word := (block.drop (16 + 64 * w)).take 64
    let bad (r : List Word) : Prop :=
      let at' (i : Nat) : Nat := ((r[i]?).getD 0).toNat
      2 ≤ at' 0 ∨ (∃ i, i ∈ [1, 2, 3] ∧ at' i ≠ 0) ∨ (∃ i, i < 4 ∧ (2 ≤ at' (5 + 4 * i) ∨ at' (4 + 4 * i) % 4 ≠ 0)) ∨
      (∃ i, i < 4 ∧ (32 ≤ at' (23 + 8 * i) ∨ at' (26 + 8 * i) ≠ 0 ∨ at' (27 + 8 * i) ≠ 0 ∨
        (at' (23 + 8 * i) % 2 = 1 ∧ at' (22 + 8 * i) = 0))) ∨
      ∃ i, i < 12 ∧ at' (52 + i) ≠ 0
    let refused := at' 0 ≠ 1 ∨ 2 ^ 16 ≤ at' 1 ∨ (∃ i, i < 12 ∧ at' (4 + i) ≠ 0) ∨
      ∃ w, w < 16 ∧ bad (rec' w)
    let group := dword (at' 2 + at' 3 * 2 ^ 32)
    ((refused ∨ s.pkg.negotiated.getLsbD 8 = false) →
      exec (.debugConfigPost lid block) s = .next (s.post "debug-refused" [lid])) ∧
    (¬ refused → s.pkg.negotiated.getLsbD 8 = true → ∃ t, exec (.debugConfigPost lid block) s = .next t ∧
      t.gangs = s.gangs ∧ t.groups = s.groups ∧ t.mem = s.mem ∧
      ∀ (wid : Nat) (w : Warp) (grp : Group), s.warp wid = some w → s.group w.group = some grp →
        let named := grp.launch = lid ∧ w.num < 16 ∧ (at' 1).testBit w.num = true ∧
          (group = BitVec.allOnes 64 ∨ group = grp.index)
        (named → t.warp wid = some { w with dbgNext := some (debugRecord (rec' w.num)) }) ∧
        (¬ named → t.warp wid = some w))) ∧
  ∀ (s : State) (wid : Nat) (w : Warp) (grp : Group) (d : DebugRec), s.warp wid = some w → s.group w.group = some grp →
    w.dbgNext = some d →
    ((∃ g ∈ s.gangs, g.warp = wid ∧ g.wait = .none) → s.loadDebug wid = s) ∧
    ((∀ g ∈ s.gangs, g.warp = wid → g.wait ≠ .none) →
      (w.dbgPark = none → s.loadDebug wid = s.updWarp wid fun w => { w with dbg := d, dbgNext := none }) ∧
      ∀ q, w.dbgPark = some q → w.pendTraps = [] → ∃ x, (s.loadDebug wid).warp wid = some x ∧ x.dbg = d ∧
        x.dbgPark = none ∧ x.handler = none ∧ x.lanes.map Lane.regs = w.lanes.map Lane.regs)

/-- R295, R297, R302, R304: a collection is posted when every lane, not exited, of every expected warp has signed within its time, what
the signing warps issued before is done, and the table has room; the entry takes the first signature's fields and the block read now,
and waits for the group's entries of the slots it names. R296: a collection that stands 2^cvtime clk unposted is discarded,
and a gang signed in it, stated for one that is alone in it, takes the convergence trap at its MMA word, in whose place it
stands. -/
def Obligations.Collections : Prop :=
  (∀ (s : State) (gid cv : Nat) (g : Group), s.group gid = some g →
     let q := g.convAt cv
     let es := (s.quad g.quad).entries
     let full := ∀ w ∈ s.warps, w.group = gid → w.ended = false → w.num < 16 → q.expect.getLsbD w.num = true →
       maskSub w.live (s.signedLanes w.id cv) = true
     let late := q.since + 2 ^ g.desc.cvtime ≤ (s.die g.die).clk
     (q.collecting = false ∨ late ∨ g.stat ≠ .resident ∨ ¬ full ∨ s.signStoresDone gid cv = false ∨ 32 ≤ es.length →
       exec (.collectionPost gid cv) s = .next s) ∧
     (q.collecting = true → ¬ late → g.stat = .resident → full → s.signStoresDone gid cv = true → es.length < 32 →
       (∀ x ∈ es, x.id ≠ s.nextId) →
       ∃ t e h, exec (.collectionPost gid cv) s = .next t ∧ e ∈ (t.quad g.quad).entries ∧
         (∀ x ∈ (t.quad g.quad).entries, x = e ∨ ∃ y ∈ es, y.id = x.id) ∧ e.id = s.nextId ∧ e.group = gid ∧ e.eop = 1 ∧ e.slot = (q.ebits.extractLsb' 14 3).toNat ∧
         e.z = q.ebits.getLsbD 0 ∧ e.regs = [q.ob] ∧ e.granted = 0 ∧ e.prio = g.prio ∧
         e.block = (if q.ob.toNat + 64 ≤ g.desc.lbytes then (s.quad g.quad).lread (g.lbase + q.ob.toNat) 64 else []) ∧
         (∀ n, n ∈ e.deps ↔ ∃ x ∈ es, x.id = n ∧ x.group = gid ∧ (q.ebits.extractLsb' 6 8).getLsbD x.slot = true) ∧
         t.group gid = some h ∧ (h.convAt cv).collecting = false)) ∧
  ∀ (s : State) (gid cv : Nat) (grp : Group), s.group gid = some grp →
    let q := grp.convAt cv
    (q.collecting = true → grp.stat = .resident → q.since + 2 ^ grp.desc.cvtime ≤ (s.die grp.die).clk →
      (∃ t h, exec (.convergenceTimeout gid cv) s = .next t ∧ t.group gid = some h ∧ (h.convAt cv).collecting = false) ∧
      ∀ (g : Gang) (w : Warp) (word : Word) (op : Nat), g ∈ s.gangs → g.wait = .signed cv word op →
        s.warp g.warp = some w → w.group = gid → w.handler = none → w.dbgPark = none → grp.desc.handler ≠ 0xFFFFFFFF →
        grp.abandoned = false → (∀ x ∈ s.gangs, x = g ∨ ∀ a b, x.wait ≠ .signed cv a b) →
        ∃ t x, exec (.convergenceTimeout gid cv) s = .next t ∧ t.gang g.uid = none ∧ t.warp g.warp = some x ∧
          x.trap.cause.toNat % 256 = 9 ∧ x.trap.word = word ∧ x.trap.lanes = g.lanes ∧ x.trap.aux = dword cv ∧
          x.trap.pc = g.hdr + BitVec.ofNat 32 (4 * (g.index - 1)) ∧
          ∀ (l : Nat) (ln : Lane), w.lanes[l]? = some ln → inMask g.lanes l = true →
            ∃ lm, x.lanes[l]? = some lm ∧ lm.pc = grp.desc.handler ∧ lm.regs = ln.regs) ∧
    (q.collecting = false ∨ grp.stat ≠ .resident ∨ (s.die grp.die).clk < q.since + 2 ^ grp.desc.cvtime →
      exec (.convergenceTimeout gid cv) s = .next s)

/-- R14, R15, R127: a tracked operation whose result is known completes: it is gone, its counts fall, and its registers hold
the result; a write to an exited lane, or one that a handler's write has overtaken (R220), is discarded. In a group that is
saved it stays until the group is back (log 34). R11, R12: an engine takes a command when no earlier command of its warp
to the engine waits and, for an acquire, what the warp did before is done; the command leaves the buffer and its count
falls. -/
def Obligations.Completion : Prop :=
  (∀ (s : State) (wid : Nat) (w : Warp) (o : TOp) (r : RegWrite), s.warp wid = some w → lookupBy TOp.id w.ops o.id = some o →
    o.kind = .done [r] →
    ((∃ g, s.group w.group = some g ∧ g.stat = .saved) →
      ∃ t, exec (.trackedOpComplete wid o.id) s = .next t ∧ t.warp wid = some w) ∧
    ((∀ g, s.group w.group = some g → g.stat ≠ .saved) →
    ∃ t x, exec (.trackedOpComplete wid o.id) s = .next t ∧ t.warp wid = some x ∧ x.ops = removeBy TOp.id o.id w.ops ∧
      (∀ f, f < 12 → x.flag f = w.flag f - (if o.fa = some f then 1 else 0) - (if o.fb = some f then 1 else 0)) ∧
      let lands := (r.lane, r.reg) ∉ o.lost
      (r.lane = uniLane → x.lanes = w.lanes ∧ ∀ n, x.getS n = if lands ∧ n = r.reg then r.val else w.getS n) ∧
      (r.lane ≠ uniLane → x.s = w.s ∧ ∀ (l : Nat) (ln : Lane), w.lanes[l]? = some ln → x.lanes[l]? = some
        (if lands ∧ l = r.lane ∧ ln.stat ≠ .exited then ln.put r.reg r.val else ln)))) ∧
  ∀ (s u : State) (core : Nat) (m : Cmd) (grp : Group) (w : Warp), lookupBy Cmd.id (s.core core).cmds m.id = some m →
    s.group m.group = some grp → s.warp m.warp = some w →
    let first := ∀ x ∈ (s.core core).cmds.takeWhile fun x => x.id != m.id, x.warp = m.warp → engineOf x.eop ≠ engineOf m.eop
    let acq := 8 ≤ m.eop ∧ m.eop ≠ 12 ∧ m.ebits.getLsbD 9 = true
    let scope := (m.ebits.extractLsb' 5 3).toNat
    let ready := s.releaseReadyAt w core (max 1 scope) m.id
    (¬ first → exec (.engineCommandAccept core m.id) s = .next s) ∧
    (first → acq → ready = false → exec (.engineCommandAccept core m.id) s = .next s) ∧
    (first → (acq → ready = true) → (if acq then s.acked scope else s).engineTake grp m = none →
      exec (.engineCommandAccept core m.id) s = .next s) ∧
    (first → (acq → ready = true) →
      (if acq then s.acked scope else s).engineTake grp m = some u →
      exec (.engineCommandAccept core m.id) s = .next ((u.updCore core fun v =>
        { v with cmds := removeBy Cmd.id m.id v.cmds }).accepted m.warp m.op))

/-- R92, R174, R253: a load's one access, the first operation of its warp not yet performed. On an absent page the request
parks. Otherwise its result is known: the bytes, little-endian, of the Lantern store or, with no copy of the line held
anywhere and no store of the warp before it, of memory; memory and the Lantern store are as they were. R99, R180: an
atomic's one access is performed as one unit: the old value goes to its register, the new one, where there is one, to its
location and nowhere else. At the Lantern store; and in memory at a scope beyond the core's, with no copy of the line held
anywhere and no page migrating. R100: an atomic of the port form on host memory first reads its location, and other device
accesses to host memory wait until it has written. -/
def Obligations.AccessesPerformed : Prop :=
  (∀ (s : State) (w : Warp) (grp : Group) (o : TOp) (a : Access) (signed : Bool), s.findOp o.id = some (w, grp, o) →
     o.kind = .accesses [a] → a.kind = .load signed → a.size ∈ [1, 2, 4, 8, 16] → s.warp w.id = some w →
     firstPending w o.id = true → s.isParked o.id = false → s.isKick grp.ctx a.addr = false → s.portOp = none →
     (a.space = .mem → s.accessRow grp.ctx a.addr a.size .r = 0) →
     (∀ k, a.space = .mem → s.physList grp.ctx a.addr a.size = .error k →
       exec (.memoryRequest o.id) s = .next (s.park grp.die o.id k).draw) ∧
     ∀ (ps : List Nat) (bs : List Byte), w.sq = [] →
       ((a.space = .lantern ∧ bs = (s.quad grp.quad).lantern.readBytes (grp.lbase + a.addr.toNat) a.size ∧
           (s.quad grp.quad).lpoison = [] ∧ a.addr.toNat + a.size ≤ 2 ^ 32) ∨
         (a.space = .mem ∧ s.physList grp.ctx a.addr a.size = .ok ps ∧ bs = ps.map s.mem.read ∧ s.l1 = [] ∧ s.copies = [] ∧
           (s.core grp.coreId).wt = [] ∧ s.latent = [] ∧ ∀ p ∈ ps, s.lineBad (p / 64) = false)) →
       ∃ t x p ws, exec (.memoryRequest o.id) s = .next t ∧ t.mem = s.mem ∧ t.quad grp.quad = s.quad grp.quad ∧
         t.warp w.id = some x ∧ lookupBy TOp.id x.ops o.id = some p ∧ p.kind = .done ws ∧ x.poison = w.poison ∧
         (a.size < 4 → ws = [⟨a.lane, a.reg, if signed ∧ 2 ^ (8 * a.size - 1) ≤ leNat bs then
           wordI (leNat bs - 2 ^ (8 * a.size)) else word (leNat bs)⟩]) ∧
         (4 ≤ a.size → ws.length = a.size / 4 ∧ ∀ j, j < a.size / 4 →
           ws[j]? = some ⟨a.lane, a.reg + j, word (leNat bs / 2 ^ (32 * j) % 2 ^ 32)⟩)) ∧
  ∀ (s : State) (w : Warp) (grp : Group) (o : TOp) (a : Access) (op scope ord : Nat) (x y : Dword),
    s.findOp o.id = some (w, grp, o) → o.kind = .accesses [a] → a.kind = .atomic op scope ord x y → a.size ∈ [4, 8] →
    s.warp w.id = some w → firstPending w o.id = true → s.isParked o.id = false → s.isKick grp.ctx a.addr = false →
    w.sq = [] → w.ops = [o] → (s.core grp.coreId).wt = [] → s.portOp = none →
    (a.space = .lantern → (s.quad grp.quad).lpoison = [] →
      let loc := grp.lbase + a.addr.toNat
      let old := leNat ((s.quad grp.quad).lantern.readBytes loc a.size)
      ∃ t v p, exec (.memoryRequest o.id) s = .next t ∧ t.mem = s.mem ∧ t.warp w.id = some v ∧
        lookupBy TOp.id v.ops o.id = some p ∧ p.kind = .done (loadWrites a.lane a.reg a.size false (leBytes old a.size)) ∧
        p.fb = none ∧ ∀ n, (t.quad grp.quad).lantern.read n =
          match atomNew op (dword old) x y with
          | some z => if loc ≤ n ∧ n < loc + a.size then BitVec.ofNat 8 (z.toNat / 2 ^ (8 * (n - loc)))
            else (s.quad grp.quad).lantern.read n
          | none => (s.quad grp.quad).lantern.read n) ∧
    (∀ ps : List Nat, a.space = .mem → 1 ≤ scope → s.accessRow grp.ctx a.addr a.size .a = 0 →
      s.physList grp.ctx a.addr a.size = .ok ps → ps.Nodup → s.l1 = [] → s.copies = [] → s.latent = [] → s.migrations = [] →
      (∀ p ∈ ps, s.lineBad (p / 64) = false) →
      let old := leNat (ps.map s.mem.read)
      let port := s.portForm a = true ∧ ∃ p ∈ ps, hostBase ≤ p ∧ p < zoneBase
      (port → ∃ t x, exec (.memoryRequest o.id) s = .next t ∧ t.mem = s.mem ∧ t.warps = s.warps ∧ t.portOp = some x ∧
        x.1 = o.id ∧ ∀ p ∈ ps, hostBase ≤ p → p < zoneBase → tabFind x.2 p = some (s.mem.read p)) ∧
      (¬ port → ∃ t v p, exec (.memoryRequest o.id) s = .next t ∧ t.warp w.id = some v ∧
        lookupBy TOp.id v.ops o.id = some p ∧ p.kind = .done (loadWrites a.lane a.reg a.size false (leBytes old a.size)) ∧
        p.fb = none ∧ (∀ n, n ∉ ps → t.mem.read n = s.mem.read n) ∧
        ∀ (j n : Nat), ps[j]? = some n → t.mem.read n =
          match atomNew op (dword old) x y with
          | some z => BitVec.ofNat 8 (z.toNat / 2 ^ (8 * j))
          | none => s.mem.read n))

/-- R91, R94, R110, R176: the head of a warp's store queue leaves it when no load issued before it waits and its page is present,
and its setb count falls; a Lantern store has then written its bytes, and a memory store is on its way from the core. It is
performed when no store of the core to the same byte is before it, and no store to the host's memory of its own warp where
it is one: its bytes, and no others, change in memory. -/
def Obligations.StorePath : Prop :=
  (∀ (s : State) (w : Warp) (grp : Group) (e : SQEntry) (rest : List SQEntry) (it : StoreItem), s.warp w.id = some w →
    s.group w.group = some grp → w.sq = e :: rest → e.items = [it] → s.isParked e.id = false →
    s.isKick grp.ctx it.addr = false →
    (∀ o ∈ w.ops, (∀ l, o.kind ≠ .accesses l) ∧ ∀ n l, o.kind ≠ .gred n l) →
    (it.space = .lantern → ∃ t x, exec (.storeQueueLeave w.id) s = .next t ∧ t.mem = s.mem ∧ t.warp w.id = some x ∧
      x.sq = rest ∧ (∀ f, e.fb = some f → f < 12 → x.flag f = w.flag f - 1) ∧
      ∀ n, (t.quad grp.quad).lantern.read n =
        let loc := grp.lbase + it.addr.toNat
        if loc ≤ n ∧ n < loc + it.bytes.length then (it.bytes[n - loc]?).getD 0 else (s.quad grp.quad).lantern.read n) ∧
    (it.space = .mem → s.accessRow grp.ctx it.addr it.bytes.length .w = 0 →
      (∀ k, s.physList grp.ctx it.addr it.bytes.length = .error k →
        exec (.storeQueueLeave w.id) s = .next (s.park grp.die e.id k).draw) ∧
      ∀ ps, s.physList grp.ctx it.addr it.bytes.length = .ok ps → ps ≠ [] → ps.Nodup →
        (∀ y ∈ (s.core grp.coreId).wt, y.id ≠ e.id) → ∃ t x st, exec (.storeQueueLeave w.id) s = .next t ∧ t.mem = s.mem ∧ t.warp w.id = some x ∧ x.sq = rest ∧
          (∀ f, e.fb = some f → f < 12 → x.flag f = w.flag f - 1) ∧
          (t.core grp.coreId).wt = (s.core grp.coreId).wt ++ [st] ∧ st.id = e.id ∧ st.warp = w.id ∧
          (∀ (j p : Nat), ps[j]? = some p → tabFind st.cells p = it.bytes[j]?) ∧
          ∀ p, p ∉ ps → tabFind st.cells p = none)) ∧
  ∀ (s : State) (core : Nat) (x : WtStore), s.findOp x.id = none → s.findWt x.id = some (core, x) → s.isParked x.id = false →
    (∀ c ∈ x.cells, wtByte ((s.core core).wt.takeWhile fun y => y.id != x.id) c.1 = none ∧ s.cutOff c.1 = false) →
    (atHost (x.cells.map (·.1)) = true → ∀ y ∈ (s.core core).wt.takeWhile fun y => y.id != x.id, y.warp = x.warp →
      atHost (y.cells.map (·.1)) = false) →
    tabRising none x.cells = true → s.migrations = [] → s.latent = [] → s.portOp = none →
    ∃ t, exec (.memoryRequest x.id) s = .next t ∧ (t.core core).wt = removeBy WtStore.id x.id (s.core core).wt ∧
      ∀ n, t.mem.read n = (tabFind x.cells n).getD (s.mem.read n)

/-! ## Groups and launches -/

/-- R127, R223, R226, R214: a warp of a resident group ends when its lanes have exited, no gang of it is left, its queue is
empty, its operations have completed but for status words, its commands are accepted and, where it is the group's last and
the launch releases or a slot holds lumens (R382), the stores of its core are performed; with the last warp the group ends. A preempted group takes a single step that is due,
its prefetches end, and it is saved when nothing holds it: its Lantern contents stand in its image. A saved group that a
distributor may admit is resident again on the core that R239 prefers, once its image can be read; the image's words hold,
and where no image can be read the group comes back as it was saved (the model's choice, log 34).
The host ends a group that is parked on a debug event. -/
def Obligations.GroupEvents : Prop :=
  (∀ (s : State) (w : Warp) (grp : Group), s.warp w.id = some w → s.group w.group = some grp → grp.stat = .resident →
    w.ended = false → (∀ ln ∈ w.lanes, ln.stat = .exited) → (∀ g ∈ s.gangs, g.warp ≠ w.id) → w.sq = [] →
    (∀ o ∈ w.ops, ∃ d, o.kind = .status d) → (∀ e ∈ s.cores, ∀ m ∈ e.2.cmds, m.warp ≠ w.id) →
    ((∃ y ∈ s.warps, y.group = grp.id ∧ y.id ≠ w.id ∧ y.ended = false) ∨
      (grp.rel = none ∧ ∀ l ∈ grp.slots, l.balance = 0) ∨ s.wtClear grp.coreId = true) →
    ∃ t x h, exec (.warpEnd w.id) s = .next t ∧ t.warp w.id = some x ∧ x.ended = true ∧ t.group grp.id = some h ∧
      ((∃ y ∈ s.warps, y.group = grp.id ∧ y.id ≠ w.id ∧ y.ended = false) → h.stat = .resident) ∧
      ((∀ y ∈ s.warps, y.group = grp.id → y.id = w.id ∨ y.ended = true) →
        h.stat = .ended)) ∧
  (∀ (s : State) (g h : Group), s.group g.id = some g → g.stat = .resident →
    let u := s.updGroup g.id fun g => { g with stat := .saving }
    let v := ((u.groupWarps g.id).map Warp.id).foldl State.stepAtSave u
    v.group g.id = some h → h.stat = .saving →
    let p := v.endPrefetches h
    (p.readyToSave h = false → exec (.preemptionRequest g.id) s = .next p) ∧
    (p.readyToSave h = true → ∃ t x, exec (.preemptionRequest g.id) s = .next t ∧
      t.group g.id = some x ∧ x.stat = .saved ∧ (∀ x ∈ (t.quad h.quad).tcmds, x.group ≠ g.id) ∧
      (∀ c ∈ t.l1, c.owner ≠ h.coreId) ∧
      ((∀ x ∈ v.gangs, ∀ a b c, x.wait ≠ .swait a b c) → (∀ x ∈ (s.quad h.quad).tcmds, x.group ≠ g.id) →
        ∀ a, a < h.desc.lbytes → tabGet 0 x.saveLantern a = (s.quad h.quad).lantern.read (h.lbase + a)))) ∧
  (∀ (s : State) (g : Group) (die core lbase : Nat) (tiles : List Nat), s.group g.id = some g → g.stat = .saved → die < 4 →
    let u := (s.noteWait die).starve die
    u.mayRestore die g.id = true → (u.quad (128 * die + core / 4)).tcmds.length + g.saveCmds.length ≤ 32 →
    u.bestCore die (List.range 512) (u.savedNeed g) = some (core, lbase, tiles) →
    (u.savedImage g = .absent → exec (.groupRestore g.id (512 * die + core)) s = .next u) ∧
    (u.savedImage g ≠ .absent →
      ∃ t h, exec (.groupRestore g.id (512 * die + core)) s = .next t ∧ t.group g.id = some h ∧ h.stat = .resident ∧
        h.die = die ∧ h.core = core ∧ h.quad = 128 * die + core / 4 ∧ h.lbase = lbase ∧ h.tiles = tiles ∧
        (u.savedImage g = .none → h.acquired = g.acquired) ∧
        ∀ b, u.savedImage g = .ok b → (h.acquired = true ↔ recField b 4 4 % 2 = 1))) ∧
  ∀ (s : State) (gid : Nat) (w : Warp) (r : TrapReq), w ∈ s.warps → w.group = gid → w.dbgPark = some r →
    (∀ v ∈ s.warps, v.group = gid → v.dbgPark = none ∨ v.dbgPark = some r) →
    exec (.hostEndGroup gid) s = .next (s.endGroupFault gid r.regs)

/-- R236, R239, R114, R233: a distributor admits the first group of its order that fits. For a launch that is no cohort that
is its lowest-numbered unissued group, on the core and at the Lantern base and tiles that fit: its warps start at the
kernel's entry with every register 0 but those the launch gives, and its Lantern bytes 0. The first of the order that has
waited 1,048,576 clk keeps those that stand after it out until it has been admitted (how the wait is counted when another item
stands first for a while is log 12). -/
def Obligations.GroupAdmission : Prop :=
  (∀ (s : State) (die : Nat) (l : Launch) (g core a : Nat) (ts : List Nat) (rest : List Seg),
    let u := (s.noteWait die).starve die
    ((u.admissible die).find? fun x => u.itemFits die x) = some (.fresh l) → l.lflags / 2 % 2 = 0 →
    popLow ((l.rem[die]?).getD []) = some (g, rest) → u.bestCore die (List.range 512) l.need = some (core, a, ts) →
    (∀ x ∈ u.groups, x.id < u.nextId) → (∀ x ∈ u.warps, x.id < u.nextId) → u.launch l.id = some l →
    let row (x : Nat) : Word := (l.svals[x]?).getD 0
    ∃ t grp q, exec (.groupAdmit die) s = .next t ∧ t.group u.nextId = some grp ∧ grp.index = dword g ∧
      grp.launch = l.id ∧ grp.stat = .resident ∧ grp.die = die ∧ grp.core = core ∧ grp.lbase = a ∧ grp.tiles = ts ∧
      grp.acquired = false ∧ t.launch l.id = some q ∧ q = { l with rem := listSet l.rem die rest } ∧
      (l.batch = [] → ∀ x, x < l.desc.lbytes → (t.quad (128 * die + core / 4)).lantern.read (a + x) = 0) ∧
      ∀ i, i < l.desc.warps → ∃ w, t.warp (u.nextId + 1 + i) = some w ∧ w.group = u.nextId ∧ w.num = i ∧ w.prio = l.prio ∧
        w.lanes.length = 64 ∧ w.k = 1 ∧ w.handler = none ∧ (∀ f, w.flag f = 0) ∧ w.sq = [] ∧
        (l.lflags % 2 = 0 → l.batch = [] → ∀ n, n < 32 → w.getS n = if l.sload.getLsbD n then row n else 0) ∧
        ∀ (j : Nat) (ln : Lane), w.lanes[j]? = some ln → ln.pc = l.desc.entry ∧ ln.stat = .ready ∧ ln.preds = 1 ∧
          ln.meet = 0xFFFFFFFF ∧ ∀ n, tabGet 0 ln.v n = if l.lflags / 4 % 2 = 1 ∧ n = 0 then word j else 0) ∧
  ∀ (s : State) (die n since : Nat), die < s.dieU.length → (s.die die).waiting = some (n, since) →
    since + 1048576 ≤ (s.die die).clk →
    ∃ t, exec (.admissionStarvation die) s = .next t ∧ n ∈ (t.die die).starved ∧
      ∀ before x after, t.admitOrder die = before ++ x :: after → x.name = n → ∀ y ∈ t.admissible die, y ∈ before ++ [x]

/-- R234, R235: an accepted launch is forwarded to another die's distributor, which then knows it. A doorbell outside its
queue is reported; a tail count that adds one entry whose block passes the checks enters one launch, for the queue's
context, and the head moves on. R237, R242: a distributor with no unissued group of its own asks the victim it prefers,
which gives up the highest-numbered half of its remainder, or is asked no more when it holds fewer than two groups; the
reply adds them to the thief's remainder. A report tells the other dies what a die has left. A sample, every 256 clk, takes
the counts of each class (R26) and marks the regions whose mean request count is at or above the threshold. -/
def Obligations.LaunchSpread : Prop :=
  ((∀ (s : State) (l : Launch) (die : Nat), s.launch l.id = some l → die < l.known.length →
     ∃ t x, exec (.launchForward l.id die) s = .next t ∧ t.launch l.id = some x ∧ x = { l with known := listSet l.known die true } ∧
       x.known[die]? = some true ∧ ∀ u ∈ t.dieU, die ∉ u.noAsk) ∧
   ∀ (s : State) (qi : Nat) (tail : Dword) (q : HQueue), tabFind s.pkg.queues qi = some q → s.pkg.boot.booted = true →
     let at' := refAdd q.base (32 * (q.head % max 1 q.size : Nat))
     (tail.toNat < q.head ∨ q.head + q.size < tail.toNat →
       exec (.hostQueueDoorbell qi tail) s = .next (s.post "queue-overrun" [qi, tail.toNat])) ∧
     (q.tail = q.head → tail.toNat = q.head + 1 → 1 ≤ q.size →
       ∀ (bs : List Byte) (bad : Bool) (b : LBlock) (d : KDesc), s.engRead q.ctx at' 32 = some (bs, bad) →
         let u : State := { s with pkg := { s.pkg with queues := tabPut s.pkg.queues qi { q with tail := q.head + 1 } } }
         let v := (u.findSpan q.home q.ctx at' 32).findLaunch q.home q.ctx (dword (recField bs 0 8))
         v.launchRead q.ctx (dword (recField bs 0 8)) = .ok b d →
         ∃ t ln r, exec (.hostQueueDoorbell qi tail) s = .next t ∧ t.launches = s.launches ++ [ln] ∧
           tabFind t.pkg.queues qi = some r ∧ r.head = q.head + 1 ∧ r.tail = q.head + 1 ∧ ln.id = v.nextId ∧ ln.ctx = q.ctx ∧
           ln.block = dword (recField bs 0 8) ∧ ln.groups = b.groups ∧ ln.prio = b.prio ∧ ln.desc = d ∧ ln.home = q.home ∧
           ln.acq = true ∧ ln.rel = some 5 ∧ ∀ die, die < 4 → ln.left die = dieCount b.groups die)) ∧
  (∀ (s : State) (thief n victim k : Nat) (l : Launch), (∀ x ∈ s.launches, x.left thief = 0) →
    (s.die thief).stolen = [] → thief < s.dieU.length → s.stealPick thief = some (n, victim, k) → s.launch n = some l →
    (l.left victim < 2 → exec (.stealRequest thief) s =
      .next (s.updDie thief fun u => { u with noAsk := u.noAsk ++ [victim] })) ∧
    ∀ g : Seg, l.rem[victim]? = some [g] → 2 ≤ g.hi - g.lo →
      let half := (g.hi - g.lo) / 2
      exec (.stealRequest thief) s = .next
        ((s.updLaunch n fun l => { l with rem := listSet l.rem victim [{ g with hi := g.hi - half }] }).updDie thief fun u =>
          { u with stolen := u.stolen ++ [(n, [⟨g.owner, g.hi - half, g.hi⟩])] })) ∧
  (∀ (s : State) (thief n : Nat) (segs : List Seg) (rest : List (Nat × List Seg)), (s.die thief).stolen = (n, segs) :: rest →
    exec (.stealReply thief) s = .next ((s.updDie thief fun u => { u with stolen := rest }).updLaunch n fun l =>
      { l with rem := listSet l.rem thief ((l.rem[thief]?).getD [] ++ segs) })) ∧
  (∀ (s : State) (die i : Nat), i < s.dieU.length → ∃ t, exec (.remainderReport die) s = .next t ∧
    (i = die → t.die i = s.die i) ∧ (i ≠ die → ∀ l ∈ s.launches, l.known[die]? = some true →
      (l.id, die, l.left die) ∈ (t.die i).reports)) ∧
  ∀ (s : State) (die : Nat) (request : List Nat) (others : List (Nat × Nat)), die < s.dieU.length →
    ∃ t, exec (.congestionSample die request others) s = .next t ∧
      ((s.die die).clk < (s.die die).congDue → t.die die = s.die die) ∧
      ((s.die die).congDue ≤ (s.die die).clk → (t.die die).congReq = request ∧ (t.die die).congRep = others.map Prod.fst ∧
        (t.die die).congCtl = others.map Prod.snd ∧ ∀ r, r ∈ (t.die die).congested ↔
          r < 4 ∧ 16 * (s.die die).congThresh ≤
            (((List.range 64).filter fun i => i / 32 * 2 + i % 8 / 4 == r).map fun i => (request[i]?).getD 0).sum)

/-! ## Pages -/

/-- R247, R250–R252: a walker fill marks its page accessed by the die or package, and dirty for a write. A change of a page
entry writes the entry with the accessed bits clear and sends an invalidation to every die and package that had one, and to
a die whose Lamplighters list the page (R422); a frame that a page leaves while it retires is withdrawn (R263); the translations that it ends go from a die's caches when it arrives, the die
acknowledges when nothing of its uses the old ones, and with the last acknowledgement the change is complete. A page that
becomes resident keeps the bank placement it had (R249) and has the requests that wait for it replayed (R253). A shoot-down
replaces a buffer's entry, names the page entries of its page directory (R244, R247; that a directory's entries are kept while
no entry names it, and that checks use the new entry at once, is log 38), is such a change for every translation of the buffer
on every die, and has the requests that wait for a page of it tried again. R434, R251: the host
withdraws a bus page, which becomes absent by a change; a page request sent to the host that it grants makes the page resident at a bus
page, and one that it refuses is reported, after which an access to the page fails for want of a right. -/
def Obligations.PageChanges : Prop :=
  ((∀ (s : State) (n ctx buf page : Nat) (wr : Bool) (e : BufEntry), s.buf ctx buf = some e → s.dieU.length = 4 →
     let k : PageKey := ⟨ctx, buf, page⟩
     let marks (t : State) : Prop := (t.page k).dirty = ((s.page k).dirty || wr) ∧ (t.page k).state = (s.page k).state ∧
       (t.page k).frame = (s.page k).frame ∧ ∀ x, x ≠ k → t.page x = s.page x
     (n < 4 → ∃ t, exec (.walkerFill n ctx buf page wr) s = .next t ∧ marks t ∧ (t.page k).accDies.getLsbD n = true ∧
       k ∈ (t.die n).xlat) ∧
     (n < 64 → n ≠ s.pkg.pkgid → ∃ t, exec (.walkerFill (4 + n) ctx buf page wr) s = .next t ∧ marks t ∧
       (t.page k).accPkgs.getLsbD n = true ∧ (t.page k).accDies = (s.page k).accDies)) ∧
   (∀ (s : State) (ctx buf page : Nat) (pte : Dword),
     let k : PageKey := ⟨ctx, buf, page⟩
     let p := s.page k
     let units := ((List.range 4).filter fun d => p.accDies.getLsbD d || s.lampLists d k false) ++
       ((List.range 64).filter fun n => p.accPkgs.getLsbD n).map fun n => 4 + n
     let old := match s.buf ctx buf with | some e => if p.state = 1 then [(e, p.stack, p.frame)] else [] | none => []
     let st := pte.toNat / 2 ^ 62
     let stack := pte.toNat / 2 ^ 52 % 16
     let frame := pte.toNat % 2 ^ 52
     s.changing k = false → s.oldFrames k = [] → ∃ t, exec (.pageEntryChange ctx buf page pte) s =
       .next (if st = 1 then t.replayAll k else t) ∧ (st = 1 → k ∉ t.wanted) ∧
       (∀ e, s.buf ctx buf = some e → p.state = 1 → (st ≠ 1 ∨ p.stack ≠ stack ∨ p.frame ≠ frame) →
         (t.page k).retire = false ∧ t.withdrawn = s.withdrawn ++ if p.retire then [(e, p.stack, p.frame)] else []) ∧
       (t.page k).state = st ∧ (t.page k).mig = pte.getLsbD 61 ∧ (t.page k).stack = stack ∧
       (t.page k).frame = frame ∧ (t.page k).accDies = 0 ∧ (t.page k).accPkgs = 0 ∧
       (p.place ≠ none → (t.page k).place = p.place) ∧ (units = [] → t.changes = s.changes) ∧
       (units ≠ [] → t.changes = s.changes ++ [{ id := s.nextId, key := k, await := units, invalidated := [], old }]) ∧
       t.mem = s.mem ∧ ∀ x, x ≠ k → t.page x = s.page x) ∧
   (∀ (s : State) (n : Nat) (c : Change), lookupBy Change.id s.changes c.id = some c → n ∈ c.await →
     let busy := n < 4 ∧ (s.oldStores c.key (fun core => core / 512 == n) = true ∨ s.lampLists n c.key true = true)
     (n ∉ c.invalidated → ∃ t, exec (.translationInvalidation n c.id) s = .next t ∧ t.mem = s.mem ∧
       lookupBy Change.id t.changes c.id = some { c with invalidated := c.invalidated ++ [n] } ∧
       (n < 4 → (∀ k ∈ (t.die n).xlat, c.ends k = false) ∧
         (∀ e ∈ t.cores, e.1 / 512 = n → ∀ k ∈ e.2.tlb, c.ends k = false) ∧
         ∀ e ∈ t.quads, e.1 / 128 = n → ∀ x ∈ e.2.walkTlb, c.ends ⟨x.1, x.2.1, x.2.2⟩ = false)) ∧
     (n ∈ c.invalidated → busy → exec (.invalidationAck n c.id) s = .next s) ∧
     (n ∈ c.invalidated → ¬ busy → ∃ t, exec (.invalidationAck n c.id) s = .next t ∧ t.mem = s.mem ∧
       lookupBy Change.id t.changes c.id =
         if (c.await.filter (· != n)).isEmpty then none else some { c with await := c.await.filter (· != n) })) ∧
   ∀ (s : State) (ctx buf : Nat) (ws : List Dword), 0 < buf → buf < 2 ^ 20 → s.pkg.boot.recovery = false →
     let new := bufEntryOf ws
     let old := (s.bufs.find? fun e => e.1 == (ctx, buf)).map fun e => e.2
     let same (a b : PageEntry) : Prop := a.state = b.state ∧ a.mig = b.mig ∧ a.stack = b.stack ∧ a.frame = b.frame
     ∃ (t : State) (c : Change) (waits : List PageKey), exec (.bufferShootdown ctx buf ws) s = .next (waits.foldl State.replayAll t) ∧
       (∀ k, k ∈ waits ↔ k.ctx = ctx ∧ k.buf = buf ∧
         (k ∈ s.wanted ∨ ∃ u ∈ s.dieU, ∃ p ∈ u.parking ++ u.missq, p.key = k)) ∧
       t.buf ctx buf = (if s.entryOk new then some new else none) ∧
       (∀ c b, (c, b) ≠ (ctx, buf) → t.buf c b = s.buf c b) ∧ t.mem = s.mem ∧
       (∀ k : PageKey, (k.ctx, k.buf) ≠ (ctx, buf) → t.page k = s.page k) ∧
       (∀ e, old = some e → e.dir = new.dir → new.bflags.getLsbD 0 = true → t.pages = s.pages ∧ t.tables = s.tables) ∧
       (∀ e, old = some e → e.dir ≠ 0 → (e.dir ≠ new.dir ∨ new.bflags.getLsbD 0 = false) → ∀ z ∈ s.pages, z.1.ctx = ctx →
         z.1.buf = buf → ∃ y ∈ t.tables, y.1 = e ∧ y.2.1 = z.1 ∧ same y.2.2 z.2) ∧
       (new.bflags.getLsbD 0 = true → new.dir ≠ 0 → (∀ e, old = some e → e.dir ≠ new.dir) → ∀ z ∈ s.tables, z.1.dir = new.dir →
         ∃ y ∈ t.pages, y.1 = ⟨ctx, buf, z.2.1.page⟩ ∧ same y.2 z.2.2) ∧
       t.changes = s.changes ++ [c] ∧ c.id = s.nextId ∧ c.await = [0, 1, 2, 3] ∧ c.invalidated = [] ∧
       ∀ page, page < 2 ^ 64 → c.ends ⟨ctx, buf, page⟩ = true) ∧
  ∀ (s : State) (ctx buf page : Nat) (e : BufEntry), s.buf ctx buf = some e → e.bflags.getLsbD 3 = true →
    let k : PageKey := ⟨ctx, buf, page⟩
    let p := s.page k
    let units := ((List.range 4).filter fun d => p.accDies.getLsbD d || s.lampLists d k false) ++
      ((List.range 64).filter fun n => p.accPkgs.getLsbD n).map fun n => 4 + n
    s.changing k = false →
    (p.state = 1 → ∃ t, exec (.atsInvalidation ctx buf page) s = .next t ∧ (t.page k).state = 0 ∧
      (t.page k).accDies = 0 ∧ t.mem = s.mem ∧ (∀ x, x ≠ k → t.page x = s.page x) ∧ t.changes = s.changes ++
        if units = [] then []
        else [{ id := s.nextId, key := k, await := units, invalidated := [], old := [(e, p.stack, p.frame)] }]) ∧
    (k ∉ s.pkg.pageReqs → ∀ b bus, exec (.pageRequestResponse ctx buf page b bus) s = .next s) ∧
    (p.state ≠ 1 → k ∈ s.pkg.pageReqs → (∀ u ∈ s.dieU, u.parking = [] ∧ u.missq = []) → s.pkg.queues = [] → s.remote = [] →
      (∀ bus, ∃ t, exec (.pageRequestResponse ctx buf page true bus) s = .next t ∧ (t.page k).state = 1 ∧
        (t.page k).frame = bus ∧ t.mem = s.mem) ∧
      ∀ bus, ∃ t, exec (.pageRequestResponse ctx buf page false bus) s = .next t ∧ t.mem = s.mem ∧
        t.pkg.events = s.pkg.events ++ [⟨"page-request-refused", [ctx, buf, page]⟩] ∧ ∀ (ref : Dword) (rt : Right),
          refBuf ref = buf → refOff ref / pageBytes e.pgsz = page → refOff ref < e.size → t.accessRow ctx ref 1 rt = 3)

/-- R253–R258: a page becomes resident in a free frame that its class and placement allow, filled with zeros when it was
absent; with no frame to take and none to free, a frame shortage is recorded (R261; which die and stack it names is log 38). An ageing visit, due every AGEPER,
clears the accessed bits of the evictable pages of a die, and starts a migration of a page that one other die alone has
accessed, where LOCMIG asks for it. An eviction, while a stack is below FREELOW, takes the first page of R255's order to the
blocks of the zone, or to the tier, and, when its change is acknowledged and no store of the old frame is on its way, frees
its frame; a migration sets the page's mig bit and then switches it to its new frame. -/
def Obligations.PageMoves : Prop :=
  (∀ (s : State) (ctx buf page stack frame : Nat) (e : BufEntry), s.buf ctx buf = some e →
    let k : PageKey := ⟨ctx, buf, page⟩
    let new : PageEntry := { state := 1, mig := false, stack, frame }
    let takes := s.frameOk e stack frame = true ∧ placeOk e (s.page k) stack frame = true ∧ s.frameUsed e new = false
    (s.page k).state ≠ 1 → e.bflags.getLsbD 2 = false → e.bflags.getLsbD 3 = false → s.changing k = false →
    s.oldFrames k = [] → page * pageBytes e.pgsz < e.size →
    (takes → (∀ u ∈ s.dieU, u.parking = [] ∧ u.missq = []) → s.pkg.queues = [] → s.remote = [] →
      ∃ t, exec (.pageServiceComplete ctx buf page stack frame) s = .next t ∧ (t.page k).state = 1 ∧
        (t.page k).frame = frame ∧ (t.page k).mig = false ∧ (t.page k).dirty = false ∧
        ((s.page k).state = 0 → s.pkg.pkgid < 64 → ∀ q, q < pageBytes e.pgsz →
          t.mem.read (pagePhys s.pkg.pkgid e new q) = 0)) ∧
    (¬ takes → s.awaited k = true → s.shortOfFrames e (s.page k) = true → ∃ r : ErrRec,
      exec (.pageServiceComplete ctx buf page stack frame) s = .next (s.errRecord (r.stack / 3) r) ∧ r.kind = 8)) ∧
  ((∀ (s : State) (die : Nat), (s.die die).clk < (s.die die).ageDue → exec (.agingVisit die) s = .next s) ∧
   (∀ (s : State) (die : Nat) (z : PageKey × PageEntry) (e : BufEntry), z ∈ s.pages → (s.pages.map Prod.fst).Nodup →
    s.buf z.1.ctx z.1.buf = some e → z.2.state = 1 → e.evictable = true → die < 4 → (s.die die).ageDue ≤ (s.die die).clk →
    (s.die die).regs.locmig = 0 → (if e.ilv ≤ 1 then die = 0 else z.2.stack / 3 = die) → s.changing z.1 = false →
    ∃ t, exec (.agingVisit die) s = .next t ∧ (t.page z.1).accDies = 0 ∧ (t.page z.1).accPkgs = 0 ∧
      (t.page z.1).state = 1 ∧ (t.page z.1).frame = z.2.frame ∧ (t.page z.1).seen = (s.die die).clk ∧
      (t.page z.1).visits = (z.2.accDies :: z.2.visits).take 2 ∧ t.mem = s.mem) ∧
   ∀ (s : State) (k : PageKey) (p : PageEntry) (e : BufEntry) (x n f : Nat),
    let die := p.stack / 3
    s.pages = [(k, p)] → s.buf k.ctx k.buf = some e → p.state = 1 → e.evictable = true → e.ilv ∈ [2, 3] → die < 4 →
    (s.die die).ageDue ≤ (s.die die).clk → (s.die die).regs.locmig = 1 → p.mig = false → s.changing k = false →
    s.oldFrames k = [] → x < 4 → x ≠ die → p.accDies = 1#4 <<< x → p.visits.head? = some p.accDies →
    s.freeFrame e p (if e.ilv = 2 then [3 * x] else [3 * x, 3 * x + 1, 3 * x + 2]) = some (n, f) →
    ∃ t m, exec (.agingVisit die) s = .next t ∧ t.migrations = s.migrations ++ [m] ∧ m.key = k ∧ m.newStack = n ∧
      m.newFrame = f ∧ n / 3 = x ∧ (t.page k).mig = true ∧ t.mem = s.mem) ∧
  (∀ (s : State) (ctx buf page handle : Nat) (fits : Bool) (e : BufEntry), s.buf ctx buf = some e →
    let k : PageKey := ⟨ctx, buf, page⟩
    let p := s.page k
    let low := ∃ n ∈ stacksOf e p.stack, s.freeUnits n < (s.die (n / 3)).regs.freelow
    p.state = 1 → e.evictable = true → p.mig = false → s.changing k = false → s.oldFrames k = [] →
    (¬ low → exec (.pageEviction ctx buf page handle fits) s = .next s) ∧
    (low → s.firstVictim e k = true → (fits = true → s.zoneOk e p.stack handle = true) →
      (fits = false → (∀ x ∈ s.allPages, x.state = 3 → x.frame ≠ handle) ∧
        ∀ x ∈ s.evictions, x.toZone = false → x.handle ≠ handle) →
      ∃ t, exec (.pageEviction ctx buf page handle fits) s = .next t ∧ (t.page k).state = (if fits then 2 else 3) ∧
        (t.page k).frame = handle ∧ t.mem = s.mem ∧
        t.evictions = s.evictions ++ [{ key := k, handle, toZone := fits, stack := p.stack, frame := p.frame }])) ∧
  (∀ (s : State) (v : Eviction) (e : BufEntry), s.buf v.key.ctx v.key.buf = some e →
    (s.evictions.find? fun x => x.key == v.key) = some v → s.changing v.key = false →
    s.oldStores v.key (fun _ => true) = false →
    ∃ t, exec (.evictionComplete v.key.ctx v.key.buf v.key.page) s = .next t ∧
      t.evictions = s.evictions.filter (fun x => x.key != v.key) ∧ (t.page v.key).state = (s.page v.key).state ∧
      (t.page v.key).frame = (s.page v.key).frame) ∧
  (∀ (s : State) (ctx buf page stack frame : Nat) (e : BufEntry), s.buf ctx buf = some e →
    let k : PageKey := ⟨ctx, buf, page⟩
    let p := s.page k
    p.state = 1 → e.bflags.getLsbD 2 = false → e.bflags.getLsbD 3 = false → p.mig = false → s.changing k = false →
    s.oldFrames k = [] → s.frameOk e stack frame = true → placeOk e p stack frame = true →
    s.frameUsed e { state := 1, mig := false, stack, frame } = false →
    ∃ t m, exec (.pageMigration ctx buf page stack frame) s = .next t ∧ (t.page k).mig = true ∧ (t.page k).state = 1 ∧
      (t.page k).frame = p.frame ∧ t.mem = s.mem ∧ t.migrations = s.migrations ++ [m] ∧ m.key = k ∧
      m.newStack = stack ∧ m.newFrame = frame ∧ m.oldStack = p.stack ∧ m.oldFrame = p.frame ∧ m.switched = false) ∧
  ∀ (s : State) (m : Migration) (e : BufEntry), s.buf m.key.ctx m.key.buf = some e →
    (s.migrations.find? fun x => x.key == m.key) = some m → m.switched = false → s.changing m.key = false →
    s.oldStores m.key (fun _ => true) = false →
    ∃ t, exec (.migrationSwitch m.key.ctx m.key.buf m.key.page) s = .next t ∧ (t.page m.key).mig = false ∧
      (t.page m.key).frame = m.newFrame ∧ (t.page m.key).state = (s.page m.key).state ∧
      (∀ x ∈ t.migrations, x.key = m.key → x.switched = true)

/-- R259, R260, R264: a scrub of a stack, due every SCRUBPER, finds the errors that stand undetected in it, whose lines are
then poisoned; it counts for nothing before it is due. A failed row takes a spare row of its bank, then a remap entry. A row
copy ends. A privileged register of a die takes a value within its limit: those of the fault unit (R264), and under the numbers of
the model's choice (log 21) the pools (R241), the congestion threshold (R242), the package numbers, the host queues (R235),
KICKIDX (R416), the code buffers, the functions of contexts and the BAR2 mappings (R433); a write outside a limit, to no
register, or in recovery (R443) is ignored and reported. Each of the three answers a next state in every state. -/
def Obligations.Upkeep : Prop :=
  (∀ (s : State) (stack : Nat),
    let due := (s.stack stack).scrubDue ≤ (s.die (stack / 3)).clk
    ((12 ≤ stack ∨ ¬ due) → exec (.scrub stack) s = .next s) ∧
    (stack < 12 → due → ∃ t, exec (.scrub stack) s = .next t ∧ (t.stack stack).cerr = [] ∧
      (∀ l ∈ s.poison, 64 * l < hostBase → l ∈ t.poison) ∧
      (∀ l ∈ s.latent, 64 * l < hostBase → physPkg (64 * l) = s.pkg.pkgid → physStack (64 * l) = stack →
        l ∈ t.poison ∧ l ∉ t.latent) ∧
      ∀ bank row, s.latent = [] → (s.stack stack).cerr = [] → (s.stack stack).failed = [(bank, row)] →
        let used := tabGet 0 (s.stack stack).spareRows bank
        (used < 4 → (t.stack stack).failed = [] ∧ tabGet 0 (t.stack stack).spareRows bank = used + 1 ∧
          ⟨stack, bank, row⟩ ∈ (t.stack stack).copies) ∧
        (4 ≤ used → (s.stack stack).remaps < 512 → (t.stack stack).failed = [] ∧
          (t.stack stack).remaps = (s.stack stack).remaps + 1 ∧ ⟨stack, bank, row⟩ ∈ (t.stack stack).copies))) ∧
  (∀ (s : State) (stack bank row : Nat), exec (.rowCopyComplete stack bank row) s =
    .next (s.updStack stack fun u => { u with copies := u.copies.filter (· != ⟨stack, bank, row⟩) })) ∧
  ∀ (s : State) (die : Nat) (value : Dword),
    let v := value.toNat
    let idle := s.launches = [] ∧ s.groups = []
    let refuses (reg : Nat) : Prop := exec (.registerWrite die reg value) s = .next (s.post "register-refused" [die, reg, v])
    let sets (reg : Nat) (ok : Prop) (t : State) : Prop :=
      (ok → exec (.registerWrite die reg value) s = .next t) ∧ (¬ ok → refuses reg)
    let regs (f : FaultRegs → FaultRegs) : State := s.updDie die fun u => { u with regs := f u.regs }
    let register (reg : Nat) : Prop := (reg < 0x40 ∧ reg % 8 = 0) ∨
      (∃ i c, i < 4 ∧ i < (s.die die).pools.length ∧ c < 3 ∧ (reg = 0x1000 + 0x100 * i + 0x10 * c ∨
        reg = 0x1000 + 0x100 * i + 0x10 * c + 8)) ∨ reg = 0x2000 ∨ reg = 0x3000 ∨ reg = 0x3008 ∨
      (0x4000 ≤ reg ∧ reg < 0x6000 ∧ reg % 8 = 0) ∨
      ∃ k, k ∈ [1, 2, 3, 4] ∧ k * 0x100000 ≤ reg ∧ reg < k * 0x100000 + 0x10000
    (∀ reg, (4 ≤ die ∨ s.pkg.boot.recovery = true ∨ ¬ register reg) → refuses reg) ∧
    (die < 4 → s.pkg.boot.recovery = false →
    sets 0x000 ((v = 0 ∨ v ≤ 262144 ∧ s.pkg.negotiated.getLsbD 4 = true) ∧ idle) (regs fun r => { r with zonesize := v }) ∧
    sets 0x008 (v < 2 ^ 32) (regs fun r => { r with freelow := v }) ∧
    sets 0x010 (100 ≤ v ∧ v ≤ 10000000) (regs fun r => { r with ageper := v }) ∧
    sets 0x018 (v ≤ 1) (regs fun r => { r with locmig := v }) ∧
    sets 0x020 (3600 ≤ v ∧ v ≤ 604800) (regs fun r => { r with scrubper := v }) ∧
    sets 0x028 (1 ≤ v ∧ v ≤ 255) (regs fun r => { r with cethresh := v }) ∧
    sets 0x030 True (regs fun r => { r with errbase := v }) ∧
    sets 0x038 (∃ i, i < 11 ∧ v = 2 ^ (6 + i)) (regs fun r => { r with errsize := v }) ∧
    sets 0x2000 True (s.updDie die fun u => { u with congThresh := v }) ∧
    sets 0x3000 (v < 64) { s with pkg := { s.pkg with pkgid := v } } ∧
    sets 0x3008 True { s with pkg := { s.pkg with pod := (List.range 64).filter fun i => v / 2 ^ i % 2 == 1 } } ∧
    (∀ c, c < 65536 → sets (0x100000 + c) True { s with kickidx := tabPut s.kickidx c v } ∧
      sets (0x200000 + c) True { s with code := tabPut s.code c v } ∧
      sets (0x300000 + c) (v < 64 ∧ (v = 0 ∨ s.pkg.negotiated.getLsbD 2 = true))
        { s with pkg := { s.pkg with ctxFn := tabPut s.pkg.ctxFn c v } } ∧
      let buf := v % 2 ^ 20
      let off := v / 2 ^ 20 * 4096
      let others := s.pkg.bar2.filter fun x => !(x.1 == c && x.2.1 == buf)
      ((s.buf c buf = none ∨ tabFind s.pkg.ctxFn c = none) → refuses (0x400000 + c)) ∧
      ∀ e f, s.buf c buf = some e → tabFind s.pkg.ctxFn c = some f → exec (.registerWrite die (0x400000 + c) value) s =
        .next { s with pkg := { s.pkg with bar2 := if off + e.size ≤ 2 ^ 36 then others ++ [(c, buf, off)] else others } }) ∧
    (∀ i, i < 256 →
      let q := tabGet { ctx := 0, base := 0, size := 0, home := 0 } s.pkg.queues i
      let put (q : HQueue) : State := { s with pkg := { s.pkg with queues := tabPut s.pkg.queues i q } }
      let reg := 0x4000 + 32 * i
      sets reg True (put { q with ctx := v }) ∧ sets (reg + 8) True (put { q with base := value }) ∧
      sets (reg + 16) (∃ j, j < 13 ∧ v = 2 ^ (4 + j)) (put { q with size := v, head := 0, tail := 0 }) ∧
      sets (reg + 24) (v < 4) (put { q with home := v })) ∧
    ∀ i c p, i < 4 → c < 3 → (s.die die).pools[i]? = some p →
      let put (p : Pool) : State := s.updDie die fun u => { u with pools := listSet u.pools i p }
      let mins := listSet p.mins c v
      let reg := 0x1000 + 0x100 * i + 0x10 * c
      sets (reg + 8) True (put { p with caps := listSet p.caps c v }) ∧
      sets reg (mins.sum ≤ p.entries ∧ s.replyReserve die i ≤ (mins[1]?).getD 0) (put { p with mins }))

/-! ## Engines -/

/-- R276, R279, R295, R106, R234, R235: at most 32 tile commands stand in a quad and at most 32 entries in its matrix
engine; a command beyond that is not taken. A matrix command waits until the Lantern accesses of its warp before it are done
and then stands as an entry behind the group's entries of the slots it names; one that is ready at once is checked at once
and, refused, leaves again and enters the group's error word (R307, R315). SARM sets its synchronisation word's target, and
the generation counts the whole targets already reached. LAUNCH enters a launch for its context, or completes with the code
of its first failed check; behind another one, or with a block on an absent page (log 33), it waits in an entry of the
distributor's pool when the pool grants its class one (R241; that the LAUNCH queue is bound so is log 12). -/
def Obligations.EngineTakes : Prop :=
  ∀ (s : State) (grp : Group) (m : Cmd) (w : Warp), s.warp m.warp = some w →
    let q := s.quad grp.quad
    (m.eop ∈ [2, 3, 4, 5, 6] →
      ((32 ≤ q.entries.length ∨ ¬ LanternDone w m.id) → s.engineTake grp m = none) ∧
      (q.entries.length < 32 → LanternDone w m.id → s.group grp.id = some grp → Calm q.entries →
        (∀ x ∈ q.entries, x.id < s.nextId ∧ ∀ n ∈ x.deps ++ x.tileDeps, n < s.nextId) →
        ∃ t e, s.engineTake grp m = some t ∧ e.id = s.nextId ∧ e.group = grp.id ∧ e.eop = m.eop ∧ e.regs = m.regs ∧
          e.slot = (m.ebits.extractLsb' 14 3).toNat ∧ e.checked = false ∧ e.granted = 0 ∧ e.prio = grp.prio ∧
          (m.eop = 5 → e.block = s.readBlock grp ((m.regs[0]?).getD 0).toNat) ∧
          (∀ n, n ∈ e.deps ↔ ∃ x ∈ q.entries, x.id = n ∧ x.group = grp.id ∧
            (m.ebits.extractLsb' 6 8).getLsbD x.slot = true) ∧ (t.quad grp.quad).lantern = q.lantern ∧ t.mem = s.mem ∧
          (e.ready q.entries = false → (t.quad grp.quad).entries = q.entries ++ [e]) ∧
          (e.ready q.entries = true → checkEntry q grp e = 0 →
            (t.quad grp.quad).entries = q.entries ++ [{ e with checked := true }]) ∧
          (e.ready q.entries = true → checkEntry q grp e ≠ 0 → (t.quad grp.quad).entries = q.entries ∧
            ∃ h, t.group grp.id = some h ∧ h.merr = (if grp.merr.2.2 = 0 then (checkEntry q grp e, m.eop, 1)
              else (grp.merr.1, grp.merr.2.1, min (grp.merr.2.2 + 1) 0xFFFF))))) ∧
    (m.eop ∈ [8, 9, 10, 11, 13] →
      (32 ≤ q.tcmds.length → s.engineTake grp m = none) ∧
      (q.tcmds.length < 32 → ∃ t x, s.engineTake grp m = some t ∧ (t.quad grp.quad).tcmds = q.tcmds ++ [x] ∧
        x.id = s.nextId ∧ x.group = m.group ∧ x.warp = m.warp ∧ x.ctx = m.ctx ∧ x.eop = m.eop ∧ x.sop = m.sop ∧
        x.regs = m.regs.take 10 ∧ x.started = false ∧ x.done = [] ∧ x.record = [] ∧ (m.eop = 11 → x.take = m.ebits.getLsbD 0) ∧
        x.scope3 = (m.ebits.extractLsb' 5 3).toNat ∧ x.acq = (if m.ebits.getLsbD 9 then some x.scope3 else none) ∧
        x.rel = (if m.ebits.getLsbD 8 then some x.scope3 else none) ∧
        (m.eop = 10 → ∀ i j, i < 4 → j < 32 → x.mask.getLsbD (32 * i + j) = ((m.regs[10 + i]?).getD 0).getLsbD j) ∧
        (t.quad grp.quad).lantern = q.lantern ∧ t.mem = s.mem)) ∧
    (m.eop = 12 →
      let off := ((m.regs[0]?).getD 0).toNat
      let target := ((m.regs[1]?).getD 0).toNat
      let a := grp.lbase + off
      let fresh := m.ebits.getLsbD 10
      let was (i : Nat) : Nat := if fresh then 0 else q.word (a + i)
      ((off % 16 ≠ 0 ∨ grp.desc.lbytes < off + 16) → s.engineTake grp m = some s) ∧
      (off % 16 = 0 → off + 16 ≤ grp.desc.lbytes → ∃ t, s.engineTake grp m = some t ∧ t.mem = s.mem ∧
        (t.quad grp.quad).word a = target ∧
        (target = 0 → (t.quad grp.quad).word (a + 4) = was 4 ∧ (t.quad grp.quad).word (a + 8) = was 8) ∧
        (target ≠ 0 → (t.quad grp.quad).word (a + 4) = was 4 % target ∧
          (t.quad grp.quad).word (a + 8) = (was 8 + was 4 / target) % 2 ^ 32) ∧
        ∀ x, x < a ∨ a + 16 ≤ x → (t.quad grp.quad).lantern.read x = q.lantern.read x)) ∧
    (m.eop = 14 →
      let ref := dword (((m.regs[0]?).getD 0).toNat + ((m.regs[1]?).getD 0).toNat * 2 ^ 32)
      let u := s.die grp.die
      let f := s.findLaunch grp.die m.ctx ref
      (u.dcmds = [] → ∀ code, f.launchRead m.ctx ref = .refused code →
        s.engineTake grp m = some (f.giveStatus m.warp m.sop (word (code * 2 ^ 24)))) ∧
      (u.dcmds = [] → ∀ b d, f.launchRead m.ctx ref = .ok b d →
        ∃ t l, s.engineTake grp m = some t ∧ t.launches = f.launches ++ [l] ∧
          l.id = f.nextId ∧ l.ctx = m.ctx ∧ l.block = ref ∧ l.desc = d ∧ l.groups = b.groups ∧ l.prio = b.prio ∧
          l.home = grp.die ∧ l.ended = 0 ∧ l.acq = m.ebits.getLsbD 9 ∧
          l.rel = (if m.ebits.getLsbD 8 then some (m.ebits.extractLsb' 5 3).toNat else none) ∧
          (∀ o, m.sop = some o → l.status = .op m.warp o) ∧ (∀ die, die < 4 → l.left die = dieCount b.groups die) ∧
          ∀ die, die < 4 → l.known[die]? = some (die == grp.die)) ∧
      ((u.dcmds ≠ [] ∨ f.launchRead m.ctx ref = .hold) → ∀ p, u.pools[3]? = some p →
        let held (i : Nat) : Nat := (p.held[i]?).getD 0
        let least (i : Nat) : Nat := (p.mins[i]?).getD 0
        let granted := held 2 < least 2 ∨
          (held 2 < (p.caps[2]?).getD 0 ∧ p.held.sum + (least 0 - held 0) + (least 1 - held 1) < p.entries)
        (¬ granted → s.engineTake grp m = none) ∧
        (granted → ∃ t r, s.engineTake grp m = some t ∧ (t.die grp.die).dcmds = u.dcmds ++ [m] ∧
          (t.die grp.die).pools[3]? = some r ∧ (2 < p.held.length → r.held[2]? = some (held 2 + 1)) ∧
          t.launches = s.launches ∧ t.mem = s.mem)))

/-- R266–R268, R271–R274: a tile command starts in acceptance order, when fewer than four move (which commands count as moving is
log 31) and no save of its group
leaves it undone (R282; one that a posted MSTAT waits for goes on, log 34), with its record read and checked; a restored copy keeps the record it has read (R283); a notice command is
checked as R272 says. A sector of a TCOPY then lands at its swizzled place in the image, each element from memory or, out of
bounds, the fill; a sector of a TSTORE goes to the memory of its in-bounds elements; one of a TPREF moves nothing and asks
for the pages that are absent. A record that its row refuses ends the command unread. A sector that its buffer's entry no longer admits ends the command (R246, R252), and one on
an absent page parks (R281). A walk-ahead fill holds the translation of a page that the box reaches, or asks for its
service. Bytes are stated for a command with no synchronisation word that has sectors left. -/
def Obligations.TileSectors : Prop :=
  ∀ (s : State) (quad : Nat) (t : TCmd) (grp : Group), s.tcmd quad t.id = some t → s.group t.group = some grp →
    let h := t.shape
    let base := grp.lbase + t.dst
    let undone (x : TCmd) : Prop :=
      (∃ g, s.group x.group = some g ∧ g.stat = .saving) ∧ s.mstatWaits quad x = false
    let first := (∀ x ∈ (s.quad quad).tcmds.takeWhile fun x => x.id != t.id, x.started = true ∨ undone x) ∧
      ((s.quad quad).tcmds.filter fun x => x.moving quad).length < 4 ∧ ¬ undone t
    let ends (u : State) (code count : Nat) : Prop := u.tcmd quad t.id = none ∧
      ∀ w o, s.warp t.warp = some w → t.sop = some o.id → lookupBy TOp.id w.ops o.id = some o →
        ∀ d, o.kind = .status d → ∃ v p, u.warp t.warp = some v ∧ lookupBy TOp.id v.ops o.id = some p ∧
          p.kind = .done [⟨uniLane, d, word (code * 2 ^ 24 + min count (2 ^ 24 - 1))⟩]
    (t.started = false → ¬ first → exec (.tileCommandStart quad t.id) s = .next s) ∧
    (t.started = false → first → t.eop ∈ [8, 9, 10, 13] → (t.eop ∈ [8, 9] → t.record = []) →
      s.engRow t.ctx t.recRef 64 .r ≠ 0 → ∃ u, exec (.tileCommandStart quad t.id) s = .next u ∧ u.mem = s.mem ∧
        ends u (if t.recRef.toNat % 64 ≠ 0 ∨ (t.eop ≠ 13 ∧ t.sync ≠ 0xFFFFFFFF ∧ (t.sync % 16 ≠ 0 ∨
          grp.desc.lbytes < t.sync + 16)) then 2 else s.engRow t.ctx t.recRef 64 .r) 0) ∧
    (t.started = false → first → t.eop ∈ [8, 9, 10, 13] → (t.eop ∈ [8, 9] → t.record = []) →
      s.engRow t.ctx t.recRef 64 .r = 0 → ∀ bs bad, s.engRead t.ctx t.recRef 64 = some (bs, bad) →
        let f := s.findSpan grp.die t.ctx t.recRef 64
        (tileCheck f quad grp t bs = 0 → ∃ u, exec (.tileCommandStart quad t.id) s = .next u ∧
          u.tcmd quad t.id = some { t with started := true, record := bs, sectors := (shapeOf bs).bytes / 256 } ∧
          u.mem = f.mem) ∧
        (tileCheck f quad grp t bs ≠ 0 → ∃ u, exec (.tileCommandStart quad t.id) s = .next u ∧ u.mem = f.mem ∧
          ends u (tileCheck f quad grp t bs) 0)) ∧
    (t.started = false → first → t.eop ∈ [8, 9] → t.record ≠ [] → t.done.length < t.sectors →
      ∃ u, exec (.tileCommandStart quad t.id) s = .next u ∧ u.tcmd quad t.id = some { t with started := true } ∧
        u.mem = s.mem) ∧
    (t.started = false → first → t.eop = 11 →
      (noticeCheck s quad grp t = 0 → ∃ u, exec (.tileCommandStart quad t.id) s = .next u ∧ u.mem = s.mem ∧
        u.tcmd quad t.id = some { t with started := true, sectors := if t.take then t.reg 4 / 256 else 0 }) ∧
      (noticeCheck s quad grp t ≠ 0 → ∃ u, exec (.tileCommandStart quad t.id) s = .next u ∧ u.mem = s.mem ∧
        ends u (noticeCheck s quad grp t) 0)) ∧
    (t.started = true → undone t → t.eop ∈ [8, 9, 13] → ∀ k, exec (.sectorDeliver quad t.id k) s = .next s) ∧
    (∀ k, t.started = true → ¬ undone t → k < t.sectors → k ∉ t.done →
      (s.sectorRow t k ≠ 0 → t.eop ∈ [8, 9, 13] → ∃ u, exec (.sectorDeliver quad t.id k) s = .next u ∧ u.mem = s.mem ∧
        ends u (s.sectorRow t k) t.done.length) ∧
      (∀ key, s.sectorRow t k = 0 → t.eop ∈ [8, 9] → s.sectorAbsent t k = some key → k ∉ t.parked →
        ((s.quad quad).tcmds.map fun x => x.parked.length).sum < 16 → ∃ u, exec (.sectorDeliver quad t.id k) s = .next u ∧
          u.tcmd quad t.id = some { t with parked := t.parked ++ [k] } ∧ u.mem = s.mem) ∧
      (s.sectorRow t k = 0 → t.done.length + 1 < t.sectors → s.latent = [] →
        (t.eop = 13 → ∃ u x, exec (.sectorDeliver quad t.id k) s = .next u ∧ u.tcmd quad t.id = some x ∧
          x.done = t.done ++ [k] ∧ u.mem = s.mem ∧ (u.quad quad).lantern = (s.quad quad).lantern ∧
          ∀ r ∈ sectorRefs t k, ∀ e, s.buf t.ctx (refBuf r) = some e → s.phys t.ctx r = none →
            (s.page (pageKeyOf e t.ctx r)).state ≠ 1 → (s.page (pageKeyOf e t.ctx r)).state < 4 →
            pageKeyOf e t.ctx r ∈ u.wanted) ∧
        (t.sync = 0xFFFFFFFF → s.sectorAbsent t k = none →
          (t.eop = 8 → ∃ u x, exec (.sectorDeliver quad t.id k) s = .next u ∧ u.tcmd quad t.id = some x ∧
            x.done = t.done ++ [k] ∧ u.mem = s.mem ∧
            (∀ i, i < 256 →
              let nib (y : Nat) : Nat :=
                match h.source t.origin y with
                | some nb => s.memNib grp.die t.acq t.ctx h nb
                | none => h.fillNib y
              (u.quad quad).lantern.read (base + swzOf h.swz (256 * k + i)) =
                BitVec.ofNat 8 (nib (512 * k + 2 * i) + 16 * nib (512 * k + 2 * i + 1))) ∧
            ∀ a, a < base + 256 * k ∨ base + 256 * k + 256 ≤ a → h.swz ≤ 3 →
              (u.quad quad).lantern.read a = (s.quad quad).lantern.read a) ∧
          (t.eop = 9 → (∀ r ∈ sectorRefs t k, ∀ p, s.phys t.ctx r = some p → s.cutOff p = false) → s.migrations = [] →
            s.portOp = none → ∃ u x, exec (.sectorDeliver quad t.id k) s = .next u ∧ u.tcmd quad t.id = some x ∧ x.done = t.done ++ [k] ∧
              (u.quad quad).lantern = (s.quad quad).lantern ∧
              (∀ a, (∀ r ∈ sectorRefs t k, s.phys t.ctx r ≠ some a) → u.mem.read a = s.mem.read a) ∧
              ∀ i nb p, i < 512 → h.source t.origin (512 * k + i) = some nb → s.phys t.ctx (h.refAt (nb / 2)) = some p →
                (∀ j mb, j < 512 → h.source t.origin (512 * k + j) = some mb → j ≠ i →
                  s.phys t.ctx (h.refAt (mb / 2)) = some p → mb % 2 ≠ nb % 2) →
                (u.mem.read p).toNat / 16 ^ (nb % 2) % 16 =
                  (s.lanByte t.acq.isSome quad (base + swzOf h.swz (256 * k + i / 2))).toNat / 16 ^ (i % 2) % 16)))) ∧
    ∀ (page : Nat) (e : BufEntry), s.buf t.ctx (refBuf h.ref) = some e → t.started = true → t.eop ≠ 11 →
      let key : PageKey := ⟨t.ctx, refBuf h.ref, page⟩
      let reached := ∃ k, k < t.sectors ∧ ∃ r ∈ sectorRefs t k, refOff r / pageBytes e.pgsz = page
      (reached → (s.page key).state = 1 → ∃ u, exec (.walkAheadFill quad t.id page) s = .next u ∧
        (t.ctx, refBuf h.ref, page) ∈ (u.quad quad).walkTlb ∧ u.mem = s.mem ∧ u.tcmd quad t.id = some t) ∧
      (reached → (s.page key).state ∈ [0, 2, 3] → ∃ u, exec (.walkAheadFill quad t.id page) s = .next u ∧ key ∈ u.wanted ∧
        u.quads = s.quads ∧ u.mem = s.mem) ∧
      (¬ reached → exec (.walkAheadFill quad t.id page) s = .next s)

/-- R276, R277: a ready message joins the oldest started multicast of the named quad with its tag and mask that has not yet
heard from the sender, unless an earlier command of its quad has one to send for the same tag and mask (R23) or the rendezvous
would set a fifth command moving (R271; that it waits then, and that nothing meets while a group is being saved, is log 31); each named quad gathers the sectors of
its slice once and sends them to all; a gathered sector that arrives is done. A post is placed in a receiver slot when fewer
than eight are taken and none holds its tag; a take matches the notice of its tag and length when fewer than four commands
move and neither group is being saved, both end with 0x13 when the lengths differ, and the acknowledgement counts the length
at the sender's synchronisation word and completes the post. -/
def Obligations.TileMeetings : Prop :=
  ∀ (s : State) (quad : Nat) (t : TCmd) (grp : Group), s.tcmd quad t.id = some t → s.group t.group = some grp →
    let moving (q : Nat) : Nat := ((s.quad q).tcmds.filter fun x => x.moving q).length
    (∀ (dst : Nat) (x : TCmd), t.eop = 10 → t.started = true → dst ≠ quad → dst ∈ t.named quad → dst ∉ t.sentReady →
      ((s.quad dst).tcmds.find? fun x =>
        x.eop == 10 && x.started && x.tag == t.tag && x.mask == t.mask && !x.ready.any fun r => r.1 == quad) = some x →
      s.tcmd dst x.id = some x → grp.stat ≠ .saving → (∀ g, s.group x.group = some g → g.stat ≠ .saving) →
      let y := { x with ready := x.ready ++ [(quad, t.id)] }
      let before := (s.quad quad).tcmds.takeWhile fun v => v.id != t.id
      let like (v : TCmd) : Prop := v.eop = 10 ∧ v.started = true ∧ v.tag = t.tag ∧ v.mask = t.mask ∧ dst ∉ v.sentReady
      ((∃ v ∈ before, like v ∧ ∀ g, s.group v.group = some g → g.stat ≠ .saving) →
        exec (.tmcastReady quad dst t.id) s = .next s) ∧
      ((∀ v ∈ before, ¬ like v) → (y.moving dst = false ∨ moving dst < 4) → ∃ u, exec (.tmcastReady quad dst t.id) s = .next u ∧
        u.tcmd dst x.id = some y ∧ u.tcmd quad t.id = some { t with sentReady := t.sentReady ++ [dst] }) ∧
      (y.moving dst = true → 4 ≤ moving dst → exec (.tmcastReady quad dst t.id) s = .next s)) ∧
    (∀ k, t.eop = 10 → t.started = true → t.moving quad = true → k < t.sectors → k ∉ t.done → k ∉ t.fetched →
      t.ownSlice quad k = true → s.sectorRow t k = 0 → s.sectorAbsent t k = none → s.latent = [] →
      ∃ u x bs bad, exec (.sectorDeliver quad t.id k) s = .next u ∧ u.tcmd quad t.id = some x ∧
        x.fetched = t.fetched ++ [k] ∧ x.done = t.done ∧ (k, bs, bad) ∈ x.inbound ∧ bs.length = 256 ∧ u.mem = s.mem ∧
        ∀ r ∈ t.ready, ∀ p, s.tcmd r.1 r.2 = some p → ∃ y, u.tcmd r.1 r.2 = some y ∧ (k, bs, bad) ∈ y.inbound) ∧
    (∀ (k : Nat) (bs : List Byte) (bad : List Bool), (t.inbound.find? fun x => x.1 == k) = some (k, bs, bad) → k ∉ t.done →
      t.done.length + 1 < t.sectors → ∃ u x, exec (.tmcastSector quad t.id k) s = .next u ∧ u.tcmd quad t.id = some x ∧
        x.done = t.done ++ [k] ∧ (∀ y ∈ x.inbound, y.1 ≠ k) ∧ u.mem = s.mem) ∧
    (t.eop = 11 → t.take = false → t.started = true → t.placed = false → (s.quad (t.reg 0)).notices.length < 8 →
      (∀ n ∈ (s.quad (t.reg 0)).notices, n.tag ≠ t.tag) →
      ∃ u n, exec (.noticePostPlace quad t.id) s = .next u ∧
        (u.quad (t.reg 0)).notices = (s.quad (t.reg 0)).notices ++ [n] ∧ n.tag = t.tag ∧ n.quad = quad ∧ n.cmd = t.id ∧
        n.src = grp.lbase + t.dst ∧ n.len = t.reg 4 ∧ n.matched = false ∧
        u.tcmd quad t.id = some { t with placed := true }) ∧
    (∀ n : Notice, t.eop = 11 → t.take = true → t.started = true → t.partner = none →
      (∀ x ∈ (s.quad quad).tcmds.takeWhile fun x => x.id != t.id, x.isTake = true → x.tag = t.tag → x.partner ≠ none) →
      ((s.quad quad).notices.find? fun n => n.tag == t.tag && !n.matched) = some n →
      let free := moving quad < 4 ∧ grp.stat ≠ .saving ∧
        ∀ p g, s.tcmd n.quad n.cmd = some p → s.group p.group = some g → g.stat ≠ .saving
      (¬ free → exec (.noticeMatch quad t.id) s = .next s) ∧
      (free → n.len = t.reg 4 → ∃ u, exec (.noticeMatch quad t.id) s = .next u ∧
        u.tcmd quad t.id = some { t with partner := some (n.quad, n.cmd) } ∧
        { n with matched := true } ∈ (u.quad quad).notices) ∧
      (free → n.len ≠ t.reg 4 → (n.quad ≠ quad ∨ n.cmd ≠ t.id) → ∀ p, s.tcmd n.quad n.cmd = some p →
        ∃ u, exec (.noticeMatch quad t.id) s = .next u ∧ u.tcmd quad t.id = none ∧ n ∉ (u.quad quad).notices ∧
          u.tcmd n.quad n.cmd = some { p with acked := true, code := 0x13 })) ∧
    (t.eop = 11 → t.take = false → t.acked = true → ∃ u, exec (.noticeAck quad t.id) s = .next u ∧
      u.tcmd quad t.id = none ∧ u.mem = s.mem ∧
      (t.code = 0 → t.sync ≠ 0xFFFFFFFF → t.rel = none →
        let a := grp.lbase + t.sync
        let r := syncSum ((s.quad quad).word a) ((s.quad quad).word (a + 4)) (t.reg 4)
        (u.quad quad).word (a + 4) = r.1 % 2 ^ 32 ∧ (u.quad quad).word (a + 8) = ((s.quad quad).word (a + 8) + r.2.1) % 2 ^ 32))

/-- R297, R298, R306, R307: at a pass boundary the ready MMA entry that is first in the arbiter's order gets the next row
pass: the exact sums of the products of a row of A with the columns of B. An entry whose check fails at its first grant
leaves the table and enters the group's error word, whose count may rise further with entries that this makes ready (R315).
R292, R82, R83: the oldest row on its way is added to its tile row, or replaces it, and the last row completes the entry. -/
def Obligations.MatrixRows : Prop :=
  (∀ (s : State) (quad : Nat) (e : MEntry) (g : Group),
    let q := s.quad quad
    let b := mmaBlock e.block
    let left := q.entries.filter fun x => x.id != e.id
    e ∈ passReady q.entries → (∀ x ∈ passReady q.entries, x = e ∨ arbBefore e x = true) → s.entry quad e.id = some e →
    s.group e.group = some g →
    ((e.checked = true ∨ checkEntry q g e = 0) → ∃ u x row, exec (.matrixPassGrant quad) s = .next u ∧
      u.entry quad e.id = some x ∧ x.granted = e.granted + 1 ∧ x.checked = true ∧ x.rows = e.rows ++ [row] ∧
      row.length = 128 * b.nt ∧ (∀ n, n < 128 * b.nt → row[n]? = some ((List.range b.k).foldl (fun acc k =>
        accAdd acc (accMul (aElem q g b e.granted k) (bElem q g b k n))) (0, 0))) ∧
      (u.quad quad).acc = q.acc ∧ (u.quad quad).lantern = q.lantern) ∧
    (e.checked = false → checkEntry q g e ≠ 0 → ∃ u h, exec (.matrixPassGrant quad) s = .next u ∧
      u.entry quad e.id = none ∧ u.group e.group = some h ∧
      (h.merr.1, h.merr.2.1) = (if g.merr.2.2 = 0 then (checkEntry q g e, e.eop) else (g.merr.1, g.merr.2.1)) ∧
      min (g.merr.2.2 + 1) 0xFFFF ≤ h.merr.2.2 ∧ (Calm left → h.merr.2.2 = min (g.merr.2.2 + 1) 0xFFFF) ∧
      (u.quad quad).acc = q.acc ∧ (u.quad quad).lantern = q.lantern)) ∧
  ∀ (s : State) (quad : Nat) (e : MEntry) (g : Group) (row : List AccVal) (rest : List (List AccVal)),
    s.entry quad e.id = some e → s.group e.group = some g → e.rows = row :: rest →
    let q := s.quad quad
    let b := mmaBlock e.block
    let r := b.r0 + e.landed
    (∀ x ∈ q.entries, x.id ∉ e.tileDeps) → row.length = 128 * b.nt → r < 32 →
    (b.nt = 2 → g.quadTile b.tile ≠ g.quadTile (b.tile + 1)) →
    ∃ u, exec (.matrixRowResult quad e.id) s = .next u ∧
      u.entry quad e.id = (if e.landed + 1 = b.m then none else some { e with rows := rest, landed := e.landed + 1 }) ∧
      (∀ (n : Nat) (v : AccVal), row[n]? = some v →
        let tile := g.quadTile (b.tile + n / 128)
        let old := if e.z then (0, 0) else q.accAt tile r (n % 128)
        (u.quad quad).accAt tile r (n % 128) = (BitVec.ofInt 96 (old.1.toInt + v.1), old.2 ||| v.2)) ∧
      ∀ tile i n, i < 32 → n < 128 → (i ≠ r ∨ ∀ j, j < b.nt → tile ≠ g.quadTile (b.tile + j)) →
        (u.quad quad).accAt tile i n = q.accAt tile i n

/-- R289, R309, R310, R312, R313, R317: a ready entry without row passes, checked when it became ready, takes effect and
leaves the table. MSTAT marks its macros stationary once the Lantern stores and atomics of the group's warps before it and
the earlier copies into them are done, MUNSTAT clears them once the earlier MMAs that name them have passed; a mark goes with
the allocation it lies in. MZERO clears a tile and its flag; SCAC writes each exact scaled sum, rounded once, after an earlier
SCAC whose output meets its own; MTREAD writes accumulators. Bytes are stated for entries of one row. R307: none of the
five events of the quad's matrix engine leaves an entry without passes ready and unchecked where none was before. -/
def Obligations.MatrixEntries : Prop :=
  (∀ (s : State) (quad : Nat) (e : MEntry) (g : Group), s.entry quad e.id = some e → s.group e.group = some g →
    let q := s.quad quad
    e.ready q.entries = true → e.checked = true →
    (e.eop = 2 →
      let ms := e.localMacros.map g.quadMacro
      ((∀ w ∈ s.warps, w.group = g.id → LanternDone w e.id) → (∀ t ∈ q.tcmds, tileMeets s quad t e.id ms = false) →
        ∃ u, exec (.macroMark quad e.id) s = .next u ∧ u.entry quad e.id = none ∧
          ∀ m, m ∈ (u.quad quad).marks ↔ (m ∈ q.marks ∨ m ∈ ms) ∧ MacroHeld u quad m) ∧
      ((∃ w ∈ s.warps, w.group = g.id ∧ ¬ LanternDone w e.id) → exec (.macroMark quad e.id) s = .next s)) ∧
    (e.eop = 3 → (∀ x ∈ q.entries, x.group = g.id → x.id < e.id → x.passed = true ∨
        ∀ m ∈ x.localMacros, m ∉ e.localMacros) →
      ∃ u, exec (.macroUnmark quad e.id) s = .next u ∧ u.entry quad e.id = none ∧
        ∀ m, m ∈ (u.quad quad).marks ↔ m ∈ q.marks ∧ (∀ l ∈ e.localMacros, m ≠ g.quadMacro l) ∧ MacroHeld u quad m) ∧
    (e.eop = 4 → ∃ u, exec (.matrixEntryComplete quad e.id) s = .next u ∧ u.entry quad e.id = none ∧
      let tile := g.quadTile ((e.regs[0]?).getD 0).toNat
      tile ∉ (u.quad quad).ovf ∧ ∀ t i n, i < 32 → n < 128 →
        (u.quad quad).accAt t i n = if t = tile then (0, 0) else q.accAt t i n) ∧
    (e.eop = 5 → e.behindScac q.entries = true → exec (.matrixEntryComplete quad e.id) s = .next s) ∧
    (e.eop = 5 → e.behindScac q.entries = false → (scacBlock e.block).rows = 1 → (scacBlock e.block).bf16 = false →
      let b := scacBlock e.block
      ∃ u, exec (.matrixEntryComplete quad e.id) s = .next u ∧ u.entry quad e.id = none ∧ ∀ n, n < 128 →
        (u.quad quad).f32At (g.lbase + b.out + 4 * n) = scacElem (q.accAt (g.quadTile b.tile) b.r0 n)
          (q.f32At (g.lbase + b.sa)) (q.f32At (g.lbase + b.sb + 4 * n))
          (if b.hasC then some (q.f32At (g.lbase + b.c + 4 * n)) else none) false % 2 ^ 32) ∧
    (e.eop = 6 → (mtreadRows e).2 = 1 →
      ∃ u, exec (.matrixEntryComplete quad e.id) s = .next u ∧ u.entry quad e.id = none ∧ ∀ n, n < 128 →
        leNat ((u.quad quad).lantern.readBytes (g.lbase + ((e.regs[0]?).getD 0).toNat + 16 * n) 16) =
          let x := q.accAt (g.quadTile ((e.regs[2]?).getD 0).toNat) (mtreadRows e).1 n
          x.1.toNat + x.2.toNat * 2 ^ 96)) ∧
  ∀ (s t : State) (quad id : Nat) (i : Instr),
    i ∈ [.matrixPassGrant quad, .matrixRowResult quad id, .matrixEntryComplete quad id, .macroMark quad id,
      .macroUnmark quad id] →
    exec i s = .next t → (∀ x ∈ (s.quad quad).entries, s.group x.group ≠ none) → Calm (s.quad quad).entries →
    Calm (t.quad quad).entries

/-- R351–R356, R362, R363, R11: OLOAD loads an orbit, idle, under the lowest handle free on the die. A command that names no
orbit of its context completes with 0x19; an ODONE then completes with 0x1D (log 28). OBIND binds an orbit to the issuing
group, with the page list that it names or with none, and ends a stall. ORUN and OSTEP are refused with 0x1A unless the orbit
is bound and idle, and start the machine otherwise; what a start of LINREC sets is log 35. OSTOP asks a running orbit to stop
and is answered at once by one that does not run. ODONE answers the call of its token: a success of an RHS, SOLVE, EVENT, SCAN
or FIX call sends the machine on, a failure rejects the attempt or, of a SCAN or FIX call, halts; under a stop it removes the
call alone. ODENSE writes dense output at its time, with the window's ends as they stand, or gives its code. A command whose
records' pages are absent (log 33), and a query during a commit or, at its combination, of a stalled orbit (R340, R356, R368),
waits in the Orrery's queue. -/
def Obligations.OrreryCommands : Prop :=
  ∀ (s : State) (grp : Group) (m : Cmd), s.group m.group = some grp →
    let arg (i : Nat) : Nat := ((m.regs[i]?).getD 0).toNat
    let ends (s : State) (code : Nat) : Option State :=
      let r := if m.ebits.getLsbD 8 then s.acked (m.ebits.extractLsb' 5 3).toNat else s
      some (r.giveStatus m.warp m.sop (word (code * 2 ^ 24)))
    let endsN (s : State) (code count : Nat) : Option State :=
      let r := if m.ebits.getLsbD 8 then s.acked (m.ebits.extractLsb' 5 3).toNat else s
      some (r.giveStatus m.warp m.sop (word (code * 2 ^ 24 + min count (2 ^ 24 - 1))))
    let waits (die : Nat) : Option State := some (s.updDie die fun u => { u with ocmds := u.ocmds ++ [m] })
    let ref := dword (arg 0 + arg 1 * 2 ^ 32)
    (m.eop = 16 →
      let f := s.findOrbit grp.die m.ctx ref
      let found := f.orbitRead m.ctx ref (fun _ => false) fun _ _ => 0
      let behind := ∃ x ∈ (s.die grp.die).ocmds, x.eop = 16 ∧ x.warp = m.warp
      ((behind ∨ found = .hold) → s.engineTake grp m = waits grp.die) ∧
      (¬ behind → ∀ c, found = .refused c → s.engineTake grp m = ends f c) ∧
      (¬ behind → ∀ r b, found = .ok r b → (∀ n, n < 64 → s.orbit grp.die n ≠ none) → s.engineTake grp m = ends f 0x18) ∧
      (¬ behind → ∀ r b n, found = .ok r b → n < 64 → s.orbit grp.die n = none →
        (∀ k, k < n → s.orbit grp.die k ≠ none) → grp.die < s.dieU.length →
        ∃ t o, s.engineTake grp m = some t ∧ t.orbit grp.die n = some o ∧ o.ctx = m.ctx ∧
          o.record = r ∧ o.tableau = b ∧ o.mstate = 0 ∧ o.bound = none ∧ o.t = oT0 r ∧ o.h = oH0 r ∧ o.calls = [])) ∧
    (m.eop ∈ [17, 18, 19, 20, 21, 22] →
      let die := arg 0 % 256 / 64
      let n := arg 0 % 256 % 64
      let behind := ∃ x ∈ (s.die die).ocmds, x.names die n = true ∧ x.eop ≠ 21
      (behind → s.engineTake grp m = waits die) ∧
      (¬ behind → (∀ o, s.orbit die n = some o → o.ctx ≠ m.ctx) → (m.eop = 17 → s.listCode m = 0) →
        s.engineTake grp m = ends s (if m.eop = 20 then 0x1D else 0x19)) ∧
      ∀ o, s.orbit die n = some o → o.ctx = m.ctx → (∀ x ∈ (s.die die).ocmds, x.names die n = false) →
        ((s.orbitPaused o = true ∨ (m.eop = 21 ∧ (o.mstate = 11 ∨ (o.stalled = true ∧ s.denseCode o m = 0)))) →
          s.engineTake grp m = waits die) ∧
        (s.orbitPaused o = false →
          (m.eop = 17 → arg 2 = 0 → arg 3 = 0 → o.running = false →
            extentCode s m.ctx o.record o.tableau grp.desc.lbytes [] = 0 →
            ∃ t, s.engineTake grp m = some t ∧ t.mem = s.mem ∧
              t.orbit die n = some { o with bound := some grp.id, plist := [], stalled := false, pbufs := [] }) ∧
          (let lref := dword (arg 2 + arg 3 * 2 ^ 32)
          m.eop = 17 → lref ≠ 0 → s.listCode m = 0 → ∀ e, s.buf m.ctx (refBuf lref) = some e →
            let cnt := min 65536 ((e.size - refOff lref) / 16)
            let f := s.findSpan die m.ctx lref (16 * cnt)
            ∀ bs bad l, s.engRead m.ctx lref (16 * cnt) = some (bs, bad) → l.length = cnt →
              (∀ i, i < cnt → l[i]? = some (recField bs (16 * i) 4, recField bs (16 * i + 4) 4,
                dword (recField bs (16 * i + 8) 8))) →
              extentCode f m.ctx o.record o.tableau grp.desc.lbytes l = 0 → (o.running = false ∨ o.bound = some grp.id) →
              ∃ t, s.engineTake grp m = some t ∧ t.mem = s.mem ∧
                t.orbit die n = some { o with bound := some grp.id, plist := l, stalled := false, pbufs := f.listBufs m.ctx l }) ∧
          (m.eop ∈ [18, 19] →
            let f := s.findOrbit die o.ctx o.ref
            ((o.bound = none ∨ o.mstate ≠ 0) → s.engineTake grp m = ends s 0x1A) ∧
            ∀ b g, o.bound = some b → o.mstate = 0 → s.group b = some g →
              let found := f.orbitRead o.ctx o.ref (extentFar f o.ctx g.desc.lbytes) fun r x =>
                extentCode f o.ctx r x g.desc.lbytes o.plist
              (found = .hold → s.engineTake grp m = waits die) ∧
              (∀ c, found = .refused c → s.engineTake grp m = ends f c) ∧
              ∀ r x, found = .ok r x →
                (tKind x ≠ 4 → fpEq o.t (oTend r) = false →
                  ∃ t p, s.engineTake grp m = some t ∧ t.orbit die n = some p ∧ p.mstate = 1 ∧ p.stage = 0 ∧ p.status = 0x17 ∧
                    p.record = r ∧ p.tableau = x ∧ p.oneStep = (m.eop == 19) ∧ p.runner = [(m.warp, m.sop)] ∧ p.t = o.t ∧
                    t.mem = f.mem) ∧
                (tKind x = 4 →
                  ∃ t p, s.engineTake grp m = some t ∧ t.orbit die n = some p ∧ p.mstate = 2 ∧ p.status = 0x17 ∧
                    p.record = r ∧ p.tableau = x ∧ p.t = 0 ∧ p.runner = [(m.warp, m.sop)] ∧ t.mem = f.mem)) ∧
          (m.eop = 22 →
            (o.running = true → ∃ t p, s.engineTake grp m = some t ∧ t.orbit die n = some p ∧ p.stopping = true ∧
              p.freeing = (o.freeing || m.ebits.getLsbD 0) ∧ p.stops = o.stops ++ [(m.warp, m.sop)] ∧ p.mstate = o.mstate ∧
              ∀ c, c ∈ p.calls ↔ c ∈ o.calls ∧ c.token ≠ none) ∧
            (o.running = false → ∃ t, s.engineTake grp m = some t ∧
              t.orbit die n = (if m.ebits.getLsbD 0 then none else some o) ∧ t.mem = s.mem)) ∧
          (m.eop = 20 →
            ((∀ c ∈ o.calls, c.token ≠ some ((m.regs[0]?).getD 0)) → s.engineTake grp m = ends s 0x1D) ∧
            ∀ c, (o.calls.find? fun c => c.token == some ((m.regs[0]?).getD 0)) = some c →
              let st := arg 1 % 256
              let more (x : Nat) : Nat := min (x + 1) (2 ^ 32 - 1)
              (o.stopping = false → o.freeing = false →
                ∃ t p, s.engineTake grp m = some t ∧ t.orbit die n = some p ∧ (∀ x ∈ p.calls, x.id ≠ c.id) ∧
                  (c.kind ∈ [1, 2, 3] → t.mem = s.mem) ∧ (st = 0 → p.lastFail = o.lastFail) ∧
                  (st ≠ 0 → p.lastFail = word (st + 256 * c.kind)) ∧
                  (c.kind ∈ [1, 2, 3] → st ≠ 0 → p.failed = true ∧ p.mstate = 8) ∧
                  (c.kind ∈ [4, 5] → st ≠ 0 → p.mstate = 12 ∧ p.status = 0x04 ∧ p.calls = []) ∧
                  (c.kind = 1 → p.nrhs = more o.nrhs ∧
                    (st = 0 → tImplicit o.tableau o.stage = true → p.mstate = 3 ∧ p.stage = o.stage) ∧
                    (st = 0 → tImplicit o.tableau o.stage = false → o.stage + 1 = tStages o.tableau → p.mstate = 7) ∧
                    (st = 0 → tImplicit o.tableau o.stage = false → o.stage + 1 ≠ tStages o.tableau →
                      p.mstate = 1 ∧ p.stage = o.stage + 1)) ∧
                  (c.kind = 2 → p.nsolve = more o.nsolve ∧ (st = 0 → p.mstate = 5 ∧ p.stage = o.stage)) ∧
                  (c.kind = 3 → p.nevent = more o.nevent ∧ (st = 0 → p.mstate = o.mstate) ∧
                    (st = 0 → o.mstate = 9 → o.evPhase = 1 → p.gprevOk = true ∧ p.evPhase = 0) ∧
                    (st = 0 → ¬ (o.mstate = 9 ∧ o.evPhase = 1) → p.evPhase = 3)) ∧
                  (c.kind = 4 → p.nrhs = more o.nrhs ∧
                    (st = 0 → p.lrScanned = o.lrScanned ++ [c.chunk] ∧ p.mstate = o.mstate)) ∧
                  (c.kind = 5 → st = 0 → p.lrFixed = o.lrFixed ++ [c.chunk] ∧ p.mstate = o.mstate)) ∧
              (o.stopping = true → ∃ t p, s.engineTake grp m = some t ∧ t.orbit die n = some p ∧ t.mem = s.mem ∧
                (∀ x, x ∈ p.calls ↔ x ∈ o.calls ∧ x.id ≠ c.id) ∧ p.mstate = o.mstate ∧ p.stopping = true)) ∧
          (m.eop = 21 → o.mstate ≠ 11 →
            let out := oAt o.record (dword (arg 4 + arg 5 * 2 ^ 32)) 0
            let τ := arg 2 + arg 3 * 2 ^ 32
            (s.denseCode o m ≠ 0 → s.engineTake grp m = ends s (s.denseCode o m)) ∧
            (s.denseCode o m = 0 → o.stalled = false →
              (∀ u, s.denseWindow die o τ out = .ok u → s.engineTake grp m = endsN u 0 (oN o.record)) ∧
              (oLantern o.record = true → (∃ b g, o.bound = some b ∧ s.group b = some g) →
                s.oStationary o out (oN o.record * oSize o.record) = false → (s.oVec o o.y).2 = false →
                (s.oVec o (o.wv 5)).2 = false → (∀ x ∈ o.dTerms τ o.tprev o.hw, x.1 ≠ 0 → (s.oVec o x.2).2 = false) →
                ∃ u, s.denseWindow die o τ out = .ok u ∧ u.mem = s.mem ∧ ∀ j, j < oN o.record →
                  let at0 (a : Dword) : Nat := (s.oVec o a).1.getD j 0
                  (u.oVec o out).1[j]? = some (if fpEq τ o.tprev then at0 (o.wv 5) else if fpEq τ o.t then at0 o.y
                    else ((o.dTerms τ o.tprev o.hw).filter fun e => e.1 != 0).foldl
                      (fun acc e => ffma (oKind o.record) e.1 (at0 e.2) acc) (at0 (o.wv 5))))))))

/-- R332, R333, R337, R338: a running orbit's next transition. A stop requested waits for the outstanding calls and leaves
the machine idle. In stage form (0) an explicit stage's value is formed, each term one fused multiply-add, and its RHS call
becomes ready. In converge the residual's norm ends the stage, fails the attempt or goes on. In decide a failed attempt or
an error above 1 is rejected with the smaller step, or halts below hmin, and any other is accepted. R360, R361: the first
call to have become ready among those that a waiter matches goes to the oldest such waiter: its descriptor stands in the
warp's registers with the call's token, the call is outstanding, and the gang no longer waits, or waits only for its core's
stores on their way, which is the model's choice (log 7). -/
def Obligations.Orbits : Prop :=
  (∀ (s : State) (die n : Nat) (o : Orbit), s.orbit die n = some o → o.running = true → s.orbitPaused o = false →
     let takes (x : Orbit) : Prop := ∃ t, exec (.orreryCombinationDone die n) s = .next t ∧ t.orbit die n = some x
     (o.stopping = true → o.quiet = false → exec (.orreryCombinationDone die n) s = .next s) ∧
     (o.stopping = true → o.quiet = true → o.freeing = false → (∀ m ∈ (s.die die).ocmds, m.names die n = false) →
       ∃ x, takes x ∧ x.mstate = 0 ∧ x.status = 0x13 ∧ x.window = false ∧ x.calls = []) ∧
     (o.stopping = false → o.stalled = false → tKind o.tableau ≠ 4 →
       (o.mstate = 1 → tImplicit o.tableau o.stage = false → (o.stage ≠ 0 ∨ (o.k0 = false ∧ o.fsal = false)) →
         oLantern o.record = true → (∃ b g, o.bound = some b ∧ s.group b = some g) →
         s.oStationary o (o.wv 0) (oN o.record * oSize o.record) = false → (s.oVec o o.y).2 = false →
         (∀ x ∈ o.zTerms o.stage, x.1 ≠ 0 → (s.oVec o x.2).2 = false) →
         ∃ t x c, exec (.orreryCombinationDone die n) s = .next t ∧ t.orbit die n = some x ∧ x.mstate = 2 ∧ t.mem = s.mem ∧
           x.calls = o.calls ++ [c] ∧ c.kind = 1 ∧ c.token = none ∧ c.desc[1]? = some (word (oRhs o.record)) ∧
           (∀ j, j < oN o.record → (t.oVec x (x.wv 0)).1[j]? =
             some (((o.zTerms o.stage).filter fun e => e.1 != 0).foldl (fun acc e =>
               ffma (oKind o.record) e.1 ((s.oVec o e.2).1.getD j 0) acc) ((s.oVec o o.y).1.getD j 0)))) ∧
       (o.mstate = 6 →
         (fpLe o.rho (oKappa o.record) = true → takes (if o.stage + 1 = tStages o.tableau then { o with mstate := 7 }
           else { o with mstate := 1, stage := o.stage + 1, m := 0 })) ∧
         (fpLe o.rho (oKappa o.record) = false → (fpNaN o.rho = true ∨ o.m = oMaxit o.record ∨
             (1 ≤ o.m ∧ fpLe o.rhoprev o.rho = true)) →
           takes { o with nnfail := min (o.nnfail + 1) (2 ^ 32 - 1), failed := true, mstate := 8 })) ∧
       (o.mstate = 8 →
         let bad := o.failed = true ∨ fpNaN o.err = true
         let h := rejectH o (o.failed || fpNaN o.err)
         ((bad ∨ fpLt fpOne o.err = true) → fpLt h (oHmin o.record) = false →
           ∃ x, takes x ∧ x.mstate = 1 ∧ x.stage = 0 ∧ x.h = h ∧ x.nreject = min (o.nreject + 1) (2 ^ 32 - 1) ∧ x.t = o.t ∧
             x.failed = false ∧ x.tend = (if fpLe (oTend o.record) (fadd .f64 o.t h) then oTend o.record else fadd .f64 o.t h) ∧
             x.hatt = if fpLe (oTend o.record) (fadd .f64 o.t h) then fsub .f64 (oTend o.record) o.t else h) ∧
         ((bad ∨ fpLt fpOne o.err = true) → fpLt h (oHmin o.record) = true → o.freeing = false →
           ∃ x, takes x ∧ x.mstate = 12 ∧ x.status = 0x12 ∧ x.h = h) ∧
         (¬ bad → fpLt fpOne o.err = false → ∃ x, takes x ∧ x.hacc = acceptH o ∧
           x.mstate = (if oNev o.record = 0 then 11 else 9) ∧ x.t = o.t ∧ x.nreject = o.nreject)))) ∧
  ∀ (s : State) (die : Nat) (o : Orbit) (c : OCall) (w : OWaiter), s.nextHandoff die s.waiters = some (o, c, w) →
    (∀ x ∈ s.readyCalls die, (∃ v ∈ s.waiters, v.fits die x.1 = true) → c.id ≤ x.2.id) ∧
    (∀ v ∈ s.waiters, v.fits die o = true → w.id ≤ v.id) ∧ o.stopping = false ∧ w.fits die o = true ∧
    ∀ (v : Warp) (g : Gang), c.desc.length = 16 → w.d ≤ 16 → s.warp w.warp = some v → s.gang w.gang = some g →
      g.wait ≠ .none → g.rest ≠ [] → g.warp = w.warp →
      v.lanesWhere (fun l ln => inMask g.lanes l && ln.npc.isSome && ln.stat != .exited) = 0 →
      let seq := if o.seq = 0xFFFFFF then 1 else o.seq + 1
      let token := word (die * 64 + o.num + seq * 256)
      let clear := match s.group w.group with | some q => s.wtClear q.coreId | none => s.wtClear 0
      ∃ t x y, exec (.callHandoff die o.num) s = .next t ∧
        t.gang w.gang = some { g with wait := if clear then .none else .acquire } ∧
        t.warp w.warp = some x ∧ (∀ u ∈ t.waiters, u.id ≠ w.id) ∧ t.mem = s.mem ∧
        (∀ i, i < 16 → x.getS (w.d + i) = if i = 2 then token else (c.desc[i]?).getD 0) ∧
        t.orbit die o.num = some y ∧ y.seq = seq ∧ ∀ q ∈ y.calls, q.id = c.id → q.token = some token ∧ q.holder = some w.group

/-- R376, R377, R380, R381, R385–R391, R442, R448: the Vesper unit takes a command into its queue (never full, log 12) and performs
it there, once it is not behind one of its group that waits for its slot; one that waits, a VGIVE for its release, stays. VNEW
makes a vigil of 2^k lumens, half of them in the slot it names, or is refused; of a queue or bin it makes the object that its
descriptor gives. VFREE frees a quiet vigil; a queue or bin that it frees sends the lumens of its records home as abandoned
and gives a gang that waits in QPOP 0x19. One of another package's object leaves this package, and no status comes back (log
36). VSPAWN starts its launch with a share of its slot's lumens, VSEND sends its record with one. VGIVE sends lumens of a slot
back to their root, a part or the whole, which frees the slot. VBORROW takes from the die's purse. QPUSH and BSEND split the
slot's lumens with their record, and keep them when the target refuses it, their count being the share in both cases. A group
that has ended then gives up its slots (R382); what is said of a slot is said of a group that has not. -/
def Obligations.VesperCommands : Prop :=
  (∀ (s : State) (grp : Group) (m : Cmd), m.eop ∈ [23, 24, 25, 26, 27, 28, 29, 30] →
    s.engineTake grp m = some (s.updDie grp.die fun u => { u with vcmds := u.vcmds ++ [m] })) ∧
  ∀ (s : State) (grp : Group) (m : Cmd) (core : Nat), s.group m.group = some grp → grp.id = m.group →
    grp.die < s.dieU.length → grp.die < 4 → s.pkg.pkgid < 64 → grp.slots.length = 4 → (∀ x ∈ (s.core core).cmds, x.id ≠ m.id) →
    (∀ d, d < 4 → ∀ x ∈ (s.die d).dcmds ++ (s.die d).ocmds, x.id ≠ m.id) →
    (∀ d, d < 4 → d ≠ grp.die → ∀ x ∈ (s.die d).vcmds, x.id ≠ m.id) →
    let arg (i : Nat) : Nat := ((m.regs[i]?).getD 0).toNat
    let ref (i : Nat) : Dword := dword (arg i + arg (i + 1) * 2 ^ 32)
    let runs (t : State) : Prop := exec (.engineCommandAccept core m.id) s = .next t
    let left (t : State) (l : List Cmd) : State := (t.updDie grp.die fun u => { u with vcmds := l }).settleSlots grp.die
    let gives (t : State) (code count : Nat) : Prop :=
      runs (left (t.giveStatus m.warp m.sop (word (code * 2 ^ 24 + min count (2 ^ 24 - 1)))) [])
    let status (t : State) (code count : Nat) : Prop := ∀ (p : Warp) (q : TOp) (d : Nat), s.warp m.warp = some p →
      m.sop = some q.id → lookupBy TOp.id p.ops q.id = some q → q.kind = .status d → ∃ p' q', t.warp m.warp = some p' ∧
        lookupBy TOp.id p'.ops q.id = some q' ∧ q'.kind = .done [⟨uniLane, d, word (code * 2 ^ 24 + min count (2 ^ 24 - 1))⟩]
    let ready (m : Cmd) : Prop := m.ebits.getLsbD 8 = false ∨
      ∀ w, s.warp m.warp = some w → s.releaseReadyAt w grp.coreId (m.ebits.extractLsb' 5 3).toNat m.id = true
    let l := (m.ebits.extractLsb' 3 2).toNat
    let sl := grp.lslot l
    let held := sl.balance ≠ 0 ∧ sl.reserved = false
    let amt := m.ebits.getLsbD 2 = true
    let slot (t : State) (x : LSlot) : Prop := grp.stat ≠ .ended → ∃ g, t.group grp.id = some g ∧ g.lslot l = x
    (∀ x : Cmd, (s.die grp.die).vcmds = [x, m] → x.eop = 29 → x.group = m.group → m.eop ∈ [25, 26, 27, 28, 29, 30] →
      (x.ebits.extractLsb' 3 2).toNat = l → held → x.ebits.getLsbD 2 = false → ¬ ready x → runs (left s [x, m])) ∧
    ((s.die grp.die).vcmds = [m] →
    (m.eop = 23 → l = 0 →
      let k := arg 0 % 64
      let scope := (m.ebits.extractLsb' 5 3).toNat
      let good := (scope = 3 ∨ (scope = 4 ∧ s.pkg.negotiated.getLsbD 7 = true)) ∧ 3 ≤ k ∧ k ≤ 62
      let at' := (m.ebits.extractLsb' 1 2).toNat
      (¬ good → gives s 0x10 0) ∧
      (good → ((grp.lslot at').balance ≠ 0 ∨ (grp.lslot at').reserved = true) → gives s 0x1B 0) ∧
      (good → (grp.lslot at').balance = 0 → (grp.lslot at').reserved = false → (s.die grp.die).vobjs = [] →
        ∃ t h o, runs t ∧ t.vobj h = some o ∧ o.kind = 0 ∧ o.ctx = m.ctx ∧ o.k = k ∧
          o.pool = 2 ^ (k - 1) ∧ o.scope = scope ∧ hDie h = grp.die ∧ status t 0 h ∧
          (grp.stat ≠ .ended → ∃ g, t.group grp.id = some g ∧ g.lslot at' = { vigil := h, balance := 2 ^ (k - 1) }))) ∧
    (m.eop = 23 → l ∈ [1, 2] →
      let row := s.engRow m.ctx (ref 0) 64 .r
      let f := s.findSpan grp.die m.ctx (ref 0) 64
      ((row = 2 ∨ arg 0 % 64 ≠ 0) → gives s 0x02 0) ∧ (row = 3 → arg 0 % 64 = 0 → gives s 0x03 0) ∧
      (row = 0 → arg 0 % 64 = 0 → ∀ b bad, s.engRead m.ctx (ref 0) 64 = some (b, bad) →
        let count := recField b 0x0C 1
        let block := dword (recField b 0x10 8)
        let u := if l = 1 then f else f.findLaunch grp.die m.ctx block
        (vdescCode f m.ctx l b ≠ 0 → gives f (vdescCode f m.ctx l b) 0) ∧
        (vdescCode f m.ctx l b = 0 → l = 2 → ∀ c, u.launchRead m.ctx block = .refused c → gives u c 0) ∧
        (vdescCode f m.ctx l b = 0 → (s.die grp.die).vobjs = [] →
          ∀ x y, (l = 1 ∧ x = [] ∧ y = [] ∨ l = 2 ∧ ∃ lb d bx by', u.launchRead m.ctx block = .ok lb d ∧ lb.groups = 1 ∧
            48 * count ≤ d.lbytes ∧ u.engRead m.ctx block 256 = some (x, bx) ∧ u.engRead m.ctx lb.desc 64 = some (y, by')) →
          ∃ t h o, runs t ∧ t.vobj h = some o ∧ hDie h = grp.die ∧ status t 0 h ∧ o.kind = l ∧ o.ctx = m.ctx ∧
            o.spillcap = recField b 8 4 ∧ o.count = count ∧ o.launch = block ∧ o.vigil = recField b 0x18 4 % 2 ^ 24 ∧
            o.timer = recField b 0x1C 4 ∧ o.block = x ∧ o.kdesc = y ∧ o.recs = [] ∧ o.waiters = [] ∧ o.since = none))) ∧
    (m.eop = 24 →
      let h := arg 0 % 2 ^ 24
      (h ≠ 0 → hPkg h ≠ s.pkg.pkgid → runs (left s [])) ∧
      ((h = 0 ∨ hPkg h = s.pkg.pkgid) → s.vvalid m.ctx h [0, 1, 2] = none → gives s 0x19 0) ∧
      ∀ o, s.vvalid m.ctx h [0, 1, 2] = some o →
        (o.kind = 0 → o.pool ≠ 2 ^ o.k → gives s 0x1A 0) ∧
        (o.kind = 0 → o.pool = 2 ^ o.k → ∃ t, runs t ∧ t.vobj h = none ∧ (∀ die, t.purse die h = none) ∧ status t 0 0) ∧
        (o.kind ≠ 0 → o.waiters = [] → ∃ t, runs t ∧ t.vobj h = none ∧ status t 0 o.recs.length ∧
          ∀ r ∈ o.recs, r.lumens ≠ 0 → ∃ f ∈ t.vflights, f.msg = .ret r.vigil r.lumens true) ∧
        (o.kind ≠ 0 → ∀ (w : VWaiter) (g : Gang) (p : Warp), o.waiters = [w] → s.gang w.gang = some g →
          s.warp w.warp = some p → g.wait ≠ .none → g.rest ≠ [] → g.warp = w.warp → w.d < 32 →
          p.lanesWhere (fun l ln => inMask g.lanes l && ln.npc.isSome && ln.stat != .exited) = 0 →
          ∃ t q, runs t ∧ t.vobj h = none ∧ t.gang w.gang = some { g with wait := .none } ∧ t.warp w.warp = some q ∧
            q.getS w.d = 0x19000000)) ∧
    (m.eop ∈ [25, 26, 27, 28, 29, 30] → (m.eop ∈ [26, 27, 28] → arg 1 % 16 ≤ 8) → ¬ held → gives s 0x1B 0) ∧
    (m.eop = 25 → held →
      let f := s.findLaunch grp.die m.ctx (ref 0)
      let x := arg 2 + arg 3 * 2 ^ 32
      let most := 2 ^ 62 ≤ x ∨ ∃ g, s.blockGroups m.ctx (ref 0) = some g ∧ x < g
      (amt → most → gives s 0x1D 0) ∧
      ((amt → ¬ most) → (∀ c, f.launchRead m.ctx (ref 0) = .refused c → gives f c 0) ∧
        ∀ b d, f.launchRead m.ctx (ref 0) = .ok b d → (amt → b.groups ≤ x ∧ x < sl.balance) →
          (¬ amt → 2 * b.groups ≤ sl.balance) →
          let c := if m.ebits.getLsbD 2 then x else sl.balance / 2
          ∃ t n, runs t ∧ t.launches = s.launches ++ [n] ∧ n.block = ref 0 ∧ n.ctx = m.ctx ∧ n.desc = d ∧ n.groups = b.groups ∧
            n.home = grp.die ∧ n.spawn = some (sl.vigil, c) ∧ n.acq = m.ebits.getLsbD 9 ∧ status t 0 b.groups ∧
            slot t { sl with balance := sl.balance - c })) ∧
    (m.eop = 29 → held →
      let x := arg 0 + arg 1 * 2 ^ 32
      (amt → (x = 0 ∨ sl.balance < x) → gives s 0x1D 0) ∧
      ((amt → x ≠ 0 ∧ x ≤ sl.balance) → ¬ ready m → runs (left s [m])) ∧
      ((amt → x ≠ 0 ∧ x ≤ sl.balance) → ready m →
        let give := if m.ebits.getLsbD 2 then x else sl.balance
        ∃ t, runs t ∧ (∃ f ∈ t.vflights, f.msg = .ret sl.vigil give false) ∧ status t 0 give ∧
          slot t (if sl.balance - give = 0 then {} else { sl with balance := sl.balance - give }))) ∧
    (m.eop = 30 → held →
      let x := arg 0 + arg 1 * 2 ^ 32
      ((x = 0 ∨ 2 ^ 40 < x) → gives s 0x1D 0) ∧
      (1 ≤ x → x ≤ 2 ^ 40 → ∀ p, s.purse grp.die sl.vigil = some p → x ≤ p.balance →
        ∃ t, runs t ∧ status t 0 x ∧ slot t { sl with balance := sl.balance + x })) ∧
    (m.eop ∈ [26, 27, 28] → 8 < arg 1 % 16 → gives s 0x10 0) ∧
    (m.eop ∈ [26, 27, 28] → held → ¬ amt → 2 ≤ sl.balance → arg 1 % 16 ≤ 8 →
      let h := arg 0 % 2 ^ 24
      let kind := m.eop - 26
      let c := sl.balance / 2
      let r : Rec := { lumens := c, vigil := sl.vigil
                       payload := (List.range (arg 1 % 16)).map fun i => (m.regs[4 + i]?).getD 0 }
      (m.eop = 26 → ∃ t, runs t ∧ (∃ f ∈ t.vflights, f.src = grp.die ∧ f.msg = .vsend h m.ctx r m.warp m.sop c) ∧
        slot t { sl with balance := sl.balance - c }) ∧
      (m.eop ≠ 26 → s.vvalid m.ctx h [kind] = none → ∃ t, runs t ∧ status t 0x19 c ∧ slot t sl) ∧
      (m.eop ≠ 26 → ∀ o, s.vvalid m.ctx h [kind] = some o →
        (m.eop = 28 → o.vigil ≠ sl.vigil → ∃ t, runs t ∧ status t 0x1F c ∧ slot t sl) ∧
        (o.waiters = [] → (m.eop = 28 → o.vigil = sl.vigil) → 32 + o.spillcap ≤ o.recs.length →
          ∃ t, runs t ∧ status t 0x1C c ∧ slot t sl) ∧
        (o.waiters = [] → o.recs.length < 32 + o.spillcap → (m.eop = 28 → o.vigil = sl.vigil ∧ o.recs.length + 1 < o.count) →
          ∃ t x, runs t ∧ t.vobj h = some x ∧ x.recs = o.recs ++ [r] ∧ status t 0 c ∧
            slot t { sl with balance := sl.balance - c }))))

/-- R23, R25: a message arrives after those of its class that its unit sent to the same unit before; that a VSEND is of the
request class and moves of lumens are of the control class is log 12. R382, R381, R383: a return message adds its lumens to
its vigil's root pool, and a vigil whose pool is whole is quiet: its waiters are released, at once or, by the model's choice,
when their core's stores on their way are done (log 7). A draw reaches its purse, which keeps it, or sends it back for a
watched vigil. A recall empties every purse of its vigil, each balance on its way to the root. R385, R387, R388, R390, R391: a
VSEND record that arrives joins the target queue or bin, a bin that is full then starting its batch, and completes with the
lumens it carried. A target that is none of the context's queues and bins, is full, or is a bin of another vigil sends the
lumens back and gives its code, with the same count. A bin's timer starts all its records as one batch. -/
def Obligations.VesperMessages : Prop :=
  (∀ (s : State) (f : VFlight), lookupBy VFlight.id s.vflights f.id = some f →
    (∃ e ∈ s.vflights.takeWhile fun e => e.id != f.id, e.src = f.src ∧ e.die = f.die ∧ e.msg.cls = f.msg.cls) →
    ∀ i ∈ [Instr.lumenReturn f.die f.id, .purseDraw f.die f.id, .vsendMessage f.die f.id], exec i s = .next s) ∧
  ((∀ (s : State) (f : VFlight) (v amt : Nat) (ab : Bool) (o : VObj), lookupBy VFlight.id s.vflights f.id = some f →
     s.flightDue f = true → f.die < 4 → f.msg = .ret v amt ab → s.vobj v = some o → o.kind = 0 →
     (∀ die, (s.die die).vcmds = []) → (∀ g ∈ s.groups, g.stat = .ended → g.slots.all LSlot.free = true) → o.aband < 2 ^ 24 →
     ∃ t x, exec (.lumenReturn f.die f.id) s = .next t ∧ t.vobj v = some x ∧ x.pool = o.pool + amt ∧
       x.aband = (if ab then min (o.aband + 1) 0xFFFFFF else o.aband) ∧ lookupBy VFlight.id t.vflights f.id = none ∧
       t.mem = s.mem ∧ (o.pool + amt ≠ 2 ^ o.k → x.waiters = o.waiters) ∧
       (o.pool + amt = 2 ^ o.k → x.waiters = [] ∧ ∀ (w : VWaiter) (g : Gang) (p : Warp), o.waiters = [w] →
         s.gang w.gang = some g → s.warp w.warp = some p → g.wait ≠ .none → g.rest ≠ [] → w.d < 32 →
         p.lanesWhere (fun l ln => inMask g.lanes l && ln.npc.isSome && ln.stat != .exited) = 0 → g.warp = w.warp →
         let clear := match s.group w.group with | some q => s.wtClear q.coreId | none => s.wtClear 0
         ∃ q, t.gang w.gang = some { g with wait := if clear then .none else .acquire } ∧ t.warp w.warp = some q ∧
           q.getS w.d = if x.aband = 0 then 0 else word (0x04 * 2 ^ 24 + x.aband))) ∧
   (∀ (s : State) (f : VFlight) (v amt : Nat), lookupBy VFlight.id s.vflights f.id = some f → s.flightDue f = true →
     f.msg = .draw v amt →
     f.die < 4 → s.dieU.length = 4 → (s.die f.die).vcmds = [] → (s.die f.die).purses.length < 1024 →
     (∀ g ∈ s.groups, g.stat = .ended → g.slots.all LSlot.free = true) →
     let old := match s.purse f.die v with | some p => p.balance | none => 0
     let watched := match s.vobj v with | some o => o.watched | none => false
     ∃ t p, exec (.purseDraw f.die f.id) s = .next t ∧ t.purse f.die v = some p ∧ t.mem = s.mem ∧
       (watched = false → p.balance = old + amt ∧ t.vflights = removeBy VFlight.id f.id s.vflights) ∧
       (watched = true → p.balance = 0 ∧ (old + amt ≠ 0 → ∃ m ∈ t.vflights, m.msg = .ret v (old + amt) false))) ∧
   ∀ (s : State) (h : Nat) (o : VObj), s.vobj h = some o → o.recalled = true → s.dieU.length = 4 → s.pkg.pkgid < 64 →
     ∃ t x, exec (.purseRecall (hDie h) (hNum h)) s = .next t ∧ t.vobj h = some x ∧ x = { o with recalled := false } ∧
       ∀ (die : Nat) (p : Purse), die < 4 → s.purse die h = some p →
         (∃ q, t.purse die h = some q ∧ q.balance = 0) ∧
         (p.balance ≠ 0 → ∃ m ∈ t.vflights, m.die = hDie h ∧ m.msg = .ret h p.balance false)) ∧
  (∀ (s : State) (f : VFlight) (h ctx w c : Nat) (r : Rec) (sop : Option Nat),
    lookupBy VFlight.id s.vflights f.id = some f → s.flightDue f = true → f.die < 4 → f.msg = .vsend h ctx r w sop c →
    s.dieU.length = 4 →
    let obj := s.vvalid ctx h [1, 2]
    let status (t : State) (v : Word) : Prop := ∀ (p : Warp) (q : TOp) (d : Nat), s.warp w = some p → sop = some q.id →
      lookupBy TOp.id p.ops q.id = some q → q.kind = .status d →
      ∃ p' q', t.warp w = some p' ∧ lookupBy TOp.id p'.ops q.id = some q' ∧ q'.kind = .done [⟨uniLane, d, v⟩]
    let back (code : Nat) : Prop := ∃ t, exec (.vsendMessage f.die f.id) s = .next t ∧
      status t (word (code * 2 ^ 24 + min c (2 ^ 24 - 1))) ∧
      (r.lumens ≠ 0 → ∃ m ∈ t.vflights, m.msg = .ret r.vigil r.lumens false)
    (obj = none → back 0x19) ∧
    ∀ o, obj = some o →
      (o.kind = 2 → o.vigil ≠ r.vigil → back 0x1F) ∧
      ((o.kind = 1 ∨ o.vigil = r.vigil) → o.waiters = [] →
        (32 + o.spillcap ≤ o.recs.length → back 0x1C) ∧
        (o.recs.length < 32 + o.spillcap → c < 2 ^ 24 →
          ∃ t x, exec (.vsendMessage f.die f.id) s = .next t ∧ t.vobj h = some x ∧ status t (word c) ∧
            (o.kind = 1 ∨ o.recs.length + 1 < o.count → x.recs = o.recs ++ [r] ∧ t.launches = s.launches) ∧
            (o.kind = 2 → o.count = o.recs.length + 1 → x.recs = [] ∧ x.since = none ∧
              ∃ l, t.launches = s.launches ++ [l] ∧ l.batch = o.recs ++ [r] ∧ l.block = o.launch ∧ l.ctx = o.ctx)))) ∧
  ∀ (s : State) (h since : Nat) (o : VObj), s.vobj h = some o → o.kind = 2 → o.since = some since → s.pkg.pkgid < 64 →
    (o.timer ≠ 0 → since + o.timer ≤ (s.die (hDie h)).clk → o.recs ≠ [] →
      ∃ t x l, exec (.binTimer (hDie h) (hNum h)) s = .next t ∧ t.vobj h = some x ∧ x.recs = [] ∧ x.since = none ∧
        t.launches = s.launches ++ [l] ∧ l.batch = o.recs ∧ l.block = o.launch ∧ l.ctx = o.ctx ∧ l.home = hDie h) ∧
    ((o.timer = 0 ∨ (s.die (hDie h)).clk < since + o.timer) → exec (.binTimer (hDie h) (hNum h)) s = .next s)

/-- R412: a kernel is installed in a stack's table under its context and number, in place of an earlier one, when the stack
and the number exist, the feature is on and every word and loop is as the rule demands; otherwise the table is kept and the
refusal reported. R416, R418: a kick that arrives waits in the queue of 64, and one that finds it full leaves the status
0x12 in its block. R422, R427: a refresh kick whose block fails leaves an event, one for a kernel that is not running is
dropped; one for the running kernel replaces its page list when it covers the buffers, and ends the kernel with 0x11 when it
does not. R418: with no kernel running, the Lamplighter reads the block of the first kick of its queue. A block that cannot be
read or written leaves an event and nothing else; a kick of a destroyed context completes with 0x04 (R426). The first failure
of the checks, or of the page list with 0x11, completes the kernel with its code and count 0 in the block, no buffer read or
written; otherwise the kernel runs, and with an acquire the home slices have written back the lines of its chunks (R423). -/
def Obligations.NearKernels : Prop :=
  ((∀ (s : State) (stack ctx kid : Nat) (ws : List Word),
     let ok := stack < 12 ∧ s.pkg.negotiated.getLsbD 5 = true ∧ 0x100 ≤ kid ∧ kid < 0x10000 ∧ nearProgOk ws = true
     (ok → ∃ t p, exec (.nbuInstall stack ctx kid ws) s = .next t ∧ t.prog stack ctx kid = some p ∧ p.words = ws ∧
       ∀ n c k, (n, c, k) ≠ (stack, ctx, kid) → t.prog n c k = s.prog n c k) ∧
     (¬ ok → exec (.nbuInstall stack ctx kid ws) s = .next (s.post "install-refused" [stack, ctx, kid]))) ∧
   ∀ (s : State) (stack : Nat) (k : Kick) (rest : List Kick), (s.stack stack).arriving = k :: rest →
     (k.ref.getLsbD 0 = false →
       ((s.stack stack).queue.length < 64 → ∃ t, exec (.kick stack) s = .next t ∧
         (t.stack stack).queue = (s.stack stack).queue ++ [k] ∧ (t.stack stack).arriving = rest ∧ t.mem = s.mem) ∧
       (64 ≤ (s.stack stack).queue.length → s.blockRow k = true → ∀ bs bad, s.engRead k.ctx k.ref 128 = some (bs, bad) →
         ∃ t, exec (.kick stack) s = .next t ∧ (t.stack stack).queue = (s.stack stack).queue ∧
           (t.stack stack).arriving = rest ∧ ∀ ps, s.physList k.ctx (refAdd k.ref 0x78) 4 = .ok ps → ps.Nodup →
             s.migrations = [] → s.portOp = none → (∀ p ∈ ps, s.cutOff p = false) →
             leNat (ps.map t.mem.read) = 0x12000000)) ∧
     (k.ref.getLsbD 0 = true →
       (s.blockRow { k with ref := k.ref - 1 } = false → ∃ t, exec (.listRefresh stack) s = .next t ∧ t.mem = s.mem ∧
         (t.stack stack).arriving = rest ∧ (t.stack stack).running = (s.stack stack).running ∧
         t.pkg.events = s.pkg.events ++ [⟨"kick-fault", [stack, k.ctx, k.ref.toNat]⟩]) ∧
       (s.blockRow { k with ref := k.ref - 1 } = true → (s.stack stack).running = none →
         ∃ t, exec (.listRefresh stack) s = .next t ∧ (t.stack stack).running = none ∧
           (t.stack stack).arriving = rest ∧ t.mem = s.mem) ∧
       ∀ (r : NKernel) (f lb : List Byte) (x y : Bool), s.blockRow { k with ref := k.ref - 1 } = true →
         (s.stack stack).running = some r → r.kick.ctx = k.ctx →
         r.kick.ref = k.ref - 1 → s.engRead k.ctx (refAdd r.kick.ref 0x50) 12 = some (f, x) →
         let list := dword (recField f 0 8)
         let n := recField f 8 4
         let used := (s.kernelUse stack k.ctx (nkid r.block)).elim [] NUse.all
         let row := s.engRow k.ctx list (16 * n) .r
         (row = 0 → 1 ≤ n → n ≤ 65536 → s.engRead k.ctx list (16 * n) = some (lb, y) →
           s.listOk stack r.kick r.block used (plistOf lb n) = true →
           ∃ t, exec (.listRefresh stack) s = .next t ∧ (t.stack stack).arriving = rest ∧ t.mem = s.mem ∧
             (t.stack stack).running =
               some { r with plist := plistOf lb n, pbufs := s.listBufs k.ctx (plistOf lb n), stale := false }) ∧
         ((row ≠ 0 ∨ n = 0 ∨ 65536 < n ∨ s.engRead k.ctx list (16 * n) = some (lb, y) ∧
             s.listOk stack r.kick r.block used (plistOf lb n) = false) → r.passes = [] → s.latent = [] → s.migrations = [] →
           ∃ t, exec (.listRefresh stack) s = .next t ∧ (t.stack stack).arriving = rest ∧ (t.stack stack).running = none ∧
             ∀ ps, s.physList k.ctx (refAdd r.kick.ref 0x78) 4 = .ok ps → ps.Nodup → s.portOp = none →
               (∀ p ∈ ps, s.cutOff p = false) →
               leNat (ps.map t.mem.read) = 0x11 * 2 ^ 24 + if nkid r.block = 4 then 0 else min r.poisoned (2 ^ 24 - 1)))) ∧
  ∀ (s : State) (stack : Nat) (k : Kick) (rest : List Kick), (s.stack stack).running = none →
    (s.stack stack).queue = k :: rest →
    (s.blockRow k = false → ∃ t, exec (.nbuKernelStart stack) s = .next t ∧ (t.stack stack).queue = rest ∧
      (t.stack stack).running = none ∧ t.mem = s.mem ∧
      t.pkg.events = s.pkg.events ++ [⟨"kick-fault", [stack, k.ctx, k.ref.toNat]⟩]) ∧
    ∀ bs bad, s.blockRow k = true → s.engRead k.ctx k.ref 128 = some (bs, bad) →
      let ends (code : Nat) : Prop := ∃ t, exec (.nbuKernelStart stack) s = .next t ∧ (t.stack stack).queue = rest ∧
        (t.stack stack).running = none ∧ ∀ ps, s.physList k.ctx (refAdd k.ref 0x78) 4 = .ok ps → ps.Nodup →
          s.migrations = [] → s.latent = [] → s.portOp = none → (∀ p ∈ ps, s.cutOff p = false) →
            leNat (ps.map t.mem.read) = code * 2 ^ 24 ∧ ∀ a, a ∉ ps → t.mem.read a = s.mem.read a
      (k.gone = true → ends 0x04) ∧
      (k.gone = false → ∀ code, s.blockCode stack k bs = code → code ≠ 0 → ends code) ∧
      ∀ lb x, k.gone = false → s.blockCode stack k bs = 0 → s.engRead k.ctx (nplist bs) (16 * npcount bs) = some (lb, x) →
        let list := plistOf lb (npcount bs)
        let used := (s.kernelUse stack k.ctx (nkid bs)).elim [] NUse.all
        (s.listOk stack k bs used list = false → ends 0x11) ∧
        (s.listOk stack k bs used list = true → ∃ t, exec (.nbuKernelStart stack) s = .next t ∧
          (s.latent = [] → t.mem = s.mem) ∧ (t.stack stack).queue = rest ∧
          (let r : NKernel := { kick := k, block := bs, plist := list, pbufs := s.listBufs k.ctx list }
          (t.stack stack).running = some r ∧
            (nacq bs = true → ∀ e, e ∈ t.bank ↔ e ∈ s.bank ∧ s.inChunks r used e.1 = false) ∧ (nacq bs = false → t.bank = s.bank)))

/-- R414, R420, R423, R412, R415: a pass of a library kernel over a chunk computes each element below the count, AXPBY, SCALE and
ADD into their buffer and SUM32 into the chunk's sum. A pass of an installed kernel that has ended counts its chunk as done;
the last one completes the kernel with status 0, and one that named a slice beyond 95 with 0x14. R426: the destruction of a
context takes its kicks from every queue but those whose block's page is absent, which complete with 0x04 when it is there, as
kicks on their way do; it completes a running kernel of the context that has no pass open, and frees its orbits that no group
binds; those of other contexts stay. -/
def Obligations.KernelPasses : Prop :=
  ((∀ (s : State) (stack c : Nat) (r : NKernel), (s.stack stack).running = some r → s.passDue stack r c = true →
     r.chunks.length + 1 < nchunks r.block → s.migrations = [] → (∀ l, s.lineBad l = false) →
     let kid := nkid r.block
     let at' (b i : Nat) : Nat := s.kchunk r b c + 4 * i
     let x (b i : Nat) : Nat := leNat ((List.range 4).map fun j => s.bankByte (nacq r.block) (at' b i + j))
     let arg (i : Nat) : Nat := recField r.block (0x30 + 8 * i) 4
     let value (i : Nat) : Nat :=
       if kid = 1 then ffma .f32 (arg 0) (x 0 i) (fmul .f32 (arg 1) (x 1 i))
       else if kid = 2 then fmul .f32 (arg 0) (x 0 i) else fadd .f32 (x 0 i) (x 1 i)
     let live (i : Nat) : Prop := i < 2048 ∧ 2048 * c + i < ncount r.block
     (∀ e ∈ [(1, 1), (2, 0), (3, 2)], kid = e.1 → ∃ t q, exec (.nbuPassEnd stack c) s = .next t ∧
       (t.stack stack).running = some q ∧ q.chunks = r.chunks ++ [c] ∧
       (∀ i, live i → leNat (t.mem.readBytes (at' e.2 i) 4) = value i) ∧
       ∀ a, (∀ i, live i → a < at' e.2 i ∨ at' e.2 i + 4 ≤ a) → t.mem.read a = s.mem.read a) ∧
     (kid = 4 → ∃ t q, exec (.nbuPassEnd stack c) s = .next t ∧ (t.stack stack).running = some q ∧
       q.chunks = r.chunks ++ [c] ∧ t.mem = s.mem ∧ tabGet 0 q.sums c = word (((List.range 2048).filter fun i =>
         decide (2048 * c + i < ncount r.block)).foldl (fun acc i => fadd .f32 acc (x 0 i)) 0))) ∧
   ∀ (s : State) (stack : Nat) (r : NKernel) (p : Pass), (s.stack stack).running = some r → r.passes = [p] →
     0x100 ≤ nkid r.block → p.ended = true → r.stopping = false → r.code = 0 →
     let ends (code : Nat) : Prop := ∃ t, exec (.nbuPassEnd stack p.chunk) s = .next t ∧ (t.stack stack).running = none ∧
       ∀ ps, s.engRow r.kick.ctx (refAdd r.kick.ref 0x78) 4 .w = 0 →
         s.physList r.kick.ctx (refAdd r.kick.ref 0x78) 4 = .ok ps → ps.Nodup → s.migrations = [] → s.portOp = none →
         (∀ p ∈ ps, s.cutOff p = false) → leNat (ps.map t.mem.read) = code * 2 ^ 24 + min r.poisoned (2 ^ 24 - 1)
     (p.bad = true → ends 0x14) ∧
     (p.bad = false → p.q = 0 → r.chunks.length + 1 < nchunks r.block → ∃ t, exec (.nbuPassEnd stack p.chunk) s = .next t ∧
       t.mem = s.mem ∧ (t.stack stack).running = some { r with passes := [], chunks := r.chunks ++ [p.chunk] }) ∧
     (p.bad = false → p.q = 0 → nchunks r.block ≤ r.chunks.length + 1 → r.poisoned = 0 → ends 0)) ∧
  ∀ (s : State) (ctx : Nat), ∃ t, exec (.contextDestroy ctx) s = .next t ∧
    (∀ n, n < 12 →
      let mark (k : Kick) : Kick := if k.ctx = ctx then { k with gone := true } else k
      (t.stack n).queue = ((s.stack n).queue.filter fun k =>
        k.ctx != ctx || (s.blockRow k && (s.engRead k.ctx k.ref 128).isNone)).map mark ∧
      (t.stack n).arriving = ((s.stack n).arriving.filter fun k => k.ctx != ctx || !k.ref.getLsbD 0).map mark ∧
      ((s.stack n).running = none → (t.stack n).running = none) ∧
      ∀ r, (s.stack n).running = some r → r.passes = [] →
        (r.kick.ctx = ctx → (t.stack n).running = none) ∧
        (r.kick.ctx ≠ ctx → ∃ q, (t.stack n).running = some q ∧ q.kick = r.kick ∧ q.chunks = r.chunks)) ∧
    ∀ die, die < 4 → ((s.die die).orbits.map Orbit.num).Nodup →
      (t.die die).orbits.map (fun o => { o with ywrote := false }) =
        ((s.die die).orbits.filter fun o => !(o.ctx == ctx && o.bound.isNone)).map fun o => { o with ywrote := false }

/-! ## Host, fabric and management -/

/-- R109, R433, R437: a write from the host through the BAR2 window of its context's function is performed in memory once its
page is present, which it asks for; outside the window there is no access. A PCI Express AtomicOp adds, swaps or compares and
swaps, and returns the old value. An access of another package of the pod that passes the checks is performed here, marks its
page and is answered with what it read or found; one that fails them is answered with the row it meets, and one whose page is
absent, or that comes during a checkpoint, waits. R201, R438, R440: an arrival at a pod barrier is counted at its home, the
package podkey mod 64, and one sent to another home has left; the home's advance moves the generation on and releases the
lanes parked on the barrier. The failure of one of a die's 32 Meridian ports is reported with each package that no path
reaches any more. How a package's number, an arrival's number and a port's number say these things, that a read through BAR2
comes as an access of the own package, that a port fails once, and what this package holds of a barrier with another home are
the model's (log 39). -/
def Obligations.Outside : Prop :=
  (∀ (s : State) (ctx : Nat) (ref : Dword) (e : BufEntry), s.buf ctx (refBuf ref) = some e →
     let asks (k : PageKey) (t : State) : Prop := t.mem = s.mem ∧ ((s.page k).state ≠ 1 → (s.page k).state < 4 → k ∈ t.wanted)
     (∀ (bytes : List Byte), refOff ref + bytes.length ≤ e.size →
       (s.inBar2 ctx ref bytes.length = false → exec (.hostWrite ctx ref bytes) s = .next s) ∧
       (s.inBar2 ctx ref bytes.length = true →
         (∀ k, s.physList ctx ref bytes.length = .error k → ∃ t, exec (.hostWrite ctx ref bytes) s = .next t ∧ asks k t) ∧
         ∀ ps, s.physList ctx ref bytes.length = .ok ps → ps.Nodup → s.migrations = [] → s.latent = [] →
           ∃ t, exec (.hostWrite ctx ref bytes) s = .next t ∧
             (∀ (j p : Nat), ps[j]? = some p → bytes[j]? = some (t.mem.read p)) ∧
             ∀ p, p ∉ ps → t.mem.read p = s.mem.read p)) ∧
     (∀ (kind : Nat) (wide : Bool) (a b : Dword) (ps : List Nat), s.migrations = [] → s.latent = [] →
       let n := if wide then 8 else 4
       let old := leNat (ps.map s.mem.read)
       let cut (x : Dword) : Nat := x.toNat % 2 ^ (8 * n)
       let new := if kind = 0 then (old + cut a) % 2 ^ (8 * n) else if kind = 1 then cut a else if old = cut a then cut b else old
       kind ≤ 2 → ref.toNat % n = 0 → refOff ref + n ≤ e.size → s.inBar2 ctx ref n = true → s.physList ctx ref n = .ok ps →
       ps.Nodup → (∀ p ∈ ps, s.lineBad (p / 64) = false) →
       ∃ t, exec (.hostAtomicop ctx ref kind wide a b) s = .next t ∧ leNat (ps.map t.mem.read) = new ∧
         t.pkg.events = s.pkg.events ++ [⟨"atomicop", [old]⟩] ∧ ∀ p, p ∉ ps → t.mem.read p = s.mem.read p) ∧
     (∀ (bytes : List Byte) (ps : List Nat), s.pkg.boot.booted = true → s.inBar2 ctx ref bytes.length = true →
       refOff ref + bytes.length ≤ e.size → s.physList ctx ref bytes.length = .ok ps → (∀ p ∈ ps, s.lineBad (p / 64) = false) →
       exec (.remoteAccess s.pkg.pkgid ctx ref 0 bytes) s =
         .next (s.post "remote-reply" (s.pkg.pkgid :: ps.map fun p => (s.mem.read p).toNat))) ∧
     ∀ (pkg kind : Nat) (bytes : List Byte), s.pkg.boot.booted = true → pkg ≠ s.pkg.pkgid →
       let n := if kind ≤ 1 then bytes.length else bytes.length / 2
       let row := s.accessRow ctx ref n (if kind = 0 then .r else if kind = 1 then .w else .a)
       let key : PageKey := ⟨ctx, refBuf ref, refOff ref / pageBytes e.pgsz⟩
       let q : RemoteReq := ⟨pkg, ctx, ref, kind, bytes⟩
       ((pkg ∉ s.pkg.pod ∨ s.pkg.negotiated.getLsbD 3 = false) → exec (.remoteAccess pkg ctx ref kind bytes) s = .next s) ∧
       (pkg ∈ s.pkg.pod → s.pkg.negotiated.getLsbD 3 = true →
         (s.pkg.checkpointing = true →
           exec (.remoteAccess pkg ctx ref kind bytes) s = .next { s with remote := s.remote ++ [q] }) ∧
         (s.pkg.checkpointing = false → row ≠ 0 →
           exec (.remoteAccess pkg ctx ref kind bytes) s = .next (s.post "remote-refused" [pkg, row])) ∧
         (s.pkg.checkpointing = false → row = 0 →
           (∀ k, s.physList ctx ref n = .error k → ∃ t, exec (.remoteAccess pkg ctx ref kind bytes) s = .next t ∧ asks k t ∧
             t.remote = s.remote ++ [q]) ∧
           ∀ ps, s.physList ctx ref n = .ok ps → ps.Nodup → (∀ p ∈ ps, s.lineBad (p / 64) = false) → 1 ≤ n → pkg < 64 →
             s.migrations = [] → s.latent = [] →
             let old := leNat (ps.map s.mem.read)
             ∃ t, exec (.remoteAccess pkg ctx ref kind bytes) s = .next t ∧ (t.page key).accPkgs.getLsbD pkg = true ∧
               (∀ p, p ∉ ps → t.mem.read p = s.mem.read p) ∧
               (kind = 0 → t.mem = s.mem ∧ t.pkg.events = s.pkg.events ++
                 [⟨"remote-reply", pkg :: ps.map fun p => (s.mem.read p).toNat⟩]) ∧
               (kind = 1 → (t.page key).dirty = true ∧ t.pkg.events = s.pkg.events ++ [⟨"remote-reply", [pkg]⟩] ∧
                 ∀ (j p : Nat), ps[j]? = some p → bytes[j]? = some (t.mem.read p)) ∧
               (2 ≤ kind → n ≤ 8 → t.pkg.events = s.pkg.events ++ [⟨"remote-reply", [pkg, old]⟩] ∧
                 leNat (ps.map t.mem.read) = match atomNew (kind - 2) (dword old) (dword (leNat (bytes.take n)))
                     (dword (leNat (bytes.drop n))) with
                   | some x => x.toNat % 2 ^ (8 * n)
                   | none => old)))) ∧
  (∀ (s : State) (key index : Nat),
    let home := key % 64 = s.pkg.pkgid
    let outside := home ∧ s.pkg.pod ≠ [] ∧ s.pkg.negotiated.getLsbD 3 = true
    let ends := index / 16 % 2 = 1
    let n := index / 32
    ((n = 0 ∨ ¬ outside ∨ ∃ b ∈ s.bars, isNetBar 4 (index % 16) key 0 b = true ∧ b.bar.exp ≠ 0) →
      ∃ t, exec (.podBarrierArrival key index) s = .next t ∧ t.bars.length = s.bars.length ∧
        ∀ (i : Nat) (b : NetBar), s.bars[i]? = some b → t.bars[i]? = some (
          let up : Barrier := { b.bar with arr := b.bar.arr + 1 }
          if b.scope = 4 ∧ b.index = index % 16 ∧ b.key = key ∧ b.part = 0 then
            if ends then (if outside ∧ b.bar.exp ≠ 0 then { b with bar := { b.bar with exp := b.bar.exp - 1 } } else b)
            else if 0 < b.sent then { b with sent := b.sent - 1, bar := if home then up else b.bar }
            else if outside then { b with bar := up } else b
          else b)) ∧
    (n ≠ 0 → n < 2 ^ 32 → outside → (∀ b ∈ s.bars, isNetBar 4 (index % 16) key 0 b = true → b.bar.exp = 0) →
      ∃ t b, exec (.podBarrierArrival key index) s = .next t ∧ t.bars.find? (isNetBar 4 (index % 16) key 0) = some b ∧
        b.bar.gen = 0 ∧ b.bar.exp.toNat = (if ends then n - 1 else n) ∧ b.bar.arr = if ends then 0 else 1)) ∧
  (∀ (s : State) (key index : Nat) (b : NetBar), s.bars.find? (isNetBar 4 index key 0) = some b →
    let due := if key % 64 = s.pkg.pkgid then b.bar.arr ≠ 0 ∧ b.bar.exp.toNat ≤ b.bar.arr.toNat else key % 64 ∈ s.pkg.pod
    (¬ due → exec (.podBarrierAdvance key index) s = .next s) ∧
    (due → s.groups = [] → ∃ t c, exec (.podBarrierAdvance key index) s = .next t ∧
      t.bars.find? (isNetBar 4 index key 0) = some c ∧ c.bar.gen = b.bar.gen + 1 ∧ c.bar.arr = 0 ∧ c.bar.exp = b.bar.exp) ∧
    (due → ∀ g, (s.groups.find? fun g => g.stat != .ended && barUnit s g 4 == (key, 0) && decide (index < g.desc.odbars)) =
        some g → exec (.podBarrierAdvance key index) s = .next ((s.barAdvance g 4 index false).barSettle 64 g 4 index))) ∧
  ∀ (s : State) (die port : Nat) (gone : List Nat), port < 32 →
    ((4 ≤ die ∨ port ∈ (s.die die).failedPorts) → exec (.meridianPortFailure (32 * die + port) gone) s = .next s) ∧
    (die < 4 → die < s.dieU.length → port ∉ (s.die die).failedPorts →
      ∃ t, exec (.meridianPortFailure (32 * die + port) gone) s = .next t ∧
        (t.die die).failedPorts = (s.die die).failedPorts ++ [port] ∧ t.mem = s.mem ∧
        (∀ p, p ∈ t.pkg.unreachable ↔ p ∈ s.pkg.unreachable ∨ (p ∈ gone ∧ p ≠ s.pkg.pkgid)) ∧
        t.pkg.events = s.pkg.events ++ [⟨"link-degraded", [die, port]⟩] ++
          (gone.filter fun p => !s.pkg.unreachable.contains p && p != s.pkg.pkgid).map fun p => ⟨"package-unreachable", [p]⟩)

/-- R441: without feature bit 9 a checkpoint is refused. With it no group stays resident, and once nothing moves any more the
package performs its fence and writes its image to the safe tier, which holds its device memory, poisoned lines and lines with
an error marked as poison, and its tables, groups and engines. A restore is refused without an image, of another feature word,
or while anything runs, and writes the image back otherwise; what an image holds beside memory, that there is one safe tier,
and when a restore is taken are the model's (log 39). R442–R444: the driver's feature word keeps what is offered and assigned.
A firmware image with a sound signature and a version at or above the fused minimum runs, its session key signed by the next
fused leaf; any other leaves the package in recovery. A report is signed by the session key's next leaf, a spent key taking
one more fused leaf, and refused when the feature is off. R445, R446: a sample of a die's monitors, 64 temperatures, the
voltages and the ring oscillators (their numbers are log 10), is held with the die's clock count. The power limit takes values
from 1.5 kW to 3.6 kW; near it, within a margin that is a free value (log 16), a step lowers a die's clock by 26 MHz within 0.65 GHz and 1.3
GHz, and away from it raises that of a die below 105 degrees; a die with a sensor at 105 degrees drops to 0.65 GHz and is
reported, and at 115 degrees every clock stops. -/
def Obligations.Management : Prop :=
  (∀ (s : State),
     (s.pkg.negotiated.getLsbD 9 = false → exec .checkpoint s = .next (s.post "checkpoint-refused" [])) ∧
     (s.pkg.negotiated.getLsbD 9 = true → (∀ die, (s.die die).ocmds = []) → s.remote = [] →
       ∃ t, exec .checkpoint s = .next t ∧ (∀ g ∈ t.groups, g.stat ≠ .resident) ∧
         ((∃ g ∈ t.groups, g.stat = .saving) →
           t.pkg.checkpointing = true ∧ t.safeTier = s.safeTier) ∧
         ((∀ g ∈ s.groups, g.stat ≠ .resident) → s.moving = false → ∃ i, t.safeTier = some i ∧ t.copies = [] ∧ t.mem = s.mem ∧
           t.pkg.checkpointing = false ∧ i.negotiated = s.pkg.negotiated ∧ i.poison = s.poison ++ s.latent ∧
           i.mem = s.mem.filter (fun c => deviceByte s.pkg.pkgid c.1) ∧ i.bufs = s.bufs ∧ i.pages = s.pages ∧
           i.launches = s.launches ∧ i.groups = s.groups ∧ i.warps = s.warps ∧ i.bars = s.bars ∧
           ∃ ids, t.pkg.events = s.pkg.events ++ [⟨"checkpoint-taken", ids⟩])) ∧
     (s.safeTier = none → exec .checkpointRestore s = .next (s.post "restore-refused" [])) ∧
     ∀ i, s.safeTier = some i →
       ((s.moving = true ∨ s.pkg.checkpointing = true ∨ i.negotiated ≠ s.pkg.negotiated) →
         exec .checkpointRestore s = .next (s.post "restore-refused" [])) ∧
       (s.moving = false → s.pkg.checkpointing = false → i.negotiated = s.pkg.negotiated → s.mem.wf → i.mem.wf →
         (∀ c ∈ i.mem, deviceByte s.pkg.pkgid c.1 = true) → (∀ u ∈ i.dieU, u.ocmds = []) →
         ∃ t, exec .checkpointRestore s = .next t ∧
           (∀ a, t.mem.read a = if deviceByte s.pkg.pkgid a then i.mem.read a else s.mem.read a) ∧
           t.bufs = i.bufs ∧ t.pages = i.pages ∧ t.launches = i.launches ∧ t.groups = i.groups ∧ t.warps = i.warps ∧
           t.gangs = i.gangs ∧ t.bars = i.bars ∧ t.l1 = [] ∧ t.copies = [] ∧
           ∀ die, die < 4 → (t.die die).orbits = ((i.dieU[die]?).getD {}).orbits ∧
             (t.die die).vobjs = ((i.dieU[die]?).getD {}).vobjs)) ∧
  (∀ (s : State),
     (∀ w : BitVec 128, s.pkg.boot.booted = true → s.pkg.boot.recovery = false → s.launches = [] → s.groups = [] →
       ∃ t, exec (.featureWordWrite w) s = .next t ∧ t.mem = s.mem ∧
         (∀ i, i < 128 → t.pkg.negotiated.getLsbD i = (decide (i < 11) && w.getLsbD i && s.pkg.offered.getLsbD i)) ∧
         (t.pkg.negotiated.getLsbD 4 = false → ∀ u ∈ t.dieU, u.regs.zonesize = 0)) ∧
     (∀ (ok : Bool) (v : Nat), s.pkg.boot.booted = false →
       let b := s.pkg.boot
       (ok = true → b.minVersion ≤ v → ∃ t, exec (.boot ok v) s = .next t ∧ t.pkg.boot.booted = true ∧
         t.pkg.boot.recovery = false ∧ t.pkg.boot.version = v ∧ (b.fuseLeaf < 2 ^ 15 →
           t.pkg.boot.fuseLeaf = b.fuseLeaf + 1 ∧ t.pkg.boot.session = true ∧ t.pkg.boot.sessLeaf = 0)) ∧
       ((ok = false ∨ v < b.minVersion) → exec (.boot ok v) s =
         .next { s with pkg := { s.pkg with boot := { b with recovery := true } } })) ∧
     ∀ nonce : BitVec 256,
       let p := s.pkg
       ((p.boot.booted = false ∨ p.negotiated.getLsbD 10 = false) → exec (.attestationRequest nonce) s =
         .next (s.post "attestation-refused" [])) ∧
       (p.boot.booted = true → p.negotiated.getLsbD 10 = true →
         (p.boot.session = true → p.boot.sessLeaf < 2 ^ 10 → ∃ t, exec (.attestationRequest nonce) s = .next t ∧
           t.pkg.boot = { p.boot with sessLeaf := p.boot.sessLeaf + 1 } ∧ t.pkg.reports = p.reports ++
             [⟨nonce, p.boot.digest, p.negotiated, p.boot.minVersion, p.boot.fuseLeaf, p.boot.sessLeaf + 1⟩]) ∧
         ((p.boot.session = false ∨ 2 ^ 10 ≤ p.boot.sessLeaf) → p.boot.fuseLeaf < 2 ^ 15 →
           ∃ t, exec (.attestationRequest nonce) s = .next t ∧ t.pkg.boot.fuseLeaf = p.boot.fuseLeaf + 1 ∧
             t.pkg.boot.sessLeaf = 1 ∧ t.pkg.reports = p.reports ++
               [⟨nonce, p.boot.digest, p.negotiated, p.boot.minVersion, p.boot.fuseLeaf + 1, 1⟩]))) ∧
  ∀ (s : State),
    (∀ (die : Nat) (temps volts rings : List Nat), die < 4 → temps.length = 64 → volts.length = Config.supplyRails →
      rings.length = Config.ringMonitors →
      ∃ t, exec (.monitorSample die temps (volts ++ rings)) s = .next t ∧
        tabFind t.pkg.monitors die = some { clk := (s.die die).clk, temps := temps, volts := volts, rings := rings } ∧
        ∀ d, d ≠ die → tabFind t.pkg.monitors d = tabFind s.pkg.monitors d) ∧
    (∀ w, (1500 ≤ w → w ≤ 3600 → s.pkg.boot.recovery = false →
        exec (.powerLimitWrite w) s = .next { s with pkg := { s.pkg with powerLimit := w } }) ∧
      ((w < 1500 ∨ 3600 < w ∨ s.pkg.boot.recovery = true) →
        exec (.powerLimitWrite w) s = .next (s.post "register-refused" [w]))) ∧
    (∀ (die : Nat) (x : Sample), die < s.dieU.length → tabFind s.pkg.monitors die = some x → 650 ≤ (s.die die).mhz →
      (s.die die).mhz ≤ 1300 →
      let near := s.pkg.powerLimit ≤ Config.drawn s.free + Config.powerMargin
      let hot := ∃ c ∈ x.temps, 105 ≤ c
      ((near ∨ hot) → exec (.powerClockStep die true) s = .next s) ∧
      (¬ near → exec (.powerClockStep die false) s = .next s) ∧
      (¬ near → ¬ hot → ∃ t, exec (.powerClockStep die true) s = .next t ∧ (t.die die).mhz ≤ 1300 ∧
        ((t.die die).mhz = (s.die die).mhz + 26 ∨ ((t.die die).mhz = 1300 ∧ 1274 < (s.die die).mhz))) ∧
      (near → ∃ t, exec (.powerClockStep die false) s = .next t ∧ 650 ≤ (t.die die).mhz ∧
        ((t.die die).mhz + 26 = (s.die die).mhz ∨ ((t.die die).mhz = 650 ∧ (s.die die).mhz < 676)))) ∧
    (∀ (die : Nat) (x : Sample), die < s.dieU.length → tabFind s.pkg.monitors die = some x →
      ((∃ c ∈ x.temps, 105 ≤ c) → ∃ t, exec (.thermalThrottle die) s = .next t ∧ (t.die die).mhz = 650 ∧
        t.pkg.events = s.pkg.events ++ [⟨"thermal", [die]⟩]) ∧
      ((∀ c ∈ x.temps, c < 105) → exec (.thermalThrottle die) s = .next s) ∧
      (die < 4 → (∃ c ∈ x.temps, 115 ≤ c) → exec .thermalShutdown s = .next { s with pkg := { s.pkg with stopped := true } }))

/-! ## Reset, steps and encodings -/

/-- R241, R242, R264, R446: the state after reset meets the invariant of every step, and each register the manual gives a
reset value holds it. That nothing runs, waits or is listed is the model's reading of reset (log 10). -/
def Obligations.ResetState : Prop :=
  let s := State.reset
  s.Inv ∧ s.gangs = [] ∧ s.warps = [] ∧ s.groups = [] ∧ s.launches = [] ∧ s.bufs = [] ∧ s.pkg.boot.booted = false ∧
  s.pkg.negotiated = 0 ∧ s.pkg.powerLimit = 3600 ∧ s.pkg.baseMhz = 1000 ∧ s.pkg.stopped = false ∧ (∀ a, s.mem.read a = 0) ∧
  ∀ die, die < 4 →
    let u := s.die die
    u.clk = 0 ∧ u.mhz = 1300 ∧ u.congThresh = 48 ∧ u.regs.zonesize = 65536 ∧ u.regs.freelow = 4096 ∧
    u.regs.ageper = 10000 ∧ u.regs.locmig = 0 ∧ u.regs.scrubper = 86400 ∧ u.regs.cethresh = 16 ∧ u.regs.errbase = 0 ∧
    u.regs.errsize = 0 ∧ u.pools.map (fun p => (p.entries, p.mins, p.caps)) =
      [(96, [16, 32, 8], [64, 80, 16]), (256, [64, 96, 16], [192, 224, 32]), (512, [128, 192, 32], [384, 448, 64]),
        (64, [16, 16, 16], [40, 40, 32])]

/-- Every step from a state with the invariant leads to one with it, and no die's clock count falls. -/
def Obligations.StepKeepsInvariant : Prop :=
  ∀ (s t : State), s.Inv → step s = .next t → t.Inv ∧ ∀ die, (s.die die).clk ≤ (t.die die).clk

/-- R244, R252, R264, R241, R242, R433, R441, R442: the buffer tables, the code buffers, kick indexes and functions of the
contexts, the BAR2 mappings, the feature word and every die's privileged registers change only by the driver's register write,
shoot-down and feature word, and by a restore, which writes an image back: no word of a program and no other event of the part
reaches them. -/
def Obligations.DriverState : Prop :=
  ∀ (s t : State) (i : Instr), exec i s = .next t → (∀ d r v, i ≠ .registerWrite d r v) →
    (∀ c b e, i ≠ .bufferShootdown c b e) → (∀ w, i ≠ .featureWordWrite w) → i ≠ .checkpointRestore →
    t.bufs = s.bufs ∧ t.pkg.ctxFn = s.pkg.ctxFn ∧ t.pkg.bar2 = s.pkg.bar2 ∧ t.code = s.code ∧ t.kickidx = s.kickidx ∧ t.pkg.negotiated = s.pkg.negotiated ∧
      let privileged (u : DieU) := (u.regs, u.congThresh, u.pools.map fun p => (p.entries, p.mins, p.caps))
      t.dieU.map privileged = s.dieU.map privileged

/-- R27, R33–R35, R50, R408–R412: the decoder reads the four bytes of a well-formed instruction's word, lowest first, as
that instruction and leaves the rest; what it reads is well-formed, and the word read is its encoding. -/
def Obligations.EncodeDecode : Prop :=
  (∀ (i : Instr) (w : Word) (rest : List Byte), WellFormed i = true → encodeCore i = some w →
    decode (w.extractLsb' 0 8 :: w.extractLsb' 8 8 :: w.extractLsb' 16 8 :: w.extractLsb' 24 8 :: rest) = .ok (i, rest)) ∧
  (∀ (i : Instr) (w : Word), WellFormed i = true → encodeNear i = some w → decodeNearWord w = some i) ∧
  (∀ (i : Instr) (w : Word), decodeWord w = .ok i → WellFormed i = true ∧ encodeCore i = some w) ∧
  ∀ (i : Instr) (w : Word), decodeNearWord w = some i → WellFormed i = true ∧ encodeNear i = some w

/-- Words of the manual's tables: each decodes to the instruction that stands beside it. -/
def Obligations.DecodedWords : Prop :=
  (∀ x ∈ [((0x060285E2 : Word), Instr.mulhi 0 10 11 98), (0x1EC10286, .sel 6 4 5 6), (0x63227FFD, .addi 9 9 0x3FFD),
      (0x42308287, .fexp2 2 5 7), (0x41010000, .exit 4), (0x6C05001F, .meet 0 20 0x1F), (0x86C531C0, .uadd64 4 10 12 14),
      (0xA409FFFF, .uaddi 0 4 0x1FFFF), (0xC17FFFFD, .bra 3 0x1FFFFD), (0xC03000FF, .clause 3 0 15 15)],
    decodeWord x.1 = .ok x.2) ∧
  ∀ x ∈ [((0x08000000 : Word), Instr.nbSld 0 0 0), (0x2402405F, .nbMask 0x100 0x120 0x05F), (0x28000000, .nbCmp 0 0),
      (0x58800000, .nbLoop 32), (0x10800400, .nbSst 0 32 2), (0x60000000, .nbEnd)],
    decodeNearWord x.1 = some x.2

/-- A step gives the turn to the next agent named. A gang with no wait, whose word finds its pipe free in this clk (R49) and
before which no gang of its core that started earlier could issue (R243), runs the instruction that its next word decodes to,
as exec does in the state where the gang is the one at issue, and takes the illegal-encoding trap for an unassigned word
(R50); the word then has its pipe, unless it stalls and leaves the gang as it was. Otherwise the gang stays where it is. A
pass runs its kernel's word; an event takes place; an invalidation reaches a die (R94); a tick adds to a die's clk, and rows
of its stacks that have failed are then replaced (R260). With all clocks stopped nothing moves (R446). The list of turns and
the counter of draws from the free values are the model's own (log 1, log 2). -/
def Obligations.StepRunsDecoded : Prop :=
  ∀ (s : State) (ts : List Turn),
    let u : State := { s with turns := ts }
    (s.pkg.stopped = true → step s = .fault .clocksStopped) ∧
    (s.pkg.stopped = false →
      (∀ (uid : Nat) (g : Gang) (w : Word) (rest : List Word), s.turns = .issue uid :: ts → s.gang uid = some g →
        g.wait = .none → g.rest = w :: rest →
        let core := s.gangCore g
        let v : State := { u with cur := uid }
        (isClauseWord w = true ∨ (if w.getLsbD 31 then (s.core core).uniClk else (s.core core).laneClk) ≠
            (s.die (core / 512)).clk + 1) →
        (∀ x ∈ s.gangs.takeWhile fun x => x.uid != uid, s.gangCore x = core → couldIssue u x = false) →
        (∀ i t, decodeWord w = .ok i → exec i v = .next t →
          step s = .next (if t.gang uid = some g then t else t.takePipe core w)) ∧
        (∀ i f, decodeWord w = .ok i → exec i v = .fault f → step s = .fault f) ∧
        (∀ i r, decodeWord w = .ok i → exec i v = .refused r → step s = .refused r) ∧
        (decodeOpcode w = none → ∀ c, v.ctx = some c → c.debugDue = none →
          let t := v.trapHere c false { cause := 1, lanes := c.g.lanes, aux := 2 }
          step s = .next (if t.gang uid = some g then t else t.takePipe core w))) ∧
      (∀ (uid : Nat) (g : Gang) (w : Word) (rest : List Word), s.turns = .issue uid :: ts → s.gang uid = some g →
        g.wait = .none → g.rest = w :: rest → (s.pipeFree (s.gangCore g) w = false ∨
          ∃ x ∈ s.gangs.takeWhile fun x => x.uid != uid, s.gangCore x = s.gangCore g ∧ couldIssue u x = true) →
        step s = .next u) ∧
      (∀ (stack chunk : Nat) (w : Word) (i : Instr), s.turns = .nbu stack chunk :: ts → s.passNext stack chunk = some w →
        decodeNear w = some i → step s = exec i { u with free := s.free + 1, curPass := (stack, chunk) }) ∧
      (∀ e, s.turns = .event e :: ts → step s = exec e { u with free := s.free + 1 }) ∧
      (∀ die line, s.turns = .inval die line :: ts → (die, line) ∈ s.invals → ∃ t, step s = .next t ∧
        (die, line) ∉ t.invals ∧ findLine t.copies die line = none ∧ t.mem = s.mem) ∧
      ∀ die n, s.turns = .tick die n :: ts → die < s.dieU.length → ∃ t, step s = .next t ∧
        (t.die die).clk = (s.die die).clk + n ∧ (∀ d, d ≠ die → (t.die d).clk = (s.die d).clk) ∧
        ((∀ k ∈ [3 * die, 3 * die + 1, 3 * die + 2], (s.stack k).failed = []) → ∀ d, d ≠ die → t.die d = s.die d))

end Statements
end

