-- ==== Sys2Proof/Laws/List.lean ====
section
/-! SUPPORT. Lemmas of the list operations that states are built from: lookup, update and removal by name, and element
changes. -/

namespace Sys2Proof.Machine

section Lists
variable {α β : Type}

theorem lookupBy_key {key : α → Nat} {l : List α} {n : Nat} {x : α} (h : lookupBy key l n = some x) : key x = n := by
  induction l with
  | nil => cases h
  | cons y t ih =>
    rw [lookupBy] at h
    split at h
    · cases h; assumption
    · exact ih h

theorem lookupBy_mem {key : α → Nat} {l : List α} {n : Nat} {x : α} (h : lookupBy key l n = some x) : x ∈ l := by
  induction l with
  | nil => cases h
  | cons y t ih =>
    rw [lookupBy] at h
    split at h
    · cases h; exact List.mem_cons_self ..
    · exact List.mem_cons_of_mem _ (ih h)

/-- A map that keeps names commutes with lookup. -/
theorem lookupBy_map {key : α → Nat} (f : α → α) (hf : ∀ x, key (f x) = key x) (l : List α) (n : Nat) :
    lookupBy key (l.map f) n = (lookupBy key l n).map f := by
  induction l with
  | nil => rfl
  | cons y t ih =>
    simp only [List.map_cons, lookupBy, hf]
    split
    · rfl
    · exact ih

/-- Lookup after an update by name, the new elements keeping their name. -/
theorem lookupBy_update {key : α → Nat} (f : α → α) (l : List α) (n m : Nat) (hf : ∀ x, key x = n → key (f x) = n) :
    lookupBy key (updateBy key n f l) m = if m = n then (lookupBy key l m).map f else lookupBy key l m := by
  induction l with
  | nil => simp [updateBy, lookupBy]
  | cons y t ih =>
    have ih' : lookupBy key (List.map (fun x => if key x = n then f x else x) t) m =
        if m = n then (lookupBy key t m).map f else lookupBy key t m := ih
    simp only [updateBy, List.map_cons, lookupBy]
    by_cases hy : key y = n
    · have := hf y hy
      by_cases hm : m = n
      · subst hm; simp [hy, this]
      · have h1 : ¬ n = m := fun h => hm h.symm
        simp [hy, this, hm, h1, ih']
    · by_cases hm : m = n
      · subst hm; simp [hy, ih']
      · simp [hy, hm, ih']

theorem lookupBy_remove {key : α → Nat} (l : List α) (n m : Nat) :
    lookupBy key (removeBy key n l) m = if m = n then none else lookupBy key l m := by
  induction l with
  | nil => simp [removeBy, lookupBy]
  | cons y t ih =>
    have ih' : lookupBy key (List.filter (fun x => key x != n) t) m = if m = n then none else lookupBy key t m := ih
    simp only [removeBy, List.filter_cons, lookupBy]
    by_cases hy : key y = n
    · by_cases hm : m = n
      · subst hm; simp [hy, ih']
      · have h1 : ¬ n = m := fun h => hm h.symm
        simp [hy, hm, h1, ih']
    · by_cases hm : m = n
      · subst hm; simp [hy, lookupBy, ih']
      · simp [hy, lookupBy, hm, ih']

theorem length_listModify (f : α → α) (l : List α) (n : Nat) : (listModify f l n).length = l.length := by
  induction l generalizing n with
  | nil => rfl
  | cons h t ih => cases n <;> simp [listModify, ih]

theorem getElem?_listModify (f : α → α) (l : List α) (n m : Nat) :
    (listModify f l n)[m]? = if m = n then l[m]?.map f else l[m]? := by
  induction l generalizing n m with
  | nil => simp [listModify]
  | cons h t ih => cases n <;> cases m <;> simp [listModify, ih]

theorem length_mapFrom (f : Nat → α → β) (i : Nat) (l : List α) : (mapFrom f i l).length = l.length := by
  induction l generalizing i with
  | nil => rfl
  | cons h t ih => simp [mapFrom, ih]

theorem getElem?_mapFrom (f : Nat → α → β) (i : Nat) (l : List α) (n : Nat) :
    (mapFrom f i l)[n]? = l[n]?.map (f (i + n)) := by
  induction l generalizing i n with
  | nil => simp [mapFrom]
  | cons h t ih =>
    cases n with
    | zero => simp [mapFrom]
    | succ n => simp only [mapFrom, List.getElem?_cons_succ, ih]; rw [show i + 1 + n = i + (n + 1) by omega]

/-- A change of elements that keeps a projection keeps the list of projections. -/
theorem map_mapFrom (p : α → β) (f : Nat → α → α) (hf : ∀ i x, p (f i x) = p x) (i : Nat) (l : List α) :
    (mapFrom f i l).map p = l.map p := by
  induction l generalizing i with
  | nil => rfl
  | cons h t ih => simp [mapFrom, hf, ih]

/-- A fold keeps what each of its steps keeps. -/
theorem foldl_keeps {σ γ : Type} (p : σ → σ → Prop) (hr : ∀ s, p s s) (ht : ∀ a b c, p a b → p b c → p a c) (f : σ → γ → σ)
    (hf : ∀ s x, p s (f s x)) (l : List γ) (s : σ) : p s (l.foldl f s) := by
  induction l generalizing s with
  | nil => exact hr s
  | cons h t ih => exact ht _ _ _ (hf s h) (ih _)

end Lists

end Sys2Proof.Machine
end

