-- ==== Sys2Proof/Laws/Memory.lean ====
section
/-! SUPPORT. Laws of sparse tables and of the byte memory: what a read gives after a write, and that every operation keeps
the canonical form. -/

namespace Sys2Proof.Machine

section Tables
variable {α : Type}

theorem tabFind_erase (t : Tab α) (q r : Nat) : tabFind (tabErase t q) r = if r = q then none else tabFind t r := by
  induction t with
  | nil => simp [tabErase, tabFind]
  | cons e t ih =>
    obtain ⟨k, v⟩ := e
    by_cases hk : k = q
    · subst hk
      by_cases hr : r = k
      · subst hr; simp [tabErase, ih]
      · have : ¬ k = r := fun h => hr h.symm
        simp [tabErase, tabFind, ih, hr, this]
    · by_cases hr : r = q
      · subst hr; simp [tabErase, tabFind, hk, ih]
      · simp [tabErase, tabFind, hk, ih, hr]

theorem tabFind_put (t : Tab α) (q : Nat) (x : α) (r : Nat) :
    tabFind (tabPut t q x) r = if r = q then some x else tabFind t r := by
  induction t with
  | nil =>
    by_cases hr : r = q
    · subst hr; simp [tabPut, tabFind]
    · have : ¬ q = r := fun h => hr h.symm
      simp [tabPut, tabFind, hr, this]
  | cons e t ih =>
    obtain ⟨k, v⟩ := e
    by_cases hr : r = q
    · subst hr
      by_cases h1 : r < k
      · simp [tabPut, tabFind, h1]
      · by_cases h2 : r = k
        · subst h2; simp [tabPut, tabFind]
        · have h3 : ¬ k = r := fun h => h2 h.symm
          simp [tabPut, tabFind, h1, h2, h3, ih]
    · have h4 : ¬ q = r := fun h => hr h.symm
      by_cases h1 : q < k
      · simp [tabPut, tabFind, h1, hr, h4]
      · by_cases h2 : q = k
        · subst h2; simp [tabPut, tabFind, hr, h4]
        · simp [tabPut, tabFind, h1, h2, hr, ih]

/-- Reading a table after a write: the written entry, or what was there. -/
theorem tabGet_set [DecidableEq α] (d : α) (t : Tab α) (q : Nat) (x : α) (r : Nat) :
    tabGet d (tabSet d t q x) r = if r = q then x else tabGet d t r := by
  unfold tabGet tabSet
  by_cases hx : x = d
  · subst hx; by_cases hr : r = q <;> simp [tabFind_erase, hr]
  · by_cases hr : r = q <;> simp [hx, tabFind_put, hr]

/-! ## The canonical form -/

theorem tabRising_weaken {a : Nat} {b : Option Nat} {t : Tab α} (h : tabRising (some a) t = true)
    (hb : ∀ x, b = some x → x ≤ a) : tabRising b t = true := by
  cases t with
  | nil => cases b <;> rfl
  | cons e t =>
    obtain ⟨k, v⟩ := e
    simp only [tabRising, Bool.and_eq_true, decide_eq_true_eq] at h
    cases b with
    | none => exact h.2
    | some x =>
      have := hb x rfl
      simp only [tabRising, Bool.and_eq_true, decide_eq_true_eq]
      exact ⟨by omega, h.2⟩

theorem tabRising_erase {b : Option Nat} {t : Tab α} (q : Nat) (h : tabRising b t = true) :
    tabRising b (tabErase t q) = true := by
  induction t generalizing b with
  | nil => exact h
  | cons e t ih =>
    obtain ⟨k, v⟩ := e
    have ht : tabRising (some k) t = true := by
      cases b with
      | none => exact h
      | some x => simp only [tabRising, Bool.and_eq_true] at h; exact h.2
    simp only [tabErase]
    split
    · refine tabRising_weaken (ih ht) fun x hx => ?_
      subst hx
      simp only [tabRising, Bool.and_eq_true, decide_eq_true_eq] at h
      omega
    · cases b with
      | none => exact ih ht
      | some x =>
        simp only [tabRising, Bool.and_eq_true, decide_eq_true_eq] at h ⊢
        exact ⟨h.1, ih ht⟩

theorem tabRising_put {b : Option Nat} {t : Tab α} {q : Nat} (x : α) (h : tabRising b t = true)
    (hq : ∀ y, b = some y → y < q) : tabRising b (tabPut t q x) = true := by
  induction t generalizing b with
  | nil => cases b <;> simp [tabPut, tabRising] at *; exact hq
  | cons e t ih =>
    obtain ⟨k, v⟩ := e
    have ht : tabRising (some k) t = true := by
      cases b with
      | none => exact h
      | some y => simp only [tabRising, Bool.and_eq_true] at h; exact h.2
    simp only [tabPut]
    split
    · rename_i hk
      have h1 : tabRising (some q) ((k, v) :: t) = true := by
        simp only [tabRising, Bool.and_eq_true, decide_eq_true_eq]; exact ⟨hk, ht⟩
      cases b with
      | none => exact h1
      | some y =>
        simp only [tabRising, Bool.and_eq_true, decide_eq_true_eq] at h1 ⊢
        exact ⟨hq y rfl, h1⟩
    · split
      · rename_i hk
        subst hk
        cases b with
        | none => exact ht
        | some y =>
          simp only [tabRising, Bool.and_eq_true, decide_eq_true_eq]
          exact ⟨hq y rfl, ht⟩
      · have h2 : tabRising (some k) (tabPut t q x) = true := ih ht fun y hy => by cases hy; omega
        cases b with
        | none => exact h2
        | some y =>
          simp only [tabRising, Bool.and_eq_true, decide_eq_true_eq] at h ⊢
          exact ⟨h.1, h2⟩

theorem mem_erase {t : Tab α} {q : Nat} {e : Nat × α} (h : e ∈ tabErase t q) : e ∈ t := by
  induction t with
  | nil => exact h
  | cons y t ih =>
    obtain ⟨k, v⟩ := y
    simp only [tabErase] at h
    split at h
    · exact List.mem_cons_of_mem _ (ih h)
    · cases List.mem_cons.mp h with
      | inl h => exact h ▸ List.mem_cons_self ..
      | inr h => exact List.mem_cons_of_mem _ (ih h)

theorem mem_put {t : Tab α} {q : Nat} {x : α} {e : Nat × α} (h : e ∈ tabPut t q x) : e ∈ t ∨ e = (q, x) := by
  induction t with
  | nil => exact .inr (List.mem_singleton.mp h)
  | cons y t ih =>
    obtain ⟨k, v⟩ := y
    simp only [tabPut] at h
    split at h
    · cases List.mem_cons.mp h with
      | inl h => exact .inr h
      | inr h => exact .inl h
    · split at h
      · cases List.mem_cons.mp h with
        | inl h => exact .inr h
        | inr h => exact .inl (List.mem_cons_of_mem _ h)
      · cases List.mem_cons.mp h with
        | inl h => exact .inl (h ▸ List.mem_cons_self ..)
        | inr h => exact (ih h).imp (List.mem_cons_of_mem _) id

/-- A write keeps the canonical form of a table. -/
theorem tabWf_set [DecidableEq α] (d : α) {t : Tab α} (q : Nat) (x : α) (h : tabWf d t = true) :
    tabWf d (tabSet d t q x) = true := by
  simp only [tabWf, Bool.and_eq_true, List.all_eq_true, decide_eq_true_eq] at h ⊢
  unfold tabSet
  split
  · exact ⟨tabRising_erase q h.1, fun e he => h.2 e (mem_erase he)⟩
  · rename_i hx
    refine ⟨tabRising_put x h.1 (fun y hy => by cases hy), fun e he => ?_⟩
    rcases mem_put he with h1 | h1
    · exact h.2 e h1
    · subst h1; exact hx

end Tables

/-! ## Memory -/

/-- A read after a write: the written byte at its address, the old one elsewhere. -/
theorem Memory.read_write (m : Memory) (a b : Nat) (x : Byte) :
    (m.write a x).read b = if b = a then x else m.read b := tabGet_set ..

theorem Memory.wf_write {m : Memory} (a : Nat) (x : Byte) (h : m.wf = true) : (m.write a x).wf = true :=
  tabWf_set _ a x h

theorem Memory.wf_writeBytes {m : Memory} (a : Nat) (bs : List Byte) (h : m.wf = true) : (m.writeBytes a bs).wf = true := by
  induction bs generalizing m a with
  | nil => exact h
  | cons b bs ih => exact ih (a + 1) (Memory.wf_write a b h)

/-- A read after a write of bytes: the byte written there, or the old one. -/
theorem Memory.read_writeBytes (m : Memory) (a b : Nat) (bs : List Byte) :
    (m.writeBytes a bs).read b =
      if a ≤ b ∧ b < a + bs.length then (bs[b - a]?).getD Memory.blank else m.read b := by
  induction bs generalizing m a with
  | nil =>
    have : ¬ (a ≤ b ∧ b < a + ([] : List Byte).length) := by simp
    rw [if_neg this]; rfl
  | cons x bs ih =>
    simp only [Memory.writeBytes, ih, Memory.read_write, List.length_cons]
    by_cases h1 : a + 1 ≤ b ∧ b < a + 1 + bs.length
    · have h2 : a ≤ b ∧ b < a + (bs.length + 1) := by omega
      rw [if_pos h1, if_pos h2, show b - a = (b - (a + 1)) + 1 by omega]; simp
    · rw [if_neg h1]
      by_cases h3 : b = a
      · subst h3; rw [if_pos rfl, if_pos (by omega)]; simp
      · rw [if_neg h3, if_neg (by omega)]

/-- The empty memory is canonical. -/
theorem Memory.wf_nil : Memory.wf [] = true := rfl

end Sys2Proof.Machine
end

