-- ==== Sys2Proof/Laws/State.lean ====
section
/-! SUPPORT. Every field of the state after each named update, so that no proof unfolds a record update. -/

namespace Sys2Proof.Machine

/-! ## updGang -/

@[simp] theorem State.updGang_turns (s : State) (n : Nat) (f : Gang → Gang) : (s.updGang n f).turns = s.turns := rfl
@[simp] theorem State.updGang_cur (s : State) (n : Nat) (f : Gang → Gang) : (s.updGang n f).cur = s.cur := rfl
@[simp] theorem State.updGang_curPass (s : State) (n : Nat) (f : Gang → Gang) : (s.updGang n f).curPass = s.curPass := rfl
@[simp] theorem State.updGang_free (s : State) (n : Nat) (f : Gang → Gang) : (s.updGang n f).free = s.free := rfl
@[simp] theorem State.updGang_nextId (s : State) (n : Nat) (f : Gang → Gang) : (s.updGang n f).nextId = s.nextId := rfl
@[simp] theorem State.updGang_gangs (s : State) (n : Nat) (f : Gang → Gang) : (s.updGang n f).gangs = updateBy Gang.uid n f s.gangs := rfl
@[simp] theorem State.updGang_warps (s : State) (n : Nat) (f : Gang → Gang) : (s.updGang n f).warps = s.warps := rfl
@[simp] theorem State.updGang_groups (s : State) (n : Nat) (f : Gang → Gang) : (s.updGang n f).groups = s.groups := rfl
@[simp] theorem State.updGang_launches (s : State) (n : Nat) (f : Gang → Gang) : (s.updGang n f).launches = s.launches := rfl
@[simp] theorem State.updGang_bars (s : State) (n : Nat) (f : Gang → Gang) : (s.updGang n f).bars = s.bars := rfl
@[simp] theorem State.updGang_cores (s : State) (n : Nat) (f : Gang → Gang) : (s.updGang n f).cores = s.cores := rfl
@[simp] theorem State.updGang_l1 (s : State) (n : Nat) (f : Gang → Gang) : (s.updGang n f).l1 = s.l1 := rfl
@[simp] theorem State.updGang_copies (s : State) (n : Nat) (f : Gang → Gang) : (s.updGang n f).copies = s.copies := rfl
@[simp] theorem State.updGang_invals (s : State) (n : Nat) (f : Gang → Gang) : (s.updGang n f).invals = s.invals := rfl
@[simp] theorem State.updGang_old (s : State) (n : Nat) (f : Gang → Gang) : (s.updGang n f).old = s.old := rfl
@[simp] theorem State.updGang_bank (s : State) (n : Nat) (f : Gang → Gang) : (s.updGang n f).bank = s.bank := rfl
@[simp] theorem State.updGang_wanted (s : State) (n : Nat) (f : Gang → Gang) : (s.updGang n f).wanted = s.wanted := rfl
@[simp] theorem State.updGang_heldWrites (s : State) (n : Nat) (f : Gang → Gang) : (s.updGang n f).heldWrites = s.heldWrites := rfl
@[simp] theorem State.updGang_portOp (s : State) (n : Nat) (f : Gang → Gang) : (s.updGang n f).portOp = s.portOp := rfl
@[simp] theorem State.updGang_quads (s : State) (n : Nat) (f : Gang → Gang) : (s.updGang n f).quads = s.quads := rfl
@[simp] theorem State.updGang_dieU (s : State) (n : Nat) (f : Gang → Gang) : (s.updGang n f).dieU = s.dieU := rfl
@[simp] theorem State.updGang_stackU (s : State) (n : Nat) (f : Gang → Gang) : (s.updGang n f).stackU = s.stackU := rfl
@[simp] theorem State.updGang_mem (s : State) (n : Nat) (f : Gang → Gang) : (s.updGang n f).mem = s.mem := rfl
@[simp] theorem State.updGang_poison (s : State) (n : Nat) (f : Gang → Gang) : (s.updGang n f).poison = s.poison := rfl
@[simp] theorem State.updGang_latent (s : State) (n : Nat) (f : Gang → Gang) : (s.updGang n f).latent = s.latent := rfl
@[simp] theorem State.updGang_stuck (s : State) (n : Nat) (f : Gang → Gang) : (s.updGang n f).stuck = s.stuck := rfl
@[simp] theorem State.updGang_bufs (s : State) (n : Nat) (f : Gang → Gang) : (s.updGang n f).bufs = s.bufs := rfl
@[simp] theorem State.updGang_pages (s : State) (n : Nat) (f : Gang → Gang) : (s.updGang n f).pages = s.pages := rfl
@[simp] theorem State.updGang_kickidx (s : State) (n : Nat) (f : Gang → Gang) : (s.updGang n f).kickidx = s.kickidx := rfl
@[simp] theorem State.updGang_code (s : State) (n : Nat) (f : Gang → Gang) : (s.updGang n f).code = s.code := rfl
@[simp] theorem State.updGang_changes (s : State) (n : Nat) (f : Gang → Gang) : (s.updGang n f).changes = s.changes := rfl
@[simp] theorem State.updGang_migrations (s : State) (n : Nat) (f : Gang → Gang) : (s.updGang n f).migrations = s.migrations := rfl
@[simp] theorem State.updGang_evictions (s : State) (n : Nat) (f : Gang → Gang) : (s.updGang n f).evictions = s.evictions := rfl
@[simp] theorem State.updGang_withdrawn (s : State) (n : Nat) (f : Gang → Gang) : (s.updGang n f).withdrawn = s.withdrawn := rfl
@[simp] theorem State.updGang_vflights (s : State) (n : Nat) (f : Gang → Gang) : (s.updGang n f).vflights = s.vflights := rfl
@[simp] theorem State.updGang_pkg (s : State) (n : Nat) (f : Gang → Gang) : (s.updGang n f).pkg = s.pkg := rfl

/-! ## delGang -/

@[simp] theorem State.delGang_turns (s : State) (n : Nat) : (s.delGang n).turns = s.turns := rfl
@[simp] theorem State.delGang_cur (s : State) (n : Nat) : (s.delGang n).cur = s.cur := rfl
@[simp] theorem State.delGang_curPass (s : State) (n : Nat) : (s.delGang n).curPass = s.curPass := rfl
@[simp] theorem State.delGang_free (s : State) (n : Nat) : (s.delGang n).free = s.free := rfl
@[simp] theorem State.delGang_nextId (s : State) (n : Nat) : (s.delGang n).nextId = s.nextId := rfl
@[simp] theorem State.delGang_gangs (s : State) (n : Nat) : (s.delGang n).gangs = removeBy Gang.uid n s.gangs := rfl
@[simp] theorem State.delGang_warps (s : State) (n : Nat) : (s.delGang n).warps = s.warps := rfl
@[simp] theorem State.delGang_groups (s : State) (n : Nat) : (s.delGang n).groups = s.groups := rfl
@[simp] theorem State.delGang_launches (s : State) (n : Nat) : (s.delGang n).launches = s.launches := rfl
@[simp] theorem State.delGang_bars (s : State) (n : Nat) : (s.delGang n).bars = s.bars := rfl
@[simp] theorem State.delGang_cores (s : State) (n : Nat) : (s.delGang n).cores = s.cores := rfl
@[simp] theorem State.delGang_l1 (s : State) (n : Nat) : (s.delGang n).l1 = s.l1 := rfl
@[simp] theorem State.delGang_copies (s : State) (n : Nat) : (s.delGang n).copies = s.copies := rfl
@[simp] theorem State.delGang_invals (s : State) (n : Nat) : (s.delGang n).invals = s.invals := rfl
@[simp] theorem State.delGang_old (s : State) (n : Nat) : (s.delGang n).old = s.old := rfl
@[simp] theorem State.delGang_bank (s : State) (n : Nat) : (s.delGang n).bank = s.bank := rfl
@[simp] theorem State.delGang_wanted (s : State) (n : Nat) : (s.delGang n).wanted = s.wanted := rfl
@[simp] theorem State.delGang_heldWrites (s : State) (n : Nat) : (s.delGang n).heldWrites = s.heldWrites := rfl
@[simp] theorem State.delGang_portOp (s : State) (n : Nat) : (s.delGang n).portOp = s.portOp := rfl
@[simp] theorem State.delGang_quads (s : State) (n : Nat) : (s.delGang n).quads = s.quads := rfl
@[simp] theorem State.delGang_dieU (s : State) (n : Nat) : (s.delGang n).dieU = s.dieU := rfl
@[simp] theorem State.delGang_stackU (s : State) (n : Nat) : (s.delGang n).stackU = s.stackU := rfl
@[simp] theorem State.delGang_mem (s : State) (n : Nat) : (s.delGang n).mem = s.mem := rfl
@[simp] theorem State.delGang_poison (s : State) (n : Nat) : (s.delGang n).poison = s.poison := rfl
@[simp] theorem State.delGang_latent (s : State) (n : Nat) : (s.delGang n).latent = s.latent := rfl
@[simp] theorem State.delGang_stuck (s : State) (n : Nat) : (s.delGang n).stuck = s.stuck := rfl
@[simp] theorem State.delGang_bufs (s : State) (n : Nat) : (s.delGang n).bufs = s.bufs := rfl
@[simp] theorem State.delGang_pages (s : State) (n : Nat) : (s.delGang n).pages = s.pages := rfl
@[simp] theorem State.delGang_kickidx (s : State) (n : Nat) : (s.delGang n).kickidx = s.kickidx := rfl
@[simp] theorem State.delGang_code (s : State) (n : Nat) : (s.delGang n).code = s.code := rfl
@[simp] theorem State.delGang_changes (s : State) (n : Nat) : (s.delGang n).changes = s.changes := rfl
@[simp] theorem State.delGang_migrations (s : State) (n : Nat) : (s.delGang n).migrations = s.migrations := rfl
@[simp] theorem State.delGang_evictions (s : State) (n : Nat) : (s.delGang n).evictions = s.evictions := rfl
@[simp] theorem State.delGang_withdrawn (s : State) (n : Nat) : (s.delGang n).withdrawn = s.withdrawn := rfl
@[simp] theorem State.delGang_vflights (s : State) (n : Nat) : (s.delGang n).vflights = s.vflights := rfl
@[simp] theorem State.delGang_pkg (s : State) (n : Nat) : (s.delGang n).pkg = s.pkg := rfl

/-! ## updWarp -/

@[simp] theorem State.updWarp_turns (s : State) (n : Nat) (f : Warp → Warp) : (s.updWarp n f).turns = s.turns := rfl
@[simp] theorem State.updWarp_cur (s : State) (n : Nat) (f : Warp → Warp) : (s.updWarp n f).cur = s.cur := rfl
@[simp] theorem State.updWarp_curPass (s : State) (n : Nat) (f : Warp → Warp) : (s.updWarp n f).curPass = s.curPass := rfl
@[simp] theorem State.updWarp_free (s : State) (n : Nat) (f : Warp → Warp) : (s.updWarp n f).free = s.free := rfl
@[simp] theorem State.updWarp_nextId (s : State) (n : Nat) (f : Warp → Warp) : (s.updWarp n f).nextId = s.nextId := rfl
@[simp] theorem State.updWarp_gangs (s : State) (n : Nat) (f : Warp → Warp) : (s.updWarp n f).gangs = s.gangs := rfl
@[simp] theorem State.updWarp_warps (s : State) (n : Nat) (f : Warp → Warp) : (s.updWarp n f).warps = updateBy Warp.id n f s.warps := rfl
@[simp] theorem State.updWarp_groups (s : State) (n : Nat) (f : Warp → Warp) : (s.updWarp n f).groups = s.groups := rfl
@[simp] theorem State.updWarp_launches (s : State) (n : Nat) (f : Warp → Warp) : (s.updWarp n f).launches = s.launches := rfl
@[simp] theorem State.updWarp_bars (s : State) (n : Nat) (f : Warp → Warp) : (s.updWarp n f).bars = s.bars := rfl
@[simp] theorem State.updWarp_cores (s : State) (n : Nat) (f : Warp → Warp) : (s.updWarp n f).cores = s.cores := rfl
@[simp] theorem State.updWarp_l1 (s : State) (n : Nat) (f : Warp → Warp) : (s.updWarp n f).l1 = s.l1 := rfl
@[simp] theorem State.updWarp_copies (s : State) (n : Nat) (f : Warp → Warp) : (s.updWarp n f).copies = s.copies := rfl
@[simp] theorem State.updWarp_invals (s : State) (n : Nat) (f : Warp → Warp) : (s.updWarp n f).invals = s.invals := rfl
@[simp] theorem State.updWarp_old (s : State) (n : Nat) (f : Warp → Warp) : (s.updWarp n f).old = s.old := rfl
@[simp] theorem State.updWarp_bank (s : State) (n : Nat) (f : Warp → Warp) : (s.updWarp n f).bank = s.bank := rfl
@[simp] theorem State.updWarp_wanted (s : State) (n : Nat) (f : Warp → Warp) : (s.updWarp n f).wanted = s.wanted := rfl
@[simp] theorem State.updWarp_heldWrites (s : State) (n : Nat) (f : Warp → Warp) : (s.updWarp n f).heldWrites = s.heldWrites := rfl
@[simp] theorem State.updWarp_portOp (s : State) (n : Nat) (f : Warp → Warp) : (s.updWarp n f).portOp = s.portOp := rfl
@[simp] theorem State.updWarp_quads (s : State) (n : Nat) (f : Warp → Warp) : (s.updWarp n f).quads = s.quads := rfl
@[simp] theorem State.updWarp_dieU (s : State) (n : Nat) (f : Warp → Warp) : (s.updWarp n f).dieU = s.dieU := rfl
@[simp] theorem State.updWarp_stackU (s : State) (n : Nat) (f : Warp → Warp) : (s.updWarp n f).stackU = s.stackU := rfl
@[simp] theorem State.updWarp_mem (s : State) (n : Nat) (f : Warp → Warp) : (s.updWarp n f).mem = s.mem := rfl
@[simp] theorem State.updWarp_poison (s : State) (n : Nat) (f : Warp → Warp) : (s.updWarp n f).poison = s.poison := rfl
@[simp] theorem State.updWarp_latent (s : State) (n : Nat) (f : Warp → Warp) : (s.updWarp n f).latent = s.latent := rfl
@[simp] theorem State.updWarp_stuck (s : State) (n : Nat) (f : Warp → Warp) : (s.updWarp n f).stuck = s.stuck := rfl
@[simp] theorem State.updWarp_bufs (s : State) (n : Nat) (f : Warp → Warp) : (s.updWarp n f).bufs = s.bufs := rfl
@[simp] theorem State.updWarp_pages (s : State) (n : Nat) (f : Warp → Warp) : (s.updWarp n f).pages = s.pages := rfl
@[simp] theorem State.updWarp_kickidx (s : State) (n : Nat) (f : Warp → Warp) : (s.updWarp n f).kickidx = s.kickidx := rfl
@[simp] theorem State.updWarp_code (s : State) (n : Nat) (f : Warp → Warp) : (s.updWarp n f).code = s.code := rfl
@[simp] theorem State.updWarp_changes (s : State) (n : Nat) (f : Warp → Warp) : (s.updWarp n f).changes = s.changes := rfl
@[simp] theorem State.updWarp_migrations (s : State) (n : Nat) (f : Warp → Warp) : (s.updWarp n f).migrations = s.migrations := rfl
@[simp] theorem State.updWarp_evictions (s : State) (n : Nat) (f : Warp → Warp) : (s.updWarp n f).evictions = s.evictions := rfl
@[simp] theorem State.updWarp_withdrawn (s : State) (n : Nat) (f : Warp → Warp) : (s.updWarp n f).withdrawn = s.withdrawn := rfl
@[simp] theorem State.updWarp_vflights (s : State) (n : Nat) (f : Warp → Warp) : (s.updWarp n f).vflights = s.vflights := rfl
@[simp] theorem State.updWarp_pkg (s : State) (n : Nat) (f : Warp → Warp) : (s.updWarp n f).pkg = s.pkg := rfl

/-! ## updGroup -/

@[simp] theorem State.updGroup_turns (s : State) (n : Nat) (f : Group → Group) : (s.updGroup n f).turns = s.turns := rfl
@[simp] theorem State.updGroup_cur (s : State) (n : Nat) (f : Group → Group) : (s.updGroup n f).cur = s.cur := rfl
@[simp] theorem State.updGroup_curPass (s : State) (n : Nat) (f : Group → Group) : (s.updGroup n f).curPass = s.curPass := rfl
@[simp] theorem State.updGroup_free (s : State) (n : Nat) (f : Group → Group) : (s.updGroup n f).free = s.free := rfl
@[simp] theorem State.updGroup_nextId (s : State) (n : Nat) (f : Group → Group) : (s.updGroup n f).nextId = s.nextId := rfl
@[simp] theorem State.updGroup_gangs (s : State) (n : Nat) (f : Group → Group) : (s.updGroup n f).gangs = s.gangs := rfl
@[simp] theorem State.updGroup_warps (s : State) (n : Nat) (f : Group → Group) : (s.updGroup n f).warps = s.warps := rfl
@[simp] theorem State.updGroup_groups (s : State) (n : Nat) (f : Group → Group) : (s.updGroup n f).groups = updateBy Group.id n f s.groups := rfl
@[simp] theorem State.updGroup_launches (s : State) (n : Nat) (f : Group → Group) : (s.updGroup n f).launches = s.launches := rfl
@[simp] theorem State.updGroup_bars (s : State) (n : Nat) (f : Group → Group) : (s.updGroup n f).bars = s.bars := rfl
@[simp] theorem State.updGroup_cores (s : State) (n : Nat) (f : Group → Group) : (s.updGroup n f).cores = s.cores := rfl
@[simp] theorem State.updGroup_l1 (s : State) (n : Nat) (f : Group → Group) : (s.updGroup n f).l1 = s.l1 := rfl
@[simp] theorem State.updGroup_copies (s : State) (n : Nat) (f : Group → Group) : (s.updGroup n f).copies = s.copies := rfl
@[simp] theorem State.updGroup_invals (s : State) (n : Nat) (f : Group → Group) : (s.updGroup n f).invals = s.invals := rfl
@[simp] theorem State.updGroup_old (s : State) (n : Nat) (f : Group → Group) : (s.updGroup n f).old = s.old := rfl
@[simp] theorem State.updGroup_bank (s : State) (n : Nat) (f : Group → Group) : (s.updGroup n f).bank = s.bank := rfl
@[simp] theorem State.updGroup_wanted (s : State) (n : Nat) (f : Group → Group) : (s.updGroup n f).wanted = s.wanted := rfl
@[simp] theorem State.updGroup_heldWrites (s : State) (n : Nat) (f : Group → Group) : (s.updGroup n f).heldWrites = s.heldWrites := rfl
@[simp] theorem State.updGroup_portOp (s : State) (n : Nat) (f : Group → Group) : (s.updGroup n f).portOp = s.portOp := rfl
@[simp] theorem State.updGroup_quads (s : State) (n : Nat) (f : Group → Group) : (s.updGroup n f).quads = s.quads := rfl
@[simp] theorem State.updGroup_dieU (s : State) (n : Nat) (f : Group → Group) : (s.updGroup n f).dieU = s.dieU := rfl
@[simp] theorem State.updGroup_stackU (s : State) (n : Nat) (f : Group → Group) : (s.updGroup n f).stackU = s.stackU := rfl
@[simp] theorem State.updGroup_mem (s : State) (n : Nat) (f : Group → Group) : (s.updGroup n f).mem = s.mem := rfl
@[simp] theorem State.updGroup_poison (s : State) (n : Nat) (f : Group → Group) : (s.updGroup n f).poison = s.poison := rfl
@[simp] theorem State.updGroup_latent (s : State) (n : Nat) (f : Group → Group) : (s.updGroup n f).latent = s.latent := rfl
@[simp] theorem State.updGroup_stuck (s : State) (n : Nat) (f : Group → Group) : (s.updGroup n f).stuck = s.stuck := rfl
@[simp] theorem State.updGroup_bufs (s : State) (n : Nat) (f : Group → Group) : (s.updGroup n f).bufs = s.bufs := rfl
@[simp] theorem State.updGroup_pages (s : State) (n : Nat) (f : Group → Group) : (s.updGroup n f).pages = s.pages := rfl
@[simp] theorem State.updGroup_kickidx (s : State) (n : Nat) (f : Group → Group) : (s.updGroup n f).kickidx = s.kickidx := rfl
@[simp] theorem State.updGroup_code (s : State) (n : Nat) (f : Group → Group) : (s.updGroup n f).code = s.code := rfl
@[simp] theorem State.updGroup_changes (s : State) (n : Nat) (f : Group → Group) : (s.updGroup n f).changes = s.changes := rfl
@[simp] theorem State.updGroup_migrations (s : State) (n : Nat) (f : Group → Group) : (s.updGroup n f).migrations = s.migrations := rfl
@[simp] theorem State.updGroup_evictions (s : State) (n : Nat) (f : Group → Group) : (s.updGroup n f).evictions = s.evictions := rfl
@[simp] theorem State.updGroup_withdrawn (s : State) (n : Nat) (f : Group → Group) : (s.updGroup n f).withdrawn = s.withdrawn := rfl
@[simp] theorem State.updGroup_vflights (s : State) (n : Nat) (f : Group → Group) : (s.updGroup n f).vflights = s.vflights := rfl
@[simp] theorem State.updGroup_pkg (s : State) (n : Nat) (f : Group → Group) : (s.updGroup n f).pkg = s.pkg := rfl

/-! ## updLaunch -/

@[simp] theorem State.updLaunch_turns (s : State) (n : Nat) (f : Launch → Launch) : (s.updLaunch n f).turns = s.turns := rfl
@[simp] theorem State.updLaunch_cur (s : State) (n : Nat) (f : Launch → Launch) : (s.updLaunch n f).cur = s.cur := rfl
@[simp] theorem State.updLaunch_curPass (s : State) (n : Nat) (f : Launch → Launch) : (s.updLaunch n f).curPass = s.curPass := rfl
@[simp] theorem State.updLaunch_free (s : State) (n : Nat) (f : Launch → Launch) : (s.updLaunch n f).free = s.free := rfl
@[simp] theorem State.updLaunch_nextId (s : State) (n : Nat) (f : Launch → Launch) : (s.updLaunch n f).nextId = s.nextId := rfl
@[simp] theorem State.updLaunch_gangs (s : State) (n : Nat) (f : Launch → Launch) : (s.updLaunch n f).gangs = s.gangs := rfl
@[simp] theorem State.updLaunch_warps (s : State) (n : Nat) (f : Launch → Launch) : (s.updLaunch n f).warps = s.warps := rfl
@[simp] theorem State.updLaunch_groups (s : State) (n : Nat) (f : Launch → Launch) : (s.updLaunch n f).groups = s.groups := rfl
@[simp] theorem State.updLaunch_launches (s : State) (n : Nat) (f : Launch → Launch) : (s.updLaunch n f).launches = updateBy Launch.id n f s.launches := rfl
@[simp] theorem State.updLaunch_bars (s : State) (n : Nat) (f : Launch → Launch) : (s.updLaunch n f).bars = s.bars := rfl
@[simp] theorem State.updLaunch_cores (s : State) (n : Nat) (f : Launch → Launch) : (s.updLaunch n f).cores = s.cores := rfl
@[simp] theorem State.updLaunch_l1 (s : State) (n : Nat) (f : Launch → Launch) : (s.updLaunch n f).l1 = s.l1 := rfl
@[simp] theorem State.updLaunch_copies (s : State) (n : Nat) (f : Launch → Launch) : (s.updLaunch n f).copies = s.copies := rfl
@[simp] theorem State.updLaunch_invals (s : State) (n : Nat) (f : Launch → Launch) : (s.updLaunch n f).invals = s.invals := rfl
@[simp] theorem State.updLaunch_old (s : State) (n : Nat) (f : Launch → Launch) : (s.updLaunch n f).old = s.old := rfl
@[simp] theorem State.updLaunch_bank (s : State) (n : Nat) (f : Launch → Launch) : (s.updLaunch n f).bank = s.bank := rfl
@[simp] theorem State.updLaunch_wanted (s : State) (n : Nat) (f : Launch → Launch) : (s.updLaunch n f).wanted = s.wanted := rfl
@[simp] theorem State.updLaunch_heldWrites (s : State) (n : Nat) (f : Launch → Launch) : (s.updLaunch n f).heldWrites = s.heldWrites := rfl
@[simp] theorem State.updLaunch_portOp (s : State) (n : Nat) (f : Launch → Launch) : (s.updLaunch n f).portOp = s.portOp := rfl
@[simp] theorem State.updLaunch_quads (s : State) (n : Nat) (f : Launch → Launch) : (s.updLaunch n f).quads = s.quads := rfl
@[simp] theorem State.updLaunch_dieU (s : State) (n : Nat) (f : Launch → Launch) : (s.updLaunch n f).dieU = s.dieU := rfl
@[simp] theorem State.updLaunch_stackU (s : State) (n : Nat) (f : Launch → Launch) : (s.updLaunch n f).stackU = s.stackU := rfl
@[simp] theorem State.updLaunch_mem (s : State) (n : Nat) (f : Launch → Launch) : (s.updLaunch n f).mem = s.mem := rfl
@[simp] theorem State.updLaunch_poison (s : State) (n : Nat) (f : Launch → Launch) : (s.updLaunch n f).poison = s.poison := rfl
@[simp] theorem State.updLaunch_latent (s : State) (n : Nat) (f : Launch → Launch) : (s.updLaunch n f).latent = s.latent := rfl
@[simp] theorem State.updLaunch_stuck (s : State) (n : Nat) (f : Launch → Launch) : (s.updLaunch n f).stuck = s.stuck := rfl
@[simp] theorem State.updLaunch_bufs (s : State) (n : Nat) (f : Launch → Launch) : (s.updLaunch n f).bufs = s.bufs := rfl
@[simp] theorem State.updLaunch_pages (s : State) (n : Nat) (f : Launch → Launch) : (s.updLaunch n f).pages = s.pages := rfl
@[simp] theorem State.updLaunch_kickidx (s : State) (n : Nat) (f : Launch → Launch) : (s.updLaunch n f).kickidx = s.kickidx := rfl
@[simp] theorem State.updLaunch_code (s : State) (n : Nat) (f : Launch → Launch) : (s.updLaunch n f).code = s.code := rfl
@[simp] theorem State.updLaunch_changes (s : State) (n : Nat) (f : Launch → Launch) : (s.updLaunch n f).changes = s.changes := rfl
@[simp] theorem State.updLaunch_migrations (s : State) (n : Nat) (f : Launch → Launch) : (s.updLaunch n f).migrations = s.migrations := rfl
@[simp] theorem State.updLaunch_evictions (s : State) (n : Nat) (f : Launch → Launch) : (s.updLaunch n f).evictions = s.evictions := rfl
@[simp] theorem State.updLaunch_withdrawn (s : State) (n : Nat) (f : Launch → Launch) : (s.updLaunch n f).withdrawn = s.withdrawn := rfl
@[simp] theorem State.updLaunch_vflights (s : State) (n : Nat) (f : Launch → Launch) : (s.updLaunch n f).vflights = s.vflights := rfl
@[simp] theorem State.updLaunch_pkg (s : State) (n : Nat) (f : Launch → Launch) : (s.updLaunch n f).pkg = s.pkg := rfl

/-! ## updCore -/

@[simp] theorem State.updCore_turns (s : State) (n : Nat) (f : CoreU → CoreU) : (s.updCore n f).turns = s.turns := rfl
@[simp] theorem State.updCore_cur (s : State) (n : Nat) (f : CoreU → CoreU) : (s.updCore n f).cur = s.cur := rfl
@[simp] theorem State.updCore_curPass (s : State) (n : Nat) (f : CoreU → CoreU) : (s.updCore n f).curPass = s.curPass := rfl
@[simp] theorem State.updCore_free (s : State) (n : Nat) (f : CoreU → CoreU) : (s.updCore n f).free = s.free := rfl
@[simp] theorem State.updCore_nextId (s : State) (n : Nat) (f : CoreU → CoreU) : (s.updCore n f).nextId = s.nextId := rfl
@[simp] theorem State.updCore_gangs (s : State) (n : Nat) (f : CoreU → CoreU) : (s.updCore n f).gangs = s.gangs := rfl
@[simp] theorem State.updCore_warps (s : State) (n : Nat) (f : CoreU → CoreU) : (s.updCore n f).warps = s.warps := rfl
@[simp] theorem State.updCore_groups (s : State) (n : Nat) (f : CoreU → CoreU) : (s.updCore n f).groups = s.groups := rfl
@[simp] theorem State.updCore_launches (s : State) (n : Nat) (f : CoreU → CoreU) : (s.updCore n f).launches = s.launches := rfl
@[simp] theorem State.updCore_bars (s : State) (n : Nat) (f : CoreU → CoreU) : (s.updCore n f).bars = s.bars := rfl
@[simp] theorem State.updCore_cores (s : State) (n : Nat) (f : CoreU → CoreU) : (s.updCore n f).cores = tabSet {} s.cores n (f (s.core n)) := rfl
@[simp] theorem State.updCore_l1 (s : State) (n : Nat) (f : CoreU → CoreU) : (s.updCore n f).l1 = s.l1 := rfl
@[simp] theorem State.updCore_copies (s : State) (n : Nat) (f : CoreU → CoreU) : (s.updCore n f).copies = s.copies := rfl
@[simp] theorem State.updCore_invals (s : State) (n : Nat) (f : CoreU → CoreU) : (s.updCore n f).invals = s.invals := rfl
@[simp] theorem State.updCore_old (s : State) (n : Nat) (f : CoreU → CoreU) : (s.updCore n f).old = s.old := rfl
@[simp] theorem State.updCore_bank (s : State) (n : Nat) (f : CoreU → CoreU) : (s.updCore n f).bank = s.bank := rfl
@[simp] theorem State.updCore_wanted (s : State) (n : Nat) (f : CoreU → CoreU) : (s.updCore n f).wanted = s.wanted := rfl
@[simp] theorem State.updCore_heldWrites (s : State) (n : Nat) (f : CoreU → CoreU) : (s.updCore n f).heldWrites = s.heldWrites := rfl
@[simp] theorem State.updCore_portOp (s : State) (n : Nat) (f : CoreU → CoreU) : (s.updCore n f).portOp = s.portOp := rfl
@[simp] theorem State.updCore_quads (s : State) (n : Nat) (f : CoreU → CoreU) : (s.updCore n f).quads = s.quads := rfl
@[simp] theorem State.updCore_dieU (s : State) (n : Nat) (f : CoreU → CoreU) : (s.updCore n f).dieU = s.dieU := rfl
@[simp] theorem State.updCore_stackU (s : State) (n : Nat) (f : CoreU → CoreU) : (s.updCore n f).stackU = s.stackU := rfl
@[simp] theorem State.updCore_mem (s : State) (n : Nat) (f : CoreU → CoreU) : (s.updCore n f).mem = s.mem := rfl
@[simp] theorem State.updCore_poison (s : State) (n : Nat) (f : CoreU → CoreU) : (s.updCore n f).poison = s.poison := rfl
@[simp] theorem State.updCore_latent (s : State) (n : Nat) (f : CoreU → CoreU) : (s.updCore n f).latent = s.latent := rfl
@[simp] theorem State.updCore_stuck (s : State) (n : Nat) (f : CoreU → CoreU) : (s.updCore n f).stuck = s.stuck := rfl
@[simp] theorem State.updCore_bufs (s : State) (n : Nat) (f : CoreU → CoreU) : (s.updCore n f).bufs = s.bufs := rfl
@[simp] theorem State.updCore_pages (s : State) (n : Nat) (f : CoreU → CoreU) : (s.updCore n f).pages = s.pages := rfl
@[simp] theorem State.updCore_kickidx (s : State) (n : Nat) (f : CoreU → CoreU) : (s.updCore n f).kickidx = s.kickidx := rfl
@[simp] theorem State.updCore_code (s : State) (n : Nat) (f : CoreU → CoreU) : (s.updCore n f).code = s.code := rfl
@[simp] theorem State.updCore_changes (s : State) (n : Nat) (f : CoreU → CoreU) : (s.updCore n f).changes = s.changes := rfl
@[simp] theorem State.updCore_migrations (s : State) (n : Nat) (f : CoreU → CoreU) : (s.updCore n f).migrations = s.migrations := rfl
@[simp] theorem State.updCore_evictions (s : State) (n : Nat) (f : CoreU → CoreU) : (s.updCore n f).evictions = s.evictions := rfl
@[simp] theorem State.updCore_withdrawn (s : State) (n : Nat) (f : CoreU → CoreU) : (s.updCore n f).withdrawn = s.withdrawn := rfl
@[simp] theorem State.updCore_vflights (s : State) (n : Nat) (f : CoreU → CoreU) : (s.updCore n f).vflights = s.vflights := rfl
@[simp] theorem State.updCore_pkg (s : State) (n : Nat) (f : CoreU → CoreU) : (s.updCore n f).pkg = s.pkg := rfl

/-! ## updQuad -/

@[simp] theorem State.updQuad_turns (s : State) (n : Nat) (f : QuadU → QuadU) : (s.updQuad n f).turns = s.turns := rfl
@[simp] theorem State.updQuad_cur (s : State) (n : Nat) (f : QuadU → QuadU) : (s.updQuad n f).cur = s.cur := rfl
@[simp] theorem State.updQuad_curPass (s : State) (n : Nat) (f : QuadU → QuadU) : (s.updQuad n f).curPass = s.curPass := rfl
@[simp] theorem State.updQuad_free (s : State) (n : Nat) (f : QuadU → QuadU) : (s.updQuad n f).free = s.free := rfl
@[simp] theorem State.updQuad_nextId (s : State) (n : Nat) (f : QuadU → QuadU) : (s.updQuad n f).nextId = s.nextId := rfl
@[simp] theorem State.updQuad_gangs (s : State) (n : Nat) (f : QuadU → QuadU) : (s.updQuad n f).gangs = s.gangs := rfl
@[simp] theorem State.updQuad_warps (s : State) (n : Nat) (f : QuadU → QuadU) : (s.updQuad n f).warps = s.warps := rfl
@[simp] theorem State.updQuad_groups (s : State) (n : Nat) (f : QuadU → QuadU) : (s.updQuad n f).groups = s.groups := rfl
@[simp] theorem State.updQuad_launches (s : State) (n : Nat) (f : QuadU → QuadU) : (s.updQuad n f).launches = s.launches := rfl
@[simp] theorem State.updQuad_bars (s : State) (n : Nat) (f : QuadU → QuadU) : (s.updQuad n f).bars = s.bars := rfl
@[simp] theorem State.updQuad_cores (s : State) (n : Nat) (f : QuadU → QuadU) : (s.updQuad n f).cores = s.cores := rfl
@[simp] theorem State.updQuad_l1 (s : State) (n : Nat) (f : QuadU → QuadU) : (s.updQuad n f).l1 = s.l1 := rfl
@[simp] theorem State.updQuad_copies (s : State) (n : Nat) (f : QuadU → QuadU) : (s.updQuad n f).copies = s.copies := rfl
@[simp] theorem State.updQuad_invals (s : State) (n : Nat) (f : QuadU → QuadU) : (s.updQuad n f).invals = s.invals := rfl
@[simp] theorem State.updQuad_old (s : State) (n : Nat) (f : QuadU → QuadU) : (s.updQuad n f).old = s.old := rfl
@[simp] theorem State.updQuad_bank (s : State) (n : Nat) (f : QuadU → QuadU) : (s.updQuad n f).bank = s.bank := rfl
@[simp] theorem State.updQuad_wanted (s : State) (n : Nat) (f : QuadU → QuadU) : (s.updQuad n f).wanted = s.wanted := rfl
@[simp] theorem State.updQuad_heldWrites (s : State) (n : Nat) (f : QuadU → QuadU) : (s.updQuad n f).heldWrites = s.heldWrites := rfl
@[simp] theorem State.updQuad_portOp (s : State) (n : Nat) (f : QuadU → QuadU) : (s.updQuad n f).portOp = s.portOp := rfl
@[simp] theorem State.updQuad_quads (s : State) (n : Nat) (f : QuadU → QuadU) : (s.updQuad n f).quads = tabSet {} s.quads n (f (s.quad n)) := rfl
@[simp] theorem State.updQuad_dieU (s : State) (n : Nat) (f : QuadU → QuadU) : (s.updQuad n f).dieU = s.dieU := rfl
@[simp] theorem State.updQuad_stackU (s : State) (n : Nat) (f : QuadU → QuadU) : (s.updQuad n f).stackU = s.stackU := rfl
@[simp] theorem State.updQuad_mem (s : State) (n : Nat) (f : QuadU → QuadU) : (s.updQuad n f).mem = s.mem := rfl
@[simp] theorem State.updQuad_poison (s : State) (n : Nat) (f : QuadU → QuadU) : (s.updQuad n f).poison = s.poison := rfl
@[simp] theorem State.updQuad_latent (s : State) (n : Nat) (f : QuadU → QuadU) : (s.updQuad n f).latent = s.latent := rfl
@[simp] theorem State.updQuad_stuck (s : State) (n : Nat) (f : QuadU → QuadU) : (s.updQuad n f).stuck = s.stuck := rfl
@[simp] theorem State.updQuad_bufs (s : State) (n : Nat) (f : QuadU → QuadU) : (s.updQuad n f).bufs = s.bufs := rfl
@[simp] theorem State.updQuad_pages (s : State) (n : Nat) (f : QuadU → QuadU) : (s.updQuad n f).pages = s.pages := rfl
@[simp] theorem State.updQuad_kickidx (s : State) (n : Nat) (f : QuadU → QuadU) : (s.updQuad n f).kickidx = s.kickidx := rfl
@[simp] theorem State.updQuad_code (s : State) (n : Nat) (f : QuadU → QuadU) : (s.updQuad n f).code = s.code := rfl
@[simp] theorem State.updQuad_changes (s : State) (n : Nat) (f : QuadU → QuadU) : (s.updQuad n f).changes = s.changes := rfl
@[simp] theorem State.updQuad_migrations (s : State) (n : Nat) (f : QuadU → QuadU) : (s.updQuad n f).migrations = s.migrations := rfl
@[simp] theorem State.updQuad_evictions (s : State) (n : Nat) (f : QuadU → QuadU) : (s.updQuad n f).evictions = s.evictions := rfl
@[simp] theorem State.updQuad_withdrawn (s : State) (n : Nat) (f : QuadU → QuadU) : (s.updQuad n f).withdrawn = s.withdrawn := rfl
@[simp] theorem State.updQuad_vflights (s : State) (n : Nat) (f : QuadU → QuadU) : (s.updQuad n f).vflights = s.vflights := rfl
@[simp] theorem State.updQuad_pkg (s : State) (n : Nat) (f : QuadU → QuadU) : (s.updQuad n f).pkg = s.pkg := rfl

/-! ## updDie -/

@[simp] theorem State.updDie_turns (s : State) (n : Nat) (f : DieU → DieU) : (s.updDie n f).turns = s.turns := rfl
@[simp] theorem State.updDie_cur (s : State) (n : Nat) (f : DieU → DieU) : (s.updDie n f).cur = s.cur := rfl
@[simp] theorem State.updDie_curPass (s : State) (n : Nat) (f : DieU → DieU) : (s.updDie n f).curPass = s.curPass := rfl
@[simp] theorem State.updDie_free (s : State) (n : Nat) (f : DieU → DieU) : (s.updDie n f).free = s.free := rfl
@[simp] theorem State.updDie_nextId (s : State) (n : Nat) (f : DieU → DieU) : (s.updDie n f).nextId = s.nextId := rfl
@[simp] theorem State.updDie_gangs (s : State) (n : Nat) (f : DieU → DieU) : (s.updDie n f).gangs = s.gangs := rfl
@[simp] theorem State.updDie_warps (s : State) (n : Nat) (f : DieU → DieU) : (s.updDie n f).warps = s.warps := rfl
@[simp] theorem State.updDie_groups (s : State) (n : Nat) (f : DieU → DieU) : (s.updDie n f).groups = s.groups := rfl
@[simp] theorem State.updDie_launches (s : State) (n : Nat) (f : DieU → DieU) : (s.updDie n f).launches = s.launches := rfl
@[simp] theorem State.updDie_bars (s : State) (n : Nat) (f : DieU → DieU) : (s.updDie n f).bars = s.bars := rfl
@[simp] theorem State.updDie_cores (s : State) (n : Nat) (f : DieU → DieU) : (s.updDie n f).cores = s.cores := rfl
@[simp] theorem State.updDie_l1 (s : State) (n : Nat) (f : DieU → DieU) : (s.updDie n f).l1 = s.l1 := rfl
@[simp] theorem State.updDie_copies (s : State) (n : Nat) (f : DieU → DieU) : (s.updDie n f).copies = s.copies := rfl
@[simp] theorem State.updDie_invals (s : State) (n : Nat) (f : DieU → DieU) : (s.updDie n f).invals = s.invals := rfl
@[simp] theorem State.updDie_old (s : State) (n : Nat) (f : DieU → DieU) : (s.updDie n f).old = s.old := rfl
@[simp] theorem State.updDie_bank (s : State) (n : Nat) (f : DieU → DieU) : (s.updDie n f).bank = s.bank := rfl
@[simp] theorem State.updDie_wanted (s : State) (n : Nat) (f : DieU → DieU) : (s.updDie n f).wanted = s.wanted := rfl
@[simp] theorem State.updDie_heldWrites (s : State) (n : Nat) (f : DieU → DieU) : (s.updDie n f).heldWrites = s.heldWrites := rfl
@[simp] theorem State.updDie_portOp (s : State) (n : Nat) (f : DieU → DieU) : (s.updDie n f).portOp = s.portOp := rfl
@[simp] theorem State.updDie_quads (s : State) (n : Nat) (f : DieU → DieU) : (s.updDie n f).quads = s.quads := rfl
@[simp] theorem State.updDie_dieU (s : State) (n : Nat) (f : DieU → DieU) : (s.updDie n f).dieU = listModify f s.dieU n := rfl
@[simp] theorem State.updDie_stackU (s : State) (n : Nat) (f : DieU → DieU) : (s.updDie n f).stackU = s.stackU := rfl
@[simp] theorem State.updDie_mem (s : State) (n : Nat) (f : DieU → DieU) : (s.updDie n f).mem = s.mem := rfl
@[simp] theorem State.updDie_poison (s : State) (n : Nat) (f : DieU → DieU) : (s.updDie n f).poison = s.poison := rfl
@[simp] theorem State.updDie_latent (s : State) (n : Nat) (f : DieU → DieU) : (s.updDie n f).latent = s.latent := rfl
@[simp] theorem State.updDie_stuck (s : State) (n : Nat) (f : DieU → DieU) : (s.updDie n f).stuck = s.stuck := rfl
@[simp] theorem State.updDie_bufs (s : State) (n : Nat) (f : DieU → DieU) : (s.updDie n f).bufs = s.bufs := rfl
@[simp] theorem State.updDie_pages (s : State) (n : Nat) (f : DieU → DieU) : (s.updDie n f).pages = s.pages := rfl
@[simp] theorem State.updDie_kickidx (s : State) (n : Nat) (f : DieU → DieU) : (s.updDie n f).kickidx = s.kickidx := rfl
@[simp] theorem State.updDie_code (s : State) (n : Nat) (f : DieU → DieU) : (s.updDie n f).code = s.code := rfl
@[simp] theorem State.updDie_changes (s : State) (n : Nat) (f : DieU → DieU) : (s.updDie n f).changes = s.changes := rfl
@[simp] theorem State.updDie_migrations (s : State) (n : Nat) (f : DieU → DieU) : (s.updDie n f).migrations = s.migrations := rfl
@[simp] theorem State.updDie_evictions (s : State) (n : Nat) (f : DieU → DieU) : (s.updDie n f).evictions = s.evictions := rfl
@[simp] theorem State.updDie_withdrawn (s : State) (n : Nat) (f : DieU → DieU) : (s.updDie n f).withdrawn = s.withdrawn := rfl
@[simp] theorem State.updDie_vflights (s : State) (n : Nat) (f : DieU → DieU) : (s.updDie n f).vflights = s.vflights := rfl
@[simp] theorem State.updDie_pkg (s : State) (n : Nat) (f : DieU → DieU) : (s.updDie n f).pkg = s.pkg := rfl

/-! ## updStack -/

@[simp] theorem State.updStack_turns (s : State) (n : Nat) (f : StackU → StackU) : (s.updStack n f).turns = s.turns := rfl
@[simp] theorem State.updStack_cur (s : State) (n : Nat) (f : StackU → StackU) : (s.updStack n f).cur = s.cur := rfl
@[simp] theorem State.updStack_curPass (s : State) (n : Nat) (f : StackU → StackU) : (s.updStack n f).curPass = s.curPass := rfl
@[simp] theorem State.updStack_free (s : State) (n : Nat) (f : StackU → StackU) : (s.updStack n f).free = s.free := rfl
@[simp] theorem State.updStack_nextId (s : State) (n : Nat) (f : StackU → StackU) : (s.updStack n f).nextId = s.nextId := rfl
@[simp] theorem State.updStack_gangs (s : State) (n : Nat) (f : StackU → StackU) : (s.updStack n f).gangs = s.gangs := rfl
@[simp] theorem State.updStack_warps (s : State) (n : Nat) (f : StackU → StackU) : (s.updStack n f).warps = s.warps := rfl
@[simp] theorem State.updStack_groups (s : State) (n : Nat) (f : StackU → StackU) : (s.updStack n f).groups = s.groups := rfl
@[simp] theorem State.updStack_launches (s : State) (n : Nat) (f : StackU → StackU) : (s.updStack n f).launches = s.launches := rfl
@[simp] theorem State.updStack_bars (s : State) (n : Nat) (f : StackU → StackU) : (s.updStack n f).bars = s.bars := rfl
@[simp] theorem State.updStack_cores (s : State) (n : Nat) (f : StackU → StackU) : (s.updStack n f).cores = s.cores := rfl
@[simp] theorem State.updStack_l1 (s : State) (n : Nat) (f : StackU → StackU) : (s.updStack n f).l1 = s.l1 := rfl
@[simp] theorem State.updStack_copies (s : State) (n : Nat) (f : StackU → StackU) : (s.updStack n f).copies = s.copies := rfl
@[simp] theorem State.updStack_invals (s : State) (n : Nat) (f : StackU → StackU) : (s.updStack n f).invals = s.invals := rfl
@[simp] theorem State.updStack_old (s : State) (n : Nat) (f : StackU → StackU) : (s.updStack n f).old = s.old := rfl
@[simp] theorem State.updStack_bank (s : State) (n : Nat) (f : StackU → StackU) : (s.updStack n f).bank = s.bank := rfl
@[simp] theorem State.updStack_wanted (s : State) (n : Nat) (f : StackU → StackU) : (s.updStack n f).wanted = s.wanted := rfl
@[simp] theorem State.updStack_heldWrites (s : State) (n : Nat) (f : StackU → StackU) : (s.updStack n f).heldWrites = s.heldWrites := rfl
@[simp] theorem State.updStack_portOp (s : State) (n : Nat) (f : StackU → StackU) : (s.updStack n f).portOp = s.portOp := rfl
@[simp] theorem State.updStack_quads (s : State) (n : Nat) (f : StackU → StackU) : (s.updStack n f).quads = s.quads := rfl
@[simp] theorem State.updStack_dieU (s : State) (n : Nat) (f : StackU → StackU) : (s.updStack n f).dieU = s.dieU := rfl
@[simp] theorem State.updStack_stackU (s : State) (n : Nat) (f : StackU → StackU) : (s.updStack n f).stackU = tabSet {} s.stackU n (f (s.stack n)) := rfl
@[simp] theorem State.updStack_mem (s : State) (n : Nat) (f : StackU → StackU) : (s.updStack n f).mem = s.mem := rfl
@[simp] theorem State.updStack_poison (s : State) (n : Nat) (f : StackU → StackU) : (s.updStack n f).poison = s.poison := rfl
@[simp] theorem State.updStack_latent (s : State) (n : Nat) (f : StackU → StackU) : (s.updStack n f).latent = s.latent := rfl
@[simp] theorem State.updStack_stuck (s : State) (n : Nat) (f : StackU → StackU) : (s.updStack n f).stuck = s.stuck := rfl
@[simp] theorem State.updStack_bufs (s : State) (n : Nat) (f : StackU → StackU) : (s.updStack n f).bufs = s.bufs := rfl
@[simp] theorem State.updStack_pages (s : State) (n : Nat) (f : StackU → StackU) : (s.updStack n f).pages = s.pages := rfl
@[simp] theorem State.updStack_kickidx (s : State) (n : Nat) (f : StackU → StackU) : (s.updStack n f).kickidx = s.kickidx := rfl
@[simp] theorem State.updStack_code (s : State) (n : Nat) (f : StackU → StackU) : (s.updStack n f).code = s.code := rfl
@[simp] theorem State.updStack_changes (s : State) (n : Nat) (f : StackU → StackU) : (s.updStack n f).changes = s.changes := rfl
@[simp] theorem State.updStack_migrations (s : State) (n : Nat) (f : StackU → StackU) : (s.updStack n f).migrations = s.migrations := rfl
@[simp] theorem State.updStack_evictions (s : State) (n : Nat) (f : StackU → StackU) : (s.updStack n f).evictions = s.evictions := rfl
@[simp] theorem State.updStack_withdrawn (s : State) (n : Nat) (f : StackU → StackU) : (s.updStack n f).withdrawn = s.withdrawn := rfl
@[simp] theorem State.updStack_vflights (s : State) (n : Nat) (f : StackU → StackU) : (s.updStack n f).vflights = s.vflights := rfl
@[simp] theorem State.updStack_pkg (s : State) (n : Nat) (f : StackU → StackU) : (s.updStack n f).pkg = s.pkg := rfl

/-! ## fresh -/

@[simp] theorem State.fresh_turns (s : State) : (s.fresh.2).turns = s.turns := rfl
@[simp] theorem State.fresh_cur (s : State) : (s.fresh.2).cur = s.cur := rfl
@[simp] theorem State.fresh_curPass (s : State) : (s.fresh.2).curPass = s.curPass := rfl
@[simp] theorem State.fresh_free (s : State) : (s.fresh.2).free = s.free := rfl
@[simp] theorem State.fresh_nextId (s : State) : (s.fresh.2).nextId = s.nextId + 1 := rfl
@[simp] theorem State.fresh_gangs (s : State) : (s.fresh.2).gangs = s.gangs := rfl
@[simp] theorem State.fresh_warps (s : State) : (s.fresh.2).warps = s.warps := rfl
@[simp] theorem State.fresh_groups (s : State) : (s.fresh.2).groups = s.groups := rfl
@[simp] theorem State.fresh_launches (s : State) : (s.fresh.2).launches = s.launches := rfl
@[simp] theorem State.fresh_bars (s : State) : (s.fresh.2).bars = s.bars := rfl
@[simp] theorem State.fresh_cores (s : State) : (s.fresh.2).cores = s.cores := rfl
@[simp] theorem State.fresh_l1 (s : State) : (s.fresh.2).l1 = s.l1 := rfl
@[simp] theorem State.fresh_copies (s : State) : (s.fresh.2).copies = s.copies := rfl
@[simp] theorem State.fresh_invals (s : State) : (s.fresh.2).invals = s.invals := rfl
@[simp] theorem State.fresh_old (s : State) : (s.fresh.2).old = s.old := rfl
@[simp] theorem State.fresh_bank (s : State) : (s.fresh.2).bank = s.bank := rfl
@[simp] theorem State.fresh_wanted (s : State) : (s.fresh.2).wanted = s.wanted := rfl
@[simp] theorem State.fresh_heldWrites (s : State) : (s.fresh.2).heldWrites = s.heldWrites := rfl
@[simp] theorem State.fresh_portOp (s : State) : (s.fresh.2).portOp = s.portOp := rfl
@[simp] theorem State.fresh_quads (s : State) : (s.fresh.2).quads = s.quads := rfl
@[simp] theorem State.fresh_dieU (s : State) : (s.fresh.2).dieU = s.dieU := rfl
@[simp] theorem State.fresh_stackU (s : State) : (s.fresh.2).stackU = s.stackU := rfl
@[simp] theorem State.fresh_mem (s : State) : (s.fresh.2).mem = s.mem := rfl
@[simp] theorem State.fresh_poison (s : State) : (s.fresh.2).poison = s.poison := rfl
@[simp] theorem State.fresh_latent (s : State) : (s.fresh.2).latent = s.latent := rfl
@[simp] theorem State.fresh_stuck (s : State) : (s.fresh.2).stuck = s.stuck := rfl
@[simp] theorem State.fresh_bufs (s : State) : (s.fresh.2).bufs = s.bufs := rfl
@[simp] theorem State.fresh_pages (s : State) : (s.fresh.2).pages = s.pages := rfl
@[simp] theorem State.fresh_kickidx (s : State) : (s.fresh.2).kickidx = s.kickidx := rfl
@[simp] theorem State.fresh_code (s : State) : (s.fresh.2).code = s.code := rfl
@[simp] theorem State.fresh_changes (s : State) : (s.fresh.2).changes = s.changes := rfl
@[simp] theorem State.fresh_migrations (s : State) : (s.fresh.2).migrations = s.migrations := rfl
@[simp] theorem State.fresh_evictions (s : State) : (s.fresh.2).evictions = s.evictions := rfl
@[simp] theorem State.fresh_withdrawn (s : State) : (s.fresh.2).withdrawn = s.withdrawn := rfl
@[simp] theorem State.fresh_vflights (s : State) : (s.fresh.2).vflights = s.vflights := rfl
@[simp] theorem State.fresh_pkg (s : State) : (s.fresh.2).pkg = s.pkg := rfl

/-! ## draw -/

@[simp] theorem State.draw_turns (s : State) : (s.draw).turns = s.turns := rfl
@[simp] theorem State.draw_cur (s : State) : (s.draw).cur = s.cur := rfl
@[simp] theorem State.draw_curPass (s : State) : (s.draw).curPass = s.curPass := rfl
@[simp] theorem State.draw_free (s : State) : (s.draw).free = s.free + 1 := rfl
@[simp] theorem State.draw_nextId (s : State) : (s.draw).nextId = s.nextId := rfl
@[simp] theorem State.draw_gangs (s : State) : (s.draw).gangs = s.gangs := rfl
@[simp] theorem State.draw_warps (s : State) : (s.draw).warps = s.warps := rfl
@[simp] theorem State.draw_groups (s : State) : (s.draw).groups = s.groups := rfl
@[simp] theorem State.draw_launches (s : State) : (s.draw).launches = s.launches := rfl
@[simp] theorem State.draw_bars (s : State) : (s.draw).bars = s.bars := rfl
@[simp] theorem State.draw_cores (s : State) : (s.draw).cores = s.cores := rfl
@[simp] theorem State.draw_l1 (s : State) : (s.draw).l1 = s.l1 := rfl
@[simp] theorem State.draw_copies (s : State) : (s.draw).copies = s.copies := rfl
@[simp] theorem State.draw_invals (s : State) : (s.draw).invals = s.invals := rfl
@[simp] theorem State.draw_old (s : State) : (s.draw).old = s.old := rfl
@[simp] theorem State.draw_bank (s : State) : (s.draw).bank = s.bank := rfl
@[simp] theorem State.draw_wanted (s : State) : (s.draw).wanted = s.wanted := rfl
@[simp] theorem State.draw_heldWrites (s : State) : (s.draw).heldWrites = s.heldWrites := rfl
@[simp] theorem State.draw_portOp (s : State) : (s.draw).portOp = s.portOp := rfl
@[simp] theorem State.draw_quads (s : State) : (s.draw).quads = s.quads := rfl
@[simp] theorem State.draw_dieU (s : State) : (s.draw).dieU = s.dieU := rfl
@[simp] theorem State.draw_stackU (s : State) : (s.draw).stackU = s.stackU := rfl
@[simp] theorem State.draw_mem (s : State) : (s.draw).mem = s.mem := rfl
@[simp] theorem State.draw_poison (s : State) : (s.draw).poison = s.poison := rfl
@[simp] theorem State.draw_latent (s : State) : (s.draw).latent = s.latent := rfl
@[simp] theorem State.draw_stuck (s : State) : (s.draw).stuck = s.stuck := rfl
@[simp] theorem State.draw_bufs (s : State) : (s.draw).bufs = s.bufs := rfl
@[simp] theorem State.draw_pages (s : State) : (s.draw).pages = s.pages := rfl
@[simp] theorem State.draw_kickidx (s : State) : (s.draw).kickidx = s.kickidx := rfl
@[simp] theorem State.draw_code (s : State) : (s.draw).code = s.code := rfl
@[simp] theorem State.draw_changes (s : State) : (s.draw).changes = s.changes := rfl
@[simp] theorem State.draw_migrations (s : State) : (s.draw).migrations = s.migrations := rfl
@[simp] theorem State.draw_evictions (s : State) : (s.draw).evictions = s.evictions := rfl
@[simp] theorem State.draw_withdrawn (s : State) : (s.draw).withdrawn = s.withdrawn := rfl
@[simp] theorem State.draw_vflights (s : State) : (s.draw).vflights = s.vflights := rfl
@[simp] theorem State.draw_pkg (s : State) : (s.draw).pkg = s.pkg := rfl

/-! ## setWarp -/

@[simp] theorem State.setWarp_turns (s : State) (w : Warp) : (s.setWarp w).turns = s.turns := rfl
@[simp] theorem State.setWarp_cur (s : State) (w : Warp) : (s.setWarp w).cur = s.cur := rfl
@[simp] theorem State.setWarp_curPass (s : State) (w : Warp) : (s.setWarp w).curPass = s.curPass := rfl
@[simp] theorem State.setWarp_free (s : State) (w : Warp) : (s.setWarp w).free = s.free := rfl
@[simp] theorem State.setWarp_nextId (s : State) (w : Warp) : (s.setWarp w).nextId = s.nextId := rfl
@[simp] theorem State.setWarp_gangs (s : State) (w : Warp) : (s.setWarp w).gangs = s.gangs := rfl
@[simp] theorem State.setWarp_warps (s : State) (w : Warp) : (s.setWarp w).warps = updateBy Warp.id w.id (fun _ => w) s.warps := rfl
@[simp] theorem State.setWarp_groups (s : State) (w : Warp) : (s.setWarp w).groups = s.groups := rfl
@[simp] theorem State.setWarp_launches (s : State) (w : Warp) : (s.setWarp w).launches = s.launches := rfl
@[simp] theorem State.setWarp_bars (s : State) (w : Warp) : (s.setWarp w).bars = s.bars := rfl
@[simp] theorem State.setWarp_cores (s : State) (w : Warp) : (s.setWarp w).cores = s.cores := rfl
@[simp] theorem State.setWarp_l1 (s : State) (w : Warp) : (s.setWarp w).l1 = s.l1 := rfl
@[simp] theorem State.setWarp_copies (s : State) (w : Warp) : (s.setWarp w).copies = s.copies := rfl
@[simp] theorem State.setWarp_invals (s : State) (w : Warp) : (s.setWarp w).invals = s.invals := rfl
@[simp] theorem State.setWarp_old (s : State) (w : Warp) : (s.setWarp w).old = s.old := rfl
@[simp] theorem State.setWarp_bank (s : State) (w : Warp) : (s.setWarp w).bank = s.bank := rfl
@[simp] theorem State.setWarp_wanted (s : State) (w : Warp) : (s.setWarp w).wanted = s.wanted := rfl
@[simp] theorem State.setWarp_heldWrites (s : State) (w : Warp) : (s.setWarp w).heldWrites = s.heldWrites := rfl
@[simp] theorem State.setWarp_portOp (s : State) (w : Warp) : (s.setWarp w).portOp = s.portOp := rfl
@[simp] theorem State.setWarp_quads (s : State) (w : Warp) : (s.setWarp w).quads = s.quads := rfl
@[simp] theorem State.setWarp_dieU (s : State) (w : Warp) : (s.setWarp w).dieU = s.dieU := rfl
@[simp] theorem State.setWarp_stackU (s : State) (w : Warp) : (s.setWarp w).stackU = s.stackU := rfl
@[simp] theorem State.setWarp_mem (s : State) (w : Warp) : (s.setWarp w).mem = s.mem := rfl
@[simp] theorem State.setWarp_poison (s : State) (w : Warp) : (s.setWarp w).poison = s.poison := rfl
@[simp] theorem State.setWarp_latent (s : State) (w : Warp) : (s.setWarp w).latent = s.latent := rfl
@[simp] theorem State.setWarp_stuck (s : State) (w : Warp) : (s.setWarp w).stuck = s.stuck := rfl
@[simp] theorem State.setWarp_bufs (s : State) (w : Warp) : (s.setWarp w).bufs = s.bufs := rfl
@[simp] theorem State.setWarp_pages (s : State) (w : Warp) : (s.setWarp w).pages = s.pages := rfl
@[simp] theorem State.setWarp_kickidx (s : State) (w : Warp) : (s.setWarp w).kickidx = s.kickidx := rfl
@[simp] theorem State.setWarp_code (s : State) (w : Warp) : (s.setWarp w).code = s.code := rfl
@[simp] theorem State.setWarp_changes (s : State) (w : Warp) : (s.setWarp w).changes = s.changes := rfl
@[simp] theorem State.setWarp_migrations (s : State) (w : Warp) : (s.setWarp w).migrations = s.migrations := rfl
@[simp] theorem State.setWarp_evictions (s : State) (w : Warp) : (s.setWarp w).evictions = s.evictions := rfl
@[simp] theorem State.setWarp_withdrawn (s : State) (w : Warp) : (s.setWarp w).withdrawn = s.withdrawn := rfl
@[simp] theorem State.setWarp_vflights (s : State) (w : Warp) : (s.setWarp w).vflights = s.vflights := rfl
@[simp] theorem State.setWarp_pkg (s : State) (w : Warp) : (s.setWarp w).pkg = s.pkg := rfl

/-! ## addOp -/

@[simp] theorem State.addOp_turns (s : State) (n : Nat) (o : TOp) : (s.addOp n o).turns = s.turns := rfl
@[simp] theorem State.addOp_cur (s : State) (n : Nat) (o : TOp) : (s.addOp n o).cur = s.cur := rfl
@[simp] theorem State.addOp_curPass (s : State) (n : Nat) (o : TOp) : (s.addOp n o).curPass = s.curPass := rfl
@[simp] theorem State.addOp_free (s : State) (n : Nat) (o : TOp) : (s.addOp n o).free = s.free := rfl
@[simp] theorem State.addOp_nextId (s : State) (n : Nat) (o : TOp) : (s.addOp n o).nextId = s.nextId := rfl
@[simp] theorem State.addOp_gangs (s : State) (n : Nat) (o : TOp) : (s.addOp n o).gangs = s.gangs := rfl
@[simp] theorem State.addOp_warps (s : State) (n : Nat) (o : TOp) : (s.addOp n o).warps = updateBy Warp.id n (fun w => { w with ops := w.ops ++ [o] }) s.warps := rfl
@[simp] theorem State.addOp_groups (s : State) (n : Nat) (o : TOp) : (s.addOp n o).groups = s.groups := rfl
@[simp] theorem State.addOp_launches (s : State) (n : Nat) (o : TOp) : (s.addOp n o).launches = s.launches := rfl
@[simp] theorem State.addOp_bars (s : State) (n : Nat) (o : TOp) : (s.addOp n o).bars = s.bars := rfl
@[simp] theorem State.addOp_cores (s : State) (n : Nat) (o : TOp) : (s.addOp n o).cores = s.cores := rfl
@[simp] theorem State.addOp_l1 (s : State) (n : Nat) (o : TOp) : (s.addOp n o).l1 = s.l1 := rfl
@[simp] theorem State.addOp_copies (s : State) (n : Nat) (o : TOp) : (s.addOp n o).copies = s.copies := rfl
@[simp] theorem State.addOp_invals (s : State) (n : Nat) (o : TOp) : (s.addOp n o).invals = s.invals := rfl
@[simp] theorem State.addOp_old (s : State) (n : Nat) (o : TOp) : (s.addOp n o).old = s.old := rfl
@[simp] theorem State.addOp_bank (s : State) (n : Nat) (o : TOp) : (s.addOp n o).bank = s.bank := rfl
@[simp] theorem State.addOp_wanted (s : State) (n : Nat) (o : TOp) : (s.addOp n o).wanted = s.wanted := rfl
@[simp] theorem State.addOp_heldWrites (s : State) (n : Nat) (o : TOp) : (s.addOp n o).heldWrites = s.heldWrites := rfl
@[simp] theorem State.addOp_portOp (s : State) (n : Nat) (o : TOp) : (s.addOp n o).portOp = s.portOp := rfl
@[simp] theorem State.addOp_quads (s : State) (n : Nat) (o : TOp) : (s.addOp n o).quads = s.quads := rfl
@[simp] theorem State.addOp_dieU (s : State) (n : Nat) (o : TOp) : (s.addOp n o).dieU = s.dieU := rfl
@[simp] theorem State.addOp_stackU (s : State) (n : Nat) (o : TOp) : (s.addOp n o).stackU = s.stackU := rfl
@[simp] theorem State.addOp_mem (s : State) (n : Nat) (o : TOp) : (s.addOp n o).mem = s.mem := rfl
@[simp] theorem State.addOp_poison (s : State) (n : Nat) (o : TOp) : (s.addOp n o).poison = s.poison := rfl
@[simp] theorem State.addOp_latent (s : State) (n : Nat) (o : TOp) : (s.addOp n o).latent = s.latent := rfl
@[simp] theorem State.addOp_stuck (s : State) (n : Nat) (o : TOp) : (s.addOp n o).stuck = s.stuck := rfl
@[simp] theorem State.addOp_bufs (s : State) (n : Nat) (o : TOp) : (s.addOp n o).bufs = s.bufs := rfl
@[simp] theorem State.addOp_pages (s : State) (n : Nat) (o : TOp) : (s.addOp n o).pages = s.pages := rfl
@[simp] theorem State.addOp_kickidx (s : State) (n : Nat) (o : TOp) : (s.addOp n o).kickidx = s.kickidx := rfl
@[simp] theorem State.addOp_code (s : State) (n : Nat) (o : TOp) : (s.addOp n o).code = s.code := rfl
@[simp] theorem State.addOp_changes (s : State) (n : Nat) (o : TOp) : (s.addOp n o).changes = s.changes := rfl
@[simp] theorem State.addOp_migrations (s : State) (n : Nat) (o : TOp) : (s.addOp n o).migrations = s.migrations := rfl
@[simp] theorem State.addOp_evictions (s : State) (n : Nat) (o : TOp) : (s.addOp n o).evictions = s.evictions := rfl
@[simp] theorem State.addOp_withdrawn (s : State) (n : Nat) (o : TOp) : (s.addOp n o).withdrawn = s.withdrawn := rfl
@[simp] theorem State.addOp_vflights (s : State) (n : Nat) (o : TOp) : (s.addOp n o).vflights = s.vflights := rfl
@[simp] theorem State.addOp_pkg (s : State) (n : Nat) (o : TOp) : (s.addOp n o).pkg = s.pkg := rfl

/-! ## fallNow -/

@[simp] theorem State.fallNow_turns (s : State) (n : Nat) (a b : Option Nat) : (s.fallNow n a b).turns = s.turns := rfl
@[simp] theorem State.fallNow_cur (s : State) (n : Nat) (a b : Option Nat) : (s.fallNow n a b).cur = s.cur := rfl
@[simp] theorem State.fallNow_curPass (s : State) (n : Nat) (a b : Option Nat) : (s.fallNow n a b).curPass = s.curPass := rfl
@[simp] theorem State.fallNow_free (s : State) (n : Nat) (a b : Option Nat) : (s.fallNow n a b).free = s.free := rfl
@[simp] theorem State.fallNow_nextId (s : State) (n : Nat) (a b : Option Nat) : (s.fallNow n a b).nextId = s.nextId := rfl
@[simp] theorem State.fallNow_gangs (s : State) (n : Nat) (a b : Option Nat) : (s.fallNow n a b).gangs = s.gangs := rfl
@[simp] theorem State.fallNow_warps (s : State) (n : Nat) (a b : Option Nat) : (s.fallNow n a b).warps = updateBy Warp.id n (fun w => (w.lowerOpt a).lowerOpt b) s.warps := rfl
@[simp] theorem State.fallNow_groups (s : State) (n : Nat) (a b : Option Nat) : (s.fallNow n a b).groups = s.groups := rfl
@[simp] theorem State.fallNow_launches (s : State) (n : Nat) (a b : Option Nat) : (s.fallNow n a b).launches = s.launches := rfl
@[simp] theorem State.fallNow_bars (s : State) (n : Nat) (a b : Option Nat) : (s.fallNow n a b).bars = s.bars := rfl
@[simp] theorem State.fallNow_cores (s : State) (n : Nat) (a b : Option Nat) : (s.fallNow n a b).cores = s.cores := rfl
@[simp] theorem State.fallNow_l1 (s : State) (n : Nat) (a b : Option Nat) : (s.fallNow n a b).l1 = s.l1 := rfl
@[simp] theorem State.fallNow_copies (s : State) (n : Nat) (a b : Option Nat) : (s.fallNow n a b).copies = s.copies := rfl
@[simp] theorem State.fallNow_invals (s : State) (n : Nat) (a b : Option Nat) : (s.fallNow n a b).invals = s.invals := rfl
@[simp] theorem State.fallNow_old (s : State) (n : Nat) (a b : Option Nat) : (s.fallNow n a b).old = s.old := rfl
@[simp] theorem State.fallNow_bank (s : State) (n : Nat) (a b : Option Nat) : (s.fallNow n a b).bank = s.bank := rfl
@[simp] theorem State.fallNow_wanted (s : State) (n : Nat) (a b : Option Nat) : (s.fallNow n a b).wanted = s.wanted := rfl
@[simp] theorem State.fallNow_heldWrites (s : State) (n : Nat) (a b : Option Nat) : (s.fallNow n a b).heldWrites = s.heldWrites := rfl
@[simp] theorem State.fallNow_portOp (s : State) (n : Nat) (a b : Option Nat) : (s.fallNow n a b).portOp = s.portOp := rfl
@[simp] theorem State.fallNow_quads (s : State) (n : Nat) (a b : Option Nat) : (s.fallNow n a b).quads = s.quads := rfl
@[simp] theorem State.fallNow_dieU (s : State) (n : Nat) (a b : Option Nat) : (s.fallNow n a b).dieU = s.dieU := rfl
@[simp] theorem State.fallNow_stackU (s : State) (n : Nat) (a b : Option Nat) : (s.fallNow n a b).stackU = s.stackU := rfl
@[simp] theorem State.fallNow_mem (s : State) (n : Nat) (a b : Option Nat) : (s.fallNow n a b).mem = s.mem := rfl
@[simp] theorem State.fallNow_poison (s : State) (n : Nat) (a b : Option Nat) : (s.fallNow n a b).poison = s.poison := rfl
@[simp] theorem State.fallNow_latent (s : State) (n : Nat) (a b : Option Nat) : (s.fallNow n a b).latent = s.latent := rfl
@[simp] theorem State.fallNow_stuck (s : State) (n : Nat) (a b : Option Nat) : (s.fallNow n a b).stuck = s.stuck := rfl
@[simp] theorem State.fallNow_bufs (s : State) (n : Nat) (a b : Option Nat) : (s.fallNow n a b).bufs = s.bufs := rfl
@[simp] theorem State.fallNow_pages (s : State) (n : Nat) (a b : Option Nat) : (s.fallNow n a b).pages = s.pages := rfl
@[simp] theorem State.fallNow_kickidx (s : State) (n : Nat) (a b : Option Nat) : (s.fallNow n a b).kickidx = s.kickidx := rfl
@[simp] theorem State.fallNow_code (s : State) (n : Nat) (a b : Option Nat) : (s.fallNow n a b).code = s.code := rfl
@[simp] theorem State.fallNow_changes (s : State) (n : Nat) (a b : Option Nat) : (s.fallNow n a b).changes = s.changes := rfl
@[simp] theorem State.fallNow_migrations (s : State) (n : Nat) (a b : Option Nat) : (s.fallNow n a b).migrations = s.migrations := rfl
@[simp] theorem State.fallNow_evictions (s : State) (n : Nat) (a b : Option Nat) : (s.fallNow n a b).evictions = s.evictions := rfl
@[simp] theorem State.fallNow_withdrawn (s : State) (n : Nat) (a b : Option Nat) : (s.fallNow n a b).withdrawn = s.withdrawn := rfl
@[simp] theorem State.fallNow_vflights (s : State) (n : Nat) (a b : Option Nat) : (s.fallNow n a b).vflights = s.vflights := rfl
@[simp] theorem State.fallNow_pkg (s : State) (n : Nat) (a b : Option Nat) : (s.fallNow n a b).pkg = s.pkg := rfl

/-! ## dropL1 -/

@[simp] theorem State.dropL1_turns (s : State) (n : Nat) : (s.dropL1 n).turns = s.turns := rfl
@[simp] theorem State.dropL1_cur (s : State) (n : Nat) : (s.dropL1 n).cur = s.cur := rfl
@[simp] theorem State.dropL1_curPass (s : State) (n : Nat) : (s.dropL1 n).curPass = s.curPass := rfl
@[simp] theorem State.dropL1_free (s : State) (n : Nat) : (s.dropL1 n).free = s.free := rfl
@[simp] theorem State.dropL1_nextId (s : State) (n : Nat) : (s.dropL1 n).nextId = s.nextId := rfl
@[simp] theorem State.dropL1_gangs (s : State) (n : Nat) : (s.dropL1 n).gangs = s.gangs := rfl
@[simp] theorem State.dropL1_warps (s : State) (n : Nat) : (s.dropL1 n).warps = s.warps := rfl
@[simp] theorem State.dropL1_groups (s : State) (n : Nat) : (s.dropL1 n).groups = s.groups := rfl
@[simp] theorem State.dropL1_launches (s : State) (n : Nat) : (s.dropL1 n).launches = s.launches := rfl
@[simp] theorem State.dropL1_bars (s : State) (n : Nat) : (s.dropL1 n).bars = s.bars := rfl
@[simp] theorem State.dropL1_cores (s : State) (n : Nat) : (s.dropL1 n).cores = s.cores := rfl
@[simp] theorem State.dropL1_l1 (s : State) (n : Nat) : (s.dropL1 n).l1 = s.l1.filter fun c => c.owner != n := rfl
@[simp] theorem State.dropL1_copies (s : State) (n : Nat) : (s.dropL1 n).copies = s.copies := rfl
@[simp] theorem State.dropL1_invals (s : State) (n : Nat) : (s.dropL1 n).invals = s.invals := rfl
@[simp] theorem State.dropL1_old (s : State) (n : Nat) : (s.dropL1 n).old = s.old := rfl
@[simp] theorem State.dropL1_bank (s : State) (n : Nat) : (s.dropL1 n).bank = s.bank := rfl
@[simp] theorem State.dropL1_wanted (s : State) (n : Nat) : (s.dropL1 n).wanted = s.wanted := rfl
@[simp] theorem State.dropL1_heldWrites (s : State) (n : Nat) : (s.dropL1 n).heldWrites = s.heldWrites := rfl
@[simp] theorem State.dropL1_portOp (s : State) (n : Nat) : (s.dropL1 n).portOp = s.portOp := rfl
@[simp] theorem State.dropL1_quads (s : State) (n : Nat) : (s.dropL1 n).quads = s.quads := rfl
@[simp] theorem State.dropL1_dieU (s : State) (n : Nat) : (s.dropL1 n).dieU = s.dieU := rfl
@[simp] theorem State.dropL1_stackU (s : State) (n : Nat) : (s.dropL1 n).stackU = s.stackU := rfl
@[simp] theorem State.dropL1_mem (s : State) (n : Nat) : (s.dropL1 n).mem = s.mem := rfl
@[simp] theorem State.dropL1_poison (s : State) (n : Nat) : (s.dropL1 n).poison = s.poison := rfl
@[simp] theorem State.dropL1_latent (s : State) (n : Nat) : (s.dropL1 n).latent = s.latent := rfl
@[simp] theorem State.dropL1_stuck (s : State) (n : Nat) : (s.dropL1 n).stuck = s.stuck := rfl
@[simp] theorem State.dropL1_bufs (s : State) (n : Nat) : (s.dropL1 n).bufs = s.bufs := rfl
@[simp] theorem State.dropL1_pages (s : State) (n : Nat) : (s.dropL1 n).pages = s.pages := rfl
@[simp] theorem State.dropL1_kickidx (s : State) (n : Nat) : (s.dropL1 n).kickidx = s.kickidx := rfl
@[simp] theorem State.dropL1_code (s : State) (n : Nat) : (s.dropL1 n).code = s.code := rfl
@[simp] theorem State.dropL1_changes (s : State) (n : Nat) : (s.dropL1 n).changes = s.changes := rfl
@[simp] theorem State.dropL1_migrations (s : State) (n : Nat) : (s.dropL1 n).migrations = s.migrations := rfl
@[simp] theorem State.dropL1_evictions (s : State) (n : Nat) : (s.dropL1 n).evictions = s.evictions := rfl
@[simp] theorem State.dropL1_withdrawn (s : State) (n : Nat) : (s.dropL1 n).withdrawn = s.withdrawn := rfl
@[simp] theorem State.dropL1_vflights (s : State) (n : Nat) : (s.dropL1 n).vflights = s.vflights := rfl
@[simp] theorem State.dropL1_pkg (s : State) (n : Nat) : (s.dropL1 n).pkg = s.pkg := rfl

/-! ## setPage -/

@[simp] theorem State.setPage_turns (s : State) (k : PageKey) (p : PageEntry) : (s.setPage k p).turns = s.turns := by unfold State.setPage; split <;> rfl
@[simp] theorem State.setPage_cur (s : State) (k : PageKey) (p : PageEntry) : (s.setPage k p).cur = s.cur := by unfold State.setPage; split <;> rfl
@[simp] theorem State.setPage_curPass (s : State) (k : PageKey) (p : PageEntry) : (s.setPage k p).curPass = s.curPass := by unfold State.setPage; split <;> rfl
@[simp] theorem State.setPage_free (s : State) (k : PageKey) (p : PageEntry) : (s.setPage k p).free = s.free := by unfold State.setPage; split <;> rfl
@[simp] theorem State.setPage_nextId (s : State) (k : PageKey) (p : PageEntry) : (s.setPage k p).nextId = s.nextId := by unfold State.setPage; split <;> rfl
@[simp] theorem State.setPage_gangs (s : State) (k : PageKey) (p : PageEntry) : (s.setPage k p).gangs = s.gangs := by unfold State.setPage; split <;> rfl
@[simp] theorem State.setPage_warps (s : State) (k : PageKey) (p : PageEntry) : (s.setPage k p).warps = s.warps := by unfold State.setPage; split <;> rfl
@[simp] theorem State.setPage_groups (s : State) (k : PageKey) (p : PageEntry) : (s.setPage k p).groups = s.groups := by unfold State.setPage; split <;> rfl
@[simp] theorem State.setPage_launches (s : State) (k : PageKey) (p : PageEntry) : (s.setPage k p).launches = s.launches := by unfold State.setPage; split <;> rfl
@[simp] theorem State.setPage_bars (s : State) (k : PageKey) (p : PageEntry) : (s.setPage k p).bars = s.bars := by unfold State.setPage; split <;> rfl
@[simp] theorem State.setPage_cores (s : State) (k : PageKey) (p : PageEntry) : (s.setPage k p).cores = s.cores := by unfold State.setPage; split <;> rfl
@[simp] theorem State.setPage_l1 (s : State) (k : PageKey) (p : PageEntry) : (s.setPage k p).l1 = s.l1 := by unfold State.setPage; split <;> rfl
@[simp] theorem State.setPage_copies (s : State) (k : PageKey) (p : PageEntry) : (s.setPage k p).copies = s.copies := by unfold State.setPage; split <;> rfl
@[simp] theorem State.setPage_invals (s : State) (k : PageKey) (p : PageEntry) : (s.setPage k p).invals = s.invals := by unfold State.setPage; split <;> rfl
@[simp] theorem State.setPage_old (s : State) (k : PageKey) (p : PageEntry) : (s.setPage k p).old = s.old := by unfold State.setPage; split <;> rfl
@[simp] theorem State.setPage_bank (s : State) (k : PageKey) (p : PageEntry) : (s.setPage k p).bank = s.bank := by unfold State.setPage; split <;> rfl
@[simp] theorem State.setPage_wanted (s : State) (k : PageKey) (p : PageEntry) : (s.setPage k p).wanted = s.wanted := by unfold State.setPage; split <;> rfl
@[simp] theorem State.setPage_heldWrites (s : State) (k : PageKey) (p : PageEntry) : (s.setPage k p).heldWrites = s.heldWrites := by unfold State.setPage; split <;> rfl
@[simp] theorem State.setPage_portOp (s : State) (k : PageKey) (p : PageEntry) : (s.setPage k p).portOp = s.portOp := by unfold State.setPage; split <;> rfl
@[simp] theorem State.setPage_quads (s : State) (k : PageKey) (p : PageEntry) : (s.setPage k p).quads = s.quads := by unfold State.setPage; split <;> rfl
@[simp] theorem State.setPage_dieU (s : State) (k : PageKey) (p : PageEntry) : (s.setPage k p).dieU = s.dieU := by unfold State.setPage; split <;> rfl
@[simp] theorem State.setPage_stackU (s : State) (k : PageKey) (p : PageEntry) : (s.setPage k p).stackU = s.stackU := by unfold State.setPage; split <;> rfl
@[simp] theorem State.setPage_mem (s : State) (k : PageKey) (p : PageEntry) : (s.setPage k p).mem = s.mem := by unfold State.setPage; split <;> rfl
@[simp] theorem State.setPage_poison (s : State) (k : PageKey) (p : PageEntry) : (s.setPage k p).poison = s.poison := by unfold State.setPage; split <;> rfl
@[simp] theorem State.setPage_latent (s : State) (k : PageKey) (p : PageEntry) : (s.setPage k p).latent = s.latent := by unfold State.setPage; split <;> rfl
@[simp] theorem State.setPage_stuck (s : State) (k : PageKey) (p : PageEntry) : (s.setPage k p).stuck = s.stuck := by unfold State.setPage; split <;> rfl
@[simp] theorem State.setPage_bufs (s : State) (k : PageKey) (p : PageEntry) : (s.setPage k p).bufs = s.bufs := by unfold State.setPage; split <;> rfl
@[simp] theorem State.setPage_kickidx (s : State) (k : PageKey) (p : PageEntry) : (s.setPage k p).kickidx = s.kickidx := by unfold State.setPage; split <;> rfl
@[simp] theorem State.setPage_code (s : State) (k : PageKey) (p : PageEntry) : (s.setPage k p).code = s.code := by unfold State.setPage; split <;> rfl
@[simp] theorem State.setPage_changes (s : State) (k : PageKey) (p : PageEntry) : (s.setPage k p).changes = s.changes := by unfold State.setPage; split <;> rfl
@[simp] theorem State.setPage_migrations (s : State) (k : PageKey) (p : PageEntry) : (s.setPage k p).migrations = s.migrations := by unfold State.setPage; split <;> rfl
@[simp] theorem State.setPage_evictions (s : State) (k : PageKey) (p : PageEntry) : (s.setPage k p).evictions = s.evictions := by unfold State.setPage; split <;> rfl
@[simp] theorem State.setPage_withdrawn (s : State) (k : PageKey) (p : PageEntry) : (s.setPage k p).withdrawn = s.withdrawn := by unfold State.setPage; split <;> rfl
@[simp] theorem State.setPage_vflights (s : State) (k : PageKey) (p : PageEntry) : (s.setPage k p).vflights = s.vflights := by unfold State.setPage; split <;> rfl
@[simp] theorem State.setPage_pkg (s : State) (k : PageKey) (p : PageEntry) : (s.setPage k p).pkg = s.pkg := by unfold State.setPage; split <;> rfl

/-! ## post -/

@[simp] theorem State.post_turns (s : State) (k : String) (v : List Nat) : (s.post k v).turns = s.turns := rfl
@[simp] theorem State.post_cur (s : State) (k : String) (v : List Nat) : (s.post k v).cur = s.cur := rfl
@[simp] theorem State.post_curPass (s : State) (k : String) (v : List Nat) : (s.post k v).curPass = s.curPass := rfl
@[simp] theorem State.post_free (s : State) (k : String) (v : List Nat) : (s.post k v).free = s.free := rfl
@[simp] theorem State.post_nextId (s : State) (k : String) (v : List Nat) : (s.post k v).nextId = s.nextId := rfl
@[simp] theorem State.post_gangs (s : State) (k : String) (v : List Nat) : (s.post k v).gangs = s.gangs := rfl
@[simp] theorem State.post_warps (s : State) (k : String) (v : List Nat) : (s.post k v).warps = s.warps := rfl
@[simp] theorem State.post_groups (s : State) (k : String) (v : List Nat) : (s.post k v).groups = s.groups := rfl
@[simp] theorem State.post_launches (s : State) (k : String) (v : List Nat) : (s.post k v).launches = s.launches := rfl
@[simp] theorem State.post_bars (s : State) (k : String) (v : List Nat) : (s.post k v).bars = s.bars := rfl
@[simp] theorem State.post_cores (s : State) (k : String) (v : List Nat) : (s.post k v).cores = s.cores := rfl
@[simp] theorem State.post_l1 (s : State) (k : String) (v : List Nat) : (s.post k v).l1 = s.l1 := rfl
@[simp] theorem State.post_copies (s : State) (k : String) (v : List Nat) : (s.post k v).copies = s.copies := rfl
@[simp] theorem State.post_invals (s : State) (k : String) (v : List Nat) : (s.post k v).invals = s.invals := rfl
@[simp] theorem State.post_old (s : State) (k : String) (v : List Nat) : (s.post k v).old = s.old := rfl
@[simp] theorem State.post_bank (s : State) (k : String) (v : List Nat) : (s.post k v).bank = s.bank := rfl
@[simp] theorem State.post_wanted (s : State) (k : String) (v : List Nat) : (s.post k v).wanted = s.wanted := rfl
@[simp] theorem State.post_heldWrites (s : State) (k : String) (v : List Nat) : (s.post k v).heldWrites = s.heldWrites := rfl
@[simp] theorem State.post_portOp (s : State) (k : String) (v : List Nat) : (s.post k v).portOp = s.portOp := rfl
@[simp] theorem State.post_quads (s : State) (k : String) (v : List Nat) : (s.post k v).quads = s.quads := rfl
@[simp] theorem State.post_dieU (s : State) (k : String) (v : List Nat) : (s.post k v).dieU = s.dieU := rfl
@[simp] theorem State.post_stackU (s : State) (k : String) (v : List Nat) : (s.post k v).stackU = s.stackU := rfl
@[simp] theorem State.post_mem (s : State) (k : String) (v : List Nat) : (s.post k v).mem = s.mem := rfl
@[simp] theorem State.post_poison (s : State) (k : String) (v : List Nat) : (s.post k v).poison = s.poison := rfl
@[simp] theorem State.post_latent (s : State) (k : String) (v : List Nat) : (s.post k v).latent = s.latent := rfl
@[simp] theorem State.post_stuck (s : State) (k : String) (v : List Nat) : (s.post k v).stuck = s.stuck := rfl
@[simp] theorem State.post_bufs (s : State) (k : String) (v : List Nat) : (s.post k v).bufs = s.bufs := rfl
@[simp] theorem State.post_pages (s : State) (k : String) (v : List Nat) : (s.post k v).pages = s.pages := rfl
@[simp] theorem State.post_kickidx (s : State) (k : String) (v : List Nat) : (s.post k v).kickidx = s.kickidx := rfl
@[simp] theorem State.post_code (s : State) (k : String) (v : List Nat) : (s.post k v).code = s.code := rfl
@[simp] theorem State.post_changes (s : State) (k : String) (v : List Nat) : (s.post k v).changes = s.changes := rfl
@[simp] theorem State.post_migrations (s : State) (k : String) (v : List Nat) : (s.post k v).migrations = s.migrations := rfl
@[simp] theorem State.post_evictions (s : State) (k : String) (v : List Nat) : (s.post k v).evictions = s.evictions := rfl
@[simp] theorem State.post_withdrawn (s : State) (k : String) (v : List Nat) : (s.post k v).withdrawn = s.withdrawn := rfl
@[simp] theorem State.post_vflights (s : State) (k : String) (v : List Nat) : (s.post k v).vflights = s.vflights := rfl
@[simp] theorem State.post_pkg (s : State) (k : String) (v : List Nat) : (s.post k v).pkg = { s.pkg with events := s.pkg.events ++ [⟨k, v⟩] } := rfl

/-! ## Lookup by name after an update -/

theorem State.updWarp_warp (s : State) (n m : Nat) (f : Warp → Warp) (hf : ∀ w, w.id = n → (f w).id = n) :
    (s.updWarp n f).warp m = if m = n then (s.warp m).map f else s.warp m := lookupBy_update f s.warps n m hf

theorem State.updGang_gang (s : State) (n m : Nat) (f : Gang → Gang) (hf : ∀ g, g.uid = n → (f g).uid = n) :
    (s.updGang n f).gang m = if m = n then (s.gang m).map f else s.gang m := lookupBy_update f s.gangs n m hf

theorem State.updGroup_group (s : State) (n m : Nat) (f : Group → Group) (hf : ∀ g, g.id = n → (f g).id = n) :
    (s.updGroup n f).group m = if m = n then (s.group m).map f else s.group m := lookupBy_update f s.groups n m hf

theorem State.updLaunch_launch (s : State) (n m : Nat) (f : Launch → Launch) (hf : ∀ g, g.id = n → (f g).id = n) :
    (s.updLaunch n f).launch m = if m = n then (s.launch m).map f else s.launch m := lookupBy_update f s.launches n m hf

theorem State.delGang_gang (s : State) (n m : Nat) : (s.delGang n).gang m = if m = n then none else s.gang m :=
  lookupBy_remove s.gangs n m

theorem State.updCore_core (s : State) (n m : Nat) (f : CoreU → CoreU) :
    (s.updCore n f).core m = if m = n then f (s.core n) else s.core m := by
  simp only [State.core, State.updCore_cores, tabGet_set]

theorem State.updQuad_quad (s : State) (n m : Nat) (f : QuadU → QuadU) :
    (s.updQuad n f).quad m = if m = n then f (s.quad n) else s.quad m := by
  simp only [State.quad, State.updQuad_quads, tabGet_set]

theorem State.updStack_stack (s : State) (n m : Nat) (f : StackU → StackU) :
    (s.updStack n f).stack m = if m = n then f (s.stack n) else s.stack m := by
  simp only [State.stack, State.updStack_stackU, tabGet_set]

theorem State.updDie_die (s : State) (n m : Nat) (f : DieU → DieU) (hm : m < s.dieU.length) :
    (s.updDie n f).die m = if m = n then f (s.die m) else s.die m := by
  simp only [State.die, State.updDie_dieU, getElem?_listModify]
  obtain ⟨x, hx⟩ : ∃ x, s.dieU[m]? = some x := ⟨_, List.getElem?_eq_getElem hm⟩
  split <;> simp [hx]

theorem State.warp_id {s : State} {n : Nat} {w : Warp} (h : s.warp n = some w) : w.id = n := lookupBy_key h

theorem State.gang_uid {s : State} {n : Nat} {g : Gang} (h : s.gang n = some g) : g.uid = n := lookupBy_key h

theorem State.group_id {s : State} {n : Nat} {g : Group} (h : s.group n = some g) : g.id = n := lookupBy_key h

end Sys2Proof.Machine
end

