-- ==== Sys2Proof/Laws/Threads.lean ====
section
/-! SUPPORT. What the passage of lanes from word to word leaves as it was: meetings, warp-wide executions, barriers, the end
of a clause, and a word's retirement. -/

namespace Sys2Proof.Machine

/-! ## One warp -/

theorem OpKept.refl (o : TOp) : OpKept o o := ⟨rfl, fun _ => rfl⟩

theorem WarpKept.refl (w : Warp) : WarpKept w w := ⟨rfl, rfl, fun _ o h => ⟨o, h, OpKept.refl o⟩⟩

theorem OpKept.trans {a b c : TOp} (h : OpKept a b) (h' : OpKept b c) : OpKept a c :=
  ⟨h'.1.trans h.1, fun hk => by
    have hb := h.2 hk
    exact (h'.2 (hb.symm ▸ hk)).trans hb⟩

theorem WarpKept.trans {a b c : Warp} (h : WarpKept a b) (h' : WarpKept b c) : WarpKept a c :=
  ⟨h'.still.trans h.still, h'.lanes.trans h.lanes, fun n o ho => by
    obtain ⟨p, hp, hop⟩ := h.ops n o ho
    obtain ⟨q, hq, hpq⟩ := h'.ops n p hp
    exact ⟨q, hq, hop.trans hpq⟩⟩

theorem WarpKept.id {a b : Warp} (h : WarpKept a b) : b.id = a.id := by
  have := congrArg Warp.id h.still
  exact this

/-- A change of nothing but barriers, monitors, demotions and event marks. -/
theorem WarpKept.of_same {a b : Warp} (h : b.still = a.still) (hl : b.lanes = a.lanes) (ho : b.ops = a.ops) : WarpKept a b :=
  ⟨h, by rw [hl], fun _ o h => ⟨o, ho ▸ h, OpKept.refl o⟩⟩

theorem mapLanes_kept (w : Warp) (m : Dword) (f : Nat → Lane → Lane) (hf : ∀ l ln, (f l ln).regs = ln.regs) :
    WarpKept w (w.mapLanes m f) := by
  refine ⟨rfl, map_mapFrom _ _ (fun i x => ?_) 0 w.lanes, fun n o h => ⟨o, h, OpKept.refl o⟩⟩
  split
  · exact hf _ _
  · rfl

theorem unquiet_kept (w : Warp) : WarpKept w w.unquiet := .of_same rfl rfl rfl

theorem setBar_kept (w : Warp) (b : WarpBar) : WarpKept w (w.setBar b) := by
  unfold Warp.setBar
  split <;> exact .of_same rfl rfl rfl

theorem assignMonitor_kept (w : Warp) (h : Word) (clk : Nat) : WarpKept w (w.assignMonitor h clk) := by
  unfold Warp.assignMonitor
  split
  · exact .refl w
  · dsimp only
    split <;> exact .of_same rfl rfl rfl

theorem spinArrive_kept (w : Warp) (h : Word) (m : Dword) (n clk : Nat) : WarpKept w (w.spinArrive h m n clk) := by
  unfold Warp.spinArrive
  split
  · exact .refl w
  · exact .of_same rfl rfl rfl

theorem keepDemoted_kept (w : Warp) : WarpKept w w.keepDemoted := .of_same rfl rfl rfl

theorem meetRelease_kept (w : Warp) : WarpKept w w.meetRelease := by
  refine ⟨rfl, ?_, fun n o h => ⟨o, h, OpKept.refl o⟩⟩
  simp only [Warp.meetRelease, List.map_map]
  refine List.map_congr_left fun x _ => ?_
  simp only [Function.comp]
  split <;> rfl

theorem wwEval_kept (sees : Nat → Bool) (w : Warp) : WarpKept w (w.wwEval sees) := by
  refine ⟨rfl, map_mapFrom _ _ (fun i x => ?_) 0 w.lanes, fun n o h => ?_⟩
  · split <;> rfl
  · refine ⟨_, by simp only [Warp.wwEval, List.getElem?_map, h, Option.map_some]; rfl, ?_⟩
    refine ⟨?_, fun hk => ?_⟩
    · split <;> rfl
    · split
      · exact absurd ‹_› (hk _ _)
      · rfl

theorem barRelease_kept (w : Warp) (scope idx : Nat) : WarpKept w (w.barRelease scope idx) := by
  unfold Warp.barRelease
  dsimp only
  split
  · exact (mapLanes_kept w _ _ fun _ ln => by split <;> rfl).trans (setBar_kept _ _)
  · exact .refl w

/-! ## The state -/

/-- Nothing but the progress of lanes and barriers differs. -/
structure Moved (s t : State) : Prop where
  state : t.still = s.still
  warps : ∀ (n : Nat) (w : Warp), s.warp n = some w → ∃ x, t.warp n = some x ∧ WarpKept w x
  groups : ∀ (n : Nat) (g : Group), s.group n = some g → ∃ x, t.group n = some x ∧ x.still = g.still
  l1 : t.l1.Sublist s.l1

theorem Moved.refl (s : State) : Moved s s :=
  ⟨rfl, fun _ w h => ⟨w, h, .refl w⟩, fun _ g h => ⟨g, h, rfl⟩, List.Sublist.refl _⟩

theorem Moved.trans {a b c : State} (h : Moved a b) (h' : Moved b c) : Moved a c :=
  ⟨h'.state.trans h.state, fun n w hw => by
    obtain ⟨x, hx, hwx⟩ := h.warps n w hw
    obtain ⟨y, hy, hxy⟩ := h'.warps n x hx
    exact ⟨y, hy, hwx.trans hxy⟩, fun n g hg => by
    obtain ⟨x, hx, hgx⟩ := h.groups n g hg
    obtain ⟨y, hy, hxy⟩ := h'.groups n x hx
    exact ⟨y, hy, hxy.trans hgx⟩, h'.l1.trans h.l1⟩

theorem updWarp_moved (s : State) (n : Nat) (f : Warp → Warp) (hid : ∀ w, w.id = n → (f w).id = n)
    (h : ∀ w, s.warp n = some w → WarpKept w (f w)) : Moved s (s.updWarp n f) := by
  refine ⟨rfl, fun m w hw => ?_, fun _ g hg => ⟨g, hg, rfl⟩, List.Sublist.refl _⟩
  rw [State.updWarp_warp s n m f hid]
  split
  · subst m; exact ⟨f w, by rw [hw]; rfl, h w hw⟩
  · exact ⟨w, hw, .refl w⟩

/-- A change of every warp at once. -/
theorem mapWarps_moved (s : State) (f : Warp → Warp) (h : ∀ w, WarpKept w (f w)) :
    Moved s { s with warps := s.warps.map f } := by
  refine ⟨rfl, fun m w hw => ?_, fun _ g hg => ⟨g, hg, rfl⟩, List.Sublist.refl _⟩
  refine ⟨f w, ?_, h w⟩
  show lookupBy Warp.id (s.warps.map f) m = _
  rw [lookupBy_map f (fun x => (h x).id)]
  exact congrArg (Option.map f) hw

theorem delGang_moved (s : State) (n : Nat) : Moved s (s.delGang n) :=
  ⟨rfl, fun _ w h => ⟨w, h, .refl w⟩, fun _ g h => ⟨g, h, rfl⟩, List.Sublist.refl _⟩

theorem updGang_moved (s : State) (n : Nat) (f : Gang → Gang) : Moved s (s.updGang n f) :=
  ⟨rfl, fun _ w h => ⟨w, h, .refl w⟩, fun _ g h => ⟨g, h, rfl⟩, List.Sublist.refl _⟩

theorem draw_moved (s : State) : Moved s s.draw :=
  ⟨rfl, fun _ w h => ⟨w, h, .refl w⟩, fun _ g h => ⟨g, h, rfl⟩, List.Sublist.refl _⟩

theorem modBar_moved (s : State) (grp : Group) (scope idx : Nat) (f : Barrier → Barrier) :
    Moved s (s.modBar grp scope idx f) := by
  unfold State.modBar
  split
  · refine ⟨rfl, fun _ w h => ⟨w, h, .refl w⟩, fun n g hg => ?_, List.Sublist.refl _⟩
    have h := State.updGroup_group s grp.id n (fun g => { g with bars := listModify f g.bars idx }) (fun _ h => h)
    rw [hg] at h
    split at h
    · exact ⟨_, h, rfl⟩
    · exact ⟨g, h, rfl⟩
  · exact ⟨rfl, fun _ w h => ⟨w, h, .refl w⟩, fun _ g h => ⟨g, h, rfl⟩, List.Sublist.refl _⟩

theorem tryArrive_moved (s : State) (scope idx wid : Nat) : Moved s (s.tryArrive scope idx wid) := by
  unfold State.tryArrive
  split
  · exact .refl s
  · rename_i w hw
    dsimp only
    split
    · exact .refl s
    · split
      · exact .refl s
      · have hset : ∀ b : WarpBar, Moved s (s.updWarp wid fun w => w.setBar b) := fun b =>
          updWarp_moved s wid _ (fun w h => ((setBar_kept w b).id).trans h) fun w _ => setBar_kept w b
        split
        · exact (hset _).trans (modBar_moved _ _ _ _ _)
        · split
          · split
            · exact (hset _).trans ⟨rfl, fun _ w h => ⟨w, h, .refl w⟩, fun _ g h => ⟨g, h, rfl⟩, List.Sublist.refl _⟩
            · exact (hset _).trans (modBar_moved _ _ _ _ _)
          · exact hset _

theorem filterL1_moved (s : State) (p : CLine → Bool) : Moved s { s with l1 := s.l1.filter p } :=
  ⟨rfl, fun _ w h => ⟨w, h, .refl w⟩, fun _ g h => ⟨g, h, rfl⟩, List.filter_sublist⟩

theorem barAdvance_moved (s : State) (grp : Group) (scope idx : Nat) (k : Bool) : Moved s (s.barAdvance grp scope idx k) := by
  unfold State.barAdvance
  dsimp only
  have h : ∀ r : State, Moved r { r with warps := r.warps.map fun (w : Warp) =>
      if (s.barGroups grp scope).contains w.group then w.barRelease scope idx else w } := fun r =>
    mapWarps_moved r _ fun w => by
      split
      · exact barRelease_kept w scope idx
      · exact .refl w
  split
  · exact (modBar_moved _ _ _ _ _).trans (h _)
  · exact ((modBar_moved _ _ _ _ _).trans (h _)).trans (filterL1_moved _ _)

theorem barSettle_moved (n : Nat) (s : State) (grp : Group) (scope idx : Nat) :
    Moved s (State.barSettle n s grp scope idx) := by
  induction n generalizing s with
  | zero => exact .refl s
  | succ n ih =>
    simp only [State.barSettle]
    have h : ∀ ws : List Nat, Moved s (ws.foldl (fun s w => s.tryArrive scope idx w) s) := fun ws =>
      foldl_keeps Moved .refl (fun _ _ _ => .trans) _ (fun s x => tryArrive_moved s scope idx x) ws s
    split
    · exact ((h _).trans (barAdvance_moved _ _ _ _ _)).trans (ih _)
    · exact h _

theorem barPoll_moved (s : State) (wid : Nat) : Moved s (s.barPoll wid) := by
  unfold State.barPoll
  split
  · exact .refl s
  · split
    · exact .refl s
    · exact foldl_keeps Moved .refl (fun _ _ _ => .trans) _ (fun s b => barSettle_moved 64 s _ _ _) _ s

theorem laneEnd_regs (next : Word) (b : Bool) (meets : Word → Bool) (ln : Lane) : (laneEnd next b meets ln).regs = ln.regs := by
  unfold laneEnd
  split <;> rfl

theorem unquietPath_kept (w : Warp) (m : Dword) : WarpKept w (w.unquietPath m) := .of_same rfl rfl rfl

theorem leave_kept (w : Warp) (g : Gang) (grp : Group) (clk : Nat) (sees : Nat → Bool) (meets : Word → Bool) :
    WarpKept w (w.leave g grp clk sees meets) := by
  unfold Warp.leave
  have h0 : WarpKept w ((backTargets w g.lanes).foldl (fun w h => w.assignMonitor h clk) w) :=
    foldl_keeps WarpKept .refl (fun _ _ _ => .trans) _ (fun w h => assignMonitor_kept w h _) _ w
  generalize (backTargets w g.lanes).foldl (fun w h => w.assignMonitor h clk) w = a at h0
  have h1 := h0.trans (mapLanes_kept a g.lanes
    (fun _ ln => laneEnd (g.hdr + BitVec.ofNat 32 (4 * g.index)) grp.abandoned meets ln) fun _ ln => laneEnd_regs _ _ _ ln)
  dsimp only
  have h2 := h1.trans (unquietPath_kept _ (a.lanesWhere fun l ln => inMask g.lanes l && ln.exiting))
  refine WarpKept.trans ?_ (((meetRelease_kept _).trans (wwEval_kept _ _)).trans (keepDemoted_kept _))
  split
  · exact h2.trans (.of_same rfl rfl rfl)
  · exact h2

theorem endClause_moved (s : State) (uid : Nat) : Moved s (s.endClause uid) := by
  unfold State.endClause
  split
  · exact .refl s
  · rename_i g _
    split
    · exact delGang_moved s uid
    · rename_i w hw
      split
      · exact delGang_moved s uid
      · rename_i grp _
        have hk := leave_kept w g grp (s.die grp.die).clk s.pick (s.meets grp)
        refine ((delGang_moved s uid).trans (updWarp_moved _ g.warp _ (fun _ _ => hk.id.trans (State.warp_id hw)) ?_)).trans
          (barPoll_moved _ _)
        intro x hx
        have hx : s.warp g.warp = some x := hx
        rw [hw] at hx
        cases hx
        exact hk

/-! ## Gangs -/

theorem foldl_gangs {γ : Type} (f : State → γ → State) (hf : ∀ s x, (f s x).gangs = s.gangs) (l : List γ) (s : State) :
    (l.foldl f s).gangs = s.gangs := by
  induction l generalizing s with
  | nil => rfl
  | cons h t ih => exact (ih _).trans (hf s h)

theorem modBar_gangs (s : State) (grp : Group) (scope idx : Nat) (f : Barrier → Barrier) :
    (s.modBar grp scope idx f).gangs = s.gangs := by
  unfold State.modBar
  split <;> rfl

theorem tryArrive_gangs (s : State) (scope idx wid : Nat) : (s.tryArrive scope idx wid).gangs = s.gangs := by
  unfold State.tryArrive
  split
  · rfl
  · dsimp only
    split
    · rfl
    · split
      · rfl
      · split
        · exact modBar_gangs _ _ _ _ _
        · split
          · split
            · rfl
            · exact modBar_gangs _ _ _ _ _
          · rfl

theorem barAdvance_gangs (s : State) (grp : Group) (scope idx : Nat) (k : Bool) :
    (s.barAdvance grp scope idx k).gangs = s.gangs := by
  unfold State.barAdvance
  dsimp only
  split <;> exact modBar_gangs _ _ _ _ _

theorem barSettle_gangs (n : Nat) (s : State) (grp : Group) (scope idx : Nat) :
    (State.barSettle n s grp scope idx).gangs = s.gangs := by
  induction n generalizing s with
  | zero => rfl
  | succ n ih =>
    simp only [State.barSettle]
    have h := foldl_gangs (fun s w => s.tryArrive scope idx w) (fun s x => tryArrive_gangs s scope idx x)
    split
    · rw [ih, barAdvance_gangs, h]
    · exact h _ _

theorem barPoll_gangs (s : State) (wid : Nat) : (s.barPoll wid).gangs = s.gangs := by
  unfold State.barPoll
  split
  · rfl
  · split
    · rfl
    · exact foldl_gangs _ (fun s b => barSettle_gangs 64 s _ _ _) _ s

/-- The end of a clause removes its gang and no other. -/
theorem endClause_gang (s : State) (uid n : Nat) (h : n ≠ uid) : (s.endClause uid).gang n = s.gang n := by
  unfold State.endClause
  have hd : (s.delGang uid).gang n = s.gang n := by rw [State.delGang_gang, if_neg h]
  split
  · rfl
  · split
    · exact hd
    · split
      · exact hd
      · refine Eq.trans ?_ hd
        unfold State.gang
        rw [barPoll_gangs]
        rfl

theorem endClause_self (s : State) (uid : Nat) : (s.endClause uid).gang uid = none := by
  unfold State.endClause
  have hd : (s.delGang uid).gang uid = none := by rw [State.delGang_gang, if_pos rfl]
  split
  · assumption
  · split
    · exact hd
    · split
      · exact hd
      · refine Eq.trans ?_ hd
        unfold State.gang
        rw [barPoll_gangs]
        rfl

/-! ## Retirement -/

theorem popWord_moved (s : State) (c : Ctx) : Moved s (s.popWord c) := by
  unfold State.popWord
  refine Moved.trans ?_ (updGang_moved _ c.g.uid _)
  refine updWarp_moved s c.w.id _ (fun _ h => h) fun w _ => ?_
  exact (mapLanes_kept w c.g.lanes (fun _ ln => { ln with pc := c.g.pc + 4 }) (fun _ _ => rfl)).trans (.of_same rfl rfl rfl)

theorem finish_moved (s : State) (uid : Nat) : Moved s (s.finish uid) := by
  unfold State.finish
  split
  · exact .refl s
  · split
    · exact endClause_moved s uid
    · exact .refl s

theorem takeWatch_nil (s : State) (c : Ctx) : s.takeWatch c [] = s := by
  unfold State.takeWatch
  split
  · rfl
  · have : watchHit c.w c.g.lanes [] = none := by
      unfold watchHit
      simp
    rw [this]

/-- A word without accesses that has retired leaves everything but the progress of its lanes as its effect left it. -/
theorem retire_retired (s : State) (c : Ctx) : Retired c s (s.retire c []) := by
  have hm : Moved s (s.retire c []) := by
    unfold State.retire
    rw [takeWatch_nil]
    exact ((popWord_moved s c).trans (finish_moved _ _)).trans (draw_moved _)
  have hp : ∀ n, (s.popWord c).gang n =
      if n = c.g.uid then (s.gang n).map (fun g => { g with index := g.index + 1, rest := g.rest.tail }) else s.gang n := by
    intro n
    unfold State.popWord
    exact State.updGang_gang _ c.g.uid n _ (fun _ h => h)
  have hr : ∀ n, (s.retire c []).gang n = ((s.popWord c).finish c.g.uid).gang n := by
    intro n
    unfold State.retire
    rw [takeWatch_nil]
    rfl
  refine ⟨hm.state, hm.warps, hm.groups, hm.l1, fun n hn => ?_, fun g x hg hx => ?_⟩
  · rw [hr, State.finish]
    have h1 := hp n
    rw [if_neg hn] at h1
    split
    · exact h1
    · split
      · rw [endClause_gang _ _ _ hn]; exact h1
      · exact h1
  · rw [hr] at hx
    have h1 := hp c.g.uid
    rw [if_pos rfl, hg] at h1
    simp only [State.finish] at hx
    rw [h1] at hx
    simp only [Option.map_some] at hx
    split at hx
    · rw [endClause_self] at hx; cases hx
    · rw [h1] at hx; cases hx; rfl

end Sys2Proof.Machine
end

