-- ==== Sys2Proof/Laws/Issue.lean ====
section
/-! SUPPORT. What one word at issue does, and the shapes of words: each lemma says once what its shape answers. -/

namespace Sys2Proof.Machine

theorem Retired.moved {c : Ctx} {s t : State} (h : Retired c s t) : Moved s t := ⟨h.state, h.warps, h.groups, h.l1⟩

/-- What retires from a state retires from any state it has only moved on from, gang by gang. -/
theorem Retired.of_moved {c : Ctx} {a b t : State} (h : Moved a b) (hg : b.gangs = a.gangs) (hr : Retired c b t) :
    Retired c a t := by
  have h2 := h.trans hr.moved
  have hgang : ∀ n, b.gang n = a.gang n := fun n => by unfold State.gang; rw [hg]
  exact ⟨h2.state, h2.warps, h2.groups, h2.l1, fun n hn => (hr.gangs n hn).trans (hgang n),
    fun g x hg' hx => hr.next g x ((hgang _).trans hg') hx⟩

/-! ## Watchpoints -/

theorem WarpHeld.refl (w : Warp) : WarpHeld w w := ⟨rfl, rfl, fun _ o h => ⟨o, h, OpKept.refl o⟩⟩

theorem WarpHeld.trans {a b c : Warp} (h : WarpHeld a b) (h' : WarpHeld b c) : WarpHeld a c :=
  ⟨h'.held.trans h.held, h'.lanes.trans h.lanes, fun n o ho => by
    obtain ⟨p, hp, hop⟩ := h.ops n o ho
    obtain ⟨q, hq, hpq⟩ := h'.ops n p hp
    exact ⟨q, hq, hop.trans hpq⟩⟩

theorem WarpHeld.id {a b : Warp} (h : WarpHeld a b) : b.id = a.id := by
  have h1 := congrArg Warp.id h.held
  exact h1

theorem WarpHeld.of_same {a b : Warp} (h : b.untrapped = a.untrapped) (hl : b.lanes.map Lane.regs = a.lanes.map Lane.regs)
    (ho : b.ops = a.ops) : WarpHeld a b := ⟨h, hl, fun _ o h => ⟨o, ho ▸ h, OpKept.refl o⟩⟩

theorem WarpKept.held {a b : Warp} (h : WarpKept a b) : WarpHeld a b :=
  ⟨by have h1 := congrArg Warp.untrapped h.still; exact h1, h.lanes, h.ops⟩

theorem Watched.refl (s : State) : Watched s s :=
  ⟨rfl, fun _ w h => ⟨w, h, .refl w⟩, fun _ g h => ⟨g, h, rfl⟩, List.Sublist.refl _⟩

theorem Watched.trans {a b c : State} (h : Watched a b) (h' : Watched b c) : Watched a c :=
  ⟨h'.state.trans h.state, fun n w hw => by
    obtain ⟨x, hx, hwx⟩ := h.warps n w hw
    obtain ⟨y, hy, hxy⟩ := h'.warps n x hx
    exact ⟨y, hy, hwx.trans hxy⟩, fun n g hg => by
    obtain ⟨x, hx, hgx⟩ := h.groups n g hg
    obtain ⟨y, hy, hxy⟩ := h'.groups n x hx
    exact ⟨y, hy, hxy.trans hgx⟩, h'.l1.trans h.l1⟩

theorem Moved.watched {s t : State} (h : Moved s t) : Watched s t :=
  ⟨by have h1 := congrArg State.untrapped h.state; exact h1, fun n w hw => by
    obtain ⟨x, hx, hk⟩ := h.warps n w hw
    exact ⟨x, hx, hk.held⟩, fun n g hg => by
    obtain ⟨x, hx, hk⟩ := h.groups n g hg
    exact ⟨x, hx, by have h1 := congrArg Group.untrapped hk; exact h1⟩, h.l1⟩

theorem updWarp_watched (s : State) (n : Nat) (f : Warp → Warp) (h : ∀ w, WarpHeld w (f w)) : Watched s (s.updWarp n f) := by
  refine ⟨rfl, fun m w hw => ?_, fun _ g hg => ⟨g, hg, rfl⟩, List.Sublist.refl _⟩
  rw [State.updWarp_warp s n m f fun w hw => ((h w).id).trans hw]
  split
  · exact ⟨f w, by rw [hw]; rfl, h w⟩
  · exact ⟨w, hw, .refl w⟩

theorem post_watched (s : State) (k : String) (v : List Nat) : Watched s (s.post k v) :=
  ⟨rfl, fun _ w h => ⟨w, h, .refl w⟩, fun _ g h => ⟨g, h, rfl⟩, List.Sublist.refl _⟩

theorem lower_held (w : Warp) (f n : Nat) : WarpHeld w (w.lower f n) := by
  unfold Warp.lower
  split
  · exact .of_same rfl rfl rfl
  · exact .refl w

theorem mapLanes_held (w : Warp) (m : Dword) (f : Nat → Lane → Lane) (hf : ∀ l ln, (f l ln).regs = ln.regs) :
    WarpHeld w (w.mapLanes m f) := (mapLanes_kept w m f hf).held

theorem mapWarps_watched (s : State) (l : List Gang) (f : Warp → Warp) (h : ∀ w, WarpHeld w (f w)) :
    Watched s { s with gangs := l, warps := s.warps.map f } := by
  refine ⟨rfl, fun m w hw => ?_, fun _ g hg => ⟨g, hg, rfl⟩, List.Sublist.refl _⟩
  refine ⟨f w, ?_, h w⟩
  show lookupBy Warp.id (s.warps.map f) m = _
  rw [lookupBy_map f (fun x => (h x).id)]
  exact congrArg (Option.map f) hw

theorem abandon_watched (s : State) (gid : Nat) : Watched s (s.updGroup gid fun g => { g with abandoned := true }) := by
  refine ⟨rfl, fun _ w h => ⟨w, h, .refl w⟩, fun n g h => ?_, List.Sublist.refl _⟩
  have := State.updGroup_group s gid n (fun g => { g with abandoned := true }) (fun _ h => h)
  rw [h] at this
  split at this
  · exact ⟨_, this, rfl⟩
  · exact ⟨g, this, rfl⟩

theorem endGroupFault_watched (s : State) (gid : Nat) (t : TrapRegs) : Watched s (s.endGroupFault gid t) := by
  unfold State.endGroupFault
  dsimp only
  refine Watched.trans ?_ (post_watched _ _ _)
  refine Watched.trans ?_ (abandon_watched _ _)
  refine mapWarps_watched s _ _ fun w => ?_
  split
  · exact .of_same rfl (map_mapFrom _ _ (fun _ ln => by split <;> rfl) 0 w.lanes) rfl
  · exact .refl w

theorem interrupted_held (w : Warp) (m : Dword) : WarpHeld w (w.interrupted m) := .of_same rfl rfl rfl

theorem entered_held (w : Warp) (m : Dword) (f : Nat → Lane → Lane) (hf : ∀ l ln, (f l ln).regs = ln.regs) (t : TrapRegs)
    (h : Option Handler) : WarpHeld w { (w.mapLanes m f).interrupted m with trap := t, handler := h } :=
  ((mapLanes_held w m f hf).trans (interrupted_held _ m)).trans (.of_same rfl rfl rfl)

theorem debugParked_held (w : Warp) (m : Dword) (f : Nat → Lane → Lane) (hf : ∀ l ln, (f l ln).regs = ln.regs)
    (r : Option TrapReq) : WarpHeld w { (w.mapLanes m f).interrupted m with dbgPark := r } :=
  ((mapLanes_held w m f hf).trans (interrupted_held _ m)).trans (.of_same rfl rfl rfl)

theorem deliver_watched (s : State) (wid : Nat) (r : TrapReq) : Watched s (s.deliver wid r) := by
  unfold State.deliver
  split
  · exact .refl s
  · split
    · exact .refl s
    · dsimp only
      split
      · exact updWarp_watched _ _ _ fun w => mapLanes_held w r.lanes
          (fun _ ln => { ln with stat := .exited, exiting := false, npc := none, xfer := none }) fun _ _ => rfl
      · split
        · split
          · exact endGroupFault_watched _ _ _
          · exact updWarp_watched _ _ _ fun w => .of_same rfl rfl rfl
        · exact updWarp_watched _ _ _ fun w => .of_same rfl rfl rfl
        · cases hd : r.debug
          · simp only [Bool.false_eq_true, if_false]
            split
            · exact endGroupFault_watched _ _ _
            · exact updWarp_watched _ _ _ fun w => entered_held w r.lanes
                (fun _ ln => { ln with pc := _, npc := none, xfer := none, stat := .ready, released := false })
                (fun _ _ => rfl) _ _
          · simp only [if_true]
            split
            · exact Watched.trans (updWarp_watched _ _ _ fun w =>
                debugParked_held w r.lanes (fun _ ln => { ln with stat := .parked .debug }) (fun _ _ => rfl) _) (post_watched _ _ _)
            · exact updWarp_watched _ _ _ fun w => entered_held w r.lanes
                (fun _ ln => { ln with pc := _, npc := none, xfer := none, stat := .ready, released := false })
                (fun _ _ => rfl) _ _

theorem trapHere_watched (s : State) (c : Ctx) (b : Bool) (t : TrapSpec) : Watched s (s.trapHere c b t) :=
  (delGang_moved s _).watched.trans (deliver_watched _ _ _)

theorem takeWatch_watched (s : State) (c : Ctx) (acc : List WatchAcc) : Watched s (s.takeWatch c acc) := by
  unfold State.takeWatch
  split
  · exact .refl s
  · split
    · exact .refl s
    · dsimp only
      refine Watched.trans (updWarp_watched s c.w.id (fun w => { w with stepPend := false }) fun w => .of_same rfl rfl rfl) ?_
      split
      · exact trapHere_watched _ _ _ _
      · exact deliver_watched _ _ _

theorem takeWatch_none (s : State) (c : Ctx) (acc : List WatchAcc)
    (h : c.w.inHandler c.g.lanes = true ∨ watchHit c.w c.g.lanes acc = none) : s.takeWatch c acc = s := by
  unfold State.takeWatch
  split
  · rfl
  · rename_i hn
    rcases h with h | h
    · exact absurd h hn
    · rw [h]

/-- A word has retired: what a watchpoint may change, and nothing besides the progress of lanes where none is hit. -/
theorem retire_watched (s : State) (c : Ctx) (acc : List WatchAcc) : Watched s (s.retire c acc) ∧
    ((c.w.inHandler c.g.lanes = true ∨ watchHit c.w c.g.lanes acc = none) → Retired c s (s.retire c acc)) := by
  constructor
  · unfold State.retire
    exact (((popWord_moved s c).trans (finish_moved _ _)).watched.trans (takeWatch_watched _ _ _)).trans
      (draw_moved _).watched
  · intro h
    have h1 := retire_retired s c
    unfold State.retire at h1 ⊢
    rw [takeWatch_nil] at h1
    rw [takeWatch_none _ _ _ h]
    exact h1

/-! ## One word at issue -/

section Words
variable {s s' : State} {c : Ctx} {chk : Ctx → Option Nat} {eff : Ctx → State → Eff}

/-- A word that takes effect without accesses: its effect, retired. -/
theorem issue_go (hc : s.ctx = some c) (hq : c.debugDue = none) (hk : chk c = none) (he : eff c s = .go s' []) :
    ∃ t, issue chk eff s = .next t ∧ Retired c s' t :=
  ⟨s'.retire c [], by simp only [issue, hc, issueIn, hq, hk, he], retire_retired s' c⟩

/-- A word that takes effect with accesses. -/
theorem issue_acc {acc : List WatchAcc} (hc : s.ctx = some c) (hq : c.debugDue = none) (hk : chk c = none)
    (he : eff c s = .go s' acc) :
    ∃ t, issue chk eff s = .next t ∧ Watched s' t ∧
      ((c.w.inHandler c.g.lanes = true ∨ watchHit c.w c.g.lanes acc = none) → Retired c s' t) :=
  ⟨s'.retire c acc, by simp only [issue, hc, issueIn, hq, hk, he], retire_watched s' c acc⟩

/-- A word that stalls changes nothing. -/
theorem issue_stall (hc : s.ctx = some c) (hq : c.debugDue = none) (hk : chk c = none) (he : eff c s = .stall) :
    issue chk eff s = .next s := by simp only [issue, hc, issueIn, hq, hk, he]

/-- A word that raises a trap. -/
theorem issue_trap {t : TrapSpec} (hc : s.ctx = some c) (hq : c.debugDue = none) (hk : chk c = none) (he : eff c s = .trap t) :
    issue chk eff s = .next (s.trapHere c false t) := by simp only [issue, hc, issueIn, hq, hk, he]

/-- A word whose encoding fails a check of R50 raises the illegal-encoding trap. -/
theorem issue_illegal {n : Nat} (hc : s.ctx = some c) (hq : c.debugDue = none) (hk : chk c = some n) :
    issue chk eff s =
      .next (s.trapHere c false { cause := causeIllegal, lanes := c.g.lanes, aux := BitVec.ofNat 64 n }) := by
  simp only [issue, hc, issueIn, hq, hk]

/-- A word that ends its gang itself. -/
theorem issue_jump (hc : s.ctx = some c) (hq : c.debugDue = none) (hk : chk c = none) (he : eff c s = .jump s') :
    issue chk eff s = .next s'.draw := by simp only [issue, hc, issueIn, hq, hk, he]

/-- With no gang at issue a core word has no meaning. -/
theorem issue_none (hc : s.ctx = none) : issue chk eff s = .fault .noGang := by simp only [issue, hc]

end Words

/-! ## Shapes of words -/

section Shapes
variable {s : State} {c : Ctx} {i : Instr}

theorem Issues.go {eff : Ctx → State → Eff} {s' : State} (h : Issues s c i) (he : eff c s = .go s' []) :
    ∃ t, issue (issueFault i) eff s = .next t ∧ Retired c s' t := issue_go h.ctx h.quiet h.sound he

theorem Issues.acc {eff : Ctx → State → Eff} {s' : State} {acc : List WatchAcc} (h : Issues s c i)
    (he : eff c s = .go s' acc) :
    ∃ t, issue (issueFault i) eff s = .next t ∧ Watched s' t ∧
      ((c.w.inHandler c.g.lanes = true ∨ watchHit c.w c.g.lanes acc = none) → Retired c s' t) :=
  issue_acc h.ctx h.quiet h.sound he

theorem lane32_completes (g : BitVec 4) (d : BitVec 7) {f : Rd → Word} (h : Issues s c i)
    (he : exec i s = lane32 i g d f s) : Completes s c i (s.putLanes c g d f) := by
  unfold Completes
  rw [he]
  exact h.go rfl

theorem lane64_completes (g : BitVec 4) (d : BitVec 7) {f : Rd → Dword} (h : Issues s c i)
    (he : exec i s = lane64 i g d f s) : Completes s c i (s.putPairs c g d f) := by
  unfold Completes
  rw [he]
  exact h.go rfl

theorem compare_completes (t x y : BitVec 3) {f u : Rd → Bool} (h : Issues s c i)
    (he : exec i s = compareWord i t x y f u s) :
    Completes s c i (s.putPreds c fun rd p => comparePreds t x y (f rd) (u rd) p) := by
  unfold Completes
  rw [he]
  exact h.go rfl

end Shapes

/-! ## Uniform words -/

theorem unquiet_moved (s : State) (w : Warp) : Moved (s.setWarp w) (s.setWarp w.unquiet) := by
  have h : ∀ n, (s.setWarp w.unquiet).warp n = if n = w.id then (s.warp n).map (fun _ => w.unquiet) else s.warp n :=
    fun n => State.updWarp_warp s w.id n (fun _ => w.unquiet) fun _ _ => rfl
  have h' : ∀ n, (s.setWarp w).warp n = if n = w.id then (s.warp n).map (fun _ => w) else s.warp n :=
    fun n => State.updWarp_warp s w.id n (fun _ => w) fun _ _ => rfl
  refine ⟨rfl, fun n x hx => ?_, fun _ g hg => ⟨g, hg, rfl⟩, List.Sublist.refl _⟩
  rw [h'] at hx
  rw [h]
  split at hx
  · cases hs : s.warp n with
    | none => rw [hs] at hx; cases hx
    | some y =>
      rw [hs] at hx
      simp only [Option.map_some] at hx ⊢
      cases hx
      exact ⟨_, by rw [if_pos (by assumption)], unquiet_kept _⟩
  · rw [if_neg (by assumption)]
    exact ⟨x, hx, .refl x⟩

section Uniform
variable {s : State} {c : Ctx} {i : Instr}

theorem uni32_completes (k : BitVec 3) (d : BitVec 5) {f : Warp → Word} (h : Issues s c i)
    (he : exec i s = uni32 i k d f s) : Completes s c i (s.putUni c k d (f c.rv)) := by
  unfold Completes State.putUni
  rw [he]
  obtain ⟨t, h1, h2⟩ := h.go (eff := fun c s => .go (if guardUni k c.w then
    s.setWarp ((c.w.putS d.toNat (f c.rv)).unquiet) else s) []) rfl
  refine ⟨t, h1, ?_⟩
  split
  · rename_i hg
    rw [if_pos hg] at h2
    exact .of_moved (unquiet_moved s _) rfl h2
  · rename_i hg
    rw [if_neg hg] at h2
    exact h2

theorem uni64_completes (k : BitVec 3) (d : BitVec 5) {f : Warp → Dword} (h : Issues s c i)
    (he : exec i s = uni64 i k d f s) : Completes s c i (s.putUniPair c k d (f c.rv)) := by
  unfold Completes State.putUniPair
  rw [he]
  obtain ⟨t, h1, h2⟩ := h.go (eff := fun c s => .go (if guardUni k c.w then
    s.setWarp ((c.w.putSPair d.toNat (f c.rv)).unquiet) else s) []) rfl
  refine ⟨t, h1, ?_⟩
  split
  · rename_i hg
    rw [if_pos hg] at h2
    exact .of_moved (unquiet_moved s _) rfl h2
  · rename_i hg
    rw [if_neg hg] at h2
    exact h2

end Uniform

end Sys2Proof.Machine
end

