-- ==== Sys2Proof/Laws/Values.lean ====
section
/-! SUPPORT. The values of the manual's tables, written by exact arithmetic, are the ones the words compute. -/

namespace Sys2Proof.Machine

/-! ## Arithmetic -/

theorem word_add (x y : Word) : word (x.toNat + y.toNat) = x + y := by simp [word, BitVec.ofNat_add]
theorem word_mul (x y : Word) : word (x.toNat * y.toNat) = x * y := by simp [word, BitVec.ofNat_mul]
theorem wordI_toInt (x : Word) : wordI x.toInt = x := by simp [wordI]
theorem wordI_add (x y : Word) : wordI (x.toInt + y.toInt) = x + y := by simp [wordI, BitVec.ofInt_add]
theorem wordI_sub (x y : Word) : wordI (x.toInt - y.toInt) = x - y := by
  apply BitVec.eq_of_toInt_eq; simp [wordI, BitVec.toInt_sub]
theorem wordI_neg (x : Word) : wordI (0 - x.toInt) = -x := by
  apply BitVec.eq_of_toInt_eq; simp [wordI, BitVec.toInt_neg]
theorem dword_add (x y : Dword) : dword (x.toNat + y.toNat) = x + y := by simp [dword, BitVec.ofNat_add]
theorem dword_mul (x y : Dword) : dword (x.toNat * y.toNat) = x * y := by simp [dword, BitVec.ofNat_mul]
theorem dwordI_sub (x y : Dword) : dwordI (x.toInt - y.toInt) = x - y := by
  apply BitVec.eq_of_toInt_eq; simp [dwordI, BitVec.toInt_sub]
theorem dwordI_neg (x : Dword) : dwordI (0 - x.toInt) = -x := by
  apply BitVec.eq_of_toInt_eq; simp [dwordI, BitVec.toInt_neg]
theorem dwordI_sext (x : Word) : dwordI x.toInt = x.signExtend 64 := rfl
theorem wordI_simm {n : Nat} (m : BitVec n) : wordI m.toInt = simm m := rfl

/-! ## Bits -/

theorem wordBits_go (b : Nat → Bool) (n : Nat) (hn : n ≤ 32) (j : Nat) (hj : j < 32) :
    ((List.range n).foldl (fun w i => if b i then w ||| (1#32 <<< i) else w) 0).getLsbD j = (decide (j < n) && b j) := by
  induction n with
  | zero => simp
  | succ n ih =>
    rw [List.range_succ, List.foldl_append]
    simp only [List.foldl_cons, List.foldl_nil]
    have ih := ih (by omega)
    by_cases hb : b n
    · rw [if_pos hb, BitVec.getLsbD_or, ih, BitVec.getLsbD_shiftLeft]
      by_cases h : j = n
      · subst h; simp [hb, hj]
      · by_cases h2 : j < n
        · simp [h2, Nat.lt_succ_of_lt h2]
        · have h3 : ¬ j < n + 1 := by omega
          have h4 : j - n ≠ 0 := by omega
          simp [h2, h3, hj, h4]
    · rw [if_neg hb, ih]
      by_cases h : j = n
      · subst h; simp [hb]
      · by_cases h2 : j < n
        · simp [h2, Nat.lt_succ_of_lt h2]
        · have h3 : ¬ j < n + 1 := by omega
          simp [h2, h3]

/-- Each bit of a word given by its bits. -/
theorem wordBits_bit (b : Nat → Bool) (j : Nat) (hj : j < 32) : (wordBits b).getLsbD j = b j := by
  have h := wordBits_go b 32 (by omega) j hj
  unfold wordBits
  rw [h]
  simp [hj]

/-- A word equals the word of its bits. -/
theorem wordBits_eq (b : Nat → Bool) (x : Word) (h : ∀ j, j < 32 → b j = x.getLsbD j) : wordBits b = x := by
  apply BitVec.eq_of_getLsbD_eq
  intro j hj
  rw [wordBits_bit b j hj, h j hj]

theorem eq_wordBits {b : Nat → Bool} {x : Word} (h : ∀ j, j < 32 → b j = x.getLsbD j) : x = wordBits b :=
  (wordBits_eq b x h).symm

/-! ## High products, shifts, lesser and greater -/

theorem mulhi_eq (x y : Word) : wordI (x.toInt * y.toInt / 2 ^ 32) = mulHigh x y := by
  apply BitVec.eq_of_toNat_eq
  have h : x.signExtend 64 * y.signExtend 64 = BitVec.ofInt 64 (x.toInt * y.toInt) := (BitVec.ofInt_mul _ _).symm
  rw [mulHigh, h]
  simp only [wordI, BitVec.toNat_ofInt, BitVec.toNat_setWidth, BitVec.toNat_ushiftRight, Nat.shiftRight_eq_div_pow]
  generalize x.toInt * y.toInt = p
  omega

theorem mulhn_eq (x y : Word) : word (x.toNat * y.toNat / 2 ^ 32) = mulHighN x y := by
  apply BitVec.eq_of_toNat_eq
  have hx := x.isLt
  have hy := y.isLt
  have hxy : x.toNat * y.toNat < 2 ^ 64 := by
    calc x.toNat * y.toNat < 2 ^ 32 * 2 ^ 32 := Nat.mul_lt_mul'' hx hy
      _ = 2 ^ 64 := by decide
  simp only [word, mulHighN, BitVec.toNat_ofNat, BitVec.toNat_setWidth, BitVec.toNat_ushiftRight, BitVec.toNat_mul,
    Nat.shiftRight_eq_div_pow]
  rw [Nat.mod_eq_of_lt (a := x.toNat) (by omega), Nat.mod_eq_of_lt (a := y.toNat) (by omega), Nat.mod_eq_of_lt hxy]

theorem shl_eq (x : Word) (k : Nat) : word (x.toNat * 2 ^ k) = x <<< k := by
  apply BitVec.eq_of_toNat_eq
  simp [word, BitVec.toNat_shiftLeft, Nat.shiftLeft_eq]

theorem shrn_eq (x : Word) (k : Nat) : word (x.toNat / 2 ^ k) = x >>> k := by
  apply BitVec.eq_of_toNat_eq
  rw [BitVec.toNat_ushiftRight, Nat.shiftRight_eq_div_pow]
  simp only [word, BitVec.toNat_ofNat]
  exact Nat.mod_eq_of_lt (Nat.lt_of_le_of_lt (Nat.div_le_self _ _) x.isLt)

theorem shri_eq (x : Word) (k : Nat) : wordI (x.toInt / 2 ^ k) = x.sshiftRight k := by
  simp only [wordI, BitVec.sshiftRight, Int.shiftRight_eq_div_pow, Int.natCast_pow]
  rfl

theorem mini_eq (x y : Word) : wordI (min x.toInt y.toInt) = minI x y := by
  unfold minI
  by_cases h : y.slt x
  · rw [if_pos h]
    have h1 : y.toInt < x.toInt := by simpa [BitVec.slt] using h
    rw [Int.min_eq_right (by omega), wordI_toInt]
  · rw [if_neg h]
    have h1 : ¬ y.toInt < x.toInt := by simpa [BitVec.slt] using h
    rw [Int.min_eq_left (by omega), wordI_toInt]

theorem maxi_eq (x y : Word) : wordI (max x.toInt y.toInt) = maxI x y := by
  unfold maxI
  by_cases h : x.slt y
  · rw [if_pos h]
    have h1 : x.toInt < y.toInt := by simpa [BitVec.slt] using h
    rw [Int.max_eq_right (by omega), wordI_toInt]
  · rw [if_neg h]
    have h1 : ¬ x.toInt < y.toInt := by simpa [BitVec.slt] using h
    rw [Int.max_eq_left (by omega), wordI_toInt]

theorem word_toNat (x : Word) : word x.toNat = x := by simp [word]
theorem dword_toNat (x : Dword) : dword x.toNat = x := by simp [dword]
theorem dwordI_toInt (x : Dword) : dwordI x.toInt = x := by simp [dwordI]

theorem minn_eq (x y : Word) : word (min x.toNat y.toNat) = minN x y := by
  unfold minN
  by_cases h : y.ult x
  · rw [if_pos h]
    have h1 : y.toNat < x.toNat := by simpa [BitVec.ult] using h
    rw [Nat.min_eq_right (by omega), word_toNat]
  · rw [if_neg h]
    have h1 : ¬ y.toNat < x.toNat := by simpa [BitVec.ult] using h
    rw [Nat.min_eq_left (by omega), word_toNat]

theorem maxn_eq (x y : Word) : word (max x.toNat y.toNat) = maxN x y := by
  unfold maxN
  by_cases h : x.ult y
  · rw [if_pos h]
    have h1 : x.toNat < y.toNat := by simpa [BitVec.ult] using h
    rw [Nat.max_eq_right (by omega), word_toNat]
  · rw [if_neg h]
    have h1 : ¬ x.toNat < y.toNat := by simpa [BitVec.ult] using h
    rw [Nat.max_eq_left (by omega), word_toNat]

theorem mini64_eq (x y : Dword) : dwordI (min x.toInt y.toInt) = minI64 x y := by
  unfold minI64
  by_cases h : y.slt x
  · rw [if_pos h]
    have h1 : y.toInt < x.toInt := by simpa [BitVec.slt] using h
    rw [Int.min_eq_right (by omega), dwordI_toInt]
  · rw [if_neg h]
    have h1 : ¬ y.toInt < x.toInt := by simpa [BitVec.slt] using h
    rw [Int.min_eq_left (by omega), dwordI_toInt]

theorem maxi64_eq (x y : Dword) : dwordI (max x.toInt y.toInt) = maxI64 x y := by
  unfold maxI64
  by_cases h : x.slt y
  · rw [if_pos h]
    have h1 : x.toInt < y.toInt := by simpa [BitVec.slt] using h
    rw [Int.max_eq_right (by omega), dwordI_toInt]
  · rw [if_neg h]
    have h1 : ¬ x.toInt < y.toInt := by simpa [BitVec.slt] using h
    rw [Int.max_eq_left (by omega), dwordI_toInt]

theorem minn64_eq (x y : Dword) : dword (min x.toNat y.toNat) = minN64 x y := by
  unfold minN64
  by_cases h : y.ult x
  · rw [if_pos h]
    have h1 : y.toNat < x.toNat := by simpa [BitVec.ult] using h
    rw [Nat.min_eq_right (by omega), dword_toNat]
  · rw [if_neg h]
    have h1 : ¬ y.toNat < x.toNat := by simpa [BitVec.ult] using h
    rw [Nat.min_eq_left (by omega), dword_toNat]

theorem maxn64_eq (x y : Dword) : dword (max x.toNat y.toNat) = maxN64 x y := by
  unfold maxN64
  by_cases h : x.ult y
  · rw [if_pos h]
    have h1 : x.toNat < y.toNat := by simpa [BitVec.ult] using h
    rw [Nat.max_eq_right (by omega), dword_toNat]
  · rw [if_neg h]
    have h1 : ¬ x.toNat < y.toNat := by simpa [BitVec.ult] using h
    rw [Nat.max_eq_left (by omega), dword_toNat]

theorem shl64_eq (x : Dword) (k : Nat) : dword (x.toNat * 2 ^ k) = x <<< k := by
  apply BitVec.eq_of_toNat_eq
  simp [dword, BitVec.toNat_shiftLeft, Nat.shiftLeft_eq]

theorem shrn64_eq (x : Dword) (k : Nat) : dword (x.toNat / 2 ^ k) = x >>> k := by
  apply BitVec.eq_of_toNat_eq
  rw [BitVec.toNat_ushiftRight, Nat.shiftRight_eq_div_pow]
  simp only [dword, BitVec.toNat_ofNat]
  exact Nat.mod_eq_of_lt (Nat.lt_of_le_of_lt (Nat.div_le_self _ _) x.isLt)

theorem shri64_eq (x : Dword) (k : Nat) : dwordI (x.toInt / 2 ^ k) = x.sshiftRight k := by
  simp only [dwordI, BitVec.sshiftRight, Int.shiftRight_eq_div_pow, Int.natCast_pow]
  rfl

theorem mulwi_eq (x y : Word) : dwordI (x.toInt * y.toInt) = x.signExtend 64 * y.signExtend 64 := BitVec.ofInt_mul _ _

theorem mulwn_eq (x y : Word) : dword (x.toNat * y.toNat) = x.setWidth 64 * y.setWidth 64 := by
  apply BitVec.eq_of_toNat_eq
  have hx := x.isLt
  have hy := y.isLt
  simp only [dword, BitVec.toNat_ofNat, BitVec.toNat_mul, BitVec.toNat_setWidth]
  rw [Nat.mod_eq_of_lt (a := x.toNat) (by omega), Nat.mod_eq_of_lt (a := y.toNat) (by omega)]

theorem abs_eq (x : Word) : word x.toInt.natAbs = if x.msb then -x else x := by
  apply BitVec.eq_of_toNat_eq
  have h := x.isLt
  by_cases hm : x.msb
  · rw [if_pos hm]
    have h2 : 2 ^ 31 ≤ x.toNat := by simpa [BitVec.msb_eq_decide] using hm
    simp only [word, BitVec.toNat_ofNat, BitVec.toNat_neg]
    rw [BitVec.toInt_eq_toNat_cond, if_neg (by omega)]
    omega
  · rw [if_neg hm]
    have h2 : ¬ 2 ^ 31 ≤ x.toNat := by simpa [BitVec.msb_eq_decide] using hm
    simp only [word, BitVec.toNat_ofNat]
    rw [BitVec.toInt_eq_toNat_cond, if_pos (by omega)]
    omega

theorem clampI_eq (x : Int) : wordI (clamp x (-(2 ^ 31)) (2 ^ 31 - 1)) = clampI x := by
  unfold wordI clampI clamp
  congr 1
  split
  · omega
  · split <;> omega

theorem clampN_eq (x : Int) : wordI (clamp x 0 (2 ^ 32 - 1)) = clampN x := by
  unfold wordI clampN clamp
  congr 1
  split
  · omega
  · split <;> omega

/-! ## Counting bits -/

theorem setBits_eq {n : Nat} (x : BitVec n) : setBits x = popCount x := by
  unfold setBits popCount
  exact List.countP_eq_length_filter

theorem rotl_bit (x : Word) (k j : Nat) (hk : k < 32) (hj : j < 32) :
    (x.rotateLeft k).getLsbD j = x.getLsbD ((j + 32 - k) % 32) := by
  rw [BitVec.getLsbD_rotateLeft]
  by_cases h : j < k % 32
  · have h1 : k % 32 = k := Nat.mod_eq_of_lt hk
    simp only [h1] at h
    simp only [h1, h]
    have : (j + 32 - k) % 32 = 32 - k + j := by omega
    rw [this]; simp
  · have h1 : k % 32 = k := Nat.mod_eq_of_lt hk
    simp only [h1] at h
    simp only [h1, h, hj]
    have : (j + 32 - k) % 32 = j - k := by omega
    rw [this]; simp

theorem rotr_bit (x : Word) (k j : Nat) (hk : k < 32) (hj : j < 32) :
    (x.rotateRight k).getLsbD j = x.getLsbD ((j + k) % 32) := by
  rw [BitVec.getLsbD_rotateRight]
  have h1 : k % 32 = k := Nat.mod_eq_of_lt hk
  by_cases h : j < 32 - k
  · simp only [h1, h]
    have : (j + k) % 32 = k + j := by omega
    rw [this]; simp
  · simp only [h1, h, hj]
    have : (j + k) % 32 = j - (32 - k) := by omega
    rw [this]; simp

theorem findIdx_takeWhile {α : Type} (p : α → Bool) (l : List α) :
    (l.findIdx? p).getD l.length = (l.takeWhile fun x => !p x).length := by
  induction l with
  | nil => rfl
  | cons a t ih =>
    rw [List.findIdx?_cons, List.takeWhile_cons]
    cases h : p a with
    | true => simp
    | false =>
      simp only [Bool.not_false, if_true, List.length_cons, ← ih]
      cases t.findIdx? p <;> simp

theorem zerosBelow_eq {n : Nat} (x : BitVec n) : zerosBelow x = trailZeros x := by
  have h := findIdx_takeWhile x.getLsbD (List.range n)
  rw [List.length_range] at h
  exact h.symm

theorem takeWhile_range (p : Nat → Bool) (n k : Nat) (hk : k ≤ n) (h1 : ∀ i, i < k → p i = true)
    (h2 : k < n → p k = false) : ((List.range n).takeWhile p).length = k := by
  have hs : List.range n = List.range k ++ (List.range (n - k)).map (k + ·) := by
    have := List.range_add (n := k) (m := n - k)
    rwa [show k + (n - k) = n by omega] at this
  rw [hs, List.takeWhile_append_of_pos (by intro i hi; exact h1 i (List.mem_range.1 hi))]
  cases hn : n - k with
  | zero => simp
  | succ m =>
    rw [List.range_succ_eq_map, List.map_cons, List.takeWhile_cons]
    have := h2 (by omega)
    simp [this]

theorem zerosAbove_eq {n : Nat} (x : BitVec n) : zerosAbove x = leadZeros x := by
  unfold zerosAbove leadZeros bitLen
  have hlt := x.isLt
  split
  · rename_i h0
    refine takeWhile_range _ _ _ (by omega) (fun i hi => ?_) (by omega)
    have : x = 0#n := BitVec.eq_of_toNat_eq (by simpa using h0)
    simp [this]
  · rename_i h0
    have hl : x.toNat.log2 < n := (Nat.log2_lt h0).2 hlt
    refine takeWhile_range _ _ _ (by omega) (fun i hi => ?_) (fun h => ?_)
    · have : x.toNat < 2 ^ (n - 1 - i) := by
        have := (Nat.log2_lt h0 (k := n - 1 - i)).1 (by omega)
        exact this
      simp only [BitVec.getLsbD, Nat.testBit_lt_two_pow this, Bool.not_false]
    · have e : n - 1 - (n - (x.toNat.log2 + 1)) = x.toNat.log2 := by omega
      rw [e]
      simp only [BitVec.getLsbD, Nat.testBit_log2 h0, Bool.not_true]

/-! ## Bit fields (R147) -/

theorem fpos_lt (f : Word) : fpos f < 32 := Nat.mod_lt _ (by decide)
theorem fwid_le (f : Word) : fpos f + fwid f ≤ 32 := by have := fpos_lt f; unfold fwid; omega

theorem bfxn_eq (x f : Word) : (wordBits fun j => decide (j < fwid f) && x.getLsbD (fpos f + j)) = bfxN x f := by
  refine wordBits_eq _ _ fun j hj => ?_
  show _ = (BitVec.ofNat 32 (x.toNat / 2 ^ fpos f % 2 ^ fwid f)).getLsbD j
  simp only [BitVec.getLsbD_ofNat, hj, decide_true, Bool.true_and, Nat.testBit_mod_two_pow, Nat.testBit_div_two_pow,
    BitVec.testBit_toNat]
  rw [Nat.add_comm]

theorem sInt_eq (w y : Nat) (hw : 0 < w) : sInt w y = (BitVec.ofNat w y).toInt := by
  have hp : 2 ^ w = 2 * 2 ^ (w - 1) := by
    cases w with
    | zero => omega
    | succ w => simp [Nat.pow_succ, Nat.mul_comm]
  unfold sInt
  rw [BitVec.toInt_eq_toNat_cond, BitVec.toNat_ofNat]
  by_cases h : y % 2 ^ w < 2 ^ (w - 1)
  · rw [if_pos h, if_pos (by omega)]
  · rw [if_neg h, if_neg (by omega)]

theorem bfxi_eq (x f : Word) :
    (wordBits fun j => fwid f != 0 && x.getLsbD (fpos f + min j (fwid f - 1))) = bfxI x f := by
  refine wordBits_eq _ _ fun j hj => ?_
  have hw := fwid_le f
  show _ = (if fwid f = 0 then (0 : Word) else BitVec.ofInt 32 (sInt (fwid f) (x.toNat / 2 ^ fpos f))).getLsbD j
  by_cases h0 : fwid f = 0
  · simp [h0]
  · rw [if_neg h0, sInt_eq _ _ (by omega)]
    show _ = ((BitVec.ofNat (fwid f) (x.toNat / 2 ^ fpos f)).signExtend 32).getLsbD j
    rw [BitVec.getLsbD_signExtend]
    simp only [hj, decide_true, Bool.true_and, BitVec.msb_eq_getLsbD_last]
    have e : (fwid f != 0) = true := by simp [h0]
    rw [e, Bool.true_and]
    split
    · rename_i h
      rw [Nat.min_eq_left (by omega)]
      simp only [BitVec.getLsbD_ofNat, h, decide_true, Bool.true_and, Nat.testBit_div_two_pow, BitVec.testBit_toNat]
      rw [Nat.add_comm]
    · rename_i h
      rw [Nat.min_eq_right (by omega)]
      have : fwid f - 1 < fwid f := by omega
      simp only [BitVec.getLsbD_ofNat, this, decide_true, Bool.true_and, Nat.testBit_div_two_pow, BitVec.testBit_toNat]
      rw [Nat.add_comm]

theorem bfi_eq (x v f : Word) :
    (wordBits fun j => if fpos f ≤ j ∧ j < fpos f + fwid f then v.getLsbD (j - fpos f) else x.getLsbD j) = bfiW x v f := by
  refine wordBits_eq _ _ fun j hj => ?_
  have hm : (BitVec.ofNat 32 ((2 ^ fwid f - 1) * 2 ^ fpos f)).getLsbD j
      = decide (fpos f ≤ j ∧ j < fpos f + fwid f) := by
    simp only [BitVec.getLsbD_ofNat, hj, decide_true, Bool.true_and, Nat.testBit_mul_two_pow, Nat.testBit_two_pow_sub_one]
    by_cases h : fpos f ≤ j
    · have : (j - fpos f < fwid f) ↔ (j < fpos f + fwid f) := by omega
      simp [h, this]
    · simp [h]
  show _ = ((x &&& ~~~BitVec.ofNat 32 ((2 ^ fwid f - 1) * 2 ^ fpos f)) |||
    ((v <<< fpos f) &&& BitVec.ofNat 32 ((2 ^ fwid f - 1) * 2 ^ fpos f))).getLsbD j
  rw [BitVec.getLsbD_or, BitVec.getLsbD_and, BitVec.getLsbD_and, BitVec.getLsbD_not, hm, BitVec.getLsbD_shiftLeft]
  by_cases h : fpos f ≤ j ∧ j < fpos f + fwid f
  · have h3 : ¬ j < fpos f := by omega
    simp [h, hj, h3]
  · simp [h, hj]

end Sys2Proof.Machine
end

