-- ==== Sys2Proof/Laws/Forms.lean ====
section
/-! SUPPORT. Each word of the manual's tables is the shape of word it belongs to, with the value its table gives. -/

namespace Sys2Proof.Machine

theorem lane32_congr {i : Instr} {g : BitVec 4} {d : BitVec 7} {f f' : Rd → Word} {s : State} (h : ∀ r, f r = f' r) :
    lane32 i g d f s = lane32 i g d f' s := by rw [funext h]

theorem lane32_bits {i : Instr} {g : BitVec 4} {d : BitVec 7} {f : Rd → Word} {b : Rd → Nat → Bool} {s : State}
    (h : ∀ r j, j < 32 → b r j = (f r).getLsbD j) : lane32 i g d f s = lane32 i g d (fun r => wordBits (b r)) s :=
  lane32_congr fun r => eq_wordBits (h r)

theorem lane64_congr {i : Instr} {g : BitVec 4} {d : BitVec 7} {f f' : Rd → Dword} {s : State} (h : ∀ r, f r = f' r) :
    lane64 i g d f s = lane64 i g d f' s := by rw [funext h]

theorem lr32_exec {i : Instr} {f : LaneForm Word} (s : State) (h : lr32 i = some f) :
    exec i s = lane32 i f.guard f.dest f.value s := by
  unfold lr32 at h
  split at h <;> try cases h
  · exact lane32_congr fun r => (word_add _ _).symm
  · exact lane32_congr fun r => (wordI_sub _ _).symm
  · exact lane32_congr fun r => (word_mul _ _).symm
  · exact lane32_congr fun r => (mulhi_eq _ _).symm
  · exact lane32_congr fun r => (mulhn_eq _ _).symm
  · show execAnd _ _ _ _ s = lane32 _ _ _ _ s
    unfold execAnd
    dsimp only
    refine lane32_bits fun r j hj => ?_
    simp
  · show execOr _ _ _ _ s = lane32 _ _ _ _ s
    unfold execOr
    dsimp only
    refine lane32_bits fun r j hj => ?_
    simp
  · show execXor _ _ _ _ s = lane32 _ _ _ _ s
    unfold execXor
    dsimp only
    refine lane32_bits fun r j hj => ?_
    simp
  · exact lane32_congr fun r => (shl_eq _ _).symm
  · exact lane32_congr fun r => (shrn_eq _ _).symm
  · exact lane32_congr fun r => (shri_eq _ _).symm
  · exact lane32_congr fun r => (mini_eq _ _).symm
  · exact lane32_congr fun r => (maxi_eq _ _).symm
  · exact lane32_congr fun r => (minn_eq _ _).symm
  · exact lane32_congr fun r => (maxn_eq _ _).symm

theorem li32_exec {i : Instr} {f : LaneForm Word} (s : State) (h : li32 i = some f) :
    exec i s = lane32 i f.guard f.dest f.value s := by
  unfold li32 at h
  split at h <;> try cases h
  · rfl
  · exact lane32_congr fun r => by
      show _ + simm _ = wordI _
      simp [wordI, simm, BitVec.ofInt_add, BitVec.signExtend]
  · show execAndi _ _ _ s = lane32 _ _ _ _ s
    unfold execAndi
    dsimp only
    refine lane32_bits fun r j hj => ?_
    rw [wordI_simm]; simp
  · show execOri _ _ _ s = lane32 _ _ _ _ s
    unfold execOri
    dsimp only
    refine lane32_bits fun r j hj => ?_
    rw [wordI_simm]; simp
  · show execXori _ _ _ s = lane32 _ _ _ _ s
    unfold execXori
    dsimp only
    refine lane32_bits fun r j hj => ?_
    rw [wordI_simm]; simp

theorem lx32_exec {i : Instr} {f : LaneForm Word} (s : State) (h : lx32 i = some f) :
    exec i s = lane32 i f.guard f.dest f.value s := by
  unfold lx32 at h
  split at h <;> try cases h
  · rfl
  · show execNot _ _ _ s = lane32 _ _ _ _ s
    unfold execNot
    dsimp only
    refine lane32_bits fun r j hj => ?_
    simp [hj]
  · exact lane32_congr fun r => (wordI_neg _).symm
  · exact lane32_congr fun r => (abs_eq _).symm
  · exact lane32_congr fun r => congrArg word (setBits_eq _).symm
  · exact lane32_congr fun r => congrArg word (zerosAbove_eq _).symm
  · exact lane32_congr fun r => congrArg word (zerosBelow_eq _).symm
  · show execBrev _ _ _ s = lane32 _ _ _ _ s
    unfold execBrev
    dsimp only
    refine lane32_bits fun r j hj => ?_
    unfold bitReverse
    rw [BitVec.getLsbD_reverse, BitVec.getMsbD_eq_getLsbD]
    simp [hj]
  · rfl
  · rfl
  · show execAndn _ _ _ s = lane32 _ _ _ _ s
    unfold execAndn
    dsimp only
    refine lane32_bits fun r j hj => ?_
    simp [hj]
  · show execOrn _ _ _ s = lane32 _ _ _ _ s
    unfold execOrn
    dsimp only
    refine lane32_bits fun r j hj => ?_
    simp [hj]
  · show execRotl _ _ _ s = lane32 _ _ _ _ s
    unfold execRotl
    dsimp only
    refine lane32_bits fun r j hj => ?_
    exact (rotl_bit _ _ j (Nat.mod_lt _ (by decide)) hj).symm
  · show execRotr _ _ _ s = lane32 _ _ _ _ s
    unfold execRotr
    dsimp only
    refine lane32_bits fun r j hj => ?_
    exact (rotr_bit _ _ j (Nat.mod_lt _ (by decide)) hj).symm
  · exact lane32_congr fun r => (clampI_eq _).symm
  · exact lane32_congr fun r => (clampI_eq _).symm
  · exact lane32_congr fun r => (clampN_eq _).symm
  · exact lane32_congr fun r => (clampN_eq _).symm
  · exact lane32_congr fun r => (bfxn_eq _ _).symm
  · exact lane32_congr fun r => (bfxi_eq _ _).symm
  · exact lane32_congr fun r => (bfi_eq _ _ _).symm
  · exact lane32_congr fun r => congrArg word (setBits_eq _).symm
  · exact lane32_congr fun r => congrArg word (zerosAbove_eq _).symm

theorem lx64_exec {i : Instr} {f : LaneForm Dword} (s : State) (h : lx64 i = some f) :
    exec i s = lane64 i f.guard f.dest f.value s := by
  unfold lx64 at h
  split at h <;> try cases h
  · rfl
  · exact lane64_congr fun r => (dwordI_neg _).symm
  · rfl
  · exact lane64_congr fun r => (dword_add _ _).symm
  · exact lane64_congr fun r => (dwordI_sub _ _).symm
  · exact lane64_congr fun r => (dword_mul _ _).symm
  · exact lane64_congr fun r => (shl64_eq _ _).symm
  · exact lane64_congr fun r => (shrn64_eq _ _).symm
  · exact lane64_congr fun r => (shri64_eq _ _).symm
  · exact lane64_congr fun r => (mini64_eq _ _).symm
  · exact lane64_congr fun r => (maxi64_eq _ _).symm
  · exact lane64_congr fun r => (minn64_eq _ _).symm
  · exact lane64_congr fun r => (maxn64_eq _ _).symm
  · exact lane64_congr fun r => (mulwi_eq _ _).symm
  · exact lane64_congr fun r => (mulwn_eq _ _).symm


/-! ## Float words -/

theorem fneg32_bits (x : Word) (j : Nat) (hj : j < 32) :
    (x.getLsbD j != decide (j = 31)) = (x ^^^ 0x80000000#32).getLsbD j := by
  rw [BitVec.getLsbD_xor]
  have : (0x80000000#32).getLsbD j = decide (j = 31) := by
    have : ∀ k : Fin 32, (0x80000000#32).getLsbD k = decide ((k : Nat) = 31) := by decide
    exact this ⟨j, hj⟩
  rw [this]

theorem fabs32_eq (x : Word) : word (x.toNat % 2 ^ 31) = x &&& 0x7FFFFFFF := by
  apply BitVec.eq_of_toNat_eq
  have : (0x7FFFFFFF : Nat) = 2 ^ 31 - 1 := by decide
  simp only [word, BitVec.toNat_and, BitVec.toNat_ofNat]
  show _ = x.toNat &&& (2 ^ 31 - 1)
  rw [Nat.and_two_pow_sub_one_eq_mod]
  omega

theorem fabs64_eq (x : Dword) : dword (x.toNat % 2 ^ 63) = x &&& 0x7FFFFFFFFFFFFFFF := by
  apply BitVec.eq_of_toNat_eq
  simp only [dword, BitVec.toNat_and, BitVec.toNat_ofNat]
  show _ = x.toNat &&& (2 ^ 63 - 1)
  rw [Nat.and_two_pow_sub_one_eq_mod]
  omega

theorem fneg64_eq (x : Dword) : dword ((x.toNat + 2 ^ 63) % 2 ^ 64) = x ^^^ 0x8000000000000000 := by
  apply BitVec.eq_of_getLsbD_eq
  intro j hj
  have hb : (0x8000000000000000#64).getLsbD j = decide (j = 63) := by
    have : ∀ k : Fin 64, (0x8000000000000000#64).getLsbD k = decide ((k : Nat) = 63) := by decide
    exact this ⟨j, hj⟩
  show _ = (x ^^^ 0x8000000000000000#64).getLsbD j
  rw [BitVec.getLsbD_xor, hb]
  simp only [dword, BitVec.getLsbD_ofNat, hj, decide_true, Bool.true_and, Nat.testBit_mod_two_pow]
  rw [Nat.add_comm]
  by_cases h : j = 63
  · subst h
    rw [Nat.testBit_two_pow_add_eq, BitVec.testBit_toNat]
    cases x.getLsbD 63 <;> rfl
  · rw [Nat.testBit_two_pow_add_gt (by omega), BitVec.testBit_toNat]
    simp [h]

theorem fp32_exec {i : Instr} {f : LaneForm Word} (s : State) (h : fp32 i = some f) :
    exec i s = lane32 i f.guard f.dest f.value s := by
  unfold fp32 at h
  split at h <;> try cases h
  · exact lane32_congr fun r => rfl
  · exact lane32_congr fun r => rfl
  · exact lane32_congr fun r => rfl
  · exact lane32_congr fun r => rfl
  · exact lane32_congr fun r => rfl
  · exact lane32_congr fun r => rfl
  · exact lane32_congr fun r => rfl
  · exact lane32_congr fun r => rfl
  · show execFneg32 _ _ _ s = lane32 _ _ _ _ s
    unfold execFneg32
    dsimp only
    exact lane32_bits fun r j hj => fneg32_bits _ j hj
  · exact lane32_congr fun r => (fabs32_eq _).symm
  · exact lane32_congr fun r => rfl
  · exact lane32_congr fun r => rfl
  · exact lane32_congr fun r => rfl

theorem fp64_exec {i : Instr} {f : LaneForm Dword} (s : State) (h : fp64 i = some f) :
    exec i s = lane64 i f.guard f.dest f.value s := by
  unfold fp64 at h
  split at h <;> try cases h
  · exact lane64_congr fun r => rfl
  · exact lane64_congr fun r => rfl
  · exact lane64_congr fun r => rfl
  · exact lane64_congr fun r => rfl
  · exact lane64_congr fun r => rfl
  · exact lane64_congr fun r => (fneg64_eq _).symm
  · exact lane64_congr fun r => (fabs64_eq _).symm

theorem high_word (x : Nat) : word (x / 2 ^ 32) = hiWord (dword x) := by
  apply BitVec.eq_of_toNat_eq
  simp only [word, hiWord, dword, BitVec.toNat_ofNat, BitVec.toNat_setWidth, BitVec.toNat_ushiftRight,
    Nat.shiftRight_eq_div_pow]
  omega

theorem low_word (x : Nat) : word x = loWord (dword x) := by
  apply BitVec.eq_of_toNat_eq
  simp only [word, loWord, dword, BitVec.toNat_ofNat, BitVec.toNat_setWidth]
  omega

theorem write64_eq (d : BitVec 7) (x l : Nat) : write64 d x l = resultWrites true d x l := by
  unfold resultWrites write64
  rw [if_pos rfl, high_word, low_word]
  rfl

theorem laneTracked_congr {i : Instr} {g : BitVec 4} {f f' : Rd → Nat → List RegWrite} {s : State}
    (h : ∀ r l, f r l = f' r l) : laneTracked i g f s = laneTracked i g f' s := by
  rw [show f = f' from funext fun r => funext fun l => h r l]

theorem fpTracked_exec {i : Instr} {p : Bool} {f : LaneForm Nat} (s : State) (h : fpTracked i = some (p, f)) :
    exec i s = laneTracked i f.guard (fun r => resultWrites p f.dest (f.value r)) s := by
  unfold fpTracked at h
  split at h <;> try cases h
  · show execFdiv32 _ _ _ s = _
    unfold execFdiv32
    dsimp only
    exact laneTracked_congr fun r l => rfl
  · show execFdiv64 _ _ _ s = _
    unfold execFdiv64
    dsimp only
    exact laneTracked_congr fun r l => write64_eq _ _ _
  · show execFsqrt32 _ _ _ s = _
    unfold execFsqrt32
    dsimp only
    exact laneTracked_congr fun r l => rfl
  · show execFsqrt64 _ _ _ s = _
    unfold execFsqrt64
    dsimp only
    exact laneTracked_congr fun r l => write64_eq _ _ _
  · show execFrsqrt32 _ _ _ s = _
    unfold execFrsqrt32
    dsimp only
    exact laneTracked_congr fun r l => rfl
  · show execFrsqrt64 _ _ _ s = _
    unfold execFrsqrt64
    dsimp only
    exact laneTracked_congr fun r l => write64_eq _ _ _
  · show execFrcp32 _ _ _ s = _
    unfold execFrcp32
    dsimp only
    exact laneTracked_congr fun r l => rfl
  · show execFrcp64 _ _ _ s = _
    unfold execFrcp64
    dsimp only
    exact laneTracked_congr fun r l => write64_eq _ _ _
  · show execFexp2 _ _ _ s = _
    unfold execFexp2
    dsimp only
    exact laneTracked_congr fun r l => rfl
  · show execFlog2 _ _ _ s = _
    unfold execFlog2
    dsimp only
    exact laneTracked_congr fun r l => rfl

/-! ## Compares -/

theorem compareWord_congr {i : Instr} {t x y : BitVec 3} {f f' u : Rd → Bool} {s : State} (h : ∀ r, f r = f' r) :
    compareWord i t x y f u s = compareWord i t x y f' u s := by rw [funext h]

theorem condI32_eq (c : BitVec 2) (x y : Word) : condI32 c x y = relI c x.toInt y.toInt := by
  unfold condI32 condI relI
  have h1 : (x == y) = decide (x.toInt = y.toInt) := by
    rw [Bool.eq_iff_iff]; simp [BitVec.toInt_inj]
  have h2 : x.slt y = decide (x.toInt < y.toInt) := rfl
  have h3 : (x != 0) = decide (x.toInt ≠ 0) := by
    rw [Bool.eq_iff_iff]
    simp only [bne_iff_ne, decide_eq_true_eq, ne_eq, ← BitVec.toInt_inj]
    rfl
  rw [h1, h2, h3]
  split
  · rfl
  · split
    · rfl
    · split
      · rw [Bool.eq_iff_iff]; simp; omega
      · rfl

theorem condN32_eq (c : BitVec 2) (x y : Word) : condN32 c x y = relI c x.toNat y.toNat := by
  unfold condN32 condI relI
  have h1 : (x == y) = decide ((x.toNat : Int) = y.toNat) := by
    rw [Bool.eq_iff_iff]; simp [← BitVec.toNat_inj] <;> omega
  have h2 : x.ult y = decide ((x.toNat : Int) < y.toNat) := by
    unfold BitVec.ult; rw [Bool.eq_iff_iff]; simp
  have h3 : (x != 0) = decide ((x.toNat : Int) ≠ 0) := by
    rw [Bool.eq_iff_iff]
    simp only [bne_iff_ne, decide_eq_true_eq, ne_eq, ← BitVec.toNat_inj]
    show ¬ x.toNat = 0 ↔ _
    omega
  rw [h1, h2, h3]
  split
  · rfl
  · split
    · rfl
    · split
      · rw [Bool.eq_iff_iff]; simp; omega
      · rfl

theorem condI64_eq (c : BitVec 2) (x y : Dword) : condI64 c x y = relI c x.toInt y.toInt := by
  unfold condI64 condI relI
  have h1 : (x == y) = decide (x.toInt = y.toInt) := by
    rw [Bool.eq_iff_iff]; simp [BitVec.toInt_inj]
  have h2 : x.slt y = decide (x.toInt < y.toInt) := rfl
  have h3 : (x != 0) = decide (x.toInt ≠ 0) := by
    rw [Bool.eq_iff_iff]
    simp only [bne_iff_ne, decide_eq_true_eq, ne_eq, ← BitVec.toInt_inj]
    rfl
  rw [h1, h2, h3]
  split
  · rfl
  · split
    · rfl
    · split
      · rw [Bool.eq_iff_iff]; simp; omega
      · rfl

theorem simm7_toInt (b : BitVec 7) : (simm b).toInt = b.toInt := BitVec.toInt_signExtend_of_le (by decide)
theorem simm11_toInt (b : BitVec 11) : (simm b).toInt = b.toInt := BitVec.toInt_signExtend_of_le (by decide)

theorem and_any (x y : Word) : ((x &&& y) != 0) = (List.range 32).any fun j => x.getLsbD j && y.getLsbD j := by
  rw [Bool.eq_iff_iff]
  simp only [bne_iff_ne, ne_eq, List.any_eq_true, List.mem_range]
  constructor
  · intro h
    apply Classical.byContradiction
    intro h2
    apply h
    apply BitVec.eq_of_getLsbD_eq
    intro j hj
    rw [BitVec.getLsbD_and]
    cases hb : x.getLsbD j && y.getLsbD j
    · simp
    · exact absurd ⟨j, hj, hb⟩ h2
  · rintro ⟨j, hj, hb⟩ h
    have := congrArg (fun z : Word => z.getLsbD j) h
    simp only [BitVec.getLsbD_and] at this
    rw [hb] at this
    simp at this

theorem condTest_eq (c : BitVec 2) (x y : Word) (hc : c ≠ 3) :
    condTest c x y = (if c = 2 then (List.range 32).any fun j => x.getLsbD j && y.getLsbD j
      else x.getLsbD (y.toNat % 32) == decide (c = 0)) := by
  unfold condTest
  rw [← and_any]
  have : c = 0 ∨ c = 1 ∨ c = 2 ∨ c = 3 := by
    revert c; decide
  rcases this with rfl | rfl | rfl | rfl
  · simp
  · simp
  · simp
  · exact absurd rfl hc

theorem compares_exec {i : Instr} {f : CmpForm} (s : State) (h : compares i = some f) (hi : subfieldOk i = true) :
    exec i s = compareWord i f.ctype f.pd1 f.pd2 f.cond f.unord s := by
  unfold compares at h
  split at h <;> try cases h
  · exact compareWord_congr fun r => condI32_eq _ _ _
  · exact compareWord_congr fun r => condN32_eq _ _ _
  · exact compareWord_congr fun r => condI64_eq _ _ _
  · exact compareWord_congr fun r => by rw [condI32_eq, simm7_toInt]
  · rename_i c t p q a b
    have hc : c ≠ 3 := by simpa [subfieldOk] using hi
    exact compareWord_congr fun r => condTest_eq _ _ _ hc
  · rfl
  · rfl
  · rfl

/-! ## Uniform words -/

theorem uni32_congr {i : Instr} {k : BitVec 3} {d : BitVec 5} {f f' : Warp → Word} {s : State} (h : ∀ w, f w = f' w) :
    uni32 i k d f s = uni32 i k d f' s := by rw [funext h]

theorem uni64_congr {i : Instr} {k : BitVec 3} {d : BitVec 5} {f f' : Warp → Dword} {s : State} (h : ∀ w, f w = f' w) :
    uni64 i k d f s = uni64 i k d f' s := by rw [funext h]

theorem uni32_bits {i : Instr} {k : BitVec 3} {d : BitVec 5} {f : Warp → Word} {b : Warp → Nat → Bool} {s : State}
    (h : ∀ w j, j < 32 → b w j = (f w).getLsbD j) : uni32 i k d f s = uni32 i k d (fun w => wordBits (b w)) s :=
  uni32_congr fun w => eq_wordBits (h w)

theorem sel_eq (b : Bool) (n : BitVec 1) (x y : Word) :
    (if b != (n == 1) then x else y) = if b = decide (n = 0) then x else y := by
  have : n = 0 ∨ n = 1 := by revert n; decide
  rcases this with rfl | rfl <;> cases b <;> rfl

theorem ului_eq (m : BitVec 17) : m.setWidth 32 <<< 15 = word (m.toNat * 2 ^ 15) := by
  apply BitVec.eq_of_toNat_eq
  have := m.isLt
  simp only [word, BitVec.toNat_shiftLeft, BitVec.toNat_setWidth, BitVec.toNat_ofNat, Nat.shiftLeft_eq]
  omega

theorem zext_bit (m : BitVec 17) (j : Nat) (hj : j < 32) : (m.setWidth 32).getLsbD j = m.getLsbD j := by
  rw [BitVec.getLsbD_setWidth]; simp [hj]

theorem uni32_exec {i : Instr} {f : UniForm Word} (s : State) (h : uni32Form i = some f) :
    exec i s = uni32 i f.guard f.dest f.value s := by
  unfold uni32Form at h
  split at h <;> try cases h
  · show execUadd _ _ _ _ s = _
    unfold execUadd
    dsimp only
    exact uni32_congr fun r => (word_add _ _).symm
  · show execUsub _ _ _ _ s = _
    unfold execUsub
    dsimp only
    exact uni32_congr fun r => (wordI_sub _ _).symm
  · show execUmul _ _ _ _ s = _
    unfold execUmul
    dsimp only
    exact uni32_congr fun r => (word_mul _ _).symm
  · show execUmulhi _ _ _ _ s = _
    unfold execUmulhi
    dsimp only
    exact uni32_congr fun r => (mulhi_eq _ _).symm
  · show execUand _ _ _ _ s = uni32 _ _ _ _ s
    unfold execUand
    dsimp only
    refine uni32_bits fun w j hj => ?_
    simp [Warp.u]
  · show execUor _ _ _ _ s = uni32 _ _ _ _ s
    unfold execUor
    dsimp only
    refine uni32_bits fun w j hj => ?_
    simp [Warp.u]
  · show execUxor _ _ _ _ s = uni32 _ _ _ _ s
    unfold execUxor
    dsimp only
    refine uni32_bits fun w j hj => ?_
    simp [Warp.u]
  · show execUshl _ _ _ _ s = _
    unfold execUshl
    dsimp only
    exact uni32_congr fun r => (shl_eq _ _).symm
  · show execUshrn _ _ _ _ s = _
    unfold execUshrn
    dsimp only
    exact uni32_congr fun r => (shrn_eq _ _).symm
  · show execUshri _ _ _ _ s = _
    unfold execUshri
    dsimp only
    exact uni32_congr fun r => (shri_eq _ _).symm
  · show execUmini _ _ _ _ s = _
    unfold execUmini
    dsimp only
    exact uni32_congr fun r => (mini_eq _ _).symm
  · show execUmaxi _ _ _ _ s = _
    unfold execUmaxi
    dsimp only
    exact uni32_congr fun r => (maxi_eq _ _).symm
  · show execUsel _ _ _ _ _ _ s = _
    unfold execUsel
    dsimp only
    exact uni32_congr fun r => sel_eq _ _ _ _
  · rfl
  · show execUlui _ _ _ s = _
    unfold execUlui
    dsimp only
    exact uni32_congr fun r => ului_eq _
  · show execUaddi _ _ _ s = _
    unfold execUaddi
    dsimp only
    exact uni32_congr fun r => by
      show _ + simm _ = wordI _
      simp [wordI, simm, BitVec.ofInt_add, BitVec.signExtend, Warp.u]
  · show execUandi _ _ _ s = uni32 _ _ _ _ s
    unfold execUandi
    dsimp only
    refine uni32_bits fun w j hj => ?_
    rw [BitVec.getLsbD_and, zext_bit _ _ hj]
  · show execUori _ _ _ s = uni32 _ _ _ _ s
    unfold execUori
    dsimp only
    refine uni32_bits fun w j hj => ?_
    rw [BitVec.getLsbD_or, zext_bit _ _ hj]

theorem uni64_exec {i : Instr} {f : UniForm Dword} (s : State) (h : uni64Form i = some f) :
    exec i s = uni64 i f.guard f.dest f.value s := by
  unfold uni64Form at h
  split at h <;> try cases h
  · show execUadd64 _ _ _ _ s = _
    unfold execUadd64
    dsimp only
    exact uni64_congr fun r => (dword_add _ _).symm
  · show execUsub64 _ _ _ _ s = _
    unfold execUsub64
    dsimp only
    exact uni64_congr fun r => (dwordI_sub _ _).symm

theorem uniCompare_congr {i : Instr} {k : BitVec 3} {x y : BitVec 2} {f f' : Warp → Bool} {s : State}
    (h : ∀ w, f w = f' w) : uniCompare i k x y f s = uniCompare i k x y f' s := by rw [funext h]

theorem uniCompares_exec {i : Instr} {f : UCmpForm} (s : State) (h : uniCompares i = some f) :
    exec i s = uniCompare i f.guard f.kd1 f.kd2 f.cond s := by
  unfold uniCompares at h
  split at h <;> try cases h
  · show execUcmpI32 _ _ _ _ _ _ s = _
    unfold execUcmpI32
    dsimp only
    exact uniCompare_congr fun r => condI32_eq _ _ _
  · show execUcmpN32 _ _ _ _ _ _ s = _
    unfold execUcmpN32
    dsimp only
    exact uniCompare_congr fun r => condN32_eq _ _ _
  · show execUcmpI64 _ _ _ _ _ _ s = _
    unfold execUcmpI64
    dsimp only
    exact uniCompare_congr fun r => condI64_eq _ _ _
  · show execUcmpi _ _ _ _ _ _ s = _
    unfold execUcmpi
    dsimp only
    exact uniCompare_congr fun r => by rw [condI32_eq, simm11_toInt]

end Sys2Proof.Machine
end

