-- ==== Sys2Proof/Laws/Access.lean ====
section
/-! SUPPORT. Words that make accesses: the addresses and operands of the manual's tables are the ones the words form, and
what each shape of access does at issue. -/

namespace Sys2Proof.Machine

/-! ## Addresses and operands -/

theorem refPlus_eq (a : BitVec 7) (o : Int) (n : Nat) (r : Rd) : memAddr a o n r = refPlus a (n * o) r := by
  unfold memAddr memEff refPlus refAdd refBuf refOff dword
  simp only [BitVec.toNat_ushiftRight, Nat.shiftRight_eq_div_pow]
  rw [Int.mul_comm o]
  rfl

theorem offPlus_eq (a : BitVec 7) (o : Int) (n : Nat) (r : Rd) : lanternAddr a o n r = offPlus a (n * o) r := by
  unfold lanternAddr lanternEff offPlus dword
  rw [Int.mul_comm o]
  apply BitVec.eq_of_toNat_eq
  simp only [BitVec.toNat_setWidth, BitVec.toNat_add, BitVec.toNat_ofInt, BitVec.toNat_ofNat]
  omega

theorem uRefPlus_eq (a o : BitVec 5) (n : Nat) (w : Warp) : uniMemAddr a o n w = uRefPlus a (n * o.toInt) w := by
  unfold uniMemAddr memEff uRefPlus refAdd refBuf refOff dword
  simp only [BitVec.toNat_ushiftRight, Nat.shiftRight_eq_div_pow]
  rw [Int.mul_comm o.toInt]
  rfl

theorem uOffPlus_eq (a o : BitVec 5) (n : Nat) (w : Warp) : uniLanternAddr a o n w = uOffPlus a (n * o.toInt) w := by
  unfold uniLanternAddr lanternEff uOffPlus dword
  simp only [Warp.u]
  rw [Int.mul_comm o.toInt]
  apply BitVec.eq_of_toNat_eq
  simp only [BitVec.toNat_setWidth, BitVec.toNat_add, BitVec.toNat_ofInt, BitVec.toNat_ofNat]
  omega

/-- An operand of 1, 2, 4, 8 or 16 bytes is the low bytes of its registers, lowest first. -/
theorem operandBytes_eq (r : Rd) (c n : Nat) (h : n = 1 ∨ n = 2 ∨ n = 4 ∨ n = 8 ∨ n = 16) :
    regBytes r c n = operandBytes r c n := by
  rcases h with rfl | rfl | rfl | rfl | rfl <;>
    simp [regBytes, operandBytes, leBytes, List.range_succ, Nat.div_div_eq_div_mul]

theorem maskLanes_empty (m : Dword) : (maskLanes m).isEmpty = decide (m = 0) := by
  rw [Bool.eq_iff_iff, List.isEmpty_iff, decide_eq_true_iff]
  unfold maskLanes inMask
  rw [List.filter_eq_nil_iff]
  constructor
  · intro h
    apply BitVec.eq_of_getLsbD_eq
    intro j hj
    have := h j (List.mem_range.2 hj)
    simpa using this
  · rintro rfl j _
    simp

theorem addrs_empty (c : Ctx) (g : BitVec 4) (f : Rd → Dword) :
    (c.addrs g f).isEmpty = decide (c.guarded g = 0) := by
  rw [← maskLanes_empty]
  unfold Ctx.addrs
  cases maskLanes (c.guarded g) <;> rfl

/-! ## Loads -/

section Shapes
variable {s : State} {c : Ctx} {i : Instr}

theorem load_trap {g : BitVec 4} {sp : Space} {n : Nat} {sg : Bool} {d : BitVec 7} {f : Rd → Dword} {t : TrapSpec}
    (h : Issues s c i) (he : exec i s = laneLoad i g sp n sg d f s)
    (ht : checkLanes s c.grp sp .load n (c.addrs g f) = some t) : Traps s c i t := by
  unfold Traps
  rw [he]
  exact issue_trap h.ctx h.quiet h.sound (by simp only [loadEff, ht])

theorem load_none {g : BitVec 4} {sp : Space} {n : Nat} {sg : Bool} {d : BitVec 7} {f : Rd → Dword}
    (h : Issues s c i) (he : exec i s = laneLoad i g sp n sg d f s)
    (ht : checkLanes s c.grp sp .load n (c.addrs g f) = none) (hg : c.guarded g = 0) :
    Completes s c i (s.fallNow c.w.id c.g.fa none) := by
  unfold Completes
  rw [he]
  exact h.go (by simp only [loadEff, ht, addrs_empty, hg, decide_true, if_true])

theorem load_acc {g : BitVec 4} {sp : Space} {n : Nat} {sg : Bool} {d : BitVec 7} {f : Rd → Dword}
    (h : Issues s c i) (he : exec i s = laneLoad i g sp n sg d f s)
    (ht : checkLanes s c.grp sp .load n (c.addrs g f) = none) (hg : c.guarded g ≠ 0) :
    CompletesAcc s c i (watchOf sp n 0 (c.addrs g f)) (s.track c c.g.fa none
      (.accesses ((c.addrs g f).map fun x => ⟨x.1, sp, x.2, n, d.toNat, .load sg⟩))) := by
  unfold CompletesAcc
  rw [he]
  exact h.acc (by
    simp only [loadEff, ht, addrs_empty, hg, decide_false, Bool.false_eq_true, if_false]
    rfl)

/-! ## Stores -/

theorem store_trap {g : BitVec 4} {sp : Space} {n : Nat} {d : BitVec 7} {f : Rd → Dword} {t : TrapSpec}
    (h : Issues s c i) (he : exec i s = laneStore i g sp n d f s)
    (ht : checkLanes s c.grp sp .store n (c.addrs g f) = some t) : Traps s c i t := by
  unfold Traps
  rw [he]
  exact issue_trap h.ctx h.quiet h.sound (by simp only [storeEff, ht])

theorem store_none {g : BitVec 4} {sp : Space} {n : Nat} {d : BitVec 7} {f : Rd → Dword}
    (h : Issues s c i) (he : exec i s = laneStore i g sp n d f s)
    (ht : checkLanes s c.grp sp .store n (c.addrs g f) = none) (hg : c.guarded g = 0) :
    Completes s c i (s.fallNow c.w.id none c.g.fb) := by
  unfold Completes
  rw [he]
  exact h.go (by simp only [storeEff, ht, addrs_empty, hg, decide_true, if_true])

theorem store_full {g : BitVec 4} {sp : Space} {n : Nat} {d : BitVec 7} {f : Rd → Dword}
    (h : Issues s c i) (he : exec i s = laneStore i g sp n d f s)
    (ht : checkLanes s c.grp sp .store n (c.addrs g f) = none) (hg : c.guarded g ≠ 0) (hq : 16 ≤ c.w.sq.length) :
    Stalls s i := by
  unfold Stalls
  rw [he]
  exact issue_stall h.ctx h.quiet h.sound (by
    simp only [storeEff, ht, addrs_empty, hg, decide_false, Bool.false_eq_true, if_false, hq, if_true])

theorem store_acc {g : BitVec 4} {sp : Space} {n : Nat} {d : BitVec 7} {f : Rd → Dword}
    (h : Issues s c i) (he : exec i s = laneStore i g sp n d f s)
    (ht : checkLanes s c.grp sp .store n (c.addrs g f) = none) (hg : c.guarded g ≠ 0) (hq : c.w.sq.length < 16)
    (hn : n = 1 ∨ n = 2 ∨ n = 4 ∨ n = 8 ∨ n = 16) :
    CompletesAcc s c i (watchOf sp n 1 (c.addrs g f)) (s.enqueue c
      ((c.addrs g f).map fun x => ⟨x.1, sp, x.2, operandBytes (c.rd x.1) d.toNat n⟩)) := by
  unfold CompletesAcc
  rw [he]
  exact h.acc (by
    have hq' : ¬ 16 ≤ c.w.sq.length := by omega
    simp only [storeEff, ht, addrs_empty, hg, decide_false, Bool.false_eq_true, if_false, hq', operandBytes_eq _ _ n hn]
    rfl)

/-! ## Atomics and gather-reduces -/

theorem atomic_trap {g : BitVec 4} {sp : Space} {op sc od : Nat} {d a : BitVec 7} {t : TrapSpec}
    (h : Issues s c i) (he : exec i s = laneAtomic i g sp op sc od d a s)
    (ht : checkLanes s c.grp sp .atomic (atomBytes op) (c.addrs g (atomAddr sp a)) = some t) : Traps s c i t := by
  unfold Traps
  rw [he]
  exact issue_trap h.ctx h.quiet h.sound (by simp only [ht])

theorem atomic_none {g : BitVec 4} {sp : Space} {op sc od : Nat} {d a : BitVec 7}
    (h : Issues s c i) (he : exec i s = laneAtomic i g sp op sc od d a s)
    (ht : checkLanes s c.grp sp .atomic (atomBytes op) (c.addrs g (atomAddr sp a)) = none) (hg : c.guarded g = 0) :
    Completes s c i (s.fallNow c.w.id c.g.fa c.g.fb) := by
  unfold Completes
  rw [he]
  exact h.go (by simp only [ht, addrs_empty, hg, decide_true, if_true])

theorem atomic_acc {g : BitVec 4} {sp : Space} {op sc od : Nat} {d a : BitVec 7}
    (h : Issues s c i) (he : exec i s = laneAtomic i g sp op sc od d a s)
    (ht : checkLanes s c.grp sp .atomic (atomBytes op) (c.addrs g (atomAddr sp a)) = none) (hg : c.guarded g ≠ 0) :
    CompletesAcc s c i (watchOf sp (atomBytes op) 2 (c.addrs g (atomAddr sp a))) (s.track c c.g.fa c.g.fb
      (.accesses ((c.addrs g (atomAddr sp a)).map fun x => ⟨x.1, sp, x.2, atomBytes op, d.toNat, .atomic op sc od
        (atomOperands op (c.rd x.1) d.toNat).1 (atomOperands op (c.rd x.1) d.toNat).2⟩))) := by
  unfold CompletesAcc
  rw [he]
  exact h.acc (by
    simp only [ht, addrs_empty, hg, decide_false, Bool.false_eq_true, if_false]
    rfl)

theorem gred_trap {g : BitVec 4} {op : Nat} {d a : BitVec 7} {t : TrapSpec}
    (h : Issues s c i) (he : exec i s = laneGred i g op d a s)
    (ht : checkLanes s c.grp .mem .gred 4 (c.addrs g fun r => Rd.pair r a.toNat) = some t) : Traps s c i t := by
  unfold Traps
  rw [he]
  exact issue_trap h.ctx h.quiet h.sound (by simp only [ht])

theorem gred_none {g : BitVec 4} {op : Nat} {d a : BitVec 7}
    (h : Issues s c i) (he : exec i s = laneGred i g op d a s)
    (ht : checkLanes s c.grp .mem .gred 4 (c.addrs g fun r => Rd.pair r a.toNat) = none) (hg : c.guarded g = 0) :
    Completes s c i (s.fallNow c.w.id c.g.fa none) := by
  unfold Completes
  rw [he]
  exact h.go (by simp only [ht, addrs_empty, hg, decide_true, if_true])

theorem gred_held {g : BitVec 4} {op : Nat} {d a : BitVec 7}
    (h : Issues s c i) (he : exec i s = laneGred i g op d a s)
    (ht : checkLanes s c.grp .mem .gred 4 (c.addrs g fun r => Rd.pair r a.toNat) = none) (hg : c.guarded g ≠ 0)
    (hs : s.storesDone c.w c.grp.coreId 3 = false) : Stalls s i := by
  unfold Stalls
  rw [he]
  exact issue_stall h.ctx h.quiet h.sound (by
    simp only [ht, addrs_empty, hg, decide_false, Bool.false_eq_true, if_false, hs])

theorem gred_acc {g : BitVec 4} {op : Nat} {d a : BitVec 7}
    (h : Issues s c i) (he : exec i s = laneGred i g op d a s)
    (ht : checkLanes s c.grp .mem .gred 4 (c.addrs g fun r => Rd.pair r a.toNat) = none) (hg : c.guarded g ≠ 0)
    (hs : s.storesDone c.w c.grp.coreId 3 = true) :
    CompletesAcc s c i (watchOf .mem 4 0 (c.addrs g fun r => Rd.pair r a.toNat)) (s.track c c.g.fa none
      (.gred op ((c.addrs g fun r => Rd.pair r a.toNat).map fun x => ⟨x.1, .mem, x.2, 4, d.toNat, .load false⟩))) := by
  unfold CompletesAcc
  rw [he]
  exact h.acc (by
    simp only [ht, addrs_empty, hg, decide_false, Bool.false_eq_true, if_false, hs, if_true]
    rfl)

end Shapes

/-! ## The tables -/

theorem laneLoad_congr {i : Instr} {g : BitVec 4} {sp : Space} {n : Nat} {sg : Bool} {d : BitVec 7} {f f' : Rd → Dword}
    {s : State} (h : ∀ r, f r = f' r) : laneLoad i g sp n sg d f s = laneLoad i g sp n sg d f' s := by rw [funext h]

theorem laneStore_congr {i : Instr} {g : BitVec 4} {sp : Space} {n : Nat} {d : BitVec 7} {f f' : Rd → Dword}
    {s : State} (h : ∀ r, f r = f' r) : laneStore i g sp n d f s = laneStore i g sp n d f' s := by rw [funext h]

theorem loads_exec {i : Instr} {f : MemForm} (s : State) (h : loads i = some f) :
    exec i s = laneLoad i f.guard f.space f.bytes f.signed f.reg f.addr s := by
  unfold loads at h
  split at h <;> try cases h
  · show execLd32 _ _ _ _ s = _
    unfold execLd32
    dsimp only
    exact laneLoad_congr fun r => by rw [refPlus_eq]; rfl
  · show execLd64 _ _ _ _ s = _
    unfold execLd64
    dsimp only
    exact laneLoad_congr fun r => by rw [refPlus_eq]; rfl
  · show execLd128 _ _ _ _ s = _
    unfold execLd128
    dsimp only
    exact laneLoad_congr fun r => by rw [refPlus_eq]; rfl
  · show execLds _ _ _ _ s = _
    unfold execLds
    dsimp only
    exact laneLoad_congr fun r => by rw [offPlus_eq]; rfl
  · show execLd8n _ _ _ s = _
    unfold execLd8n
    dsimp only
    exact laneLoad_congr fun r => by rw [refPlus_eq]; rfl
  · show execLd8i _ _ _ s = _
    unfold execLd8i
    dsimp only
    exact laneLoad_congr fun r => by rw [refPlus_eq]; rfl
  · show execLd16n _ _ _ s = _
    unfold execLd16n
    dsimp only
    exact laneLoad_congr fun r => by rw [refPlus_eq]; rfl
  · show execLd16i _ _ _ s = _
    unfold execLd16i
    dsimp only
    exact laneLoad_congr fun r => by rw [refPlus_eq]; rfl
  · show execLds8n _ _ _ s = _
    unfold execLds8n
    dsimp only
    exact laneLoad_congr fun r => by rw [offPlus_eq]; rfl
  · show execLds8i _ _ _ s = _
    unfold execLds8i
    dsimp only
    exact laneLoad_congr fun r => by rw [offPlus_eq]; rfl
  · show execLds16n _ _ _ s = _
    unfold execLds16n
    dsimp only
    exact laneLoad_congr fun r => by rw [offPlus_eq]; rfl
  · show execLds16i _ _ _ s = _
    unfold execLds16i
    dsimp only
    exact laneLoad_congr fun r => by rw [offPlus_eq]; rfl
  · show execLds64 _ _ _ s = _
    unfold execLds64
    dsimp only
    exact laneLoad_congr fun r => by rw [offPlus_eq]; rfl
  · show execLds128 _ _ _ s = _
    unfold execLds128
    dsimp only
    exact laneLoad_congr fun r => by rw [offPlus_eq]; rfl

theorem stores_exec {i : Instr} {f : MemForm} (s : State) (h : stores i = some f) :
    exec i s = laneStore i f.guard f.space f.bytes f.reg f.addr s := by
  unfold stores at h
  split at h <;> try cases h
  · show execSt32 _ _ _ _ s = _
    unfold execSt32
    dsimp only
    exact laneStore_congr fun r => by rw [refPlus_eq]; rfl
  · show execSt64 _ _ _ _ s = _
    unfold execSt64
    dsimp only
    exact laneStore_congr fun r => by rw [refPlus_eq]; rfl
  · show execSt128 _ _ _ _ s = _
    unfold execSt128
    dsimp only
    exact laneStore_congr fun r => by rw [refPlus_eq]; rfl
  · show execSts _ _ _ _ s = _
    unfold execSts
    dsimp only
    exact laneStore_congr fun r => by rw [offPlus_eq]; rfl
  · show execSt8 _ _ _ s = _
    unfold execSt8
    dsimp only
    exact laneStore_congr fun r => by rw [refPlus_eq]; rfl
  · show execSt16 _ _ _ s = _
    unfold execSt16
    dsimp only
    exact laneStore_congr fun r => by rw [refPlus_eq]; rfl
  · show execSts8 _ _ _ s = _
    unfold execSts8
    dsimp only
    exact laneStore_congr fun r => by rw [offPlus_eq]; rfl
  · show execSts16 _ _ _ s = _
    unfold execSts16
    dsimp only
    exact laneStore_congr fun r => by rw [offPlus_eq]; rfl
  · show execSts64 _ _ _ s = _
    unfold execSts64
    dsimp only
    exact laneStore_congr fun r => by rw [offPlus_eq]; rfl
  · show execSts128 _ _ _ s = _
    unfold execSts128
    dsimp only
    exact laneStore_congr fun r => by rw [offPlus_eq]; rfl

theorem stores_bytes {i : Instr} {f : MemForm} (h : stores i = some f) :
    f.bytes = 1 ∨ f.bytes = 2 ∨ f.bytes = 4 ∨ f.bytes = 8 ∨ f.bytes = 16 := by
  unfold stores at h
  split at h <;> cases h <;> simp

theorem atomics_exec {i : Instr} {f : AtomForm} (s : State) (h : atomics i = some f) :
    exec i s = laneAtomic i f.guard f.space f.op f.scope f.order f.d f.a s := by
  unfold atomics at h
  split at h <;> cases h <;> rfl

theorem atom_bytes (f : AtomForm) : f.bytes = atomBytes f.op := by
  unfold AtomForm.bytes atomBytes
  simp

theorem dword_zext (x : Word) : dword x.toNat = x.setWidth 64 := by
  apply BitVec.eq_of_toNat_eq
  simp [dword]

theorem atom_addr (f : AtomForm) :
    f.addr = atomAddr f.space f.a := by
  funext rd
  unfold AtomForm.addr atomAddr
  cases f.space
  · rfl
  · exact dword_zext _

theorem atom_operands (f : AtomForm) (r : Rd) : f.operands r = atomOperands f.op r f.d.toNat := by
  unfold AtomForm.operands AtomForm.bytes atomOperands
  simp only [dword_zext]
  generalize f.op = n
  rcases n with _ | _ | _ | _ | _ | _ | _ | _ | _ | _ | _ | _ | _ | n <;> rfl

theorem gathers_exec {i : Instr} {g : BitVec 4} {op : Nat} {d a : BitVec 7} (s : State)
    (h : gathers i = some (g, op, d, a)) : exec i s = laneGred i g op d a s := by
  unfold gathers at h
  split at h <;> cases h <;> rfl

end Sys2Proof.Machine
end

