-- ==== Sys2Proof/Laws/Depart.lean ====
section
/-! SUPPORT. Where lanes stand when their clause has ended. -/

namespace Sys2Proof.Machine

/-- Every lane of a warp stands where it stood. -/
structure SameStand (a b : Warp) : Prop where
  id : b.id = a.id
  lanes : b.lanes.map Lane.stand = a.lanes.map Lane.stand

theorem SameStand.refl (w : Warp) : SameStand w w := ⟨rfl, rfl⟩

theorem SameStand.trans {a b c : Warp} (h : SameStand a b) (h' : SameStand b c) : SameStand a c :=
  ⟨h'.id.trans h.id, h'.lanes.trans h.lanes⟩

theorem meetRelease_stand (w : Warp) : SameStand w w.meetRelease := by
  refine ⟨rfl, ?_⟩
  simp only [Warp.meetRelease, List.map_map]
  refine List.map_congr_left fun x _ => ?_
  simp only [Function.comp]
  split
  · rename_i h; simp only [Lane.stand, h.1]; rfl
  · rfl

theorem wwEval_stand (sees : Nat → Bool) (w : Warp) : SameStand w (w.wwEval sees) := by
  refine ⟨rfl, map_mapFrom _ _ (fun i x => ?_) 0 w.lanes⟩
  split
  · rename_i h
    have : x.stat = .parked .warpWide := eq_of_beq (Bool.and_eq_true_iff.1 h).2
    simp only [Lane.stand, this]; rfl
  · rfl

theorem setBar_stand (w : Warp) (b : WarpBar) : SameStand w (w.setBar b) := by
  unfold Warp.setBar; split <;> exact ⟨rfl, rfl⟩

theorem mapLanes_stand (w : Warp) (m : Dword) (f : Nat → Lane → Lane) (hf : ∀ l ln, (f l ln).stand = ln.stand) :
    SameStand w (w.mapLanes m f) := by
  refine ⟨rfl, map_mapFrom _ _ (fun i x => ?_) 0 w.lanes⟩
  split
  · exact hf i x
  · rfl

theorem barRelease_stand (w : Warp) (scope idx : Nat) : SameStand w (w.barRelease scope idx) := by
  unfold Warp.barRelease
  dsimp only
  split
  · exact (mapLanes_stand w _ _ fun _ ln => by
      split
      · rename_i h; simp only [Lane.stand, h]; rfl
      · rfl).trans (setBar_stand _ _)
  · exact .refl w

/-- Every lane of every warp stands where it stood. -/
def AllStand (s t : State) : Prop := ∀ n w, s.warp n = some w → ∃ x, t.warp n = some x ∧ SameStand w x

theorem AllStand.refl (s : State) : AllStand s s := fun _ w h => ⟨w, h, .refl w⟩

theorem AllStand.trans {a b c : State} (h : AllStand a b) (h' : AllStand b c) : AllStand a c := fun n w hw => by
  obtain ⟨x, hx, hwx⟩ := h n w hw
  obtain ⟨y, hy, hxy⟩ := h' n x hx
  exact ⟨y, hy, hwx.trans hxy⟩

theorem updWarp_stand (s : State) (n : Nat) (f : Warp → Warp) (h : ∀ w, SameStand w (f w)) : AllStand s (s.updWarp n f) := by
  intro m w hw
  rw [State.updWarp_warp s n m f fun w hw => ((h w).id).trans hw]
  split
  · exact ⟨f w, by rw [hw]; rfl, h w⟩
  · exact ⟨w, hw, .refl w⟩

theorem mapWarps_stand (s : State) (f : Warp → Warp) (h : ∀ w, SameStand w (f w)) :
    AllStand s { s with warps := s.warps.map f } := by
  intro m w hw
  refine ⟨f w, ?_, h w⟩
  show lookupBy Warp.id (s.warps.map f) m = _
  rw [lookupBy_map f (fun x => (h x).id)]
  exact congrArg (Option.map f) hw

theorem AllStand.of_warps {s t : State} (h : t.warps = s.warps) : AllStand s t := fun n w hw => by
  refine ⟨w, ?_, .refl w⟩
  unfold State.warp at hw ⊢
  rw [h, hw]

theorem modBar_warps (s : State) (grp : Group) (scope idx : Nat) (f : Barrier → Barrier) :
    (s.modBar grp scope idx f).warps = s.warps := by
  unfold State.modBar
  split <;> rfl

theorem tryArrive_stand (s : State) (scope idx wid : Nat) : AllStand s (s.tryArrive scope idx wid) := by
  unfold State.tryArrive
  split
  · exact .refl s
  · dsimp only
    split
    · exact .refl s
    · split
      · exact .refl s
      · have hset : ∀ b : WarpBar, AllStand s (s.updWarp wid fun w => w.setBar b) := fun b =>
          updWarp_stand s wid _ fun w => setBar_stand w b
        split
        · exact (hset _).trans (.of_warps (modBar_warps _ _ _ _ _))
        · split
          · split
            · exact (hset _).trans (.of_warps rfl)
            · exact (hset _).trans (.of_warps (modBar_warps _ _ _ _ _))
          · exact hset _

theorem barAdvance_stand (s : State) (grp : Group) (scope idx : Nat) (k : Bool) :
    AllStand s (s.barAdvance grp scope idx k) := by
  unfold State.barAdvance
  dsimp only
  have h : ∀ (l : List Nat) (r : State), AllStand r { r with warps := r.warps.map fun (w : Warp) =>
      (if l.contains w.group then w.barRelease scope idx else w) } := fun l r =>
    mapWarps_stand r _ fun w => by
      split
      · exact barRelease_stand w scope idx
      · exact .refl w
  split
  · exact (AllStand.of_warps (modBar_warps _ _ _ _ _)).trans (h _ _)
  · exact ((AllStand.of_warps (modBar_warps _ _ _ _ _)).trans (h _ _)).trans (.of_warps rfl)

theorem barSettle_stand (n : Nat) (s : State) (grp : Group) (scope idx : Nat) :
    AllStand s (State.barSettle n s grp scope idx) := by
  induction n generalizing s with
  | zero => exact .refl s
  | succ n ih =>
    simp only [State.barSettle]
    have h : ∀ ws : List Nat, AllStand s (ws.foldl (fun s w => s.tryArrive scope idx w) s) := fun ws =>
      foldl_keeps AllStand .refl (fun _ _ _ => .trans) _ (fun s x => tryArrive_stand s scope idx x) ws s
    split
    · exact ((h _).trans (barAdvance_stand _ _ _ _ _)).trans (ih _)
    · exact h _

theorem barPoll_stand (s : State) (wid : Nat) : AllStand s (s.barPoll wid) := by
  unfold State.barPoll
  split
  · exact .refl s
  · split
    · exact .refl s
    · exact foldl_keeps AllStand .refl (fun _ _ _ => .trans) _ (fun s b => barSettle_stand 64 s _ _ _) _ s

theorem laneEnd_stand (next : Word) (meets : Word → Bool) (ln : Lane) (h : ln.pc = next) :
    (laneEnd next false meets ln).stand = ln.after next := by
  unfold laneEnd Lane.after
  simp only [Bool.false_or]
  split
  · simp [Lane.stand, h]
  · simp only [Lane.stand]
    split <;> rfl

theorem assignMonitor_lanes (w : Warp) (h : Word) (clk : Nat) : (w.assignMonitor h clk).lanes = w.lanes := by
  unfold Warp.assignMonitor
  dsimp only
  split
  · rfl
  · split <;> rfl

/-- A warp after its gang's clause has ended. -/
theorem leave_stand (w : Warp) (g : Gang) (grp : Group) (clk : Nat) (sees : Nat → Bool) (meets : Word → Bool)
    (ha : grp.abandoned = false) (l : Nat) (ln : Lane)
    (hl : w.lanes[l]? = some ln) (hpc : inMask g.lanes l → ln.pc = g.hdr + BitVec.ofNat 32 (4 * g.index)) :
    ∃ lm, (w.leave g grp clk sees meets).lanes[l]? = some lm ∧
      lm.stand = if inMask g.lanes l then ln.after (g.hdr + BitVec.ofNat 32 (4 * g.index)) else ln.stand := by
  unfold Warp.leave
  have h0 : ((backTargets w g.lanes).foldl (fun w h => w.assignMonitor h clk) w).lanes = w.lanes :=
    foldl_keeps (fun a b : Warp => b.lanes = a.lanes) (fun _ => rfl) (fun _ _ _ h h' => h'.trans h) _
      (fun w h => assignMonitor_lanes w h clk) _ w
  generalize (backTargets w g.lanes).foldl (fun w h => w.assignMonitor h clk) w = a at h0
  dsimp only
  have h1 : ∃ lm, (a.mapLanes g.lanes fun _ ln =>
      laneEnd (g.hdr + BitVec.ofNat 32 (4 * g.index)) grp.abandoned meets ln).lanes[l]? = some lm ∧
      lm.stand = if inMask g.lanes l then ln.after (g.hdr + BitVec.ofNat 32 (4 * g.index)) else ln.stand := by
    refine ⟨_, by simp only [Warp.mapLanes, getElem?_mapFrom, h0, hl, Option.map_some]; rfl, ?_⟩
    simp only [Nat.zero_add, ha]
    split
    · rename_i hm; exact laneEnd_stand _ _ _ (hpc hm)
    · rfl
  generalize a.mapLanes g.lanes (fun _ ln => laneEnd (g.hdr + BitVec.ofNat 32 (4 * g.index)) grp.abandoned meets ln) = b at h1
  obtain ⟨lm, hlm, hst⟩ := h1
  have key : ∀ x : Warp, x.lanes = b.lanes → ∃ lm', ((x.meetRelease.wwEval sees).keepDemoted).lanes[l]? = some lm' ∧
      lm'.stand = lm.stand := by
    intro x hx
    have h2 := ((meetRelease_stand x).trans (wwEval_stand sees _)).lanes
    rw [hx] at h2
    have h3 := congrArg (fun q : List (Word × Bool) => q[l]?) h2
    simp only [List.getElem?_map, hlm, Option.map_some] at h3
    cases h4 : (x.meetRelease.wwEval sees).lanes[l]? with
    | none => rw [h4] at h3; cases h3
    | some y => rw [h4] at h3; exact ⟨y, h4, by simpa using h3⟩
  have key' : ∀ x : Warp, x.lanes = b.lanes → ∃ lm', ((x.meetRelease.wwEval sees).keepDemoted).lanes[l]? = some lm' ∧
      lm'.stand = if inMask g.lanes l then ln.after (g.hdr + BitVec.ofNat 32 (4 * g.index)) else ln.stand := fun x hx => by
    obtain ⟨y, hy, hys⟩ := key x hx
    exact ⟨y, hy, hys.trans hst⟩
  refine key' _ ?_
  split <;> rfl

/-- A word that stands last in its clause: its lanes depart. -/
theorem retire_departs {s : State} {c : Ctx} (hg : s.gang c.g.uid = some c.g) (hw : c.g.warp = c.w.id)
    (hgr : ∀ w, s.warp c.w.id = some w → s.group w.group = some c.grp) (hr : c.g.rest.tail = []) (hn : c.g.wait = .none)
    (ha : c.grp.abandoned = false) : Departs c s (s.retire c []) := by
  intro w hws
  unfold State.retire
  rw [takeWatch_nil]
  have hg1 : (s.popWord c).gang c.g.uid = some { c.g with index := c.g.index + 1, rest := [] } := by
    have hp : ∀ n, (s.popWord c).gang n =
        if n = c.g.uid then (s.gang n).map (fun g => { g with index := g.index + 1, rest := g.rest.tail }) else s.gang n := by
      intro n
      unfold State.popWord
      exact State.updGang_gang _ c.g.uid n _ (fun _ h => h)
    rw [hp, if_pos rfl, hg, Option.map_some, hr]
  have hw1 : ∃ x, (s.popWord c).warp c.w.id = some x ∧ x.group = w.group ∧ x.id = c.w.id ∧
      ∀ (l : Nat) (ln : Lane), w.lanes[l]? = some ln → ∃ lm, x.lanes[l]? = some lm ∧
        lm = if inMask c.g.lanes l then { ln with pc := c.g.pc + 4 } else ln := by
    have hp : ∀ f : Warp → Warp, (∀ w, w.id = c.w.id → (f w).id = c.w.id) →
        (s.updWarp c.w.id f).warp c.w.id = some (f w) := by
      intro f hf
      rw [State.updWarp_warp s c.w.id c.w.id f hf, if_pos rfl, hws, Option.map_some]
    have hq : ∃ f : Warp → Warp, (s.popWord c).warp c.w.id = (s.updWarp c.w.id f).warp c.w.id ∧
        (∀ w, (f w).id = w.id ∧ (f w).group = w.group) ∧
        ∀ w, (f w).lanes = mapFrom (fun l ln => if inMask c.g.lanes l then { ln with pc := c.g.pc + 4 } else ln) 0 w.lanes := by
      unfold State.popWord
      exact ⟨_, rfl, fun _ => ⟨rfl, rfl⟩, fun _ => rfl⟩
    obtain ⟨f, hf, hid, hlanes⟩ := hq
    rw [hf]
    refine ⟨f w, hp f (fun v hv => (hid v).1.trans hv), (hid w).2, ?_, fun l ln hl => ⟨_, ?_, rfl⟩⟩
    · exact (hid w).1.trans (State.warp_id hws)
    · simp only [hlanes, getElem?_mapFrom, hl, Option.map_some, Nat.zero_add]
  obtain ⟨x, hx, hxg, hxid, hxl⟩ := hw1
  have hgrp : (s.popWord c).group x.group = some c.grp := by
    rw [hxg]; exact hgr w hws
  simp only [State.finish, hg1, List.isEmpty_nil, hn, Bool.true_and, beq_self_eq_true, if_true]
  simp only [State.endClause, hg1, hw, hx, hgrp]
  have hpc : c.g.hdr + BitVec.ofNat 32 (4 * (c.g.index + 1)) = c.g.pc + 4 := by
    unfold Gang.pc
    rw [Nat.mul_add, BitVec.ofNat_add, ← BitVec.add_assoc]
    rfl
  have hy : ((((s.popWord c).delGang c.g.uid).updWarp c.w.id fun _ =>
      x.leave { c.g with index := c.g.index + 1, rest := [] } c.grp ((s.popWord c).die c.grp.die).clk (s.popWord c).pick
        ((s.popWord c).meets c.grp))).warp c.w.id =
      some (x.leave { c.g with index := c.g.index + 1, rest := [] } c.grp ((s.popWord c).die c.grp.die).clk (s.popWord c).pick
        ((s.popWord c).meets c.grp)) := by
    have hx' : ((s.popWord c).delGang c.g.uid).warp c.w.id = some x := hx
    rw [State.updWarp_warp ((s.popWord c).delGang c.g.uid) c.w.id c.w.id _
      (fun _ _ => (leave_kept _ _ _ _ _ _).id.trans hxid), if_pos rfl, hx', Option.map_some]
  obtain ⟨z, hz, hzs⟩ := barPoll_stand _ c.w.id _ _ hy
  refine ⟨z, hz, fun l ln hl => ?_⟩
  obtain ⟨lm, hlm, hlme⟩ := hxl l ln hl
  obtain ⟨ly, hly, hlys⟩ := leave_stand x { c.g with index := c.g.index + 1, rest := [] } c.grp
    ((s.popWord c).die c.grp.die).clk (s.popWord c).pick
        ((s.popWord c).meets c.grp) ha l lm hlm (fun hm => by
      have hm : inMask c.g.lanes l = true := hm
      rw [hlme, if_pos hm]; exact hpc.symm)
  have h3 := congrArg (fun q : List (Word × Bool) => q[l]?) hzs.lanes
  simp only [List.getElem?_map, hly, Option.map_some] at h3
  cases h4 : z.lanes[l]? with
  | none => rw [h4] at h3; cases h3
  | some y =>
    rw [h4] at h3
    refine ⟨y, rfl, ?_⟩
    have h5 : y.stand = ly.stand := by simpa using h3
    rw [h5, hlys]
    show (if inMask c.g.lanes l = true then lm.after (c.g.hdr + BitVec.ofNat 32 (4 * (c.g.index + 1))) else lm.stand) = _
    rw [hpc, hlme]
    split <;> rfl

/-! ## Words that send lanes elsewhere -/

/-- What the issuing gang's context is. -/
theorem ctx_facts {s : State} {c : Ctx} (h : s.ctx = some c) :
    s.gang c.g.uid = some c.g ∧ s.warp c.g.warp = some c.w ∧ s.group c.w.group = some c.grp ∧ c.rv = readView s c.w ∧
      c.g.warp = c.w.id := by
  unfold State.ctx at h
  split at h
  · cases h
  · rename_i g hg
    split at h
    · cases h
    · rename_i w hw
      split at h
      · cases h
      · rename_i grp hgrp
        cases h
        have hk : g.uid = s.cur := lookupBy_key hg
        exact ⟨by rw [hk]; exact hg, hw, hgrp, rfl, (State.warp_id hw).symm⟩

variable {s : State} {c : Ctx} {i : Instr}

theorem transfers_setWarp {chk : Ctx → Option Nat} {eff : Ctx → State → Eff} {w : Warp} (h : Issues s c i)
    (he : exec i s = issue chk eff s) (hk : chk c = none) (hf : eff c s = .go (s.setWarp w) []) (hid : w.id = c.w.id)
    (hgr : w.group = c.w.group) : Transfers s c i (s.setWarp w) := by
  refine ⟨(s.setWarp w).retire c [], ?_, retire_retired _ c, fun hr hn ha => ?_⟩
  · rw [he]
    simp only [issue, h.ctx, issueIn, h.quiet, hk, hf]
  · obtain ⟨h1, h2, h3, -, h5⟩ := ctx_facts h.ctx
    refine retire_departs h1 h5 (fun x hx => ?_) hr hn ha
    have : (s.setWarp w).warp c.w.id = some w := by
      unfold State.setWarp
      have := State.updWarp_warp s w.id c.w.id (fun _ => w) fun _ _ => rfl
      rw [this, if_pos hid.symm, ← h5, h2, Option.map_some]
    rw [this] at hx
    cases hx
    show s.group w.group = _
    rw [hgr, h3]

theorem transfers_none {chk : Ctx → Option Nat} {eff : Ctx → State → Eff} (h : Issues s c i)
    (he : exec i s = issue chk eff s) (hk : chk c = none) (hf : eff c s = .go s []) : Transfers s c i s := by
  refine ⟨s.retire c [], ?_, retire_retired _ c, fun hr hn ha => ?_⟩
  · rw [he]
    simp only [issue, h.ctx, issueIn, h.quiet, hk, hf]
  · obtain ⟨h1, h2, h3, -, h5⟩ := ctx_facts h.ctx
    refine retire_departs h1 h5 (fun x hx => ?_) hr hn ha
    rw [← h5, h2] at hx
    cases hx
    exact h3

end Sys2Proof.Machine
end

