-- ==== Sys2Proof/Laws/Errors.lean ====
section
/-! SUPPORT. Laws of the reads that find uncorrectable errors (R259): with no error undetected a read changes nothing. -/

namespace Sys2Proof.Machine

theorem findError_quiet {s : State} {line : Nat} (h : s.latent.contains line = false) (kind : Nat) :
    s.findError line kind = s := by
  unfold State.findError
  rw [h]
  rfl

/-- Any number of lines of which none has an error undetected. -/
theorem findError_lines {s : State} (h : s.latent = []) (kind : Nat) (ls : List Nat) :
    ls.foldl (fun s l => s.findError l kind) s = s := by
  induction ls with
  | nil => rfl
  | cons l ls ih => rw [List.foldl_cons, findError_quiet (by rw [h]; rfl), ih]

/-- What a die's engine reads finds no error, and no copy of the die is older. -/
theorem engSaw_quiet {s : State} (h : s.latent = []) (hc : s.copies = []) (d : Nat) (ps : List Nat) : s.engSaw d ps = s := by
  unfold State.engSaw
  simp only [findError_lines h, hc, List.filter_nil]
  cases s
  cases hc
  rfl

theorem findSpan_quiet {s : State} (h : s.latent = []) (hc : s.copies = []) (d ctx : Nat) (r : Dword) (n : Nat) :
    s.findSpan d ctx r n = s := by
  unfold State.findSpan
  split
  · rfl
  · exact engSaw_quiet h hc d _

theorem findOrbit_quiet {s : State} (h : s.latent = []) (hc : s.copies = []) (d ctx : Nat) (ref : Dword) :
    s.findOrbit d ctx ref = s := by
  unfold State.findOrbit
  simp only [findSpan_quiet h hc, ite_self]
  split
  · rfl
  · split <;> rfl

theorem findLaunch_quiet {s : State} (h : s.latent = []) (hc : s.copies = []) (d ctx : Nat) (ref : Dword) :
    s.findLaunch d ctx ref = s := by
  unfold State.findLaunch
  simp only [findSpan_quiet h hc, ite_self]
  split
  · rfl
  · split <;> rfl

end Sys2Proof.Machine
end

