-- ==== Sys2Proof/Laws/Moves.lean ====
section
/-! SUPPORT. How a word whose effect differs from a claim only in the progress of lanes completes as the claim says, and the
values of displacements. -/

namespace Sys2Proof.Machine

/-- A change of the warp and a warp put in its place. -/
theorem updWarp_setWarp_moved (s : State) (n : Nat) (f : Warp → Warp) {w y : Warp} (hs : s.warp n = some w)
    (hf : ∀ w, w.id = n → (f w).id = n) (hy : y.id = n) (h : WarpKept (f w) y) : Moved (s.updWarp n f) (s.setWarp y) := by
  have h1 : ∀ m, (s.updWarp n f).warp m = if m = n then (s.warp m).map f else s.warp m :=
    fun m => State.updWarp_warp s n m f hf
  have h2 : ∀ m, (s.setWarp y).warp m = if m = y.id then (s.warp m).map (fun _ => y) else s.warp m :=
    fun m => State.updWarp_warp s y.id m (fun _ => y) fun _ _ => rfl
  refine ⟨rfl, fun m x hx => ?_, fun _ g hg => ⟨g, hg, rfl⟩, List.Sublist.refl _⟩
  rw [h1] at hx
  rw [h2, hy]
  split at hx
  · rename_i he
    subst he
    rw [hs] at hx
    cases hx
    exact ⟨y, by rw [if_pos rfl, hs]; rfl, h⟩
  · rename_i he
    exact ⟨x, by rw [if_neg he]; exact hx, .refl x⟩

theorem updWarps_moved (s : State) (n : Nat) (f g : Warp → Warp) 
    (hf : ∀ w, w.id = n → (f w).id = n) (hg : ∀ w, w.id = n → (g w).id = n) (h : ∀ w, s.warp n = some w → WarpKept (f w) (g w)) :
    Moved (s.updWarp n f) (s.updWarp n g) := by
  have h1 : ∀ m, (s.updWarp n f).warp m = if m = n then (s.warp m).map f else s.warp m :=
    fun m => State.updWarp_warp s n m f hf
  have h2 : ∀ m, (s.updWarp n g).warp m = if m = n then (s.warp m).map g else s.warp m :=
    fun m => State.updWarp_warp s n m g hg
  refine ⟨rfl, fun m x hx => ?_, fun _ g hg => ⟨g, hg, rfl⟩, List.Sublist.refl _⟩
  rw [h1] at hx
  rw [h2]
  split at hx
  · rename_i he
    subst he
    cases hs : s.warp m with
    | none => rw [hs] at hx; cases hx
    | some w =>
      rw [hs] at hx
      cases hx
      exact ⟨g w, by rw [if_pos rfl]; rfl, h w hs⟩
  · rename_i he
    exact ⟨x, by rw [if_neg he]; exact hx, .refl x⟩

theorem Moved.updGang {a b : State} (h : Moved a b) (n : Nat) (f : Gang → Gang) : Moved (a.updGang n f) (b.updGang n f) :=
  ⟨h.state, h.warps, h.groups, h.l1⟩

theorem ctx_warp {s : State} {c : Ctx} (h : s.ctx = some c) : s.warp c.w.id = some c.w := by
  obtain ⟨h1, h2, h3, -, h5⟩ := ctx_facts h
  rw [← h5]; exact h2

theorem Issues.completes {s : State} {c : Ctx} {i : Instr} {eff : Ctx → State → Eff} {s' : State} (h : Issues s c i)
    (he : exec i s = issue (issueFault i) eff s) (hf : eff c s = .go s' []) : Completes s c i s' := by
  unfold Completes
  rw [he]
  exact h.go hf
theorem Issues.stalls {s : State} {c : Ctx} {i : Instr} {eff : Ctx → State → Eff} (h : Issues s c i)
    (he : exec i s = issue (issueFault i) eff s) (hf : eff c s = .stall) : Stalls s i := by
  unfold Stalls
  rw [he]
  exact issue_stall h.ctx h.quiet h.sound hf
/-- A word completes in every state that its effect has moved from. -/
theorem Issues.completes_moved {s : State} {c : Ctx} {i : Instr} {eff : Ctx → State → Eff} {a b : State} (h : Issues s c i)
    (he : exec i s = issue (issueFault i) eff s) (hf : eff c s = .go b []) (hm : Moved a b) (hg : b.gangs = a.gangs) :
    Completes s c i a := by
  obtain ⟨t, ht, hr⟩ := Issues.completes h he hf
  exact ⟨t, ht, .of_moved hm hg hr⟩
theorem disp_eq {n : Nat} (c : Ctx) (m : BitVec n) (hn : n ≤ 32) : c.disp m = wordI (c.g.pc.toInt + 4 * m.toInt) := by
  unfold Ctx.disp wordI
  have h1 : m.signExtend 32 = BitVec.ofInt 32 m.toInt := by
    apply BitVec.eq_of_toInt_eq
    rw [BitVec.toInt_signExtend_of_le hn, BitVec.toInt_ofInt]
    symm
    apply Int.bmod_eq_of_le
    · have := BitVec.le_toInt m
      have h2 : (2:Int) ^ (n-1) ≤ 2 ^ 31 := by exact_mod_cast Nat.pow_le_pow_right (by decide) (by omega)
      omega
    · have := BitVec.toInt_lt (x := m)
      have h2 : (2:Int) ^ (n-1) ≤ 2 ^ 31 := by exact_mod_cast Nat.pow_le_pow_right (by decide) (by omega)
      omega
  rw [h1, BitVec.ofInt_add]
  congr 1
  · simp
  · rw [← BitVec.mul_twoPow_eq_shiftLeft, Int.mul_comm, BitVec.ofInt_mul]
    rfl

theorem transfers_unquiet {s : State} {c : Ctx} {i : Instr} {w : Warp} (h : Transfers s c i (s.setWarp w.unquiet)) :
    Transfers s c i (s.setWarp w) := by
  obtain ⟨t, ht, hr, hd⟩ := h
  refine ⟨t, ht, .of_moved (unquiet_moved s w) rfl hr, fun a b d => ?_⟩
  intro x hx
  have h := State.updWarp_warp s w.id c.w.id (fun _ => w) fun _ _ => rfl
  have h' := State.updWarp_warp s w.id c.w.id (fun _ => w.unquiet) fun _ _ => rfl
  have hx' : (s.updWarp w.id fun _ => w).warp c.w.id = some x := hx
  rw [h] at hx'
  have : ∃ y, (s.setWarp w.unquiet).warp c.w.id = some y ∧ y.lanes = x.lanes := by
    show ∃ y, (s.updWarp w.id fun _ => w.unquiet).warp c.w.id = some y ∧ y.lanes = x.lanes
    rw [h']
    split at hx'
    · rename_i he
      cases hs : s.warp c.w.id with
      | none => rw [hs] at hx'; cases hx'
      | some y =>
        rw [hs] at hx'
        cases hx'
        exact ⟨w.unquiet, by rw [if_pos he]; rfl, rfl⟩
    · rename_i he
      exact ⟨x, by rw [if_neg he]; exact hx', rfl⟩
  obtain ⟨y, hy, hl⟩ := this
  obtain ⟨z, hz, hzl⟩ := hd a b d y hy
  exact ⟨z, hz, fun l ln h => hzl l ln (by rw [hl]; exact h)⟩

theorem Issues.putUni {s : State} {c : Ctx} {i : Instr} {eff : Ctx → State → Eff} {k : BitVec 3} {d : BitVec 5} {v : Word}
    (h : Issues s c i) (he : exec i s = issue (issueFault i) eff s)
    (hf : eff c s = if guardUni k c.w then .go (s.setWarp (c.w.putS d.toNat v).unquiet) [] else .go s []) :
    Completes s c i (s.putUni c k d v) := by
  unfold State.putUni
  by_cases hg : guardUni k c.w = true
  · rw [if_pos hg] at hf ⊢
    exact Issues.completes_moved h he hf (unquiet_moved _ _) rfl
  · rw [if_neg hg] at hf ⊢
    exact Issues.completes h he hf

end Sys2Proof.Machine
end

