-- ==== Sys2Proof/Laws/PerInstr.lean ====
section
/-! SUPPORT. Statements for every instruction, one lemma per constructor. Encoding: the decoder reads an instruction's own
word as that instruction. -/

namespace Sys2Proof.Laws

/-- The value of two fields side by side. -/
theorem append_toNat {v w : Nat} (x : BitVec v) (y : BitVec w) : (x ++ y).toNat = x.toNat * 2 ^ w + y.toNat := by
  rw [BitVec.toNat_append, ← Nat.shiftLeft_add_eq_or_of_lt y.isLt, Nat.shiftLeft_eq]

/-- A field of a word, from the word's value. -/
theorem fld_of_toNat {n lo : Nat} {w : Word} {x : BitVec n} (h : w.toNat / 2 ^ lo % 2 ^ n = x.toNat) : fld w lo n = x := by
  apply BitVec.eq_of_toNat_eq
  simp [fld, Nat.shiftRight_eq_div_pow, h]

/-- The decoder reads the word of an instruction as that instruction, operand for operand. -/
def Encoding.Statement (i : Instr) : Prop :=
  (∀ w, encodeCore i = some w → decodeOpcode w = some i) ∧ ∀ w, encodeNear i = some w → decodeNear w = some i

theorem Encoding.of_core {i : Instr} {w : Word} (he : encodeCore i = some w) (hn : encodeNear i = none)
    (h : decodeOpcode w = some i) : Encoding.Statement i := by
  simp [Encoding.Statement, he, hn, h]

theorem Encoding.of_near {i : Instr} {w : Word} (he : encodeCore i = none) (hn : encodeNear i = some w)
    (h : decodeNear w = some i) : Encoding.Statement i := by
  simp [Encoding.Statement, he, hn, h]

theorem Encoding.of_none {i : Instr} (he : encodeCore i = none) (hn : encodeNear i = none) : Encoding.Statement i := by
  simp [Encoding.Statement, he, hn]

/-! Fields of words laid out as one shape each. -/

theorem Encoding.fld_1_28_4 (x0 : BitVec 7) (x1 : BitVec 4) (x2 : BitVec 7) (x3 : BitVec 7) (x4 : BitVec 7) :
    fld (x0 ++ x1 ++ x2 ++ x3 ++ x4) 28 4 = x0.extractLsb' 3 4 :=
  (BitVec.extractLsb'_append_eq_of_le (xhi := x0 ++ x1 ++ x2 ++ x3) (xlo := x4) (start := 28) (len := 4) (by decide)).trans <|
    (BitVec.extractLsb'_append_eq_of_le (xhi := x0 ++ x1 ++ x2) (xlo := x3) (start := 21) (len := 4) (by decide)).trans <|
    (BitVec.extractLsb'_append_eq_of_le (xhi := x0 ++ x1) (xlo := x2) (start := 14) (len := 4) (by decide)).trans <|
    (BitVec.extractLsb'_append_eq_of_le (xhi := x0) (xlo := x1) (start := 7) (len := 4) (by decide))

theorem Encoding.fld_1_25_5 (x0 : BitVec 7) (x1 : BitVec 4) (x2 : BitVec 7) (x3 : BitVec 7) (x4 : BitVec 7) :
    fld (x0 ++ x1 ++ x2 ++ x3 ++ x4) 25 5 = x0.extractLsb' 0 5 :=
  (BitVec.extractLsb'_append_eq_of_le (xhi := x0 ++ x1 ++ x2 ++ x3) (xlo := x4) (start := 25) (len := 5) (by decide)).trans <|
    (BitVec.extractLsb'_append_eq_of_le (xhi := x0 ++ x1 ++ x2) (xlo := x3) (start := 18) (len := 5) (by decide)).trans <|
    (BitVec.extractLsb'_append_eq_of_le (xhi := x0 ++ x1) (xlo := x2) (start := 11) (len := 5) (by decide)).trans <|
    (BitVec.extractLsb'_append_eq_of_le (xhi := x0) (xlo := x1) (start := 4) (len := 5) (by decide))

theorem Encoding.fld_1_21_4 (x0 : BitVec 7) (x1 : BitVec 4) (x2 : BitVec 7) (x3 : BitVec 7) (x4 : BitVec 7) :
    fld (x0 ++ x1 ++ x2 ++ x3 ++ x4) 21 4 = x1 :=
  (BitVec.extractLsb'_append_eq_of_le (xhi := x0 ++ x1 ++ x2 ++ x3) (xlo := x4) (start := 21) (len := 4) (by decide)).trans <|
    (BitVec.extractLsb'_append_eq_of_le (xhi := x0 ++ x1 ++ x2) (xlo := x3) (start := 14) (len := 4) (by decide)).trans <|
    (BitVec.extractLsb'_append_eq_of_le (xhi := x0 ++ x1) (xlo := x2) (start := 7) (len := 4) (by decide)).trans <|
    (BitVec.extractLsb'_append_eq_of_add_le (xhi := x0) (xlo := x1) (start := 0) (len := 4) (by decide)).trans <|
    (BitVec.extractLsb'_eq_self)

theorem Encoding.fld_1_14_7 (x0 : BitVec 7) (x1 : BitVec 4) (x2 : BitVec 7) (x3 : BitVec 7) (x4 : BitVec 7) :
    fld (x0 ++ x1 ++ x2 ++ x3 ++ x4) 14 7 = x2 :=
  (BitVec.extractLsb'_append_eq_of_le (xhi := x0 ++ x1 ++ x2 ++ x3) (xlo := x4) (start := 14) (len := 7) (by decide)).trans <|
    (BitVec.extractLsb'_append_eq_of_le (xhi := x0 ++ x1 ++ x2) (xlo := x3) (start := 7) (len := 7) (by decide)).trans <|
    (BitVec.extractLsb'_append_eq_of_add_le (xhi := x0 ++ x1) (xlo := x2) (start := 0) (len := 7) (by decide)).trans <|
    (BitVec.extractLsb'_eq_self)

theorem Encoding.fld_1_7_7 (x0 : BitVec 7) (x1 : BitVec 4) (x2 : BitVec 7) (x3 : BitVec 7) (x4 : BitVec 7) :
    fld (x0 ++ x1 ++ x2 ++ x3 ++ x4) 7 7 = x3 :=
  (BitVec.extractLsb'_append_eq_of_le (xhi := x0 ++ x1 ++ x2 ++ x3) (xlo := x4) (start := 7) (len := 7) (by decide)).trans <|
    (BitVec.extractLsb'_append_eq_of_add_le (xhi := x0 ++ x1 ++ x2) (xlo := x3) (start := 0) (len := 7) (by decide)).trans <|
    (BitVec.extractLsb'_eq_self)

theorem Encoding.fld_1_0_7 (x0 : BitVec 7) (x1 : BitVec 4) (x2 : BitVec 7) (x3 : BitVec 7) (x4 : BitVec 7) :
    fld (x0 ++ x1 ++ x2 ++ x3 ++ x4) 0 7 = x4 :=
  (BitVec.extractLsb'_append_eq_of_add_le (xhi := x0 ++ x1 ++ x2 ++ x3) (xlo := x4) (start := 0) (len := 7) (by decide)).trans <|
    (BitVec.extractLsb'_eq_self)

theorem Encoding.fld_2_28_4 (x0 : BitVec 14) (x1 : BitVec 4) (x2 : BitVec 7) (x3 : BitVec 7) :
    fld (x0 ++ x1 ++ x2 ++ x3) 28 4 = x0.extractLsb' 10 4 :=
  (BitVec.extractLsb'_append_eq_of_le (xhi := x0 ++ x1 ++ x2) (xlo := x3) (start := 28) (len := 4) (by decide)).trans <|
    (BitVec.extractLsb'_append_eq_of_le (xhi := x0 ++ x1) (xlo := x2) (start := 21) (len := 4) (by decide)).trans <|
    (BitVec.extractLsb'_append_eq_of_le (xhi := x0) (xlo := x1) (start := 14) (len := 4) (by decide))

theorem Encoding.fld_2_26_2 (x0 : BitVec 14) (x1 : BitVec 4) (x2 : BitVec 7) (x3 : BitVec 7) :
    fld (x0 ++ x1 ++ x2 ++ x3) 26 2 = x0.extractLsb' 8 2 :=
  (BitVec.extractLsb'_append_eq_of_le (xhi := x0 ++ x1 ++ x2) (xlo := x3) (start := 26) (len := 2) (by decide)).trans <|
    (BitVec.extractLsb'_append_eq_of_le (xhi := x0 ++ x1) (xlo := x2) (start := 19) (len := 2) (by decide)).trans <|
    (BitVec.extractLsb'_append_eq_of_le (xhi := x0) (xlo := x1) (start := 12) (len := 2) (by decide))

theorem Encoding.fld_2_18_10 (x0 : BitVec 14) (x1 : BitVec 4) (x2 : BitVec 7) (x3 : BitVec 7) :
    fld (x0 ++ x1 ++ x2 ++ x3) 18 10 = x0.extractLsb' 0 10 :=
  (BitVec.extractLsb'_append_eq_of_le (xhi := x0 ++ x1 ++ x2) (xlo := x3) (start := 18) (len := 10) (by decide)).trans <|
    (BitVec.extractLsb'_append_eq_of_le (xhi := x0 ++ x1) (xlo := x2) (start := 11) (len := 10) (by decide)).trans <|
    (BitVec.extractLsb'_append_eq_of_le (xhi := x0) (xlo := x1) (start := 4) (len := 10) (by decide))

theorem Encoding.fld_2_14_4 (x0 : BitVec 14) (x1 : BitVec 4) (x2 : BitVec 7) (x3 : BitVec 7) :
    fld (x0 ++ x1 ++ x2 ++ x3) 14 4 = x1 :=
  (BitVec.extractLsb'_append_eq_of_le (xhi := x0 ++ x1 ++ x2) (xlo := x3) (start := 14) (len := 4) (by decide)).trans <|
    (BitVec.extractLsb'_append_eq_of_le (xhi := x0 ++ x1) (xlo := x2) (start := 7) (len := 4) (by decide)).trans <|
    (BitVec.extractLsb'_append_eq_of_add_le (xhi := x0) (xlo := x1) (start := 0) (len := 4) (by decide)).trans <|
    (BitVec.extractLsb'_eq_self)

theorem Encoding.fld_2_7_7 (x0 : BitVec 14) (x1 : BitVec 4) (x2 : BitVec 7) (x3 : BitVec 7) :
    fld (x0 ++ x1 ++ x2 ++ x3) 7 7 = x2 :=
  (BitVec.extractLsb'_append_eq_of_le (xhi := x0 ++ x1 ++ x2) (xlo := x3) (start := 7) (len := 7) (by decide)).trans <|
    (BitVec.extractLsb'_append_eq_of_add_le (xhi := x0 ++ x1) (xlo := x2) (start := 0) (len := 7) (by decide)).trans <|
    (BitVec.extractLsb'_eq_self)

theorem Encoding.fld_2_0_7 (x0 : BitVec 14) (x1 : BitVec 4) (x2 : BitVec 7) (x3 : BitVec 7) :
    fld (x0 ++ x1 ++ x2 ++ x3) 0 7 = x3 :=
  (BitVec.extractLsb'_append_eq_of_add_le (xhi := x0 ++ x1 ++ x2) (xlo := x3) (start := 0) (len := 7) (by decide)).trans <|
    (BitVec.extractLsb'_eq_self)

theorem Encoding.fld_3_28_4 (x0 : BitVec 14) (x1 : BitVec 4) (x2 : BitVec 14) :
    fld (x0 ++ x1 ++ x2) 28 4 = x0.extractLsb' 10 4 :=
  (BitVec.extractLsb'_append_eq_of_le (xhi := x0 ++ x1) (xlo := x2) (start := 28) (len := 4) (by decide)).trans <|
    (BitVec.extractLsb'_append_eq_of_le (xhi := x0) (xlo := x1) (start := 14) (len := 4) (by decide))

theorem Encoding.fld_3_26_2 (x0 : BitVec 14) (x1 : BitVec 4) (x2 : BitVec 14) :
    fld (x0 ++ x1 ++ x2) 26 2 = x0.extractLsb' 8 2 :=
  (BitVec.extractLsb'_append_eq_of_le (xhi := x0 ++ x1) (xlo := x2) (start := 26) (len := 2) (by decide)).trans <|
    (BitVec.extractLsb'_append_eq_of_le (xhi := x0) (xlo := x1) (start := 12) (len := 2) (by decide))

theorem Encoding.fld_3_18_10 (x0 : BitVec 14) (x1 : BitVec 4) (x2 : BitVec 14) :
    fld (x0 ++ x1 ++ x2) 18 10 = x0.extractLsb' 0 10 :=
  (BitVec.extractLsb'_append_eq_of_le (xhi := x0 ++ x1) (xlo := x2) (start := 18) (len := 10) (by decide)).trans <|
    (BitVec.extractLsb'_append_eq_of_le (xhi := x0) (xlo := x1) (start := 4) (len := 10) (by decide))

theorem Encoding.fld_3_14_4 (x0 : BitVec 14) (x1 : BitVec 4) (x2 : BitVec 14) :
    fld (x0 ++ x1 ++ x2) 14 4 = x1 :=
  (BitVec.extractLsb'_append_eq_of_le (xhi := x0 ++ x1) (xlo := x2) (start := 14) (len := 4) (by decide)).trans <|
    (BitVec.extractLsb'_append_eq_of_add_le (xhi := x0) (xlo := x1) (start := 0) (len := 4) (by decide)).trans <|
    (BitVec.extractLsb'_eq_self)

theorem Encoding.fld_4_28_4 (x0 : BitVec 6) (x1 : BitVec 5) (x2 : BitVec 1) (x3 : BitVec 2) (x4 : BitVec 4) (x5 : BitVec 7) (x6 : BitVec 7) :
    fld (x0 ++ x1 ++ x2 ++ x3 ++ x4 ++ x5 ++ x6) 28 4 = x0.extractLsb' 2 4 :=
  (BitVec.extractLsb'_append_eq_of_le (xhi := x0 ++ x1 ++ x2 ++ x3 ++ x4 ++ x5) (xlo := x6) (start := 28) (len := 4) (by decide)).trans <|
    (BitVec.extractLsb'_append_eq_of_le (xhi := x0 ++ x1 ++ x2 ++ x3 ++ x4) (xlo := x5) (start := 21) (len := 4) (by decide)).trans <|
    (BitVec.extractLsb'_append_eq_of_le (xhi := x0 ++ x1 ++ x2 ++ x3) (xlo := x4) (start := 14) (len := 4) (by decide)).trans <|
    (BitVec.extractLsb'_append_eq_of_le (xhi := x0 ++ x1 ++ x2) (xlo := x3) (start := 10) (len := 4) (by decide)).trans <|
    (BitVec.extractLsb'_append_eq_of_le (xhi := x0 ++ x1) (xlo := x2) (start := 8) (len := 4) (by decide)).trans <|
    (BitVec.extractLsb'_append_eq_of_le (xhi := x0) (xlo := x1) (start := 7) (len := 4) (by decide))

theorem Encoding.fld_4_26_2 (x0 : BitVec 6) (x1 : BitVec 5) (x2 : BitVec 1) (x3 : BitVec 2) (x4 : BitVec 4) (x5 : BitVec 7) (x6 : BitVec 7) :
    fld (x0 ++ x1 ++ x2 ++ x3 ++ x4 ++ x5 ++ x6) 26 2 = x0.extractLsb' 0 2 :=
  (BitVec.extractLsb'_append_eq_of_le (xhi := x0 ++ x1 ++ x2 ++ x3 ++ x4 ++ x5) (xlo := x6) (start := 26) (len := 2) (by decide)).trans <|
    (BitVec.extractLsb'_append_eq_of_le (xhi := x0 ++ x1 ++ x2 ++ x3 ++ x4) (xlo := x5) (start := 19) (len := 2) (by decide)).trans <|
    (BitVec.extractLsb'_append_eq_of_le (xhi := x0 ++ x1 ++ x2 ++ x3) (xlo := x4) (start := 12) (len := 2) (by decide)).trans <|
    (BitVec.extractLsb'_append_eq_of_le (xhi := x0 ++ x1 ++ x2) (xlo := x3) (start := 8) (len := 2) (by decide)).trans <|
    (BitVec.extractLsb'_append_eq_of_le (xhi := x0 ++ x1) (xlo := x2) (start := 6) (len := 2) (by decide)).trans <|
    (BitVec.extractLsb'_append_eq_of_le (xhi := x0) (xlo := x1) (start := 5) (len := 2) (by decide))

theorem Encoding.fld_4_21_5 (x0 : BitVec 6) (x1 : BitVec 5) (x2 : BitVec 1) (x3 : BitVec 2) (x4 : BitVec 4) (x5 : BitVec 7) (x6 : BitVec 7) :
    fld (x0 ++ x1 ++ x2 ++ x3 ++ x4 ++ x5 ++ x6) 21 5 = x1 :=
  (BitVec.extractLsb'_append_eq_of_le (xhi := x0 ++ x1 ++ x2 ++ x3 ++ x4 ++ x5) (xlo := x6) (start := 21) (len := 5) (by decide)).trans <|
    (BitVec.extractLsb'_append_eq_of_le (xhi := x0 ++ x1 ++ x2 ++ x3 ++ x4) (xlo := x5) (start := 14) (len := 5) (by decide)).trans <|
    (BitVec.extractLsb'_append_eq_of_le (xhi := x0 ++ x1 ++ x2 ++ x3) (xlo := x4) (start := 7) (len := 5) (by decide)).trans <|
    (BitVec.extractLsb'_append_eq_of_le (xhi := x0 ++ x1 ++ x2) (xlo := x3) (start := 3) (len := 5) (by decide)).trans <|
    (BitVec.extractLsb'_append_eq_of_le (xhi := x0 ++ x1) (xlo := x2) (start := 1) (len := 5) (by decide)).trans <|
    (BitVec.extractLsb'_append_eq_of_add_le (xhi := x0) (xlo := x1) (start := 0) (len := 5) (by decide)).trans <|
    (BitVec.extractLsb'_eq_self)

theorem Encoding.fld_4_20_1 (x0 : BitVec 6) (x1 : BitVec 5) (x2 : BitVec 1) (x3 : BitVec 2) (x4 : BitVec 4) (x5 : BitVec 7) (x6 : BitVec 7) :
    fld (x0 ++ x1 ++ x2 ++ x3 ++ x4 ++ x5 ++ x6) 20 1 = x2 :=
  (BitVec.extractLsb'_append_eq_of_le (xhi := x0 ++ x1 ++ x2 ++ x3 ++ x4 ++ x5) (xlo := x6) (start := 20) (len := 1) (by decide)).trans <|
    (BitVec.extractLsb'_append_eq_of_le (xhi := x0 ++ x1 ++ x2 ++ x3 ++ x4) (xlo := x5) (start := 13) (len := 1) (by decide)).trans <|
    (BitVec.extractLsb'_append_eq_of_le (xhi := x0 ++ x1 ++ x2 ++ x3) (xlo := x4) (start := 6) (len := 1) (by decide)).trans <|
    (BitVec.extractLsb'_append_eq_of_le (xhi := x0 ++ x1 ++ x2) (xlo := x3) (start := 2) (len := 1) (by decide)).trans <|
    (BitVec.extractLsb'_append_eq_of_add_le (xhi := x0 ++ x1) (xlo := x2) (start := 0) (len := 1) (by decide)).trans <|
    (BitVec.extractLsb'_eq_self)

theorem Encoding.fld_4_18_2 (x0 : BitVec 6) (x1 : BitVec 5) (x2 : BitVec 1) (x3 : BitVec 2) (x4 : BitVec 4) (x5 : BitVec 7) (x6 : BitVec 7) :
    fld (x0 ++ x1 ++ x2 ++ x3 ++ x4 ++ x5 ++ x6) 18 2 = x3 :=
  (BitVec.extractLsb'_append_eq_of_le (xhi := x0 ++ x1 ++ x2 ++ x3 ++ x4 ++ x5) (xlo := x6) (start := 18) (len := 2) (by decide)).trans <|
    (BitVec.extractLsb'_append_eq_of_le (xhi := x0 ++ x1 ++ x2 ++ x3 ++ x4) (xlo := x5) (start := 11) (len := 2) (by decide)).trans <|
    (BitVec.extractLsb'_append_eq_of_le (xhi := x0 ++ x1 ++ x2 ++ x3) (xlo := x4) (start := 4) (len := 2) (by decide)).trans <|
    (BitVec.extractLsb'_append_eq_of_add_le (xhi := x0 ++ x1 ++ x2) (xlo := x3) (start := 0) (len := 2) (by decide)).trans <|
    (BitVec.extractLsb'_eq_self)

theorem Encoding.fld_4_14_4 (x0 : BitVec 6) (x1 : BitVec 5) (x2 : BitVec 1) (x3 : BitVec 2) (x4 : BitVec 4) (x5 : BitVec 7) (x6 : BitVec 7) :
    fld (x0 ++ x1 ++ x2 ++ x3 ++ x4 ++ x5 ++ x6) 14 4 = x4 :=
  (BitVec.extractLsb'_append_eq_of_le (xhi := x0 ++ x1 ++ x2 ++ x3 ++ x4 ++ x5) (xlo := x6) (start := 14) (len := 4) (by decide)).trans <|
    (BitVec.extractLsb'_append_eq_of_le (xhi := x0 ++ x1 ++ x2 ++ x3 ++ x4) (xlo := x5) (start := 7) (len := 4) (by decide)).trans <|
    (BitVec.extractLsb'_append_eq_of_add_le (xhi := x0 ++ x1 ++ x2 ++ x3) (xlo := x4) (start := 0) (len := 4) (by decide)).trans <|
    (BitVec.extractLsb'_eq_self)

theorem Encoding.fld_4_7_7 (x0 : BitVec 6) (x1 : BitVec 5) (x2 : BitVec 1) (x3 : BitVec 2) (x4 : BitVec 4) (x5 : BitVec 7) (x6 : BitVec 7) :
    fld (x0 ++ x1 ++ x2 ++ x3 ++ x4 ++ x5 ++ x6) 7 7 = x5 :=
  (BitVec.extractLsb'_append_eq_of_le (xhi := x0 ++ x1 ++ x2 ++ x3 ++ x4 ++ x5) (xlo := x6) (start := 7) (len := 7) (by decide)).trans <|
    (BitVec.extractLsb'_append_eq_of_add_le (xhi := x0 ++ x1 ++ x2 ++ x3 ++ x4) (xlo := x5) (start := 0) (len := 7) (by decide)).trans <|
    (BitVec.extractLsb'_eq_self)

theorem Encoding.fld_4_0_7 (x0 : BitVec 6) (x1 : BitVec 5) (x2 : BitVec 1) (x3 : BitVec 2) (x4 : BitVec 4) (x5 : BitVec 7) (x6 : BitVec 7) :
    fld (x0 ++ x1 ++ x2 ++ x3 ++ x4 ++ x5 ++ x6) 0 7 = x6 :=
  (BitVec.extractLsb'_append_eq_of_add_le (xhi := x0 ++ x1 ++ x2 ++ x3 ++ x4 ++ x5) (xlo := x6) (start := 0) (len := 7) (by decide)).trans <|
    (BitVec.extractLsb'_eq_self)

theorem Encoding.fld_5_28_4 (x0 : BitVec 9) (x1 : BitVec 3) (x2 : BitVec 2) (x3 : BitVec 4) (x4 : BitVec 7) (x5 : BitVec 7) :
    fld (x0 ++ x1 ++ x2 ++ x3 ++ x4 ++ x5) 28 4 = x0.extractLsb' 5 4 :=
  (BitVec.extractLsb'_append_eq_of_le (xhi := x0 ++ x1 ++ x2 ++ x3 ++ x4) (xlo := x5) (start := 28) (len := 4) (by decide)).trans <|
    (BitVec.extractLsb'_append_eq_of_le (xhi := x0 ++ x1 ++ x2 ++ x3) (xlo := x4) (start := 21) (len := 4) (by decide)).trans <|
    (BitVec.extractLsb'_append_eq_of_le (xhi := x0 ++ x1 ++ x2) (xlo := x3) (start := 14) (len := 4) (by decide)).trans <|
    (BitVec.extractLsb'_append_eq_of_le (xhi := x0 ++ x1) (xlo := x2) (start := 10) (len := 4) (by decide)).trans <|
    (BitVec.extractLsb'_append_eq_of_le (xhi := x0) (xlo := x1) (start := 8) (len := 4) (by decide))

theorem Encoding.fld_5_26_2 (x0 : BitVec 9) (x1 : BitVec 3) (x2 : BitVec 2) (x3 : BitVec 4) (x4 : BitVec 7) (x5 : BitVec 7) :
    fld (x0 ++ x1 ++ x2 ++ x3 ++ x4 ++ x5) 26 2 = x0.extractLsb' 3 2 :=
  (BitVec.extractLsb'_append_eq_of_le (xhi := x0 ++ x1 ++ x2 ++ x3 ++ x4) (xlo := x5) (start := 26) (len := 2) (by decide)).trans <|
    (BitVec.extractLsb'_append_eq_of_le (xhi := x0 ++ x1 ++ x2 ++ x3) (xlo := x4) (start := 19) (len := 2) (by decide)).trans <|
    (BitVec.extractLsb'_append_eq_of_le (xhi := x0 ++ x1 ++ x2) (xlo := x3) (start := 12) (len := 2) (by decide)).trans <|
    (BitVec.extractLsb'_append_eq_of_le (xhi := x0 ++ x1) (xlo := x2) (start := 8) (len := 2) (by decide)).trans <|
    (BitVec.extractLsb'_append_eq_of_le (xhi := x0) (xlo := x1) (start := 6) (len := 2) (by decide))

theorem Encoding.fld_5_23_4 (x0 : BitVec 9) (x1 : BitVec 3) (x2 : BitVec 2) (x3 : BitVec 4) (x4 : BitVec 7) (x5 : BitVec 7) :
    fld (x0 ++ x1 ++ x2 ++ x3 ++ x4 ++ x5) 23 4 = x0.extractLsb' 0 4 :=
  (BitVec.extractLsb'_append_eq_of_le (xhi := x0 ++ x1 ++ x2 ++ x3 ++ x4) (xlo := x5) (start := 23) (len := 4) (by decide)).trans <|
    (BitVec.extractLsb'_append_eq_of_le (xhi := x0 ++ x1 ++ x2 ++ x3) (xlo := x4) (start := 16) (len := 4) (by decide)).trans <|
    (BitVec.extractLsb'_append_eq_of_le (xhi := x0 ++ x1 ++ x2) (xlo := x3) (start := 9) (len := 4) (by decide)).trans <|
    (BitVec.extractLsb'_append_eq_of_le (xhi := x0 ++ x1) (xlo := x2) (start := 5) (len := 4) (by decide)).trans <|
    (BitVec.extractLsb'_append_eq_of_le (xhi := x0) (xlo := x1) (start := 3) (len := 4) (by decide))

theorem Encoding.fld_5_20_3 (x0 : BitVec 9) (x1 : BitVec 3) (x2 : BitVec 2) (x3 : BitVec 4) (x4 : BitVec 7) (x5 : BitVec 7) :
    fld (x0 ++ x1 ++ x2 ++ x3 ++ x4 ++ x5) 20 3 = x1 :=
  (BitVec.extractLsb'_append_eq_of_le (xhi := x0 ++ x1 ++ x2 ++ x3 ++ x4) (xlo := x5) (start := 20) (len := 3) (by decide)).trans <|
    (BitVec.extractLsb'_append_eq_of_le (xhi := x0 ++ x1 ++ x2 ++ x3) (xlo := x4) (start := 13) (len := 3) (by decide)).trans <|
    (BitVec.extractLsb'_append_eq_of_le (xhi := x0 ++ x1 ++ x2) (xlo := x3) (start := 6) (len := 3) (by decide)).trans <|
    (BitVec.extractLsb'_append_eq_of_le (xhi := x0 ++ x1) (xlo := x2) (start := 2) (len := 3) (by decide)).trans <|
    (BitVec.extractLsb'_append_eq_of_add_le (xhi := x0) (xlo := x1) (start := 0) (len := 3) (by decide)).trans <|
    (BitVec.extractLsb'_eq_self)

theorem Encoding.fld_5_18_2 (x0 : BitVec 9) (x1 : BitVec 3) (x2 : BitVec 2) (x3 : BitVec 4) (x4 : BitVec 7) (x5 : BitVec 7) :
    fld (x0 ++ x1 ++ x2 ++ x3 ++ x4 ++ x5) 18 2 = x2 :=
  (BitVec.extractLsb'_append_eq_of_le (xhi := x0 ++ x1 ++ x2 ++ x3 ++ x4) (xlo := x5) (start := 18) (len := 2) (by decide)).trans <|
    (BitVec.extractLsb'_append_eq_of_le (xhi := x0 ++ x1 ++ x2 ++ x3) (xlo := x4) (start := 11) (len := 2) (by decide)).trans <|
    (BitVec.extractLsb'_append_eq_of_le (xhi := x0 ++ x1 ++ x2) (xlo := x3) (start := 4) (len := 2) (by decide)).trans <|
    (BitVec.extractLsb'_append_eq_of_add_le (xhi := x0 ++ x1) (xlo := x2) (start := 0) (len := 2) (by decide)).trans <|
    (BitVec.extractLsb'_eq_self)

theorem Encoding.fld_5_14_4 (x0 : BitVec 9) (x1 : BitVec 3) (x2 : BitVec 2) (x3 : BitVec 4) (x4 : BitVec 7) (x5 : BitVec 7) :
    fld (x0 ++ x1 ++ x2 ++ x3 ++ x4 ++ x5) 14 4 = x3 :=
  (BitVec.extractLsb'_append_eq_of_le (xhi := x0 ++ x1 ++ x2 ++ x3 ++ x4) (xlo := x5) (start := 14) (len := 4) (by decide)).trans <|
    (BitVec.extractLsb'_append_eq_of_le (xhi := x0 ++ x1 ++ x2 ++ x3) (xlo := x4) (start := 7) (len := 4) (by decide)).trans <|
    (BitVec.extractLsb'_append_eq_of_add_le (xhi := x0 ++ x1 ++ x2) (xlo := x3) (start := 0) (len := 4) (by decide)).trans <|
    (BitVec.extractLsb'_eq_self)

theorem Encoding.fld_5_7_7 (x0 : BitVec 9) (x1 : BitVec 3) (x2 : BitVec 2) (x3 : BitVec 4) (x4 : BitVec 7) (x5 : BitVec 7) :
    fld (x0 ++ x1 ++ x2 ++ x3 ++ x4 ++ x5) 7 7 = x4 :=
  (BitVec.extractLsb'_append_eq_of_le (xhi := x0 ++ x1 ++ x2 ++ x3 ++ x4) (xlo := x5) (start := 7) (len := 7) (by decide)).trans <|
    (BitVec.extractLsb'_append_eq_of_add_le (xhi := x0 ++ x1 ++ x2 ++ x3) (xlo := x4) (start := 0) (len := 7) (by decide)).trans <|
    (BitVec.extractLsb'_eq_self)

theorem Encoding.fld_5_0_7 (x0 : BitVec 9) (x1 : BitVec 3) (x2 : BitVec 2) (x3 : BitVec 4) (x4 : BitVec 7) (x5 : BitVec 7) :
    fld (x0 ++ x1 ++ x2 ++ x3 ++ x4 ++ x5) 0 7 = x5 :=
  (BitVec.extractLsb'_append_eq_of_add_le (xhi := x0 ++ x1 ++ x2 ++ x3 ++ x4) (xlo := x5) (start := 0) (len := 7) (by decide)).trans <|
    (BitVec.extractLsb'_eq_self)

theorem Encoding.fld_6_28_4 (x0 : BitVec 7) (x1 : BitVec 2) (x2 : BitVec 3) (x3 : BitVec 3) (x4 : BitVec 3) (x5 : BitVec 7) (x6 : BitVec 7) :
    fld (x0 ++ x1 ++ x2 ++ x3 ++ x4 ++ x5 ++ x6) 28 4 = x0.extractLsb' 3 4 :=
  (BitVec.extractLsb'_append_eq_of_le (xhi := x0 ++ x1 ++ x2 ++ x3 ++ x4 ++ x5) (xlo := x6) (start := 28) (len := 4) (by decide)).trans <|
    (BitVec.extractLsb'_append_eq_of_le (xhi := x0 ++ x1 ++ x2 ++ x3 ++ x4) (xlo := x5) (start := 21) (len := 4) (by decide)).trans <|
    (BitVec.extractLsb'_append_eq_of_le (xhi := x0 ++ x1 ++ x2 ++ x3) (xlo := x4) (start := 14) (len := 4) (by decide)).trans <|
    (BitVec.extractLsb'_append_eq_of_le (xhi := x0 ++ x1 ++ x2) (xlo := x3) (start := 11) (len := 4) (by decide)).trans <|
    (BitVec.extractLsb'_append_eq_of_le (xhi := x0 ++ x1) (xlo := x2) (start := 8) (len := 4) (by decide)).trans <|
    (BitVec.extractLsb'_append_eq_of_le (xhi := x0) (xlo := x1) (start := 5) (len := 4) (by decide))

theorem Encoding.fld_6_25_3 (x0 : BitVec 7) (x1 : BitVec 2) (x2 : BitVec 3) (x3 : BitVec 3) (x4 : BitVec 3) (x5 : BitVec 7) (x6 : BitVec 7) :
    fld (x0 ++ x1 ++ x2 ++ x3 ++ x4 ++ x5 ++ x6) 25 3 = x0.extractLsb' 0 3 :=
  (BitVec.extractLsb'_append_eq_of_le (xhi := x0 ++ x1 ++ x2 ++ x3 ++ x4 ++ x5) (xlo := x6) (start := 25) (len := 3) (by decide)).trans <|
    (BitVec.extractLsb'_append_eq_of_le (xhi := x0 ++ x1 ++ x2 ++ x3 ++ x4) (xlo := x5) (start := 18) (len := 3) (by decide)).trans <|
    (BitVec.extractLsb'_append_eq_of_le (xhi := x0 ++ x1 ++ x2 ++ x3) (xlo := x4) (start := 11) (len := 3) (by decide)).trans <|
    (BitVec.extractLsb'_append_eq_of_le (xhi := x0 ++ x1 ++ x2) (xlo := x3) (start := 8) (len := 3) (by decide)).trans <|
    (BitVec.extractLsb'_append_eq_of_le (xhi := x0 ++ x1) (xlo := x2) (start := 5) (len := 3) (by decide)).trans <|
    (BitVec.extractLsb'_append_eq_of_le (xhi := x0) (xlo := x1) (start := 2) (len := 3) (by decide))

theorem Encoding.fld_6_23_2 (x0 : BitVec 7) (x1 : BitVec 2) (x2 : BitVec 3) (x3 : BitVec 3) (x4 : BitVec 3) (x5 : BitVec 7) (x6 : BitVec 7) :
    fld (x0 ++ x1 ++ x2 ++ x3 ++ x4 ++ x5 ++ x6) 23 2 = x1 :=
  (BitVec.extractLsb'_append_eq_of_le (xhi := x0 ++ x1 ++ x2 ++ x3 ++ x4 ++ x5) (xlo := x6) (start := 23) (len := 2) (by decide)).trans <|
    (BitVec.extractLsb'_append_eq_of_le (xhi := x0 ++ x1 ++ x2 ++ x3 ++ x4) (xlo := x5) (start := 16) (len := 2) (by decide)).trans <|
    (BitVec.extractLsb'_append_eq_of_le (xhi := x0 ++ x1 ++ x2 ++ x3) (xlo := x4) (start := 9) (len := 2) (by decide)).trans <|
    (BitVec.extractLsb'_append_eq_of_le (xhi := x0 ++ x1 ++ x2) (xlo := x3) (start := 6) (len := 2) (by decide)).trans <|
    (BitVec.extractLsb'_append_eq_of_le (xhi := x0 ++ x1) (xlo := x2) (start := 3) (len := 2) (by decide)).trans <|
    (BitVec.extractLsb'_append_eq_of_add_le (xhi := x0) (xlo := x1) (start := 0) (len := 2) (by decide)).trans <|
    (BitVec.extractLsb'_eq_self)

theorem Encoding.fld_6_20_3 (x0 : BitVec 7) (x1 : BitVec 2) (x2 : BitVec 3) (x3 : BitVec 3) (x4 : BitVec 3) (x5 : BitVec 7) (x6 : BitVec 7) :
    fld (x0 ++ x1 ++ x2 ++ x3 ++ x4 ++ x5 ++ x6) 20 3 = x2 :=
  (BitVec.extractLsb'_append_eq_of_le (xhi := x0 ++ x1 ++ x2 ++ x3 ++ x4 ++ x5) (xlo := x6) (start := 20) (len := 3) (by decide)).trans <|
    (BitVec.extractLsb'_append_eq_of_le (xhi := x0 ++ x1 ++ x2 ++ x3 ++ x4) (xlo := x5) (start := 13) (len := 3) (by decide)).trans <|
    (BitVec.extractLsb'_append_eq_of_le (xhi := x0 ++ x1 ++ x2 ++ x3) (xlo := x4) (start := 6) (len := 3) (by decide)).trans <|
    (BitVec.extractLsb'_append_eq_of_le (xhi := x0 ++ x1 ++ x2) (xlo := x3) (start := 3) (len := 3) (by decide)).trans <|
    (BitVec.extractLsb'_append_eq_of_add_le (xhi := x0 ++ x1) (xlo := x2) (start := 0) (len := 3) (by decide)).trans <|
    (BitVec.extractLsb'_eq_self)

theorem Encoding.fld_6_17_3 (x0 : BitVec 7) (x1 : BitVec 2) (x2 : BitVec 3) (x3 : BitVec 3) (x4 : BitVec 3) (x5 : BitVec 7) (x6 : BitVec 7) :
    fld (x0 ++ x1 ++ x2 ++ x3 ++ x4 ++ x5 ++ x6) 17 3 = x3 :=
  (BitVec.extractLsb'_append_eq_of_le (xhi := x0 ++ x1 ++ x2 ++ x3 ++ x4 ++ x5) (xlo := x6) (start := 17) (len := 3) (by decide)).trans <|
    (BitVec.extractLsb'_append_eq_of_le (xhi := x0 ++ x1 ++ x2 ++ x3 ++ x4) (xlo := x5) (start := 10) (len := 3) (by decide)).trans <|
    (BitVec.extractLsb'_append_eq_of_le (xhi := x0 ++ x1 ++ x2 ++ x3) (xlo := x4) (start := 3) (len := 3) (by decide)).trans <|
    (BitVec.extractLsb'_append_eq_of_add_le (xhi := x0 ++ x1 ++ x2) (xlo := x3) (start := 0) (len := 3) (by decide)).trans <|
    (BitVec.extractLsb'_eq_self)

theorem Encoding.fld_6_14_3 (x0 : BitVec 7) (x1 : BitVec 2) (x2 : BitVec 3) (x3 : BitVec 3) (x4 : BitVec 3) (x5 : BitVec 7) (x6 : BitVec 7) :
    fld (x0 ++ x1 ++ x2 ++ x3 ++ x4 ++ x5 ++ x6) 14 3 = x4 :=
  (BitVec.extractLsb'_append_eq_of_le (xhi := x0 ++ x1 ++ x2 ++ x3 ++ x4 ++ x5) (xlo := x6) (start := 14) (len := 3) (by decide)).trans <|
    (BitVec.extractLsb'_append_eq_of_le (xhi := x0 ++ x1 ++ x2 ++ x3 ++ x4) (xlo := x5) (start := 7) (len := 3) (by decide)).trans <|
    (BitVec.extractLsb'_append_eq_of_add_le (xhi := x0 ++ x1 ++ x2 ++ x3) (xlo := x4) (start := 0) (len := 3) (by decide)).trans <|
    (BitVec.extractLsb'_eq_self)

theorem Encoding.fld_6_7_7 (x0 : BitVec 7) (x1 : BitVec 2) (x2 : BitVec 3) (x3 : BitVec 3) (x4 : BitVec 3) (x5 : BitVec 7) (x6 : BitVec 7) :
    fld (x0 ++ x1 ++ x2 ++ x3 ++ x4 ++ x5 ++ x6) 7 7 = x5 :=
  (BitVec.extractLsb'_append_eq_of_le (xhi := x0 ++ x1 ++ x2 ++ x3 ++ x4 ++ x5) (xlo := x6) (start := 7) (len := 7) (by decide)).trans <|
    (BitVec.extractLsb'_append_eq_of_add_le (xhi := x0 ++ x1 ++ x2 ++ x3 ++ x4) (xlo := x5) (start := 0) (len := 7) (by decide)).trans <|
    (BitVec.extractLsb'_eq_self)

theorem Encoding.fld_6_0_7 (x0 : BitVec 7) (x1 : BitVec 2) (x2 : BitVec 3) (x3 : BitVec 3) (x4 : BitVec 3) (x5 : BitVec 7) (x6 : BitVec 7) :
    fld (x0 ++ x1 ++ x2 ++ x3 ++ x4 ++ x5 ++ x6) 0 7 = x6 :=
  (BitVec.extractLsb'_append_eq_of_add_le (xhi := x0 ++ x1 ++ x2 ++ x3 ++ x4 ++ x5) (xlo := x6) (start := 0) (len := 7) (by decide)).trans <|
    (BitVec.extractLsb'_eq_self)

theorem Encoding.fld_7_28_4 (x0 : BitVec 7) (x1 : BitVec 4) (x2 : BitVec 7) (x3 : BitVec 14) :
    fld (x0 ++ x1 ++ x2 ++ x3) 28 4 = x0.extractLsb' 3 4 :=
  (BitVec.extractLsb'_append_eq_of_le (xhi := x0 ++ x1 ++ x2) (xlo := x3) (start := 28) (len := 4) (by decide)).trans <|
    (BitVec.extractLsb'_append_eq_of_le (xhi := x0 ++ x1) (xlo := x2) (start := 14) (len := 4) (by decide)).trans <|
    (BitVec.extractLsb'_append_eq_of_le (xhi := x0) (xlo := x1) (start := 7) (len := 4) (by decide))

theorem Encoding.fld_7_25_3 (x0 : BitVec 7) (x1 : BitVec 4) (x2 : BitVec 7) (x3 : BitVec 14) :
    fld (x0 ++ x1 ++ x2 ++ x3) 25 3 = x0.extractLsb' 0 3 :=
  (BitVec.extractLsb'_append_eq_of_le (xhi := x0 ++ x1 ++ x2) (xlo := x3) (start := 25) (len := 3) (by decide)).trans <|
    (BitVec.extractLsb'_append_eq_of_le (xhi := x0 ++ x1) (xlo := x2) (start := 11) (len := 3) (by decide)).trans <|
    (BitVec.extractLsb'_append_eq_of_le (xhi := x0) (xlo := x1) (start := 4) (len := 3) (by decide))

theorem Encoding.fld_7_21_4 (x0 : BitVec 7) (x1 : BitVec 4) (x2 : BitVec 7) (x3 : BitVec 14) :
    fld (x0 ++ x1 ++ x2 ++ x3) 21 4 = x1 :=
  (BitVec.extractLsb'_append_eq_of_le (xhi := x0 ++ x1 ++ x2) (xlo := x3) (start := 21) (len := 4) (by decide)).trans <|
    (BitVec.extractLsb'_append_eq_of_le (xhi := x0 ++ x1) (xlo := x2) (start := 7) (len := 4) (by decide)).trans <|
    (BitVec.extractLsb'_append_eq_of_add_le (xhi := x0) (xlo := x1) (start := 0) (len := 4) (by decide)).trans <|
    (BitVec.extractLsb'_eq_self)

theorem Encoding.fld_7_14_7 (x0 : BitVec 7) (x1 : BitVec 4) (x2 : BitVec 7) (x3 : BitVec 14) :
    fld (x0 ++ x1 ++ x2 ++ x3) 14 7 = x2 :=
  (BitVec.extractLsb'_append_eq_of_le (xhi := x0 ++ x1 ++ x2) (xlo := x3) (start := 14) (len := 7) (by decide)).trans <|
    (BitVec.extractLsb'_append_eq_of_add_le (xhi := x0 ++ x1) (xlo := x2) (start := 0) (len := 7) (by decide)).trans <|
    (BitVec.extractLsb'_eq_self)

theorem Encoding.fld_7_0_14 (x0 : BitVec 7) (x1 : BitVec 4) (x2 : BitVec 7) (x3 : BitVec 14) :
    fld (x0 ++ x1 ++ x2 ++ x3) 0 14 = x3 :=
  (BitVec.extractLsb'_append_eq_of_add_le (xhi := x0 ++ x1 ++ x2) (xlo := x3) (start := 0) (len := 14) (by decide)).trans <|
    (BitVec.extractLsb'_eq_self)

theorem Encoding.fld_8_28_4 (x0 : BitVec 8) (x1 : BitVec 3) (x2 : BitVec 6) (x3 : BitVec 7) (x4 : BitVec 8) :
    fld (x0 ++ x1 ++ x2 ++ x3 ++ x4) 28 4 = x0.extractLsb' 4 4 :=
  (BitVec.extractLsb'_append_eq_of_le (xhi := x0 ++ x1 ++ x2 ++ x3) (xlo := x4) (start := 28) (len := 4) (by decide)).trans <|
    (BitVec.extractLsb'_append_eq_of_le (xhi := x0 ++ x1 ++ x2) (xlo := x3) (start := 20) (len := 4) (by decide)).trans <|
    (BitVec.extractLsb'_append_eq_of_le (xhi := x0 ++ x1) (xlo := x2) (start := 13) (len := 4) (by decide)).trans <|
    (BitVec.extractLsb'_append_eq_of_le (xhi := x0) (xlo := x1) (start := 7) (len := 4) (by decide))

theorem Encoding.fld_8_24_4 (x0 : BitVec 8) (x1 : BitVec 3) (x2 : BitVec 6) (x3 : BitVec 7) (x4 : BitVec 8) :
    fld (x0 ++ x1 ++ x2 ++ x3 ++ x4) 24 4 = x0.extractLsb' 0 4 :=
  (BitVec.extractLsb'_append_eq_of_le (xhi := x0 ++ x1 ++ x2 ++ x3) (xlo := x4) (start := 24) (len := 4) (by decide)).trans <|
    (BitVec.extractLsb'_append_eq_of_le (xhi := x0 ++ x1 ++ x2) (xlo := x3) (start := 16) (len := 4) (by decide)).trans <|
    (BitVec.extractLsb'_append_eq_of_le (xhi := x0 ++ x1) (xlo := x2) (start := 9) (len := 4) (by decide)).trans <|
    (BitVec.extractLsb'_append_eq_of_le (xhi := x0) (xlo := x1) (start := 3) (len := 4) (by decide))

theorem Encoding.fld_8_0_1 (x0 : BitVec 8) (x1 : BitVec 3) (x2 : BitVec 6) (x3 : BitVec 7) (x4 : BitVec 8) :
    fld (x0 ++ x1 ++ x2 ++ x3 ++ x4) 0 1 = x4.extractLsb' 0 1 :=
  (BitVec.extractLsb'_append_eq_of_add_le (xhi := x0 ++ x1 ++ x2 ++ x3) (xlo := x4) (start := 0) (len := 1) (by decide))

theorem Encoding.fld_8_21_3 (x0 : BitVec 8) (x1 : BitVec 3) (x2 : BitVec 6) (x3 : BitVec 7) (x4 : BitVec 8) :
    fld (x0 ++ x1 ++ x2 ++ x3 ++ x4) 21 3 = x1 :=
  (BitVec.extractLsb'_append_eq_of_le (xhi := x0 ++ x1 ++ x2 ++ x3) (xlo := x4) (start := 21) (len := 3) (by decide)).trans <|
    (BitVec.extractLsb'_append_eq_of_le (xhi := x0 ++ x1 ++ x2) (xlo := x3) (start := 13) (len := 3) (by decide)).trans <|
    (BitVec.extractLsb'_append_eq_of_le (xhi := x0 ++ x1) (xlo := x2) (start := 6) (len := 3) (by decide)).trans <|
    (BitVec.extractLsb'_append_eq_of_add_le (xhi := x0) (xlo := x1) (start := 0) (len := 3) (by decide)).trans <|
    (BitVec.extractLsb'_eq_self)

theorem Encoding.fld_8_15_6 (x0 : BitVec 8) (x1 : BitVec 3) (x2 : BitVec 6) (x3 : BitVec 7) (x4 : BitVec 8) :
    fld (x0 ++ x1 ++ x2 ++ x3 ++ x4) 15 6 = x2 :=
  (BitVec.extractLsb'_append_eq_of_le (xhi := x0 ++ x1 ++ x2 ++ x3) (xlo := x4) (start := 15) (len := 6) (by decide)).trans <|
    (BitVec.extractLsb'_append_eq_of_le (xhi := x0 ++ x1 ++ x2) (xlo := x3) (start := 7) (len := 6) (by decide)).trans <|
    (BitVec.extractLsb'_append_eq_of_add_le (xhi := x0 ++ x1) (xlo := x2) (start := 0) (len := 6) (by decide)).trans <|
    (BitVec.extractLsb'_eq_self)

theorem Encoding.fld_8_8_7 (x0 : BitVec 8) (x1 : BitVec 3) (x2 : BitVec 6) (x3 : BitVec 7) (x4 : BitVec 8) :
    fld (x0 ++ x1 ++ x2 ++ x3 ++ x4) 8 7 = x3 :=
  (BitVec.extractLsb'_append_eq_of_le (xhi := x0 ++ x1 ++ x2 ++ x3) (xlo := x4) (start := 8) (len := 7) (by decide)).trans <|
    (BitVec.extractLsb'_append_eq_of_add_le (xhi := x0 ++ x1 ++ x2) (xlo := x3) (start := 0) (len := 7) (by decide)).trans <|
    (BitVec.extractLsb'_eq_self)

theorem Encoding.fld_9_28_4 (x0 : BitVec 8) (x1 : BitVec 3) (x2 : BitVec 6) (x3 : BitVec 7) (x4 : BitVec 7) (x5 : BitVec 1) :
    fld (x0 ++ x1 ++ x2 ++ x3 ++ x4 ++ x5) 28 4 = x0.extractLsb' 4 4 :=
  (BitVec.extractLsb'_append_eq_of_le (xhi := x0 ++ x1 ++ x2 ++ x3 ++ x4) (xlo := x5) (start := 28) (len := 4) (by decide)).trans <|
    (BitVec.extractLsb'_append_eq_of_le (xhi := x0 ++ x1 ++ x2 ++ x3) (xlo := x4) (start := 27) (len := 4) (by decide)).trans <|
    (BitVec.extractLsb'_append_eq_of_le (xhi := x0 ++ x1 ++ x2) (xlo := x3) (start := 20) (len := 4) (by decide)).trans <|
    (BitVec.extractLsb'_append_eq_of_le (xhi := x0 ++ x1) (xlo := x2) (start := 13) (len := 4) (by decide)).trans <|
    (BitVec.extractLsb'_append_eq_of_le (xhi := x0) (xlo := x1) (start := 7) (len := 4) (by decide))

theorem Encoding.fld_9_24_4 (x0 : BitVec 8) (x1 : BitVec 3) (x2 : BitVec 6) (x3 : BitVec 7) (x4 : BitVec 7) (x5 : BitVec 1) :
    fld (x0 ++ x1 ++ x2 ++ x3 ++ x4 ++ x5) 24 4 = x0.extractLsb' 0 4 :=
  (BitVec.extractLsb'_append_eq_of_le (xhi := x0 ++ x1 ++ x2 ++ x3 ++ x4) (xlo := x5) (start := 24) (len := 4) (by decide)).trans <|
    (BitVec.extractLsb'_append_eq_of_le (xhi := x0 ++ x1 ++ x2 ++ x3) (xlo := x4) (start := 23) (len := 4) (by decide)).trans <|
    (BitVec.extractLsb'_append_eq_of_le (xhi := x0 ++ x1 ++ x2) (xlo := x3) (start := 16) (len := 4) (by decide)).trans <|
    (BitVec.extractLsb'_append_eq_of_le (xhi := x0 ++ x1) (xlo := x2) (start := 9) (len := 4) (by decide)).trans <|
    (BitVec.extractLsb'_append_eq_of_le (xhi := x0) (xlo := x1) (start := 3) (len := 4) (by decide))

theorem Encoding.fld_9_21_3 (x0 : BitVec 8) (x1 : BitVec 3) (x2 : BitVec 6) (x3 : BitVec 7) (x4 : BitVec 7) (x5 : BitVec 1) :
    fld (x0 ++ x1 ++ x2 ++ x3 ++ x4 ++ x5) 21 3 = x1 :=
  (BitVec.extractLsb'_append_eq_of_le (xhi := x0 ++ x1 ++ x2 ++ x3 ++ x4) (xlo := x5) (start := 21) (len := 3) (by decide)).trans <|
    (BitVec.extractLsb'_append_eq_of_le (xhi := x0 ++ x1 ++ x2 ++ x3) (xlo := x4) (start := 20) (len := 3) (by decide)).trans <|
    (BitVec.extractLsb'_append_eq_of_le (xhi := x0 ++ x1 ++ x2) (xlo := x3) (start := 13) (len := 3) (by decide)).trans <|
    (BitVec.extractLsb'_append_eq_of_le (xhi := x0 ++ x1) (xlo := x2) (start := 6) (len := 3) (by decide)).trans <|
    (BitVec.extractLsb'_append_eq_of_add_le (xhi := x0) (xlo := x1) (start := 0) (len := 3) (by decide)).trans <|
    (BitVec.extractLsb'_eq_self)

theorem Encoding.fld_9_15_6 (x0 : BitVec 8) (x1 : BitVec 3) (x2 : BitVec 6) (x3 : BitVec 7) (x4 : BitVec 7) (x5 : BitVec 1) :
    fld (x0 ++ x1 ++ x2 ++ x3 ++ x4 ++ x5) 15 6 = x2 :=
  (BitVec.extractLsb'_append_eq_of_le (xhi := x0 ++ x1 ++ x2 ++ x3 ++ x4) (xlo := x5) (start := 15) (len := 6) (by decide)).trans <|
    (BitVec.extractLsb'_append_eq_of_le (xhi := x0 ++ x1 ++ x2 ++ x3) (xlo := x4) (start := 14) (len := 6) (by decide)).trans <|
    (BitVec.extractLsb'_append_eq_of_le (xhi := x0 ++ x1 ++ x2) (xlo := x3) (start := 7) (len := 6) (by decide)).trans <|
    (BitVec.extractLsb'_append_eq_of_add_le (xhi := x0 ++ x1) (xlo := x2) (start := 0) (len := 6) (by decide)).trans <|
    (BitVec.extractLsb'_eq_self)

theorem Encoding.fld_9_8_7 (x0 : BitVec 8) (x1 : BitVec 3) (x2 : BitVec 6) (x3 : BitVec 7) (x4 : BitVec 7) (x5 : BitVec 1) :
    fld (x0 ++ x1 ++ x2 ++ x3 ++ x4 ++ x5) 8 7 = x3 :=
  (BitVec.extractLsb'_append_eq_of_le (xhi := x0 ++ x1 ++ x2 ++ x3 ++ x4) (xlo := x5) (start := 8) (len := 7) (by decide)).trans <|
    (BitVec.extractLsb'_append_eq_of_le (xhi := x0 ++ x1 ++ x2 ++ x3) (xlo := x4) (start := 7) (len := 7) (by decide)).trans <|
    (BitVec.extractLsb'_append_eq_of_add_le (xhi := x0 ++ x1 ++ x2) (xlo := x3) (start := 0) (len := 7) (by decide)).trans <|
    (BitVec.extractLsb'_eq_self)

theorem Encoding.fld_9_0_1 (x0 : BitVec 8) (x1 : BitVec 3) (x2 : BitVec 6) (x3 : BitVec 7) (x4 : BitVec 7) (x5 : BitVec 1) :
    fld (x0 ++ x1 ++ x2 ++ x3 ++ x4 ++ x5) 0 1 = x5 :=
  (BitVec.extractLsb'_append_eq_of_add_le (xhi := x0 ++ x1 ++ x2 ++ x3 ++ x4) (xlo := x5) (start := 0) (len := 1) (by decide)).trans <|
    (BitVec.extractLsb'_eq_self)

theorem Encoding.fld_10_28_4 (x0 : BitVec 11) (x1 : BitVec 6) (x2 : BitVec 7) (x3 : BitVec 7) (x4 : BitVec 1) :
    fld (x0 ++ x1 ++ x2 ++ x3 ++ x4) 28 4 = x0.extractLsb' 7 4 :=
  (BitVec.extractLsb'_append_eq_of_le (xhi := x0 ++ x1 ++ x2 ++ x3) (xlo := x4) (start := 28) (len := 4) (by decide)).trans <|
    (BitVec.extractLsb'_append_eq_of_le (xhi := x0 ++ x1 ++ x2) (xlo := x3) (start := 27) (len := 4) (by decide)).trans <|
    (BitVec.extractLsb'_append_eq_of_le (xhi := x0 ++ x1) (xlo := x2) (start := 20) (len := 4) (by decide)).trans <|
    (BitVec.extractLsb'_append_eq_of_le (xhi := x0) (xlo := x1) (start := 13) (len := 4) (by decide))

theorem Encoding.fld_10_24_4 (x0 : BitVec 11) (x1 : BitVec 6) (x2 : BitVec 7) (x3 : BitVec 7) (x4 : BitVec 1) :
    fld (x0 ++ x1 ++ x2 ++ x3 ++ x4) 24 4 = x0.extractLsb' 3 4 :=
  (BitVec.extractLsb'_append_eq_of_le (xhi := x0 ++ x1 ++ x2 ++ x3) (xlo := x4) (start := 24) (len := 4) (by decide)).trans <|
    (BitVec.extractLsb'_append_eq_of_le (xhi := x0 ++ x1 ++ x2) (xlo := x3) (start := 23) (len := 4) (by decide)).trans <|
    (BitVec.extractLsb'_append_eq_of_le (xhi := x0 ++ x1) (xlo := x2) (start := 16) (len := 4) (by decide)).trans <|
    (BitVec.extractLsb'_append_eq_of_le (xhi := x0) (xlo := x1) (start := 9) (len := 4) (by decide))

theorem Encoding.fld_10_15_6 (x0 : BitVec 11) (x1 : BitVec 6) (x2 : BitVec 7) (x3 : BitVec 7) (x4 : BitVec 1) :
    fld (x0 ++ x1 ++ x2 ++ x3 ++ x4) 15 6 = x1 :=
  (BitVec.extractLsb'_append_eq_of_le (xhi := x0 ++ x1 ++ x2 ++ x3) (xlo := x4) (start := 15) (len := 6) (by decide)).trans <|
    (BitVec.extractLsb'_append_eq_of_le (xhi := x0 ++ x1 ++ x2) (xlo := x3) (start := 14) (len := 6) (by decide)).trans <|
    (BitVec.extractLsb'_append_eq_of_le (xhi := x0 ++ x1) (xlo := x2) (start := 7) (len := 6) (by decide)).trans <|
    (BitVec.extractLsb'_append_eq_of_add_le (xhi := x0) (xlo := x1) (start := 0) (len := 6) (by decide)).trans <|
    (BitVec.extractLsb'_eq_self)

theorem Encoding.fld_10_8_7 (x0 : BitVec 11) (x1 : BitVec 6) (x2 : BitVec 7) (x3 : BitVec 7) (x4 : BitVec 1) :
    fld (x0 ++ x1 ++ x2 ++ x3 ++ x4) 8 7 = x2 :=
  (BitVec.extractLsb'_append_eq_of_le (xhi := x0 ++ x1 ++ x2 ++ x3) (xlo := x4) (start := 8) (len := 7) (by decide)).trans <|
    (BitVec.extractLsb'_append_eq_of_le (xhi := x0 ++ x1 ++ x2) (xlo := x3) (start := 7) (len := 7) (by decide)).trans <|
    (BitVec.extractLsb'_append_eq_of_add_le (xhi := x0 ++ x1) (xlo := x2) (start := 0) (len := 7) (by decide)).trans <|
    (BitVec.extractLsb'_eq_self)

theorem Encoding.fld_10_1_7 (x0 : BitVec 11) (x1 : BitVec 6) (x2 : BitVec 7) (x3 : BitVec 7) (x4 : BitVec 1) :
    fld (x0 ++ x1 ++ x2 ++ x3 ++ x4) 1 7 = x3 :=
  (BitVec.extractLsb'_append_eq_of_le (xhi := x0 ++ x1 ++ x2 ++ x3) (xlo := x4) (start := 1) (len := 7) (by decide)).trans <|
    (BitVec.extractLsb'_append_eq_of_add_le (xhi := x0 ++ x1 ++ x2) (xlo := x3) (start := 0) (len := 7) (by decide)).trans <|
    (BitVec.extractLsb'_eq_self)

theorem Encoding.fld_10_0_1 (x0 : BitVec 11) (x1 : BitVec 6) (x2 : BitVec 7) (x3 : BitVec 7) (x4 : BitVec 1) :
    fld (x0 ++ x1 ++ x2 ++ x3 ++ x4) 0 1 = x4 :=
  (BitVec.extractLsb'_append_eq_of_add_le (xhi := x0 ++ x1 ++ x2 ++ x3) (xlo := x4) (start := 0) (len := 1) (by decide)).trans <|
    (BitVec.extractLsb'_eq_self)

theorem Encoding.fld_11_28_4 (x0 : BitVec 9) (x1 : BitVec 3) (x2 : BitVec 5) (x3 : BitVec 5) (x4 : BitVec 5) (x5 : BitVec 5) :
    fld (x0 ++ x1 ++ x2 ++ x3 ++ x4 ++ x5) 28 4 = x0.extractLsb' 5 4 :=
  (BitVec.extractLsb'_append_eq_of_le (xhi := x0 ++ x1 ++ x2 ++ x3 ++ x4) (xlo := x5) (start := 28) (len := 4) (by decide)).trans <|
    (BitVec.extractLsb'_append_eq_of_le (xhi := x0 ++ x1 ++ x2 ++ x3) (xlo := x4) (start := 23) (len := 4) (by decide)).trans <|
    (BitVec.extractLsb'_append_eq_of_le (xhi := x0 ++ x1 ++ x2) (xlo := x3) (start := 18) (len := 4) (by decide)).trans <|
    (BitVec.extractLsb'_append_eq_of_le (xhi := x0 ++ x1) (xlo := x2) (start := 13) (len := 4) (by decide)).trans <|
    (BitVec.extractLsb'_append_eq_of_le (xhi := x0) (xlo := x1) (start := 8) (len := 4) (by decide))

theorem Encoding.fld_11_23_6 (x0 : BitVec 9) (x1 : BitVec 3) (x2 : BitVec 5) (x3 : BitVec 5) (x4 : BitVec 5) (x5 : BitVec 5) :
    fld (x0 ++ x1 ++ x2 ++ x3 ++ x4 ++ x5) 23 6 = x0.extractLsb' 0 6 :=
  (BitVec.extractLsb'_append_eq_of_le (xhi := x0 ++ x1 ++ x2 ++ x3 ++ x4) (xlo := x5) (start := 23) (len := 6) (by decide)).trans <|
    (BitVec.extractLsb'_append_eq_of_le (xhi := x0 ++ x1 ++ x2 ++ x3) (xlo := x4) (start := 18) (len := 6) (by decide)).trans <|
    (BitVec.extractLsb'_append_eq_of_le (xhi := x0 ++ x1 ++ x2) (xlo := x3) (start := 13) (len := 6) (by decide)).trans <|
    (BitVec.extractLsb'_append_eq_of_le (xhi := x0 ++ x1) (xlo := x2) (start := 8) (len := 6) (by decide)).trans <|
    (BitVec.extractLsb'_append_eq_of_le (xhi := x0) (xlo := x1) (start := 3) (len := 6) (by decide))

theorem Encoding.fld_11_20_3 (x0 : BitVec 9) (x1 : BitVec 3) (x2 : BitVec 5) (x3 : BitVec 5) (x4 : BitVec 5) (x5 : BitVec 5) :
    fld (x0 ++ x1 ++ x2 ++ x3 ++ x4 ++ x5) 20 3 = x1 :=
  (BitVec.extractLsb'_append_eq_of_le (xhi := x0 ++ x1 ++ x2 ++ x3 ++ x4) (xlo := x5) (start := 20) (len := 3) (by decide)).trans <|
    (BitVec.extractLsb'_append_eq_of_le (xhi := x0 ++ x1 ++ x2 ++ x3) (xlo := x4) (start := 15) (len := 3) (by decide)).trans <|
    (BitVec.extractLsb'_append_eq_of_le (xhi := x0 ++ x1 ++ x2) (xlo := x3) (start := 10) (len := 3) (by decide)).trans <|
    (BitVec.extractLsb'_append_eq_of_le (xhi := x0 ++ x1) (xlo := x2) (start := 5) (len := 3) (by decide)).trans <|
    (BitVec.extractLsb'_append_eq_of_add_le (xhi := x0) (xlo := x1) (start := 0) (len := 3) (by decide)).trans <|
    (BitVec.extractLsb'_eq_self)

theorem Encoding.fld_11_15_5 (x0 : BitVec 9) (x1 : BitVec 3) (x2 : BitVec 5) (x3 : BitVec 5) (x4 : BitVec 5) (x5 : BitVec 5) :
    fld (x0 ++ x1 ++ x2 ++ x3 ++ x4 ++ x5) 15 5 = x2 :=
  (BitVec.extractLsb'_append_eq_of_le (xhi := x0 ++ x1 ++ x2 ++ x3 ++ x4) (xlo := x5) (start := 15) (len := 5) (by decide)).trans <|
    (BitVec.extractLsb'_append_eq_of_le (xhi := x0 ++ x1 ++ x2 ++ x3) (xlo := x4) (start := 10) (len := 5) (by decide)).trans <|
    (BitVec.extractLsb'_append_eq_of_le (xhi := x0 ++ x1 ++ x2) (xlo := x3) (start := 5) (len := 5) (by decide)).trans <|
    (BitVec.extractLsb'_append_eq_of_add_le (xhi := x0 ++ x1) (xlo := x2) (start := 0) (len := 5) (by decide)).trans <|
    (BitVec.extractLsb'_eq_self)

theorem Encoding.fld_11_10_5 (x0 : BitVec 9) (x1 : BitVec 3) (x2 : BitVec 5) (x3 : BitVec 5) (x4 : BitVec 5) (x5 : BitVec 5) :
    fld (x0 ++ x1 ++ x2 ++ x3 ++ x4 ++ x5) 10 5 = x3 :=
  (BitVec.extractLsb'_append_eq_of_le (xhi := x0 ++ x1 ++ x2 ++ x3 ++ x4) (xlo := x5) (start := 10) (len := 5) (by decide)).trans <|
    (BitVec.extractLsb'_append_eq_of_le (xhi := x0 ++ x1 ++ x2 ++ x3) (xlo := x4) (start := 5) (len := 5) (by decide)).trans <|
    (BitVec.extractLsb'_append_eq_of_add_le (xhi := x0 ++ x1 ++ x2) (xlo := x3) (start := 0) (len := 5) (by decide)).trans <|
    (BitVec.extractLsb'_eq_self)

theorem Encoding.fld_11_5_5 (x0 : BitVec 9) (x1 : BitVec 3) (x2 : BitVec 5) (x3 : BitVec 5) (x4 : BitVec 5) (x5 : BitVec 5) :
    fld (x0 ++ x1 ++ x2 ++ x3 ++ x4 ++ x5) 5 5 = x4 :=
  (BitVec.extractLsb'_append_eq_of_le (xhi := x0 ++ x1 ++ x2 ++ x3 ++ x4) (xlo := x5) (start := 5) (len := 5) (by decide)).trans <|
    (BitVec.extractLsb'_append_eq_of_add_le (xhi := x0 ++ x1 ++ x2 ++ x3) (xlo := x4) (start := 0) (len := 5) (by decide)).trans <|
    (BitVec.extractLsb'_eq_self)

theorem Encoding.fld_12_28_4 (x0 : BitVec 9) (x1 : BitVec 3) (x2 : BitVec 5) (x3 : BitVec 5) (x4 : BitVec 5) (x5 : BitVec 2) (x6 : BitVec 2) (x7 : BitVec 1) :
    fld (x0 ++ x1 ++ x2 ++ x3 ++ x4 ++ x5 ++ x6 ++ x7) 28 4 = x0.extractLsb' 5 4 :=
  (BitVec.extractLsb'_append_eq_of_le (xhi := x0 ++ x1 ++ x2 ++ x3 ++ x4 ++ x5 ++ x6) (xlo := x7) (start := 28) (len := 4) (by decide)).trans <|
    (BitVec.extractLsb'_append_eq_of_le (xhi := x0 ++ x1 ++ x2 ++ x3 ++ x4 ++ x5) (xlo := x6) (start := 27) (len := 4) (by decide)).trans <|
    (BitVec.extractLsb'_append_eq_of_le (xhi := x0 ++ x1 ++ x2 ++ x3 ++ x4) (xlo := x5) (start := 25) (len := 4) (by decide)).trans <|
    (BitVec.extractLsb'_append_eq_of_le (xhi := x0 ++ x1 ++ x2 ++ x3) (xlo := x4) (start := 23) (len := 4) (by decide)).trans <|
    (BitVec.extractLsb'_append_eq_of_le (xhi := x0 ++ x1 ++ x2) (xlo := x3) (start := 18) (len := 4) (by decide)).trans <|
    (BitVec.extractLsb'_append_eq_of_le (xhi := x0 ++ x1) (xlo := x2) (start := 13) (len := 4) (by decide)).trans <|
    (BitVec.extractLsb'_append_eq_of_le (xhi := x0) (xlo := x1) (start := 8) (len := 4) (by decide))

theorem Encoding.fld_12_23_6 (x0 : BitVec 9) (x1 : BitVec 3) (x2 : BitVec 5) (x3 : BitVec 5) (x4 : BitVec 5) (x5 : BitVec 2) (x6 : BitVec 2) (x7 : BitVec 1) :
    fld (x0 ++ x1 ++ x2 ++ x3 ++ x4 ++ x5 ++ x6 ++ x7) 23 6 = x0.extractLsb' 0 6 :=
  (BitVec.extractLsb'_append_eq_of_le (xhi := x0 ++ x1 ++ x2 ++ x3 ++ x4 ++ x5 ++ x6) (xlo := x7) (start := 23) (len := 6) (by decide)).trans <|
    (BitVec.extractLsb'_append_eq_of_le (xhi := x0 ++ x1 ++ x2 ++ x3 ++ x4 ++ x5) (xlo := x6) (start := 22) (len := 6) (by decide)).trans <|
    (BitVec.extractLsb'_append_eq_of_le (xhi := x0 ++ x1 ++ x2 ++ x3 ++ x4) (xlo := x5) (start := 20) (len := 6) (by decide)).trans <|
    (BitVec.extractLsb'_append_eq_of_le (xhi := x0 ++ x1 ++ x2 ++ x3) (xlo := x4) (start := 18) (len := 6) (by decide)).trans <|
    (BitVec.extractLsb'_append_eq_of_le (xhi := x0 ++ x1 ++ x2) (xlo := x3) (start := 13) (len := 6) (by decide)).trans <|
    (BitVec.extractLsb'_append_eq_of_le (xhi := x0 ++ x1) (xlo := x2) (start := 8) (len := 6) (by decide)).trans <|
    (BitVec.extractLsb'_append_eq_of_le (xhi := x0) (xlo := x1) (start := 3) (len := 6) (by decide))

theorem Encoding.fld_12_20_3 (x0 : BitVec 9) (x1 : BitVec 3) (x2 : BitVec 5) (x3 : BitVec 5) (x4 : BitVec 5) (x5 : BitVec 2) (x6 : BitVec 2) (x7 : BitVec 1) :
    fld (x0 ++ x1 ++ x2 ++ x3 ++ x4 ++ x5 ++ x6 ++ x7) 20 3 = x1 :=
  (BitVec.extractLsb'_append_eq_of_le (xhi := x0 ++ x1 ++ x2 ++ x3 ++ x4 ++ x5 ++ x6) (xlo := x7) (start := 20) (len := 3) (by decide)).trans <|
    (BitVec.extractLsb'_append_eq_of_le (xhi := x0 ++ x1 ++ x2 ++ x3 ++ x4 ++ x5) (xlo := x6) (start := 19) (len := 3) (by decide)).trans <|
    (BitVec.extractLsb'_append_eq_of_le (xhi := x0 ++ x1 ++ x2 ++ x3 ++ x4) (xlo := x5) (start := 17) (len := 3) (by decide)).trans <|
    (BitVec.extractLsb'_append_eq_of_le (xhi := x0 ++ x1 ++ x2 ++ x3) (xlo := x4) (start := 15) (len := 3) (by decide)).trans <|
    (BitVec.extractLsb'_append_eq_of_le (xhi := x0 ++ x1 ++ x2) (xlo := x3) (start := 10) (len := 3) (by decide)).trans <|
    (BitVec.extractLsb'_append_eq_of_le (xhi := x0 ++ x1) (xlo := x2) (start := 5) (len := 3) (by decide)).trans <|
    (BitVec.extractLsb'_append_eq_of_add_le (xhi := x0) (xlo := x1) (start := 0) (len := 3) (by decide)).trans <|
    (BitVec.extractLsb'_eq_self)

theorem Encoding.fld_12_15_5 (x0 : BitVec 9) (x1 : BitVec 3) (x2 : BitVec 5) (x3 : BitVec 5) (x4 : BitVec 5) (x5 : BitVec 2) (x6 : BitVec 2) (x7 : BitVec 1) :
    fld (x0 ++ x1 ++ x2 ++ x3 ++ x4 ++ x5 ++ x6 ++ x7) 15 5 = x2 :=
  (BitVec.extractLsb'_append_eq_of_le (xhi := x0 ++ x1 ++ x2 ++ x3 ++ x4 ++ x5 ++ x6) (xlo := x7) (start := 15) (len := 5) (by decide)).trans <|
    (BitVec.extractLsb'_append_eq_of_le (xhi := x0 ++ x1 ++ x2 ++ x3 ++ x4 ++ x5) (xlo := x6) (start := 14) (len := 5) (by decide)).trans <|
    (BitVec.extractLsb'_append_eq_of_le (xhi := x0 ++ x1 ++ x2 ++ x3 ++ x4) (xlo := x5) (start := 12) (len := 5) (by decide)).trans <|
    (BitVec.extractLsb'_append_eq_of_le (xhi := x0 ++ x1 ++ x2 ++ x3) (xlo := x4) (start := 10) (len := 5) (by decide)).trans <|
    (BitVec.extractLsb'_append_eq_of_le (xhi := x0 ++ x1 ++ x2) (xlo := x3) (start := 5) (len := 5) (by decide)).trans <|
    (BitVec.extractLsb'_append_eq_of_add_le (xhi := x0 ++ x1) (xlo := x2) (start := 0) (len := 5) (by decide)).trans <|
    (BitVec.extractLsb'_eq_self)

theorem Encoding.fld_12_10_5 (x0 : BitVec 9) (x1 : BitVec 3) (x2 : BitVec 5) (x3 : BitVec 5) (x4 : BitVec 5) (x5 : BitVec 2) (x6 : BitVec 2) (x7 : BitVec 1) :
    fld (x0 ++ x1 ++ x2 ++ x3 ++ x4 ++ x5 ++ x6 ++ x7) 10 5 = x3 :=
  (BitVec.extractLsb'_append_eq_of_le (xhi := x0 ++ x1 ++ x2 ++ x3 ++ x4 ++ x5 ++ x6) (xlo := x7) (start := 10) (len := 5) (by decide)).trans <|
    (BitVec.extractLsb'_append_eq_of_le (xhi := x0 ++ x1 ++ x2 ++ x3 ++ x4 ++ x5) (xlo := x6) (start := 9) (len := 5) (by decide)).trans <|
    (BitVec.extractLsb'_append_eq_of_le (xhi := x0 ++ x1 ++ x2 ++ x3 ++ x4) (xlo := x5) (start := 7) (len := 5) (by decide)).trans <|
    (BitVec.extractLsb'_append_eq_of_le (xhi := x0 ++ x1 ++ x2 ++ x3) (xlo := x4) (start := 5) (len := 5) (by decide)).trans <|
    (BitVec.extractLsb'_append_eq_of_add_le (xhi := x0 ++ x1 ++ x2) (xlo := x3) (start := 0) (len := 5) (by decide)).trans <|
    (BitVec.extractLsb'_eq_self)

theorem Encoding.fld_12_5_5 (x0 : BitVec 9) (x1 : BitVec 3) (x2 : BitVec 5) (x3 : BitVec 5) (x4 : BitVec 5) (x5 : BitVec 2) (x6 : BitVec 2) (x7 : BitVec 1) :
    fld (x0 ++ x1 ++ x2 ++ x3 ++ x4 ++ x5 ++ x6 ++ x7) 5 5 = x4 :=
  (BitVec.extractLsb'_append_eq_of_le (xhi := x0 ++ x1 ++ x2 ++ x3 ++ x4 ++ x5 ++ x6) (xlo := x7) (start := 5) (len := 5) (by decide)).trans <|
    (BitVec.extractLsb'_append_eq_of_le (xhi := x0 ++ x1 ++ x2 ++ x3 ++ x4 ++ x5) (xlo := x6) (start := 4) (len := 5) (by decide)).trans <|
    (BitVec.extractLsb'_append_eq_of_le (xhi := x0 ++ x1 ++ x2 ++ x3 ++ x4) (xlo := x5) (start := 2) (len := 5) (by decide)).trans <|
    (BitVec.extractLsb'_append_eq_of_add_le (xhi := x0 ++ x1 ++ x2 ++ x3) (xlo := x4) (start := 0) (len := 5) (by decide)).trans <|
    (BitVec.extractLsb'_eq_self)

theorem Encoding.fld_12_1_2 (x0 : BitVec 9) (x1 : BitVec 3) (x2 : BitVec 5) (x3 : BitVec 5) (x4 : BitVec 5) (x5 : BitVec 2) (x6 : BitVec 2) (x7 : BitVec 1) :
    fld (x0 ++ x1 ++ x2 ++ x3 ++ x4 ++ x5 ++ x6 ++ x7) 1 2 = x6 :=
  (BitVec.extractLsb'_append_eq_of_le (xhi := x0 ++ x1 ++ x2 ++ x3 ++ x4 ++ x5 ++ x6) (xlo := x7) (start := 1) (len := 2) (by decide)).trans <|
    (BitVec.extractLsb'_append_eq_of_add_le (xhi := x0 ++ x1 ++ x2 ++ x3 ++ x4 ++ x5) (xlo := x6) (start := 0) (len := 2) (by decide)).trans <|
    (BitVec.extractLsb'_eq_self)

theorem Encoding.fld_12_0_1 (x0 : BitVec 9) (x1 : BitVec 3) (x2 : BitVec 5) (x3 : BitVec 5) (x4 : BitVec 5) (x5 : BitVec 2) (x6 : BitVec 2) (x7 : BitVec 1) :
    fld (x0 ++ x1 ++ x2 ++ x3 ++ x4 ++ x5 ++ x6 ++ x7) 0 1 = x7 :=
  (BitVec.extractLsb'_append_eq_of_add_le (xhi := x0 ++ x1 ++ x2 ++ x3 ++ x4 ++ x5 ++ x6) (xlo := x7) (start := 0) (len := 1) (by decide)).trans <|
    (BitVec.extractLsb'_eq_self)

theorem Encoding.fld_13_28_4 (x0 : BitVec 9) (x1 : BitVec 3) (x2 : BitVec 1) (x3 : BitVec 2) (x4 : BitVec 2) (x5 : BitVec 5) (x6 : BitVec 5) (x7 : BitVec 3) (x8 : BitVec 2) :
    fld (x0 ++ x1 ++ x2 ++ x3 ++ x4 ++ x5 ++ x6 ++ x7 ++ x8) 28 4 = x0.extractLsb' 5 4 :=
  (BitVec.extractLsb'_append_eq_of_le (xhi := x0 ++ x1 ++ x2 ++ x3 ++ x4 ++ x5 ++ x6 ++ x7) (xlo := x8) (start := 28) (len := 4) (by decide)).trans <|
    (BitVec.extractLsb'_append_eq_of_le (xhi := x0 ++ x1 ++ x2 ++ x3 ++ x4 ++ x5 ++ x6) (xlo := x7) (start := 26) (len := 4) (by decide)).trans <|
    (BitVec.extractLsb'_append_eq_of_le (xhi := x0 ++ x1 ++ x2 ++ x3 ++ x4 ++ x5) (xlo := x6) (start := 23) (len := 4) (by decide)).trans <|
    (BitVec.extractLsb'_append_eq_of_le (xhi := x0 ++ x1 ++ x2 ++ x3 ++ x4) (xlo := x5) (start := 18) (len := 4) (by decide)).trans <|
    (BitVec.extractLsb'_append_eq_of_le (xhi := x0 ++ x1 ++ x2 ++ x3) (xlo := x4) (start := 13) (len := 4) (by decide)).trans <|
    (BitVec.extractLsb'_append_eq_of_le (xhi := x0 ++ x1 ++ x2) (xlo := x3) (start := 11) (len := 4) (by decide)).trans <|
    (BitVec.extractLsb'_append_eq_of_le (xhi := x0 ++ x1) (xlo := x2) (start := 9) (len := 4) (by decide)).trans <|
    (BitVec.extractLsb'_append_eq_of_le (xhi := x0) (xlo := x1) (start := 8) (len := 4) (by decide))

theorem Encoding.fld_13_23_6 (x0 : BitVec 9) (x1 : BitVec 3) (x2 : BitVec 1) (x3 : BitVec 2) (x4 : BitVec 2) (x5 : BitVec 5) (x6 : BitVec 5) (x7 : BitVec 3) (x8 : BitVec 2) :
    fld (x0 ++ x1 ++ x2 ++ x3 ++ x4 ++ x5 ++ x6 ++ x7 ++ x8) 23 6 = x0.extractLsb' 0 6 :=
  (BitVec.extractLsb'_append_eq_of_le (xhi := x0 ++ x1 ++ x2 ++ x3 ++ x4 ++ x5 ++ x6 ++ x7) (xlo := x8) (start := 23) (len := 6) (by decide)).trans <|
    (BitVec.extractLsb'_append_eq_of_le (xhi := x0 ++ x1 ++ x2 ++ x3 ++ x4 ++ x5 ++ x6) (xlo := x7) (start := 21) (len := 6) (by decide)).trans <|
    (BitVec.extractLsb'_append_eq_of_le (xhi := x0 ++ x1 ++ x2 ++ x3 ++ x4 ++ x5) (xlo := x6) (start := 18) (len := 6) (by decide)).trans <|
    (BitVec.extractLsb'_append_eq_of_le (xhi := x0 ++ x1 ++ x2 ++ x3 ++ x4) (xlo := x5) (start := 13) (len := 6) (by decide)).trans <|
    (BitVec.extractLsb'_append_eq_of_le (xhi := x0 ++ x1 ++ x2 ++ x3) (xlo := x4) (start := 8) (len := 6) (by decide)).trans <|
    (BitVec.extractLsb'_append_eq_of_le (xhi := x0 ++ x1 ++ x2) (xlo := x3) (start := 6) (len := 6) (by decide)).trans <|
    (BitVec.extractLsb'_append_eq_of_le (xhi := x0 ++ x1) (xlo := x2) (start := 4) (len := 6) (by decide)).trans <|
    (BitVec.extractLsb'_append_eq_of_le (xhi := x0) (xlo := x1) (start := 3) (len := 6) (by decide))

theorem Encoding.fld_13_20_3 (x0 : BitVec 9) (x1 : BitVec 3) (x2 : BitVec 1) (x3 : BitVec 2) (x4 : BitVec 2) (x5 : BitVec 5) (x6 : BitVec 5) (x7 : BitVec 3) (x8 : BitVec 2) :
    fld (x0 ++ x1 ++ x2 ++ x3 ++ x4 ++ x5 ++ x6 ++ x7 ++ x8) 20 3 = x1 :=
  (BitVec.extractLsb'_append_eq_of_le (xhi := x0 ++ x1 ++ x2 ++ x3 ++ x4 ++ x5 ++ x6 ++ x7) (xlo := x8) (start := 20) (len := 3) (by decide)).trans <|
    (BitVec.extractLsb'_append_eq_of_le (xhi := x0 ++ x1 ++ x2 ++ x3 ++ x4 ++ x5 ++ x6) (xlo := x7) (start := 18) (len := 3) (by decide)).trans <|
    (BitVec.extractLsb'_append_eq_of_le (xhi := x0 ++ x1 ++ x2 ++ x3 ++ x4 ++ x5) (xlo := x6) (start := 15) (len := 3) (by decide)).trans <|
    (BitVec.extractLsb'_append_eq_of_le (xhi := x0 ++ x1 ++ x2 ++ x3 ++ x4) (xlo := x5) (start := 10) (len := 3) (by decide)).trans <|
    (BitVec.extractLsb'_append_eq_of_le (xhi := x0 ++ x1 ++ x2 ++ x3) (xlo := x4) (start := 5) (len := 3) (by decide)).trans <|
    (BitVec.extractLsb'_append_eq_of_le (xhi := x0 ++ x1 ++ x2) (xlo := x3) (start := 3) (len := 3) (by decide)).trans <|
    (BitVec.extractLsb'_append_eq_of_le (xhi := x0 ++ x1) (xlo := x2) (start := 1) (len := 3) (by decide)).trans <|
    (BitVec.extractLsb'_append_eq_of_add_le (xhi := x0) (xlo := x1) (start := 0) (len := 3) (by decide)).trans <|
    (BitVec.extractLsb'_eq_self)

theorem Encoding.fld_13_17_2 (x0 : BitVec 9) (x1 : BitVec 3) (x2 : BitVec 1) (x3 : BitVec 2) (x4 : BitVec 2) (x5 : BitVec 5) (x6 : BitVec 5) (x7 : BitVec 3) (x8 : BitVec 2) :
    fld (x0 ++ x1 ++ x2 ++ x3 ++ x4 ++ x5 ++ x6 ++ x7 ++ x8) 17 2 = x3 :=
  (BitVec.extractLsb'_append_eq_of_le (xhi := x0 ++ x1 ++ x2 ++ x3 ++ x4 ++ x5 ++ x6 ++ x7) (xlo := x8) (start := 17) (len := 2) (by decide)).trans <|
    (BitVec.extractLsb'_append_eq_of_le (xhi := x0 ++ x1 ++ x2 ++ x3 ++ x4 ++ x5 ++ x6) (xlo := x7) (start := 15) (len := 2) (by decide)).trans <|
    (BitVec.extractLsb'_append_eq_of_le (xhi := x0 ++ x1 ++ x2 ++ x3 ++ x4 ++ x5) (xlo := x6) (start := 12) (len := 2) (by decide)).trans <|
    (BitVec.extractLsb'_append_eq_of_le (xhi := x0 ++ x1 ++ x2 ++ x3 ++ x4) (xlo := x5) (start := 7) (len := 2) (by decide)).trans <|
    (BitVec.extractLsb'_append_eq_of_le (xhi := x0 ++ x1 ++ x2 ++ x3) (xlo := x4) (start := 2) (len := 2) (by decide)).trans <|
    (BitVec.extractLsb'_append_eq_of_add_le (xhi := x0 ++ x1 ++ x2) (xlo := x3) (start := 0) (len := 2) (by decide)).trans <|
    (BitVec.extractLsb'_eq_self)

theorem Encoding.fld_13_15_2 (x0 : BitVec 9) (x1 : BitVec 3) (x2 : BitVec 1) (x3 : BitVec 2) (x4 : BitVec 2) (x5 : BitVec 5) (x6 : BitVec 5) (x7 : BitVec 3) (x8 : BitVec 2) :
    fld (x0 ++ x1 ++ x2 ++ x3 ++ x4 ++ x5 ++ x6 ++ x7 ++ x8) 15 2 = x4 :=
  (BitVec.extractLsb'_append_eq_of_le (xhi := x0 ++ x1 ++ x2 ++ x3 ++ x4 ++ x5 ++ x6 ++ x7) (xlo := x8) (start := 15) (len := 2) (by decide)).trans <|
    (BitVec.extractLsb'_append_eq_of_le (xhi := x0 ++ x1 ++ x2 ++ x3 ++ x4 ++ x5 ++ x6) (xlo := x7) (start := 13) (len := 2) (by decide)).trans <|
    (BitVec.extractLsb'_append_eq_of_le (xhi := x0 ++ x1 ++ x2 ++ x3 ++ x4 ++ x5) (xlo := x6) (start := 10) (len := 2) (by decide)).trans <|
    (BitVec.extractLsb'_append_eq_of_le (xhi := x0 ++ x1 ++ x2 ++ x3 ++ x4) (xlo := x5) (start := 5) (len := 2) (by decide)).trans <|
    (BitVec.extractLsb'_append_eq_of_add_le (xhi := x0 ++ x1 ++ x2 ++ x3) (xlo := x4) (start := 0) (len := 2) (by decide)).trans <|
    (BitVec.extractLsb'_eq_self)

theorem Encoding.fld_13_10_5 (x0 : BitVec 9) (x1 : BitVec 3) (x2 : BitVec 1) (x3 : BitVec 2) (x4 : BitVec 2) (x5 : BitVec 5) (x6 : BitVec 5) (x7 : BitVec 3) (x8 : BitVec 2) :
    fld (x0 ++ x1 ++ x2 ++ x3 ++ x4 ++ x5 ++ x6 ++ x7 ++ x8) 10 5 = x5 :=
  (BitVec.extractLsb'_append_eq_of_le (xhi := x0 ++ x1 ++ x2 ++ x3 ++ x4 ++ x5 ++ x6 ++ x7) (xlo := x8) (start := 10) (len := 5) (by decide)).trans <|
    (BitVec.extractLsb'_append_eq_of_le (xhi := x0 ++ x1 ++ x2 ++ x3 ++ x4 ++ x5 ++ x6) (xlo := x7) (start := 8) (len := 5) (by decide)).trans <|
    (BitVec.extractLsb'_append_eq_of_le (xhi := x0 ++ x1 ++ x2 ++ x3 ++ x4 ++ x5) (xlo := x6) (start := 5) (len := 5) (by decide)).trans <|
    (BitVec.extractLsb'_append_eq_of_add_le (xhi := x0 ++ x1 ++ x2 ++ x3 ++ x4) (xlo := x5) (start := 0) (len := 5) (by decide)).trans <|
    (BitVec.extractLsb'_eq_self)

theorem Encoding.fld_13_5_5 (x0 : BitVec 9) (x1 : BitVec 3) (x2 : BitVec 1) (x3 : BitVec 2) (x4 : BitVec 2) (x5 : BitVec 5) (x6 : BitVec 5) (x7 : BitVec 3) (x8 : BitVec 2) :
    fld (x0 ++ x1 ++ x2 ++ x3 ++ x4 ++ x5 ++ x6 ++ x7 ++ x8) 5 5 = x6 :=
  (BitVec.extractLsb'_append_eq_of_le (xhi := x0 ++ x1 ++ x2 ++ x3 ++ x4 ++ x5 ++ x6 ++ x7) (xlo := x8) (start := 5) (len := 5) (by decide)).trans <|
    (BitVec.extractLsb'_append_eq_of_le (xhi := x0 ++ x1 ++ x2 ++ x3 ++ x4 ++ x5 ++ x6) (xlo := x7) (start := 3) (len := 5) (by decide)).trans <|
    (BitVec.extractLsb'_append_eq_of_add_le (xhi := x0 ++ x1 ++ x2 ++ x3 ++ x4 ++ x5) (xlo := x6) (start := 0) (len := 5) (by decide)).trans <|
    (BitVec.extractLsb'_eq_self)

theorem Encoding.fld_13_0_2 (x0 : BitVec 9) (x1 : BitVec 3) (x2 : BitVec 1) (x3 : BitVec 2) (x4 : BitVec 2) (x5 : BitVec 5) (x6 : BitVec 5) (x7 : BitVec 3) (x8 : BitVec 2) :
    fld (x0 ++ x1 ++ x2 ++ x3 ++ x4 ++ x5 ++ x6 ++ x7 ++ x8) 0 2 = x8 :=
  (BitVec.extractLsb'_append_eq_of_add_le (xhi := x0 ++ x1 ++ x2 ++ x3 ++ x4 ++ x5 ++ x6 ++ x7) (xlo := x8) (start := 0) (len := 2) (by decide)).trans <|
    (BitVec.extractLsb'_eq_self)

theorem Encoding.fld_11_0_5 (x0 : BitVec 9) (x1 : BitVec 3) (x2 : BitVec 5) (x3 : BitVec 5) (x4 : BitVec 5) (x5 : BitVec 5) :
    fld (x0 ++ x1 ++ x2 ++ x3 ++ x4 ++ x5) 0 5 = x5 :=
  (BitVec.extractLsb'_append_eq_of_add_le (xhi := x0 ++ x1 ++ x2 ++ x3 ++ x4) (xlo := x5) (start := 0) (len := 5) (by decide)).trans <|
    (BitVec.extractLsb'_eq_self)

theorem Encoding.fld_14_28_4 (x0 : BitVec 9) (x1 : BitVec 3) (x2 : BitVec 5) (x3 : BitVec 5) (x4 : BitVec 10) :
    fld (x0 ++ x1 ++ x2 ++ x3 ++ x4) 28 4 = x0.extractLsb' 5 4 :=
  (BitVec.extractLsb'_append_eq_of_le (xhi := x0 ++ x1 ++ x2 ++ x3) (xlo := x4) (start := 28) (len := 4) (by decide)).trans <|
    (BitVec.extractLsb'_append_eq_of_le (xhi := x0 ++ x1 ++ x2) (xlo := x3) (start := 18) (len := 4) (by decide)).trans <|
    (BitVec.extractLsb'_append_eq_of_le (xhi := x0 ++ x1) (xlo := x2) (start := 13) (len := 4) (by decide)).trans <|
    (BitVec.extractLsb'_append_eq_of_le (xhi := x0) (xlo := x1) (start := 8) (len := 4) (by decide))

theorem Encoding.fld_14_23_6 (x0 : BitVec 9) (x1 : BitVec 3) (x2 : BitVec 5) (x3 : BitVec 5) (x4 : BitVec 10) :
    fld (x0 ++ x1 ++ x2 ++ x3 ++ x4) 23 6 = x0.extractLsb' 0 6 :=
  (BitVec.extractLsb'_append_eq_of_le (xhi := x0 ++ x1 ++ x2 ++ x3) (xlo := x4) (start := 23) (len := 6) (by decide)).trans <|
    (BitVec.extractLsb'_append_eq_of_le (xhi := x0 ++ x1 ++ x2) (xlo := x3) (start := 13) (len := 6) (by decide)).trans <|
    (BitVec.extractLsb'_append_eq_of_le (xhi := x0 ++ x1) (xlo := x2) (start := 8) (len := 6) (by decide)).trans <|
    (BitVec.extractLsb'_append_eq_of_le (xhi := x0) (xlo := x1) (start := 3) (len := 6) (by decide))

theorem Encoding.fld_14_20_3 (x0 : BitVec 9) (x1 : BitVec 3) (x2 : BitVec 5) (x3 : BitVec 5) (x4 : BitVec 10) :
    fld (x0 ++ x1 ++ x2 ++ x3 ++ x4) 20 3 = x1 :=
  (BitVec.extractLsb'_append_eq_of_le (xhi := x0 ++ x1 ++ x2 ++ x3) (xlo := x4) (start := 20) (len := 3) (by decide)).trans <|
    (BitVec.extractLsb'_append_eq_of_le (xhi := x0 ++ x1 ++ x2) (xlo := x3) (start := 10) (len := 3) (by decide)).trans <|
    (BitVec.extractLsb'_append_eq_of_le (xhi := x0 ++ x1) (xlo := x2) (start := 5) (len := 3) (by decide)).trans <|
    (BitVec.extractLsb'_append_eq_of_add_le (xhi := x0) (xlo := x1) (start := 0) (len := 3) (by decide)).trans <|
    (BitVec.extractLsb'_eq_self)

theorem Encoding.fld_14_15_5 (x0 : BitVec 9) (x1 : BitVec 3) (x2 : BitVec 5) (x3 : BitVec 5) (x4 : BitVec 10) :
    fld (x0 ++ x1 ++ x2 ++ x3 ++ x4) 15 5 = x2 :=
  (BitVec.extractLsb'_append_eq_of_le (xhi := x0 ++ x1 ++ x2 ++ x3) (xlo := x4) (start := 15) (len := 5) (by decide)).trans <|
    (BitVec.extractLsb'_append_eq_of_le (xhi := x0 ++ x1 ++ x2) (xlo := x3) (start := 5) (len := 5) (by decide)).trans <|
    (BitVec.extractLsb'_append_eq_of_add_le (xhi := x0 ++ x1) (xlo := x2) (start := 0) (len := 5) (by decide)).trans <|
    (BitVec.extractLsb'_eq_self)

theorem Encoding.fld_14_0_10 (x0 : BitVec 9) (x1 : BitVec 3) (x2 : BitVec 5) (x3 : BitVec 5) (x4 : BitVec 10) :
    fld (x0 ++ x1 ++ x2 ++ x3 ++ x4) 0 10 = x4 :=
  (BitVec.extractLsb'_append_eq_of_add_le (xhi := x0 ++ x1 ++ x2 ++ x3) (xlo := x4) (start := 0) (len := 10) (by decide)).trans <|
    (BitVec.extractLsb'_eq_self)

theorem Encoding.fld_14_10_5 (x0 : BitVec 9) (x1 : BitVec 3) (x2 : BitVec 5) (x3 : BitVec 5) (x4 : BitVec 10) :
    fld (x0 ++ x1 ++ x2 ++ x3 ++ x4) 10 5 = x3 :=
  (BitVec.extractLsb'_append_eq_of_le (xhi := x0 ++ x1 ++ x2 ++ x3) (xlo := x4) (start := 10) (len := 5) (by decide)).trans <|
    (BitVec.extractLsb'_append_eq_of_add_le (xhi := x0 ++ x1 ++ x2) (xlo := x3) (start := 0) (len := 5) (by decide)).trans <|
    (BitVec.extractLsb'_eq_self)

theorem Encoding.fld_15_28_4 (x0 : BitVec 9) (x1 : BitVec 3) (x2 : BitVec 2) (x3 : BitVec 3) (x4 : BitVec 11) (x5 : BitVec 4) :
    fld (x0 ++ x1 ++ x2 ++ x3 ++ x4 ++ x5) 28 4 = x0.extractLsb' 5 4 :=
  (BitVec.extractLsb'_append_eq_of_le (xhi := x0 ++ x1 ++ x2 ++ x3 ++ x4) (xlo := x5) (start := 28) (len := 4) (by decide)).trans <|
    (BitVec.extractLsb'_append_eq_of_le (xhi := x0 ++ x1 ++ x2 ++ x3) (xlo := x4) (start := 24) (len := 4) (by decide)).trans <|
    (BitVec.extractLsb'_append_eq_of_le (xhi := x0 ++ x1 ++ x2) (xlo := x3) (start := 13) (len := 4) (by decide)).trans <|
    (BitVec.extractLsb'_append_eq_of_le (xhi := x0 ++ x1) (xlo := x2) (start := 10) (len := 4) (by decide)).trans <|
    (BitVec.extractLsb'_append_eq_of_le (xhi := x0) (xlo := x1) (start := 8) (len := 4) (by decide))

theorem Encoding.fld_15_23_6 (x0 : BitVec 9) (x1 : BitVec 3) (x2 : BitVec 2) (x3 : BitVec 3) (x4 : BitVec 11) (x5 : BitVec 4) :
    fld (x0 ++ x1 ++ x2 ++ x3 ++ x4 ++ x5) 23 6 = x0.extractLsb' 0 6 :=
  (BitVec.extractLsb'_append_eq_of_le (xhi := x0 ++ x1 ++ x2 ++ x3 ++ x4) (xlo := x5) (start := 23) (len := 6) (by decide)).trans <|
    (BitVec.extractLsb'_append_eq_of_le (xhi := x0 ++ x1 ++ x2 ++ x3) (xlo := x4) (start := 19) (len := 6) (by decide)).trans <|
    (BitVec.extractLsb'_append_eq_of_le (xhi := x0 ++ x1 ++ x2) (xlo := x3) (start := 8) (len := 6) (by decide)).trans <|
    (BitVec.extractLsb'_append_eq_of_le (xhi := x0 ++ x1) (xlo := x2) (start := 5) (len := 6) (by decide)).trans <|
    (BitVec.extractLsb'_append_eq_of_le (xhi := x0) (xlo := x1) (start := 3) (len := 6) (by decide))

theorem Encoding.fld_15_20_3 (x0 : BitVec 9) (x1 : BitVec 3) (x2 : BitVec 2) (x3 : BitVec 3) (x4 : BitVec 11) (x5 : BitVec 4) :
    fld (x0 ++ x1 ++ x2 ++ x3 ++ x4 ++ x5) 20 3 = x1 :=
  (BitVec.extractLsb'_append_eq_of_le (xhi := x0 ++ x1 ++ x2 ++ x3 ++ x4) (xlo := x5) (start := 20) (len := 3) (by decide)).trans <|
    (BitVec.extractLsb'_append_eq_of_le (xhi := x0 ++ x1 ++ x2 ++ x3) (xlo := x4) (start := 16) (len := 3) (by decide)).trans <|
    (BitVec.extractLsb'_append_eq_of_le (xhi := x0 ++ x1 ++ x2) (xlo := x3) (start := 5) (len := 3) (by decide)).trans <|
    (BitVec.extractLsb'_append_eq_of_le (xhi := x0 ++ x1) (xlo := x2) (start := 2) (len := 3) (by decide)).trans <|
    (BitVec.extractLsb'_append_eq_of_add_le (xhi := x0) (xlo := x1) (start := 0) (len := 3) (by decide)).trans <|
    (BitVec.extractLsb'_eq_self)

theorem Encoding.fld_15_18_2 (x0 : BitVec 9) (x1 : BitVec 3) (x2 : BitVec 2) (x3 : BitVec 3) (x4 : BitVec 11) (x5 : BitVec 4) :
    fld (x0 ++ x1 ++ x2 ++ x3 ++ x4 ++ x5) 18 2 = x2 :=
  (BitVec.extractLsb'_append_eq_of_le (xhi := x0 ++ x1 ++ x2 ++ x3 ++ x4) (xlo := x5) (start := 18) (len := 2) (by decide)).trans <|
    (BitVec.extractLsb'_append_eq_of_le (xhi := x0 ++ x1 ++ x2 ++ x3) (xlo := x4) (start := 14) (len := 2) (by decide)).trans <|
    (BitVec.extractLsb'_append_eq_of_le (xhi := x0 ++ x1 ++ x2) (xlo := x3) (start := 3) (len := 2) (by decide)).trans <|
    (BitVec.extractLsb'_append_eq_of_add_le (xhi := x0 ++ x1) (xlo := x2) (start := 0) (len := 2) (by decide)).trans <|
    (BitVec.extractLsb'_eq_self)

theorem Encoding.fld_15_15_3 (x0 : BitVec 9) (x1 : BitVec 3) (x2 : BitVec 2) (x3 : BitVec 3) (x4 : BitVec 11) (x5 : BitVec 4) :
    fld (x0 ++ x1 ++ x2 ++ x3 ++ x4 ++ x5) 15 3 = x3 :=
  (BitVec.extractLsb'_append_eq_of_le (xhi := x0 ++ x1 ++ x2 ++ x3 ++ x4) (xlo := x5) (start := 15) (len := 3) (by decide)).trans <|
    (BitVec.extractLsb'_append_eq_of_le (xhi := x0 ++ x1 ++ x2 ++ x3) (xlo := x4) (start := 11) (len := 3) (by decide)).trans <|
    (BitVec.extractLsb'_append_eq_of_add_le (xhi := x0 ++ x1 ++ x2) (xlo := x3) (start := 0) (len := 3) (by decide)).trans <|
    (BitVec.extractLsb'_eq_self)

theorem Encoding.fld_15_0_4 (x0 : BitVec 9) (x1 : BitVec 3) (x2 : BitVec 2) (x3 : BitVec 3) (x4 : BitVec 11) (x5 : BitVec 4) :
    fld (x0 ++ x1 ++ x2 ++ x3 ++ x4 ++ x5) 0 4 = x5 :=
  (BitVec.extractLsb'_append_eq_of_add_le (xhi := x0 ++ x1 ++ x2 ++ x3 ++ x4) (xlo := x5) (start := 0) (len := 4) (by decide)).trans <|
    (BitVec.extractLsb'_eq_self)

theorem Encoding.fld_16_28_4 (x0 : BitVec 9) (x1 : BitVec 3) (x2 : BitVec 20) :
    fld (x0 ++ x1 ++ x2) 28 4 = x0.extractLsb' 5 4 :=
  (BitVec.extractLsb'_append_eq_of_le (xhi := x0 ++ x1) (xlo := x2) (start := 28) (len := 4) (by decide)).trans <|
    (BitVec.extractLsb'_append_eq_of_le (xhi := x0) (xlo := x1) (start := 8) (len := 4) (by decide))

theorem Encoding.fld_16_23_6 (x0 : BitVec 9) (x1 : BitVec 3) (x2 : BitVec 20) :
    fld (x0 ++ x1 ++ x2) 23 6 = x0.extractLsb' 0 6 :=
  (BitVec.extractLsb'_append_eq_of_le (xhi := x0 ++ x1) (xlo := x2) (start := 23) (len := 6) (by decide)).trans <|
    (BitVec.extractLsb'_append_eq_of_le (xhi := x0) (xlo := x1) (start := 3) (len := 6) (by decide))

theorem Encoding.fld_16_20_3 (x0 : BitVec 9) (x1 : BitVec 3) (x2 : BitVec 20) :
    fld (x0 ++ x1 ++ x2) 20 3 = x1 :=
  (BitVec.extractLsb'_append_eq_of_le (xhi := x0 ++ x1) (xlo := x2) (start := 20) (len := 3) (by decide)).trans <|
    (BitVec.extractLsb'_append_eq_of_add_le (xhi := x0) (xlo := x1) (start := 0) (len := 3) (by decide)).trans <|
    (BitVec.extractLsb'_eq_self)

theorem Encoding.fld_17_28_4 (x0 : BitVec 9) (x1 : BitVec 3) (x2 : BitVec 17) (x3 : BitVec 3) :
    fld (x0 ++ x1 ++ x2 ++ x3) 28 4 = x0.extractLsb' 5 4 :=
  (BitVec.extractLsb'_append_eq_of_le (xhi := x0 ++ x1 ++ x2) (xlo := x3) (start := 28) (len := 4) (by decide)).trans <|
    (BitVec.extractLsb'_append_eq_of_le (xhi := x0 ++ x1) (xlo := x2) (start := 25) (len := 4) (by decide)).trans <|
    (BitVec.extractLsb'_append_eq_of_le (xhi := x0) (xlo := x1) (start := 8) (len := 4) (by decide))

theorem Encoding.fld_17_23_6 (x0 : BitVec 9) (x1 : BitVec 3) (x2 : BitVec 17) (x3 : BitVec 3) :
    fld (x0 ++ x1 ++ x2 ++ x3) 23 6 = x0.extractLsb' 0 6 :=
  (BitVec.extractLsb'_append_eq_of_le (xhi := x0 ++ x1 ++ x2) (xlo := x3) (start := 23) (len := 6) (by decide)).trans <|
    (BitVec.extractLsb'_append_eq_of_le (xhi := x0 ++ x1) (xlo := x2) (start := 20) (len := 6) (by decide)).trans <|
    (BitVec.extractLsb'_append_eq_of_le (xhi := x0) (xlo := x1) (start := 3) (len := 6) (by decide))

theorem Encoding.fld_17_20_3 (x0 : BitVec 9) (x1 : BitVec 3) (x2 : BitVec 17) (x3 : BitVec 3) :
    fld (x0 ++ x1 ++ x2 ++ x3) 20 3 = x1 :=
  (BitVec.extractLsb'_append_eq_of_le (xhi := x0 ++ x1 ++ x2) (xlo := x3) (start := 20) (len := 3) (by decide)).trans <|
    (BitVec.extractLsb'_append_eq_of_le (xhi := x0 ++ x1) (xlo := x2) (start := 17) (len := 3) (by decide)).trans <|
    (BitVec.extractLsb'_append_eq_of_add_le (xhi := x0) (xlo := x1) (start := 0) (len := 3) (by decide)).trans <|
    (BitVec.extractLsb'_eq_self)

theorem Encoding.fld_17_0_3 (x0 : BitVec 9) (x1 : BitVec 3) (x2 : BitVec 17) (x3 : BitVec 3) :
    fld (x0 ++ x1 ++ x2 ++ x3) 0 3 = x3 :=
  (BitVec.extractLsb'_append_eq_of_add_le (xhi := x0 ++ x1 ++ x2) (xlo := x3) (start := 0) (len := 3) (by decide)).trans <|
    (BitVec.extractLsb'_eq_self)

theorem Encoding.fld_18_28_4 (x0 : BitVec 9) (x1 : BitVec 3) (x2 : BitVec 19) (x3 : BitVec 1) :
    fld (x0 ++ x1 ++ x2 ++ x3) 28 4 = x0.extractLsb' 5 4 :=
  (BitVec.extractLsb'_append_eq_of_le (xhi := x0 ++ x1 ++ x2) (xlo := x3) (start := 28) (len := 4) (by decide)).trans <|
    (BitVec.extractLsb'_append_eq_of_le (xhi := x0 ++ x1) (xlo := x2) (start := 27) (len := 4) (by decide)).trans <|
    (BitVec.extractLsb'_append_eq_of_le (xhi := x0) (xlo := x1) (start := 8) (len := 4) (by decide))

theorem Encoding.fld_18_23_6 (x0 : BitVec 9) (x1 : BitVec 3) (x2 : BitVec 19) (x3 : BitVec 1) :
    fld (x0 ++ x1 ++ x2 ++ x3) 23 6 = x0.extractLsb' 0 6 :=
  (BitVec.extractLsb'_append_eq_of_le (xhi := x0 ++ x1 ++ x2) (xlo := x3) (start := 23) (len := 6) (by decide)).trans <|
    (BitVec.extractLsb'_append_eq_of_le (xhi := x0 ++ x1) (xlo := x2) (start := 22) (len := 6) (by decide)).trans <|
    (BitVec.extractLsb'_append_eq_of_le (xhi := x0) (xlo := x1) (start := 3) (len := 6) (by decide))

theorem Encoding.fld_18_20_3 (x0 : BitVec 9) (x1 : BitVec 3) (x2 : BitVec 19) (x3 : BitVec 1) :
    fld (x0 ++ x1 ++ x2 ++ x3) 20 3 = x1 :=
  (BitVec.extractLsb'_append_eq_of_le (xhi := x0 ++ x1 ++ x2) (xlo := x3) (start := 20) (len := 3) (by decide)).trans <|
    (BitVec.extractLsb'_append_eq_of_le (xhi := x0 ++ x1) (xlo := x2) (start := 19) (len := 3) (by decide)).trans <|
    (BitVec.extractLsb'_append_eq_of_add_le (xhi := x0) (xlo := x1) (start := 0) (len := 3) (by decide)).trans <|
    (BitVec.extractLsb'_eq_self)

theorem Encoding.fld_18_0_1 (x0 : BitVec 9) (x1 : BitVec 3) (x2 : BitVec 19) (x3 : BitVec 1) :
    fld (x0 ++ x1 ++ x2 ++ x3) 0 1 = x3 :=
  (BitVec.extractLsb'_append_eq_of_add_le (xhi := x0 ++ x1 ++ x2) (xlo := x3) (start := 0) (len := 1) (by decide)).trans <|
    (BitVec.extractLsb'_eq_self)

theorem Encoding.fld_19_28_4 (x0 : BitVec 9) (x1 : BitVec 3) (x2 : BitVec 5) (x3 : BitVec 5) (x4 : BitVec 9) (x5 : BitVec 1) :
    fld (x0 ++ x1 ++ x2 ++ x3 ++ x4 ++ x5) 28 4 = x0.extractLsb' 5 4 :=
  (BitVec.extractLsb'_append_eq_of_le (xhi := x0 ++ x1 ++ x2 ++ x3 ++ x4) (xlo := x5) (start := 28) (len := 4) (by decide)).trans <|
    (BitVec.extractLsb'_append_eq_of_le (xhi := x0 ++ x1 ++ x2 ++ x3) (xlo := x4) (start := 27) (len := 4) (by decide)).trans <|
    (BitVec.extractLsb'_append_eq_of_le (xhi := x0 ++ x1 ++ x2) (xlo := x3) (start := 18) (len := 4) (by decide)).trans <|
    (BitVec.extractLsb'_append_eq_of_le (xhi := x0 ++ x1) (xlo := x2) (start := 13) (len := 4) (by decide)).trans <|
    (BitVec.extractLsb'_append_eq_of_le (xhi := x0) (xlo := x1) (start := 8) (len := 4) (by decide))

theorem Encoding.fld_19_23_6 (x0 : BitVec 9) (x1 : BitVec 3) (x2 : BitVec 5) (x3 : BitVec 5) (x4 : BitVec 9) (x5 : BitVec 1) :
    fld (x0 ++ x1 ++ x2 ++ x3 ++ x4 ++ x5) 23 6 = x0.extractLsb' 0 6 :=
  (BitVec.extractLsb'_append_eq_of_le (xhi := x0 ++ x1 ++ x2 ++ x3 ++ x4) (xlo := x5) (start := 23) (len := 6) (by decide)).trans <|
    (BitVec.extractLsb'_append_eq_of_le (xhi := x0 ++ x1 ++ x2 ++ x3) (xlo := x4) (start := 22) (len := 6) (by decide)).trans <|
    (BitVec.extractLsb'_append_eq_of_le (xhi := x0 ++ x1 ++ x2) (xlo := x3) (start := 13) (len := 6) (by decide)).trans <|
    (BitVec.extractLsb'_append_eq_of_le (xhi := x0 ++ x1) (xlo := x2) (start := 8) (len := 6) (by decide)).trans <|
    (BitVec.extractLsb'_append_eq_of_le (xhi := x0) (xlo := x1) (start := 3) (len := 6) (by decide))

theorem Encoding.fld_19_20_3 (x0 : BitVec 9) (x1 : BitVec 3) (x2 : BitVec 5) (x3 : BitVec 5) (x4 : BitVec 9) (x5 : BitVec 1) :
    fld (x0 ++ x1 ++ x2 ++ x3 ++ x4 ++ x5) 20 3 = x1 :=
  (BitVec.extractLsb'_append_eq_of_le (xhi := x0 ++ x1 ++ x2 ++ x3 ++ x4) (xlo := x5) (start := 20) (len := 3) (by decide)).trans <|
    (BitVec.extractLsb'_append_eq_of_le (xhi := x0 ++ x1 ++ x2 ++ x3) (xlo := x4) (start := 19) (len := 3) (by decide)).trans <|
    (BitVec.extractLsb'_append_eq_of_le (xhi := x0 ++ x1 ++ x2) (xlo := x3) (start := 10) (len := 3) (by decide)).trans <|
    (BitVec.extractLsb'_append_eq_of_le (xhi := x0 ++ x1) (xlo := x2) (start := 5) (len := 3) (by decide)).trans <|
    (BitVec.extractLsb'_append_eq_of_add_le (xhi := x0) (xlo := x1) (start := 0) (len := 3) (by decide)).trans <|
    (BitVec.extractLsb'_eq_self)

theorem Encoding.fld_19_15_5 (x0 : BitVec 9) (x1 : BitVec 3) (x2 : BitVec 5) (x3 : BitVec 5) (x4 : BitVec 9) (x5 : BitVec 1) :
    fld (x0 ++ x1 ++ x2 ++ x3 ++ x4 ++ x5) 15 5 = x2 :=
  (BitVec.extractLsb'_append_eq_of_le (xhi := x0 ++ x1 ++ x2 ++ x3 ++ x4) (xlo := x5) (start := 15) (len := 5) (by decide)).trans <|
    (BitVec.extractLsb'_append_eq_of_le (xhi := x0 ++ x1 ++ x2 ++ x3) (xlo := x4) (start := 14) (len := 5) (by decide)).trans <|
    (BitVec.extractLsb'_append_eq_of_le (xhi := x0 ++ x1 ++ x2) (xlo := x3) (start := 5) (len := 5) (by decide)).trans <|
    (BitVec.extractLsb'_append_eq_of_add_le (xhi := x0 ++ x1) (xlo := x2) (start := 0) (len := 5) (by decide)).trans <|
    (BitVec.extractLsb'_eq_self)

theorem Encoding.fld_19_10_5 (x0 : BitVec 9) (x1 : BitVec 3) (x2 : BitVec 5) (x3 : BitVec 5) (x4 : BitVec 9) (x5 : BitVec 1) :
    fld (x0 ++ x1 ++ x2 ++ x3 ++ x4 ++ x5) 10 5 = x3 :=
  (BitVec.extractLsb'_append_eq_of_le (xhi := x0 ++ x1 ++ x2 ++ x3 ++ x4) (xlo := x5) (start := 10) (len := 5) (by decide)).trans <|
    (BitVec.extractLsb'_append_eq_of_le (xhi := x0 ++ x1 ++ x2 ++ x3) (xlo := x4) (start := 9) (len := 5) (by decide)).trans <|
    (BitVec.extractLsb'_append_eq_of_add_le (xhi := x0 ++ x1 ++ x2) (xlo := x3) (start := 0) (len := 5) (by decide)).trans <|
    (BitVec.extractLsb'_eq_self)

theorem Encoding.fld_19_0_1 (x0 : BitVec 9) (x1 : BitVec 3) (x2 : BitVec 5) (x3 : BitVec 5) (x4 : BitVec 9) (x5 : BitVec 1) :
    fld (x0 ++ x1 ++ x2 ++ x3 ++ x4 ++ x5) 0 1 = x5 :=
  (BitVec.extractLsb'_append_eq_of_add_le (xhi := x0 ++ x1 ++ x2 ++ x3 ++ x4) (xlo := x5) (start := 0) (len := 1) (by decide)).trans <|
    (BitVec.extractLsb'_eq_self)

theorem Encoding.fld_20_28_4 (x0 : BitVec 9) (x1 : BitVec 3) (x2 : BitVec 5) (x3 : BitVec 5) (x4 : BitVec 8) (x5 : BitVec 2) :
    fld (x0 ++ x1 ++ x2 ++ x3 ++ x4 ++ x5) 28 4 = x0.extractLsb' 5 4 :=
  (BitVec.extractLsb'_append_eq_of_le (xhi := x0 ++ x1 ++ x2 ++ x3 ++ x4) (xlo := x5) (start := 28) (len := 4) (by decide)).trans <|
    (BitVec.extractLsb'_append_eq_of_le (xhi := x0 ++ x1 ++ x2 ++ x3) (xlo := x4) (start := 26) (len := 4) (by decide)).trans <|
    (BitVec.extractLsb'_append_eq_of_le (xhi := x0 ++ x1 ++ x2) (xlo := x3) (start := 18) (len := 4) (by decide)).trans <|
    (BitVec.extractLsb'_append_eq_of_le (xhi := x0 ++ x1) (xlo := x2) (start := 13) (len := 4) (by decide)).trans <|
    (BitVec.extractLsb'_append_eq_of_le (xhi := x0) (xlo := x1) (start := 8) (len := 4) (by decide))

theorem Encoding.fld_20_23_6 (x0 : BitVec 9) (x1 : BitVec 3) (x2 : BitVec 5) (x3 : BitVec 5) (x4 : BitVec 8) (x5 : BitVec 2) :
    fld (x0 ++ x1 ++ x2 ++ x3 ++ x4 ++ x5) 23 6 = x0.extractLsb' 0 6 :=
  (BitVec.extractLsb'_append_eq_of_le (xhi := x0 ++ x1 ++ x2 ++ x3 ++ x4) (xlo := x5) (start := 23) (len := 6) (by decide)).trans <|
    (BitVec.extractLsb'_append_eq_of_le (xhi := x0 ++ x1 ++ x2 ++ x3) (xlo := x4) (start := 21) (len := 6) (by decide)).trans <|
    (BitVec.extractLsb'_append_eq_of_le (xhi := x0 ++ x1 ++ x2) (xlo := x3) (start := 13) (len := 6) (by decide)).trans <|
    (BitVec.extractLsb'_append_eq_of_le (xhi := x0 ++ x1) (xlo := x2) (start := 8) (len := 6) (by decide)).trans <|
    (BitVec.extractLsb'_append_eq_of_le (xhi := x0) (xlo := x1) (start := 3) (len := 6) (by decide))

theorem Encoding.fld_20_20_3 (x0 : BitVec 9) (x1 : BitVec 3) (x2 : BitVec 5) (x3 : BitVec 5) (x4 : BitVec 8) (x5 : BitVec 2) :
    fld (x0 ++ x1 ++ x2 ++ x3 ++ x4 ++ x5) 20 3 = x1 :=
  (BitVec.extractLsb'_append_eq_of_le (xhi := x0 ++ x1 ++ x2 ++ x3 ++ x4) (xlo := x5) (start := 20) (len := 3) (by decide)).trans <|
    (BitVec.extractLsb'_append_eq_of_le (xhi := x0 ++ x1 ++ x2 ++ x3) (xlo := x4) (start := 18) (len := 3) (by decide)).trans <|
    (BitVec.extractLsb'_append_eq_of_le (xhi := x0 ++ x1 ++ x2) (xlo := x3) (start := 10) (len := 3) (by decide)).trans <|
    (BitVec.extractLsb'_append_eq_of_le (xhi := x0 ++ x1) (xlo := x2) (start := 5) (len := 3) (by decide)).trans <|
    (BitVec.extractLsb'_append_eq_of_add_le (xhi := x0) (xlo := x1) (start := 0) (len := 3) (by decide)).trans <|
    (BitVec.extractLsb'_eq_self)

theorem Encoding.fld_20_15_5 (x0 : BitVec 9) (x1 : BitVec 3) (x2 : BitVec 5) (x3 : BitVec 5) (x4 : BitVec 8) (x5 : BitVec 2) :
    fld (x0 ++ x1 ++ x2 ++ x3 ++ x4 ++ x5) 15 5 = x2 :=
  (BitVec.extractLsb'_append_eq_of_le (xhi := x0 ++ x1 ++ x2 ++ x3 ++ x4) (xlo := x5) (start := 15) (len := 5) (by decide)).trans <|
    (BitVec.extractLsb'_append_eq_of_le (xhi := x0 ++ x1 ++ x2 ++ x3) (xlo := x4) (start := 13) (len := 5) (by decide)).trans <|
    (BitVec.extractLsb'_append_eq_of_le (xhi := x0 ++ x1 ++ x2) (xlo := x3) (start := 5) (len := 5) (by decide)).trans <|
    (BitVec.extractLsb'_append_eq_of_add_le (xhi := x0 ++ x1) (xlo := x2) (start := 0) (len := 5) (by decide)).trans <|
    (BitVec.extractLsb'_eq_self)

theorem Encoding.fld_20_10_5 (x0 : BitVec 9) (x1 : BitVec 3) (x2 : BitVec 5) (x3 : BitVec 5) (x4 : BitVec 8) (x5 : BitVec 2) :
    fld (x0 ++ x1 ++ x2 ++ x3 ++ x4 ++ x5) 10 5 = x3 :=
  (BitVec.extractLsb'_append_eq_of_le (xhi := x0 ++ x1 ++ x2 ++ x3 ++ x4) (xlo := x5) (start := 10) (len := 5) (by decide)).trans <|
    (BitVec.extractLsb'_append_eq_of_le (xhi := x0 ++ x1 ++ x2 ++ x3) (xlo := x4) (start := 8) (len := 5) (by decide)).trans <|
    (BitVec.extractLsb'_append_eq_of_add_le (xhi := x0 ++ x1 ++ x2) (xlo := x3) (start := 0) (len := 5) (by decide)).trans <|
    (BitVec.extractLsb'_eq_self)

theorem Encoding.fld_20_0_2 (x0 : BitVec 9) (x1 : BitVec 3) (x2 : BitVec 5) (x3 : BitVec 5) (x4 : BitVec 8) (x5 : BitVec 2) :
    fld (x0 ++ x1 ++ x2 ++ x3 ++ x4 ++ x5) 0 2 = x5 :=
  (BitVec.extractLsb'_append_eq_of_add_le (xhi := x0 ++ x1 ++ x2 ++ x3 ++ x4) (xlo := x5) (start := 0) (len := 2) (by decide)).trans <|
    (BitVec.extractLsb'_eq_self)

theorem Encoding.fld_21_28_4 (x0 : BitVec 9) (x1 : BitVec 3) (x2 : BitVec 5) (x3 : BitVec 5) (x4 : BitVec 6) (x5 : BitVec 4) :
    fld (x0 ++ x1 ++ x2 ++ x3 ++ x4 ++ x5) 28 4 = x0.extractLsb' 5 4 :=
  (BitVec.extractLsb'_append_eq_of_le (xhi := x0 ++ x1 ++ x2 ++ x3 ++ x4) (xlo := x5) (start := 28) (len := 4) (by decide)).trans <|
    (BitVec.extractLsb'_append_eq_of_le (xhi := x0 ++ x1 ++ x2 ++ x3) (xlo := x4) (start := 24) (len := 4) (by decide)).trans <|
    (BitVec.extractLsb'_append_eq_of_le (xhi := x0 ++ x1 ++ x2) (xlo := x3) (start := 18) (len := 4) (by decide)).trans <|
    (BitVec.extractLsb'_append_eq_of_le (xhi := x0 ++ x1) (xlo := x2) (start := 13) (len := 4) (by decide)).trans <|
    (BitVec.extractLsb'_append_eq_of_le (xhi := x0) (xlo := x1) (start := 8) (len := 4) (by decide))

theorem Encoding.fld_21_23_6 (x0 : BitVec 9) (x1 : BitVec 3) (x2 : BitVec 5) (x3 : BitVec 5) (x4 : BitVec 6) (x5 : BitVec 4) :
    fld (x0 ++ x1 ++ x2 ++ x3 ++ x4 ++ x5) 23 6 = x0.extractLsb' 0 6 :=
  (BitVec.extractLsb'_append_eq_of_le (xhi := x0 ++ x1 ++ x2 ++ x3 ++ x4) (xlo := x5) (start := 23) (len := 6) (by decide)).trans <|
    (BitVec.extractLsb'_append_eq_of_le (xhi := x0 ++ x1 ++ x2 ++ x3) (xlo := x4) (start := 19) (len := 6) (by decide)).trans <|
    (BitVec.extractLsb'_append_eq_of_le (xhi := x0 ++ x1 ++ x2) (xlo := x3) (start := 13) (len := 6) (by decide)).trans <|
    (BitVec.extractLsb'_append_eq_of_le (xhi := x0 ++ x1) (xlo := x2) (start := 8) (len := 6) (by decide)).trans <|
    (BitVec.extractLsb'_append_eq_of_le (xhi := x0) (xlo := x1) (start := 3) (len := 6) (by decide))

theorem Encoding.fld_21_20_3 (x0 : BitVec 9) (x1 : BitVec 3) (x2 : BitVec 5) (x3 : BitVec 5) (x4 : BitVec 6) (x5 : BitVec 4) :
    fld (x0 ++ x1 ++ x2 ++ x3 ++ x4 ++ x5) 20 3 = x1 :=
  (BitVec.extractLsb'_append_eq_of_le (xhi := x0 ++ x1 ++ x2 ++ x3 ++ x4) (xlo := x5) (start := 20) (len := 3) (by decide)).trans <|
    (BitVec.extractLsb'_append_eq_of_le (xhi := x0 ++ x1 ++ x2 ++ x3) (xlo := x4) (start := 16) (len := 3) (by decide)).trans <|
    (BitVec.extractLsb'_append_eq_of_le (xhi := x0 ++ x1 ++ x2) (xlo := x3) (start := 10) (len := 3) (by decide)).trans <|
    (BitVec.extractLsb'_append_eq_of_le (xhi := x0 ++ x1) (xlo := x2) (start := 5) (len := 3) (by decide)).trans <|
    (BitVec.extractLsb'_append_eq_of_add_le (xhi := x0) (xlo := x1) (start := 0) (len := 3) (by decide)).trans <|
    (BitVec.extractLsb'_eq_self)

theorem Encoding.fld_21_15_5 (x0 : BitVec 9) (x1 : BitVec 3) (x2 : BitVec 5) (x3 : BitVec 5) (x4 : BitVec 6) (x5 : BitVec 4) :
    fld (x0 ++ x1 ++ x2 ++ x3 ++ x4 ++ x5) 15 5 = x2 :=
  (BitVec.extractLsb'_append_eq_of_le (xhi := x0 ++ x1 ++ x2 ++ x3 ++ x4) (xlo := x5) (start := 15) (len := 5) (by decide)).trans <|
    (BitVec.extractLsb'_append_eq_of_le (xhi := x0 ++ x1 ++ x2 ++ x3) (xlo := x4) (start := 11) (len := 5) (by decide)).trans <|
    (BitVec.extractLsb'_append_eq_of_le (xhi := x0 ++ x1 ++ x2) (xlo := x3) (start := 5) (len := 5) (by decide)).trans <|
    (BitVec.extractLsb'_append_eq_of_add_le (xhi := x0 ++ x1) (xlo := x2) (start := 0) (len := 5) (by decide)).trans <|
    (BitVec.extractLsb'_eq_self)

theorem Encoding.fld_21_10_5 (x0 : BitVec 9) (x1 : BitVec 3) (x2 : BitVec 5) (x3 : BitVec 5) (x4 : BitVec 6) (x5 : BitVec 4) :
    fld (x0 ++ x1 ++ x2 ++ x3 ++ x4 ++ x5) 10 5 = x3 :=
  (BitVec.extractLsb'_append_eq_of_le (xhi := x0 ++ x1 ++ x2 ++ x3 ++ x4) (xlo := x5) (start := 10) (len := 5) (by decide)).trans <|
    (BitVec.extractLsb'_append_eq_of_le (xhi := x0 ++ x1 ++ x2 ++ x3) (xlo := x4) (start := 6) (len := 5) (by decide)).trans <|
    (BitVec.extractLsb'_append_eq_of_add_le (xhi := x0 ++ x1 ++ x2) (xlo := x3) (start := 0) (len := 5) (by decide)).trans <|
    (BitVec.extractLsb'_eq_self)

theorem Encoding.fld_21_0_4 (x0 : BitVec 9) (x1 : BitVec 3) (x2 : BitVec 5) (x3 : BitVec 5) (x4 : BitVec 6) (x5 : BitVec 4) :
    fld (x0 ++ x1 ++ x2 ++ x3 ++ x4 ++ x5) 0 4 = x5 :=
  (BitVec.extractLsb'_append_eq_of_add_le (xhi := x0 ++ x1 ++ x2 ++ x3 ++ x4) (xlo := x5) (start := 0) (len := 4) (by decide)).trans <|
    (BitVec.extractLsb'_eq_self)

theorem Encoding.fld_22_28_4 (x0 : BitVec 9) (x1 : BitVec 3) (x2 : BitVec 5) (x3 : BitVec 5) (x4 : BitVec 7) (x5 : BitVec 1) (x6 : BitVec 2) :
    fld (x0 ++ x1 ++ x2 ++ x3 ++ x4 ++ x5 ++ x6) 28 4 = x0.extractLsb' 5 4 :=
  (BitVec.extractLsb'_append_eq_of_le (xhi := x0 ++ x1 ++ x2 ++ x3 ++ x4 ++ x5) (xlo := x6) (start := 28) (len := 4) (by decide)).trans <|
    (BitVec.extractLsb'_append_eq_of_le (xhi := x0 ++ x1 ++ x2 ++ x3 ++ x4) (xlo := x5) (start := 26) (len := 4) (by decide)).trans <|
    (BitVec.extractLsb'_append_eq_of_le (xhi := x0 ++ x1 ++ x2 ++ x3) (xlo := x4) (start := 25) (len := 4) (by decide)).trans <|
    (BitVec.extractLsb'_append_eq_of_le (xhi := x0 ++ x1 ++ x2) (xlo := x3) (start := 18) (len := 4) (by decide)).trans <|
    (BitVec.extractLsb'_append_eq_of_le (xhi := x0 ++ x1) (xlo := x2) (start := 13) (len := 4) (by decide)).trans <|
    (BitVec.extractLsb'_append_eq_of_le (xhi := x0) (xlo := x1) (start := 8) (len := 4) (by decide))

theorem Encoding.fld_22_23_6 (x0 : BitVec 9) (x1 : BitVec 3) (x2 : BitVec 5) (x3 : BitVec 5) (x4 : BitVec 7) (x5 : BitVec 1) (x6 : BitVec 2) :
    fld (x0 ++ x1 ++ x2 ++ x3 ++ x4 ++ x5 ++ x6) 23 6 = x0.extractLsb' 0 6 :=
  (BitVec.extractLsb'_append_eq_of_le (xhi := x0 ++ x1 ++ x2 ++ x3 ++ x4 ++ x5) (xlo := x6) (start := 23) (len := 6) (by decide)).trans <|
    (BitVec.extractLsb'_append_eq_of_le (xhi := x0 ++ x1 ++ x2 ++ x3 ++ x4) (xlo := x5) (start := 21) (len := 6) (by decide)).trans <|
    (BitVec.extractLsb'_append_eq_of_le (xhi := x0 ++ x1 ++ x2 ++ x3) (xlo := x4) (start := 20) (len := 6) (by decide)).trans <|
    (BitVec.extractLsb'_append_eq_of_le (xhi := x0 ++ x1 ++ x2) (xlo := x3) (start := 13) (len := 6) (by decide)).trans <|
    (BitVec.extractLsb'_append_eq_of_le (xhi := x0 ++ x1) (xlo := x2) (start := 8) (len := 6) (by decide)).trans <|
    (BitVec.extractLsb'_append_eq_of_le (xhi := x0) (xlo := x1) (start := 3) (len := 6) (by decide))

theorem Encoding.fld_22_20_3 (x0 : BitVec 9) (x1 : BitVec 3) (x2 : BitVec 5) (x3 : BitVec 5) (x4 : BitVec 7) (x5 : BitVec 1) (x6 : BitVec 2) :
    fld (x0 ++ x1 ++ x2 ++ x3 ++ x4 ++ x5 ++ x6) 20 3 = x1 :=
  (BitVec.extractLsb'_append_eq_of_le (xhi := x0 ++ x1 ++ x2 ++ x3 ++ x4 ++ x5) (xlo := x6) (start := 20) (len := 3) (by decide)).trans <|
    (BitVec.extractLsb'_append_eq_of_le (xhi := x0 ++ x1 ++ x2 ++ x3 ++ x4) (xlo := x5) (start := 18) (len := 3) (by decide)).trans <|
    (BitVec.extractLsb'_append_eq_of_le (xhi := x0 ++ x1 ++ x2 ++ x3) (xlo := x4) (start := 17) (len := 3) (by decide)).trans <|
    (BitVec.extractLsb'_append_eq_of_le (xhi := x0 ++ x1 ++ x2) (xlo := x3) (start := 10) (len := 3) (by decide)).trans <|
    (BitVec.extractLsb'_append_eq_of_le (xhi := x0 ++ x1) (xlo := x2) (start := 5) (len := 3) (by decide)).trans <|
    (BitVec.extractLsb'_append_eq_of_add_le (xhi := x0) (xlo := x1) (start := 0) (len := 3) (by decide)).trans <|
    (BitVec.extractLsb'_eq_self)

theorem Encoding.fld_22_15_5 (x0 : BitVec 9) (x1 : BitVec 3) (x2 : BitVec 5) (x3 : BitVec 5) (x4 : BitVec 7) (x5 : BitVec 1) (x6 : BitVec 2) :
    fld (x0 ++ x1 ++ x2 ++ x3 ++ x4 ++ x5 ++ x6) 15 5 = x2 :=
  (BitVec.extractLsb'_append_eq_of_le (xhi := x0 ++ x1 ++ x2 ++ x3 ++ x4 ++ x5) (xlo := x6) (start := 15) (len := 5) (by decide)).trans <|
    (BitVec.extractLsb'_append_eq_of_le (xhi := x0 ++ x1 ++ x2 ++ x3 ++ x4) (xlo := x5) (start := 13) (len := 5) (by decide)).trans <|
    (BitVec.extractLsb'_append_eq_of_le (xhi := x0 ++ x1 ++ x2 ++ x3) (xlo := x4) (start := 12) (len := 5) (by decide)).trans <|
    (BitVec.extractLsb'_append_eq_of_le (xhi := x0 ++ x1 ++ x2) (xlo := x3) (start := 5) (len := 5) (by decide)).trans <|
    (BitVec.extractLsb'_append_eq_of_add_le (xhi := x0 ++ x1) (xlo := x2) (start := 0) (len := 5) (by decide)).trans <|
    (BitVec.extractLsb'_eq_self)

theorem Encoding.fld_22_10_5 (x0 : BitVec 9) (x1 : BitVec 3) (x2 : BitVec 5) (x3 : BitVec 5) (x4 : BitVec 7) (x5 : BitVec 1) (x6 : BitVec 2) :
    fld (x0 ++ x1 ++ x2 ++ x3 ++ x4 ++ x5 ++ x6) 10 5 = x3 :=
  (BitVec.extractLsb'_append_eq_of_le (xhi := x0 ++ x1 ++ x2 ++ x3 ++ x4 ++ x5) (xlo := x6) (start := 10) (len := 5) (by decide)).trans <|
    (BitVec.extractLsb'_append_eq_of_le (xhi := x0 ++ x1 ++ x2 ++ x3 ++ x4) (xlo := x5) (start := 8) (len := 5) (by decide)).trans <|
    (BitVec.extractLsb'_append_eq_of_le (xhi := x0 ++ x1 ++ x2 ++ x3) (xlo := x4) (start := 7) (len := 5) (by decide)).trans <|
    (BitVec.extractLsb'_append_eq_of_add_le (xhi := x0 ++ x1 ++ x2) (xlo := x3) (start := 0) (len := 5) (by decide)).trans <|
    (BitVec.extractLsb'_eq_self)

theorem Encoding.fld_22_2_1 (x0 : BitVec 9) (x1 : BitVec 3) (x2 : BitVec 5) (x3 : BitVec 5) (x4 : BitVec 7) (x5 : BitVec 1) (x6 : BitVec 2) :
    fld (x0 ++ x1 ++ x2 ++ x3 ++ x4 ++ x5 ++ x6) 2 1 = x5 :=
  (BitVec.extractLsb'_append_eq_of_le (xhi := x0 ++ x1 ++ x2 ++ x3 ++ x4 ++ x5) (xlo := x6) (start := 2) (len := 1) (by decide)).trans <|
    (BitVec.extractLsb'_append_eq_of_add_le (xhi := x0 ++ x1 ++ x2 ++ x3 ++ x4) (xlo := x5) (start := 0) (len := 1) (by decide)).trans <|
    (BitVec.extractLsb'_eq_self)

theorem Encoding.fld_22_0_2 (x0 : BitVec 9) (x1 : BitVec 3) (x2 : BitVec 5) (x3 : BitVec 5) (x4 : BitVec 7) (x5 : BitVec 1) (x6 : BitVec 2) :
    fld (x0 ++ x1 ++ x2 ++ x3 ++ x4 ++ x5 ++ x6) 0 2 = x6 :=
  (BitVec.extractLsb'_append_eq_of_add_le (xhi := x0 ++ x1 ++ x2 ++ x3 ++ x4 ++ x5) (xlo := x6) (start := 0) (len := 2) (by decide)).trans <|
    (BitVec.extractLsb'_eq_self)

theorem Encoding.fld_23_28_4 (x0 : BitVec 7) (x1 : BitVec 3) (x2 : BitVec 5) (x3 : BitVec 17) :
    fld (x0 ++ x1 ++ x2 ++ x3) 28 4 = x0.extractLsb' 3 4 :=
  (BitVec.extractLsb'_append_eq_of_le (xhi := x0 ++ x1 ++ x2) (xlo := x3) (start := 28) (len := 4) (by decide)).trans <|
    (BitVec.extractLsb'_append_eq_of_le (xhi := x0 ++ x1) (xlo := x2) (start := 11) (len := 4) (by decide)).trans <|
    (BitVec.extractLsb'_append_eq_of_le (xhi := x0) (xlo := x1) (start := 6) (len := 4) (by decide))

theorem Encoding.fld_23_25_4 (x0 : BitVec 7) (x1 : BitVec 3) (x2 : BitVec 5) (x3 : BitVec 17) :
    fld (x0 ++ x1 ++ x2 ++ x3) 25 4 = x0.extractLsb' 0 4 :=
  (BitVec.extractLsb'_append_eq_of_le (xhi := x0 ++ x1 ++ x2) (xlo := x3) (start := 25) (len := 4) (by decide)).trans <|
    (BitVec.extractLsb'_append_eq_of_le (xhi := x0 ++ x1) (xlo := x2) (start := 8) (len := 4) (by decide)).trans <|
    (BitVec.extractLsb'_append_eq_of_le (xhi := x0) (xlo := x1) (start := 3) (len := 4) (by decide))

theorem Encoding.fld_23_22_3 (x0 : BitVec 7) (x1 : BitVec 3) (x2 : BitVec 5) (x3 : BitVec 17) :
    fld (x0 ++ x1 ++ x2 ++ x3) 22 3 = x1 :=
  (BitVec.extractLsb'_append_eq_of_le (xhi := x0 ++ x1 ++ x2) (xlo := x3) (start := 22) (len := 3) (by decide)).trans <|
    (BitVec.extractLsb'_append_eq_of_le (xhi := x0 ++ x1) (xlo := x2) (start := 5) (len := 3) (by decide)).trans <|
    (BitVec.extractLsb'_append_eq_of_add_le (xhi := x0) (xlo := x1) (start := 0) (len := 3) (by decide)).trans <|
    (BitVec.extractLsb'_eq_self)

theorem Encoding.fld_23_17_5 (x0 : BitVec 7) (x1 : BitVec 3) (x2 : BitVec 5) (x3 : BitVec 17) :
    fld (x0 ++ x1 ++ x2 ++ x3) 17 5 = x2 :=
  (BitVec.extractLsb'_append_eq_of_le (xhi := x0 ++ x1 ++ x2) (xlo := x3) (start := 17) (len := 5) (by decide)).trans <|
    (BitVec.extractLsb'_append_eq_of_add_le (xhi := x0 ++ x1) (xlo := x2) (start := 0) (len := 5) (by decide)).trans <|
    (BitVec.extractLsb'_eq_self)

theorem Encoding.fld_23_0_17 (x0 : BitVec 7) (x1 : BitVec 3) (x2 : BitVec 5) (x3 : BitVec 17) :
    fld (x0 ++ x1 ++ x2 ++ x3) 0 17 = x3 :=
  (BitVec.extractLsb'_append_eq_of_add_le (xhi := x0 ++ x1 ++ x2) (xlo := x3) (start := 0) (len := 17) (by decide)).trans <|
    (BitVec.extractLsb'_eq_self)

theorem Encoding.fld_24_28_4 (x0 : BitVec 7) (x1 : BitVec 3) (x2 : BitVec 5) (x3 : BitVec 2) (x4 : BitVec 2) (x5 : BitVec 2) (x6 : BitVec 11) :
    fld (x0 ++ x1 ++ x2 ++ x3 ++ x4 ++ x5 ++ x6) 28 4 = x0.extractLsb' 3 4 :=
  (BitVec.extractLsb'_append_eq_of_le (xhi := x0 ++ x1 ++ x2 ++ x3 ++ x4 ++ x5) (xlo := x6) (start := 28) (len := 4) (by decide)).trans <|
    (BitVec.extractLsb'_append_eq_of_le (xhi := x0 ++ x1 ++ x2 ++ x3 ++ x4) (xlo := x5) (start := 17) (len := 4) (by decide)).trans <|
    (BitVec.extractLsb'_append_eq_of_le (xhi := x0 ++ x1 ++ x2 ++ x3) (xlo := x4) (start := 15) (len := 4) (by decide)).trans <|
    (BitVec.extractLsb'_append_eq_of_le (xhi := x0 ++ x1 ++ x2) (xlo := x3) (start := 13) (len := 4) (by decide)).trans <|
    (BitVec.extractLsb'_append_eq_of_le (xhi := x0 ++ x1) (xlo := x2) (start := 11) (len := 4) (by decide)).trans <|
    (BitVec.extractLsb'_append_eq_of_le (xhi := x0) (xlo := x1) (start := 6) (len := 4) (by decide))

theorem Encoding.fld_24_25_4 (x0 : BitVec 7) (x1 : BitVec 3) (x2 : BitVec 5) (x3 : BitVec 2) (x4 : BitVec 2) (x5 : BitVec 2) (x6 : BitVec 11) :
    fld (x0 ++ x1 ++ x2 ++ x3 ++ x4 ++ x5 ++ x6) 25 4 = x0.extractLsb' 0 4 :=
  (BitVec.extractLsb'_append_eq_of_le (xhi := x0 ++ x1 ++ x2 ++ x3 ++ x4 ++ x5) (xlo := x6) (start := 25) (len := 4) (by decide)).trans <|
    (BitVec.extractLsb'_append_eq_of_le (xhi := x0 ++ x1 ++ x2 ++ x3 ++ x4) (xlo := x5) (start := 14) (len := 4) (by decide)).trans <|
    (BitVec.extractLsb'_append_eq_of_le (xhi := x0 ++ x1 ++ x2 ++ x3) (xlo := x4) (start := 12) (len := 4) (by decide)).trans <|
    (BitVec.extractLsb'_append_eq_of_le (xhi := x0 ++ x1 ++ x2) (xlo := x3) (start := 10) (len := 4) (by decide)).trans <|
    (BitVec.extractLsb'_append_eq_of_le (xhi := x0 ++ x1) (xlo := x2) (start := 8) (len := 4) (by decide)).trans <|
    (BitVec.extractLsb'_append_eq_of_le (xhi := x0) (xlo := x1) (start := 3) (len := 4) (by decide))

theorem Encoding.fld_24_22_3 (x0 : BitVec 7) (x1 : BitVec 3) (x2 : BitVec 5) (x3 : BitVec 2) (x4 : BitVec 2) (x5 : BitVec 2) (x6 : BitVec 11) :
    fld (x0 ++ x1 ++ x2 ++ x3 ++ x4 ++ x5 ++ x6) 22 3 = x1 :=
  (BitVec.extractLsb'_append_eq_of_le (xhi := x0 ++ x1 ++ x2 ++ x3 ++ x4 ++ x5) (xlo := x6) (start := 22) (len := 3) (by decide)).trans <|
    (BitVec.extractLsb'_append_eq_of_le (xhi := x0 ++ x1 ++ x2 ++ x3 ++ x4) (xlo := x5) (start := 11) (len := 3) (by decide)).trans <|
    (BitVec.extractLsb'_append_eq_of_le (xhi := x0 ++ x1 ++ x2 ++ x3) (xlo := x4) (start := 9) (len := 3) (by decide)).trans <|
    (BitVec.extractLsb'_append_eq_of_le (xhi := x0 ++ x1 ++ x2) (xlo := x3) (start := 7) (len := 3) (by decide)).trans <|
    (BitVec.extractLsb'_append_eq_of_le (xhi := x0 ++ x1) (xlo := x2) (start := 5) (len := 3) (by decide)).trans <|
    (BitVec.extractLsb'_append_eq_of_add_le (xhi := x0) (xlo := x1) (start := 0) (len := 3) (by decide)).trans <|
    (BitVec.extractLsb'_eq_self)

theorem Encoding.fld_24_17_5 (x0 : BitVec 7) (x1 : BitVec 3) (x2 : BitVec 5) (x3 : BitVec 2) (x4 : BitVec 2) (x5 : BitVec 2) (x6 : BitVec 11) :
    fld (x0 ++ x1 ++ x2 ++ x3 ++ x4 ++ x5 ++ x6) 17 5 = x2 :=
  (BitVec.extractLsb'_append_eq_of_le (xhi := x0 ++ x1 ++ x2 ++ x3 ++ x4 ++ x5) (xlo := x6) (start := 17) (len := 5) (by decide)).trans <|
    (BitVec.extractLsb'_append_eq_of_le (xhi := x0 ++ x1 ++ x2 ++ x3 ++ x4) (xlo := x5) (start := 6) (len := 5) (by decide)).trans <|
    (BitVec.extractLsb'_append_eq_of_le (xhi := x0 ++ x1 ++ x2 ++ x3) (xlo := x4) (start := 4) (len := 5) (by decide)).trans <|
    (BitVec.extractLsb'_append_eq_of_le (xhi := x0 ++ x1 ++ x2) (xlo := x3) (start := 2) (len := 5) (by decide)).trans <|
    (BitVec.extractLsb'_append_eq_of_add_le (xhi := x0 ++ x1) (xlo := x2) (start := 0) (len := 5) (by decide)).trans <|
    (BitVec.extractLsb'_eq_self)

theorem Encoding.fld_24_15_2 (x0 : BitVec 7) (x1 : BitVec 3) (x2 : BitVec 5) (x3 : BitVec 2) (x4 : BitVec 2) (x5 : BitVec 2) (x6 : BitVec 11) :
    fld (x0 ++ x1 ++ x2 ++ x3 ++ x4 ++ x5 ++ x6) 15 2 = x3 :=
  (BitVec.extractLsb'_append_eq_of_le (xhi := x0 ++ x1 ++ x2 ++ x3 ++ x4 ++ x5) (xlo := x6) (start := 15) (len := 2) (by decide)).trans <|
    (BitVec.extractLsb'_append_eq_of_le (xhi := x0 ++ x1 ++ x2 ++ x3 ++ x4) (xlo := x5) (start := 4) (len := 2) (by decide)).trans <|
    (BitVec.extractLsb'_append_eq_of_le (xhi := x0 ++ x1 ++ x2 ++ x3) (xlo := x4) (start := 2) (len := 2) (by decide)).trans <|
    (BitVec.extractLsb'_append_eq_of_add_le (xhi := x0 ++ x1 ++ x2) (xlo := x3) (start := 0) (len := 2) (by decide)).trans <|
    (BitVec.extractLsb'_eq_self)

theorem Encoding.fld_24_13_2 (x0 : BitVec 7) (x1 : BitVec 3) (x2 : BitVec 5) (x3 : BitVec 2) (x4 : BitVec 2) (x5 : BitVec 2) (x6 : BitVec 11) :
    fld (x0 ++ x1 ++ x2 ++ x3 ++ x4 ++ x5 ++ x6) 13 2 = x4 :=
  (BitVec.extractLsb'_append_eq_of_le (xhi := x0 ++ x1 ++ x2 ++ x3 ++ x4 ++ x5) (xlo := x6) (start := 13) (len := 2) (by decide)).trans <|
    (BitVec.extractLsb'_append_eq_of_le (xhi := x0 ++ x1 ++ x2 ++ x3 ++ x4) (xlo := x5) (start := 2) (len := 2) (by decide)).trans <|
    (BitVec.extractLsb'_append_eq_of_add_le (xhi := x0 ++ x1 ++ x2 ++ x3) (xlo := x4) (start := 0) (len := 2) (by decide)).trans <|
    (BitVec.extractLsb'_eq_self)

theorem Encoding.fld_24_11_2 (x0 : BitVec 7) (x1 : BitVec 3) (x2 : BitVec 5) (x3 : BitVec 2) (x4 : BitVec 2) (x5 : BitVec 2) (x6 : BitVec 11) :
    fld (x0 ++ x1 ++ x2 ++ x3 ++ x4 ++ x5 ++ x6) 11 2 = x5 :=
  (BitVec.extractLsb'_append_eq_of_le (xhi := x0 ++ x1 ++ x2 ++ x3 ++ x4 ++ x5) (xlo := x6) (start := 11) (len := 2) (by decide)).trans <|
    (BitVec.extractLsb'_append_eq_of_add_le (xhi := x0 ++ x1 ++ x2 ++ x3 ++ x4) (xlo := x5) (start := 0) (len := 2) (by decide)).trans <|
    (BitVec.extractLsb'_eq_self)

theorem Encoding.fld_24_0_11 (x0 : BitVec 7) (x1 : BitVec 3) (x2 : BitVec 5) (x3 : BitVec 2) (x4 : BitVec 2) (x5 : BitVec 2) (x6 : BitVec 11) :
    fld (x0 ++ x1 ++ x2 ++ x3 ++ x4 ++ x5 ++ x6) 0 11 = x6 :=
  (BitVec.extractLsb'_append_eq_of_add_le (xhi := x0 ++ x1 ++ x2 ++ x3 ++ x4 ++ x5) (xlo := x6) (start := 0) (len := 11) (by decide)).trans <|
    (BitVec.extractLsb'_eq_self)

theorem Encoding.fld_25_28_4 (x0 : BitVec 8) (x1 : BitVec 4) (x2 : BitVec 12) (x3 : BitVec 4) (x4 : BitVec 4) :
    fld (x0 ++ x1 ++ x2 ++ x3 ++ x4) 28 4 = x0.extractLsb' 4 4 :=
  (BitVec.extractLsb'_append_eq_of_le (xhi := x0 ++ x1 ++ x2 ++ x3) (xlo := x4) (start := 28) (len := 4) (by decide)).trans <|
    (BitVec.extractLsb'_append_eq_of_le (xhi := x0 ++ x1 ++ x2) (xlo := x3) (start := 24) (len := 4) (by decide)).trans <|
    (BitVec.extractLsb'_append_eq_of_le (xhi := x0 ++ x1) (xlo := x2) (start := 20) (len := 4) (by decide)).trans <|
    (BitVec.extractLsb'_append_eq_of_le (xhi := x0) (xlo := x1) (start := 8) (len := 4) (by decide))

theorem Encoding.fld_25_24_5 (x0 : BitVec 8) (x1 : BitVec 4) (x2 : BitVec 12) (x3 : BitVec 4) (x4 : BitVec 4) :
    fld (x0 ++ x1 ++ x2 ++ x3 ++ x4) 24 5 = x0.extractLsb' 0 5 :=
  (BitVec.extractLsb'_append_eq_of_le (xhi := x0 ++ x1 ++ x2 ++ x3) (xlo := x4) (start := 24) (len := 5) (by decide)).trans <|
    (BitVec.extractLsb'_append_eq_of_le (xhi := x0 ++ x1 ++ x2) (xlo := x3) (start := 20) (len := 5) (by decide)).trans <|
    (BitVec.extractLsb'_append_eq_of_le (xhi := x0 ++ x1) (xlo := x2) (start := 16) (len := 5) (by decide)).trans <|
    (BitVec.extractLsb'_append_eq_of_le (xhi := x0) (xlo := x1) (start := 4) (len := 5) (by decide))

theorem Encoding.fld_25_20_4 (x0 : BitVec 8) (x1 : BitVec 4) (x2 : BitVec 12) (x3 : BitVec 4) (x4 : BitVec 4) :
    fld (x0 ++ x1 ++ x2 ++ x3 ++ x4) 20 4 = x1 :=
  (BitVec.extractLsb'_append_eq_of_le (xhi := x0 ++ x1 ++ x2 ++ x3) (xlo := x4) (start := 20) (len := 4) (by decide)).trans <|
    (BitVec.extractLsb'_append_eq_of_le (xhi := x0 ++ x1 ++ x2) (xlo := x3) (start := 16) (len := 4) (by decide)).trans <|
    (BitVec.extractLsb'_append_eq_of_le (xhi := x0 ++ x1) (xlo := x2) (start := 12) (len := 4) (by decide)).trans <|
    (BitVec.extractLsb'_append_eq_of_add_le (xhi := x0) (xlo := x1) (start := 0) (len := 4) (by decide)).trans <|
    (BitVec.extractLsb'_eq_self)

theorem Encoding.fld_25_8_12 (x0 : BitVec 8) (x1 : BitVec 4) (x2 : BitVec 12) (x3 : BitVec 4) (x4 : BitVec 4) :
    fld (x0 ++ x1 ++ x2 ++ x3 ++ x4) 8 12 = x2 :=
  (BitVec.extractLsb'_append_eq_of_le (xhi := x0 ++ x1 ++ x2 ++ x3) (xlo := x4) (start := 8) (len := 12) (by decide)).trans <|
    (BitVec.extractLsb'_append_eq_of_le (xhi := x0 ++ x1 ++ x2) (xlo := x3) (start := 4) (len := 12) (by decide)).trans <|
    (BitVec.extractLsb'_append_eq_of_add_le (xhi := x0 ++ x1) (xlo := x2) (start := 0) (len := 12) (by decide)).trans <|
    (BitVec.extractLsb'_eq_self)

theorem Encoding.fld_25_4_4 (x0 : BitVec 8) (x1 : BitVec 4) (x2 : BitVec 12) (x3 : BitVec 4) (x4 : BitVec 4) :
    fld (x0 ++ x1 ++ x2 ++ x3 ++ x4) 4 4 = x3 :=
  (BitVec.extractLsb'_append_eq_of_le (xhi := x0 ++ x1 ++ x2 ++ x3) (xlo := x4) (start := 4) (len := 4) (by decide)).trans <|
    (BitVec.extractLsb'_append_eq_of_add_le (xhi := x0 ++ x1 ++ x2) (xlo := x3) (start := 0) (len := 4) (by decide)).trans <|
    (BitVec.extractLsb'_eq_self)

theorem Encoding.fld_25_0_4 (x0 : BitVec 8) (x1 : BitVec 4) (x2 : BitVec 12) (x3 : BitVec 4) (x4 : BitVec 4) :
    fld (x0 ++ x1 ++ x2 ++ x3 ++ x4) 0 4 = x4 :=
  (BitVec.extractLsb'_append_eq_of_add_le (xhi := x0 ++ x1 ++ x2 ++ x3) (xlo := x4) (start := 0) (len := 4) (by decide)).trans <|
    (BitVec.extractLsb'_eq_self)

theorem Encoding.fld_26_28_4 (x0 : BitVec 8) (x1 : BitVec 3) (x2 : BitVec 21) :
    fld (x0 ++ x1 ++ x2) 28 4 = x0.extractLsb' 4 4 :=
  (BitVec.extractLsb'_append_eq_of_le (xhi := x0 ++ x1) (xlo := x2) (start := 28) (len := 4) (by decide)).trans <|
    (BitVec.extractLsb'_append_eq_of_le (xhi := x0) (xlo := x1) (start := 7) (len := 4) (by decide))

theorem Encoding.fld_26_24_5 (x0 : BitVec 8) (x1 : BitVec 3) (x2 : BitVec 21) :
    fld (x0 ++ x1 ++ x2) 24 5 = x0.extractLsb' 0 5 :=
  (BitVec.extractLsb'_append_eq_of_le (xhi := x0 ++ x1) (xlo := x2) (start := 24) (len := 5) (by decide)).trans <|
    (BitVec.extractLsb'_append_eq_of_le (xhi := x0) (xlo := x1) (start := 3) (len := 5) (by decide))

theorem Encoding.fld_26_21_3 (x0 : BitVec 8) (x1 : BitVec 3) (x2 : BitVec 21) :
    fld (x0 ++ x1 ++ x2) 21 3 = x1 :=
  (BitVec.extractLsb'_append_eq_of_le (xhi := x0 ++ x1) (xlo := x2) (start := 21) (len := 3) (by decide)).trans <|
    (BitVec.extractLsb'_append_eq_of_add_le (xhi := x0) (xlo := x1) (start := 0) (len := 3) (by decide)).trans <|
    (BitVec.extractLsb'_eq_self)

theorem Encoding.fld_26_0_21 (x0 : BitVec 8) (x1 : BitVec 3) (x2 : BitVec 21) :
    fld (x0 ++ x1 ++ x2) 0 21 = x2 :=
  (BitVec.extractLsb'_append_eq_of_add_le (xhi := x0 ++ x1) (xlo := x2) (start := 0) (len := 21) (by decide)).trans <|
    (BitVec.extractLsb'_eq_self)

theorem Encoding.fld_27_28_4 (x0 : BitVec 8) (x1 : BitVec 3) (x2 : BitVec 4) (x3 : BitVec 5) (x4 : BitVec 12) :
    fld (x0 ++ x1 ++ x2 ++ x3 ++ x4) 28 4 = x0.extractLsb' 4 4 :=
  (BitVec.extractLsb'_append_eq_of_le (xhi := x0 ++ x1 ++ x2 ++ x3) (xlo := x4) (start := 28) (len := 4) (by decide)).trans <|
    (BitVec.extractLsb'_append_eq_of_le (xhi := x0 ++ x1 ++ x2) (xlo := x3) (start := 16) (len := 4) (by decide)).trans <|
    (BitVec.extractLsb'_append_eq_of_le (xhi := x0 ++ x1) (xlo := x2) (start := 11) (len := 4) (by decide)).trans <|
    (BitVec.extractLsb'_append_eq_of_le (xhi := x0) (xlo := x1) (start := 7) (len := 4) (by decide))

theorem Encoding.fld_27_24_5 (x0 : BitVec 8) (x1 : BitVec 3) (x2 : BitVec 4) (x3 : BitVec 5) (x4 : BitVec 12) :
    fld (x0 ++ x1 ++ x2 ++ x3 ++ x4) 24 5 = x0.extractLsb' 0 5 :=
  (BitVec.extractLsb'_append_eq_of_le (xhi := x0 ++ x1 ++ x2 ++ x3) (xlo := x4) (start := 24) (len := 5) (by decide)).trans <|
    (BitVec.extractLsb'_append_eq_of_le (xhi := x0 ++ x1 ++ x2) (xlo := x3) (start := 12) (len := 5) (by decide)).trans <|
    (BitVec.extractLsb'_append_eq_of_le (xhi := x0 ++ x1) (xlo := x2) (start := 7) (len := 5) (by decide)).trans <|
    (BitVec.extractLsb'_append_eq_of_le (xhi := x0) (xlo := x1) (start := 3) (len := 5) (by decide))

theorem Encoding.fld_27_21_3 (x0 : BitVec 8) (x1 : BitVec 3) (x2 : BitVec 4) (x3 : BitVec 5) (x4 : BitVec 12) :
    fld (x0 ++ x1 ++ x2 ++ x3 ++ x4) 21 3 = x1 :=
  (BitVec.extractLsb'_append_eq_of_le (xhi := x0 ++ x1 ++ x2 ++ x3) (xlo := x4) (start := 21) (len := 3) (by decide)).trans <|
    (BitVec.extractLsb'_append_eq_of_le (xhi := x0 ++ x1 ++ x2) (xlo := x3) (start := 9) (len := 3) (by decide)).trans <|
    (BitVec.extractLsb'_append_eq_of_le (xhi := x0 ++ x1) (xlo := x2) (start := 4) (len := 3) (by decide)).trans <|
    (BitVec.extractLsb'_append_eq_of_add_le (xhi := x0) (xlo := x1) (start := 0) (len := 3) (by decide)).trans <|
    (BitVec.extractLsb'_eq_self)

theorem Encoding.fld_27_17_4 (x0 : BitVec 8) (x1 : BitVec 3) (x2 : BitVec 4) (x3 : BitVec 5) (x4 : BitVec 12) :
    fld (x0 ++ x1 ++ x2 ++ x3 ++ x4) 17 4 = x2 :=
  (BitVec.extractLsb'_append_eq_of_le (xhi := x0 ++ x1 ++ x2 ++ x3) (xlo := x4) (start := 17) (len := 4) (by decide)).trans <|
    (BitVec.extractLsb'_append_eq_of_le (xhi := x0 ++ x1 ++ x2) (xlo := x3) (start := 5) (len := 4) (by decide)).trans <|
    (BitVec.extractLsb'_append_eq_of_add_le (xhi := x0 ++ x1) (xlo := x2) (start := 0) (len := 4) (by decide)).trans <|
    (BitVec.extractLsb'_eq_self)

theorem Encoding.fld_27_12_5 (x0 : BitVec 8) (x1 : BitVec 3) (x2 : BitVec 4) (x3 : BitVec 5) (x4 : BitVec 12) :
    fld (x0 ++ x1 ++ x2 ++ x3 ++ x4) 12 5 = x3 :=
  (BitVec.extractLsb'_append_eq_of_le (xhi := x0 ++ x1 ++ x2 ++ x3) (xlo := x4) (start := 12) (len := 5) (by decide)).trans <|
    (BitVec.extractLsb'_append_eq_of_add_le (xhi := x0 ++ x1 ++ x2) (xlo := x3) (start := 0) (len := 5) (by decide)).trans <|
    (BitVec.extractLsb'_eq_self)

theorem Encoding.fld_28_28_4 (x0 : BitVec 8) (x1 : BitVec 3) (x2 : BitVec 4) (x3 : BitVec 3) (x4 : BitVec 8) (x5 : BitVec 5) (x6 : BitVec 1) :
    fld (x0 ++ x1 ++ x2 ++ x3 ++ x4 ++ x5 ++ x6) 28 4 = x0.extractLsb' 4 4 :=
  (BitVec.extractLsb'_append_eq_of_le (xhi := x0 ++ x1 ++ x2 ++ x3 ++ x4 ++ x5) (xlo := x6) (start := 28) (len := 4) (by decide)).trans <|
    (BitVec.extractLsb'_append_eq_of_le (xhi := x0 ++ x1 ++ x2 ++ x3 ++ x4) (xlo := x5) (start := 27) (len := 4) (by decide)).trans <|
    (BitVec.extractLsb'_append_eq_of_le (xhi := x0 ++ x1 ++ x2 ++ x3) (xlo := x4) (start := 22) (len := 4) (by decide)).trans <|
    (BitVec.extractLsb'_append_eq_of_le (xhi := x0 ++ x1 ++ x2) (xlo := x3) (start := 14) (len := 4) (by decide)).trans <|
    (BitVec.extractLsb'_append_eq_of_le (xhi := x0 ++ x1) (xlo := x2) (start := 11) (len := 4) (by decide)).trans <|
    (BitVec.extractLsb'_append_eq_of_le (xhi := x0) (xlo := x1) (start := 7) (len := 4) (by decide))

theorem Encoding.fld_28_24_5 (x0 : BitVec 8) (x1 : BitVec 3) (x2 : BitVec 4) (x3 : BitVec 3) (x4 : BitVec 8) (x5 : BitVec 5) (x6 : BitVec 1) :
    fld (x0 ++ x1 ++ x2 ++ x3 ++ x4 ++ x5 ++ x6) 24 5 = x0.extractLsb' 0 5 :=
  (BitVec.extractLsb'_append_eq_of_le (xhi := x0 ++ x1 ++ x2 ++ x3 ++ x4 ++ x5) (xlo := x6) (start := 24) (len := 5) (by decide)).trans <|
    (BitVec.extractLsb'_append_eq_of_le (xhi := x0 ++ x1 ++ x2 ++ x3 ++ x4) (xlo := x5) (start := 23) (len := 5) (by decide)).trans <|
    (BitVec.extractLsb'_append_eq_of_le (xhi := x0 ++ x1 ++ x2 ++ x3) (xlo := x4) (start := 18) (len := 5) (by decide)).trans <|
    (BitVec.extractLsb'_append_eq_of_le (xhi := x0 ++ x1 ++ x2) (xlo := x3) (start := 10) (len := 5) (by decide)).trans <|
    (BitVec.extractLsb'_append_eq_of_le (xhi := x0 ++ x1) (xlo := x2) (start := 7) (len := 5) (by decide)).trans <|
    (BitVec.extractLsb'_append_eq_of_le (xhi := x0) (xlo := x1) (start := 3) (len := 5) (by decide))

theorem Encoding.fld_28_21_3 (x0 : BitVec 8) (x1 : BitVec 3) (x2 : BitVec 4) (x3 : BitVec 3) (x4 : BitVec 8) (x5 : BitVec 5) (x6 : BitVec 1) :
    fld (x0 ++ x1 ++ x2 ++ x3 ++ x4 ++ x5 ++ x6) 21 3 = x1 :=
  (BitVec.extractLsb'_append_eq_of_le (xhi := x0 ++ x1 ++ x2 ++ x3 ++ x4 ++ x5) (xlo := x6) (start := 21) (len := 3) (by decide)).trans <|
    (BitVec.extractLsb'_append_eq_of_le (xhi := x0 ++ x1 ++ x2 ++ x3 ++ x4) (xlo := x5) (start := 20) (len := 3) (by decide)).trans <|
    (BitVec.extractLsb'_append_eq_of_le (xhi := x0 ++ x1 ++ x2 ++ x3) (xlo := x4) (start := 15) (len := 3) (by decide)).trans <|
    (BitVec.extractLsb'_append_eq_of_le (xhi := x0 ++ x1 ++ x2) (xlo := x3) (start := 7) (len := 3) (by decide)).trans <|
    (BitVec.extractLsb'_append_eq_of_le (xhi := x0 ++ x1) (xlo := x2) (start := 4) (len := 3) (by decide)).trans <|
    (BitVec.extractLsb'_append_eq_of_add_le (xhi := x0) (xlo := x1) (start := 0) (len := 3) (by decide)).trans <|
    (BitVec.extractLsb'_eq_self)

theorem Encoding.fld_28_17_4 (x0 : BitVec 8) (x1 : BitVec 3) (x2 : BitVec 4) (x3 : BitVec 3) (x4 : BitVec 8) (x5 : BitVec 5) (x6 : BitVec 1) :
    fld (x0 ++ x1 ++ x2 ++ x3 ++ x4 ++ x5 ++ x6) 17 4 = x2 :=
  (BitVec.extractLsb'_append_eq_of_le (xhi := x0 ++ x1 ++ x2 ++ x3 ++ x4 ++ x5) (xlo := x6) (start := 17) (len := 4) (by decide)).trans <|
    (BitVec.extractLsb'_append_eq_of_le (xhi := x0 ++ x1 ++ x2 ++ x3 ++ x4) (xlo := x5) (start := 16) (len := 4) (by decide)).trans <|
    (BitVec.extractLsb'_append_eq_of_le (xhi := x0 ++ x1 ++ x2 ++ x3) (xlo := x4) (start := 11) (len := 4) (by decide)).trans <|
    (BitVec.extractLsb'_append_eq_of_le (xhi := x0 ++ x1 ++ x2) (xlo := x3) (start := 3) (len := 4) (by decide)).trans <|
    (BitVec.extractLsb'_append_eq_of_add_le (xhi := x0 ++ x1) (xlo := x2) (start := 0) (len := 4) (by decide)).trans <|
    (BitVec.extractLsb'_eq_self)

theorem Encoding.fld_28_14_3 (x0 : BitVec 8) (x1 : BitVec 3) (x2 : BitVec 4) (x3 : BitVec 3) (x4 : BitVec 8) (x5 : BitVec 5) (x6 : BitVec 1) :
    fld (x0 ++ x1 ++ x2 ++ x3 ++ x4 ++ x5 ++ x6) 14 3 = x3 :=
  (BitVec.extractLsb'_append_eq_of_le (xhi := x0 ++ x1 ++ x2 ++ x3 ++ x4 ++ x5) (xlo := x6) (start := 14) (len := 3) (by decide)).trans <|
    (BitVec.extractLsb'_append_eq_of_le (xhi := x0 ++ x1 ++ x2 ++ x3 ++ x4) (xlo := x5) (start := 13) (len := 3) (by decide)).trans <|
    (BitVec.extractLsb'_append_eq_of_le (xhi := x0 ++ x1 ++ x2 ++ x3) (xlo := x4) (start := 8) (len := 3) (by decide)).trans <|
    (BitVec.extractLsb'_append_eq_of_add_le (xhi := x0 ++ x1 ++ x2) (xlo := x3) (start := 0) (len := 3) (by decide)).trans <|
    (BitVec.extractLsb'_eq_self)

theorem Encoding.fld_28_6_8 (x0 : BitVec 8) (x1 : BitVec 3) (x2 : BitVec 4) (x3 : BitVec 3) (x4 : BitVec 8) (x5 : BitVec 5) (x6 : BitVec 1) :
    fld (x0 ++ x1 ++ x2 ++ x3 ++ x4 ++ x5 ++ x6) 6 8 = x4 :=
  (BitVec.extractLsb'_append_eq_of_le (xhi := x0 ++ x1 ++ x2 ++ x3 ++ x4 ++ x5) (xlo := x6) (start := 6) (len := 8) (by decide)).trans <|
    (BitVec.extractLsb'_append_eq_of_le (xhi := x0 ++ x1 ++ x2 ++ x3 ++ x4) (xlo := x5) (start := 5) (len := 8) (by decide)).trans <|
    (BitVec.extractLsb'_append_eq_of_add_le (xhi := x0 ++ x1 ++ x2 ++ x3) (xlo := x4) (start := 0) (len := 8) (by decide)).trans <|
    (BitVec.extractLsb'_eq_self)

theorem Encoding.fld_28_1_5 (x0 : BitVec 8) (x1 : BitVec 3) (x2 : BitVec 4) (x3 : BitVec 3) (x4 : BitVec 8) (x5 : BitVec 5) (x6 : BitVec 1) :
    fld (x0 ++ x1 ++ x2 ++ x3 ++ x4 ++ x5 ++ x6) 1 5 = x5 :=
  (BitVec.extractLsb'_append_eq_of_le (xhi := x0 ++ x1 ++ x2 ++ x3 ++ x4 ++ x5) (xlo := x6) (start := 1) (len := 5) (by decide)).trans <|
    (BitVec.extractLsb'_append_eq_of_add_le (xhi := x0 ++ x1 ++ x2 ++ x3 ++ x4) (xlo := x5) (start := 0) (len := 5) (by decide)).trans <|
    (BitVec.extractLsb'_eq_self)

theorem Encoding.fld_28_0_1 (x0 : BitVec 8) (x1 : BitVec 3) (x2 : BitVec 4) (x3 : BitVec 3) (x4 : BitVec 8) (x5 : BitVec 5) (x6 : BitVec 1) :
    fld (x0 ++ x1 ++ x2 ++ x3 ++ x4 ++ x5 ++ x6) 0 1 = x6 :=
  (BitVec.extractLsb'_append_eq_of_add_le (xhi := x0 ++ x1 ++ x2 ++ x3 ++ x4 ++ x5) (xlo := x6) (start := 0) (len := 1) (by decide)).trans <|
    (BitVec.extractLsb'_eq_self)

theorem Encoding.fld_29_28_4 (x0 : BitVec 8) (x1 : BitVec 3) (x2 : BitVec 1) (x3 : BitVec 3) (x4 : BitVec 3) (x5 : BitVec 8) (x6 : BitVec 6) :
    fld (x0 ++ x1 ++ x2 ++ x3 ++ x4 ++ x5 ++ x6) 28 4 = x0.extractLsb' 4 4 :=
  (BitVec.extractLsb'_append_eq_of_le (xhi := x0 ++ x1 ++ x2 ++ x3 ++ x4 ++ x5) (xlo := x6) (start := 28) (len := 4) (by decide)).trans <|
    (BitVec.extractLsb'_append_eq_of_le (xhi := x0 ++ x1 ++ x2 ++ x3 ++ x4) (xlo := x5) (start := 22) (len := 4) (by decide)).trans <|
    (BitVec.extractLsb'_append_eq_of_le (xhi := x0 ++ x1 ++ x2 ++ x3) (xlo := x4) (start := 14) (len := 4) (by decide)).trans <|
    (BitVec.extractLsb'_append_eq_of_le (xhi := x0 ++ x1 ++ x2) (xlo := x3) (start := 11) (len := 4) (by decide)).trans <|
    (BitVec.extractLsb'_append_eq_of_le (xhi := x0 ++ x1) (xlo := x2) (start := 8) (len := 4) (by decide)).trans <|
    (BitVec.extractLsb'_append_eq_of_le (xhi := x0) (xlo := x1) (start := 7) (len := 4) (by decide))

theorem Encoding.fld_29_24_5 (x0 : BitVec 8) (x1 : BitVec 3) (x2 : BitVec 1) (x3 : BitVec 3) (x4 : BitVec 3) (x5 : BitVec 8) (x6 : BitVec 6) :
    fld (x0 ++ x1 ++ x2 ++ x3 ++ x4 ++ x5 ++ x6) 24 5 = x0.extractLsb' 0 5 :=
  (BitVec.extractLsb'_append_eq_of_le (xhi := x0 ++ x1 ++ x2 ++ x3 ++ x4 ++ x5) (xlo := x6) (start := 24) (len := 5) (by decide)).trans <|
    (BitVec.extractLsb'_append_eq_of_le (xhi := x0 ++ x1 ++ x2 ++ x3 ++ x4) (xlo := x5) (start := 18) (len := 5) (by decide)).trans <|
    (BitVec.extractLsb'_append_eq_of_le (xhi := x0 ++ x1 ++ x2 ++ x3) (xlo := x4) (start := 10) (len := 5) (by decide)).trans <|
    (BitVec.extractLsb'_append_eq_of_le (xhi := x0 ++ x1 ++ x2) (xlo := x3) (start := 7) (len := 5) (by decide)).trans <|
    (BitVec.extractLsb'_append_eq_of_le (xhi := x0 ++ x1) (xlo := x2) (start := 4) (len := 5) (by decide)).trans <|
    (BitVec.extractLsb'_append_eq_of_le (xhi := x0) (xlo := x1) (start := 3) (len := 5) (by decide))

theorem Encoding.fld_29_21_3 (x0 : BitVec 8) (x1 : BitVec 3) (x2 : BitVec 1) (x3 : BitVec 3) (x4 : BitVec 3) (x5 : BitVec 8) (x6 : BitVec 6) :
    fld (x0 ++ x1 ++ x2 ++ x3 ++ x4 ++ x5 ++ x6) 21 3 = x1 :=
  (BitVec.extractLsb'_append_eq_of_le (xhi := x0 ++ x1 ++ x2 ++ x3 ++ x4 ++ x5) (xlo := x6) (start := 21) (len := 3) (by decide)).trans <|
    (BitVec.extractLsb'_append_eq_of_le (xhi := x0 ++ x1 ++ x2 ++ x3 ++ x4) (xlo := x5) (start := 15) (len := 3) (by decide)).trans <|
    (BitVec.extractLsb'_append_eq_of_le (xhi := x0 ++ x1 ++ x2 ++ x3) (xlo := x4) (start := 7) (len := 3) (by decide)).trans <|
    (BitVec.extractLsb'_append_eq_of_le (xhi := x0 ++ x1 ++ x2) (xlo := x3) (start := 4) (len := 3) (by decide)).trans <|
    (BitVec.extractLsb'_append_eq_of_le (xhi := x0 ++ x1) (xlo := x2) (start := 1) (len := 3) (by decide)).trans <|
    (BitVec.extractLsb'_append_eq_of_add_le (xhi := x0) (xlo := x1) (start := 0) (len := 3) (by decide)).trans <|
    (BitVec.extractLsb'_eq_self)

theorem Encoding.fld_29_17_3 (x0 : BitVec 8) (x1 : BitVec 3) (x2 : BitVec 1) (x3 : BitVec 3) (x4 : BitVec 3) (x5 : BitVec 8) (x6 : BitVec 6) :
    fld (x0 ++ x1 ++ x2 ++ x3 ++ x4 ++ x5 ++ x6) 17 3 = x3 :=
  (BitVec.extractLsb'_append_eq_of_le (xhi := x0 ++ x1 ++ x2 ++ x3 ++ x4 ++ x5) (xlo := x6) (start := 17) (len := 3) (by decide)).trans <|
    (BitVec.extractLsb'_append_eq_of_le (xhi := x0 ++ x1 ++ x2 ++ x3 ++ x4) (xlo := x5) (start := 11) (len := 3) (by decide)).trans <|
    (BitVec.extractLsb'_append_eq_of_le (xhi := x0 ++ x1 ++ x2 ++ x3) (xlo := x4) (start := 3) (len := 3) (by decide)).trans <|
    (BitVec.extractLsb'_append_eq_of_add_le (xhi := x0 ++ x1 ++ x2) (xlo := x3) (start := 0) (len := 3) (by decide)).trans <|
    (BitVec.extractLsb'_eq_self)

theorem Encoding.fld_29_14_3 (x0 : BitVec 8) (x1 : BitVec 3) (x2 : BitVec 1) (x3 : BitVec 3) (x4 : BitVec 3) (x5 : BitVec 8) (x6 : BitVec 6) :
    fld (x0 ++ x1 ++ x2 ++ x3 ++ x4 ++ x5 ++ x6) 14 3 = x4 :=
  (BitVec.extractLsb'_append_eq_of_le (xhi := x0 ++ x1 ++ x2 ++ x3 ++ x4 ++ x5) (xlo := x6) (start := 14) (len := 3) (by decide)).trans <|
    (BitVec.extractLsb'_append_eq_of_le (xhi := x0 ++ x1 ++ x2 ++ x3 ++ x4) (xlo := x5) (start := 8) (len := 3) (by decide)).trans <|
    (BitVec.extractLsb'_append_eq_of_add_le (xhi := x0 ++ x1 ++ x2 ++ x3) (xlo := x4) (start := 0) (len := 3) (by decide)).trans <|
    (BitVec.extractLsb'_eq_self)

theorem Encoding.fld_29_6_8 (x0 : BitVec 8) (x1 : BitVec 3) (x2 : BitVec 1) (x3 : BitVec 3) (x4 : BitVec 3) (x5 : BitVec 8) (x6 : BitVec 6) :
    fld (x0 ++ x1 ++ x2 ++ x3 ++ x4 ++ x5 ++ x6) 6 8 = x5 :=
  (BitVec.extractLsb'_append_eq_of_le (xhi := x0 ++ x1 ++ x2 ++ x3 ++ x4 ++ x5) (xlo := x6) (start := 6) (len := 8) (by decide)).trans <|
    (BitVec.extractLsb'_append_eq_of_add_le (xhi := x0 ++ x1 ++ x2 ++ x3 ++ x4) (xlo := x5) (start := 0) (len := 8) (by decide)).trans <|
    (BitVec.extractLsb'_eq_self)

theorem Encoding.fld_30_28_4 (x0 : BitVec 8) (x1 : BitVec 3) (x2 : BitVec 1) (x3 : BitVec 3) (x4 : BitVec 3) (x5 : BitVec 8) (x6 : BitVec 5) (x7 : BitVec 1) :
    fld (x0 ++ x1 ++ x2 ++ x3 ++ x4 ++ x5 ++ x6 ++ x7) 28 4 = x0.extractLsb' 4 4 :=
  (BitVec.extractLsb'_append_eq_of_le (xhi := x0 ++ x1 ++ x2 ++ x3 ++ x4 ++ x5 ++ x6) (xlo := x7) (start := 28) (len := 4) (by decide)).trans <|
    (BitVec.extractLsb'_append_eq_of_le (xhi := x0 ++ x1 ++ x2 ++ x3 ++ x4 ++ x5) (xlo := x6) (start := 27) (len := 4) (by decide)).trans <|
    (BitVec.extractLsb'_append_eq_of_le (xhi := x0 ++ x1 ++ x2 ++ x3 ++ x4) (xlo := x5) (start := 22) (len := 4) (by decide)).trans <|
    (BitVec.extractLsb'_append_eq_of_le (xhi := x0 ++ x1 ++ x2 ++ x3) (xlo := x4) (start := 14) (len := 4) (by decide)).trans <|
    (BitVec.extractLsb'_append_eq_of_le (xhi := x0 ++ x1 ++ x2) (xlo := x3) (start := 11) (len := 4) (by decide)).trans <|
    (BitVec.extractLsb'_append_eq_of_le (xhi := x0 ++ x1) (xlo := x2) (start := 8) (len := 4) (by decide)).trans <|
    (BitVec.extractLsb'_append_eq_of_le (xhi := x0) (xlo := x1) (start := 7) (len := 4) (by decide))

theorem Encoding.fld_30_24_5 (x0 : BitVec 8) (x1 : BitVec 3) (x2 : BitVec 1) (x3 : BitVec 3) (x4 : BitVec 3) (x5 : BitVec 8) (x6 : BitVec 5) (x7 : BitVec 1) :
    fld (x0 ++ x1 ++ x2 ++ x3 ++ x4 ++ x5 ++ x6 ++ x7) 24 5 = x0.extractLsb' 0 5 :=
  (BitVec.extractLsb'_append_eq_of_le (xhi := x0 ++ x1 ++ x2 ++ x3 ++ x4 ++ x5 ++ x6) (xlo := x7) (start := 24) (len := 5) (by decide)).trans <|
    (BitVec.extractLsb'_append_eq_of_le (xhi := x0 ++ x1 ++ x2 ++ x3 ++ x4 ++ x5) (xlo := x6) (start := 23) (len := 5) (by decide)).trans <|
    (BitVec.extractLsb'_append_eq_of_le (xhi := x0 ++ x1 ++ x2 ++ x3 ++ x4) (xlo := x5) (start := 18) (len := 5) (by decide)).trans <|
    (BitVec.extractLsb'_append_eq_of_le (xhi := x0 ++ x1 ++ x2 ++ x3) (xlo := x4) (start := 10) (len := 5) (by decide)).trans <|
    (BitVec.extractLsb'_append_eq_of_le (xhi := x0 ++ x1 ++ x2) (xlo := x3) (start := 7) (len := 5) (by decide)).trans <|
    (BitVec.extractLsb'_append_eq_of_le (xhi := x0 ++ x1) (xlo := x2) (start := 4) (len := 5) (by decide)).trans <|
    (BitVec.extractLsb'_append_eq_of_le (xhi := x0) (xlo := x1) (start := 3) (len := 5) (by decide))

theorem Encoding.fld_30_21_3 (x0 : BitVec 8) (x1 : BitVec 3) (x2 : BitVec 1) (x3 : BitVec 3) (x4 : BitVec 3) (x5 : BitVec 8) (x6 : BitVec 5) (x7 : BitVec 1) :
    fld (x0 ++ x1 ++ x2 ++ x3 ++ x4 ++ x5 ++ x6 ++ x7) 21 3 = x1 :=
  (BitVec.extractLsb'_append_eq_of_le (xhi := x0 ++ x1 ++ x2 ++ x3 ++ x4 ++ x5 ++ x6) (xlo := x7) (start := 21) (len := 3) (by decide)).trans <|
    (BitVec.extractLsb'_append_eq_of_le (xhi := x0 ++ x1 ++ x2 ++ x3 ++ x4 ++ x5) (xlo := x6) (start := 20) (len := 3) (by decide)).trans <|
    (BitVec.extractLsb'_append_eq_of_le (xhi := x0 ++ x1 ++ x2 ++ x3 ++ x4) (xlo := x5) (start := 15) (len := 3) (by decide)).trans <|
    (BitVec.extractLsb'_append_eq_of_le (xhi := x0 ++ x1 ++ x2 ++ x3) (xlo := x4) (start := 7) (len := 3) (by decide)).trans <|
    (BitVec.extractLsb'_append_eq_of_le (xhi := x0 ++ x1 ++ x2) (xlo := x3) (start := 4) (len := 3) (by decide)).trans <|
    (BitVec.extractLsb'_append_eq_of_le (xhi := x0 ++ x1) (xlo := x2) (start := 1) (len := 3) (by decide)).trans <|
    (BitVec.extractLsb'_append_eq_of_add_le (xhi := x0) (xlo := x1) (start := 0) (len := 3) (by decide)).trans <|
    (BitVec.extractLsb'_eq_self)

theorem Encoding.fld_30_17_3 (x0 : BitVec 8) (x1 : BitVec 3) (x2 : BitVec 1) (x3 : BitVec 3) (x4 : BitVec 3) (x5 : BitVec 8) (x6 : BitVec 5) (x7 : BitVec 1) :
    fld (x0 ++ x1 ++ x2 ++ x3 ++ x4 ++ x5 ++ x6 ++ x7) 17 3 = x3 :=
  (BitVec.extractLsb'_append_eq_of_le (xhi := x0 ++ x1 ++ x2 ++ x3 ++ x4 ++ x5 ++ x6) (xlo := x7) (start := 17) (len := 3) (by decide)).trans <|
    (BitVec.extractLsb'_append_eq_of_le (xhi := x0 ++ x1 ++ x2 ++ x3 ++ x4 ++ x5) (xlo := x6) (start := 16) (len := 3) (by decide)).trans <|
    (BitVec.extractLsb'_append_eq_of_le (xhi := x0 ++ x1 ++ x2 ++ x3 ++ x4) (xlo := x5) (start := 11) (len := 3) (by decide)).trans <|
    (BitVec.extractLsb'_append_eq_of_le (xhi := x0 ++ x1 ++ x2 ++ x3) (xlo := x4) (start := 3) (len := 3) (by decide)).trans <|
    (BitVec.extractLsb'_append_eq_of_add_le (xhi := x0 ++ x1 ++ x2) (xlo := x3) (start := 0) (len := 3) (by decide)).trans <|
    (BitVec.extractLsb'_eq_self)

theorem Encoding.fld_30_14_3 (x0 : BitVec 8) (x1 : BitVec 3) (x2 : BitVec 1) (x3 : BitVec 3) (x4 : BitVec 3) (x5 : BitVec 8) (x6 : BitVec 5) (x7 : BitVec 1) :
    fld (x0 ++ x1 ++ x2 ++ x3 ++ x4 ++ x5 ++ x6 ++ x7) 14 3 = x4 :=
  (BitVec.extractLsb'_append_eq_of_le (xhi := x0 ++ x1 ++ x2 ++ x3 ++ x4 ++ x5 ++ x6) (xlo := x7) (start := 14) (len := 3) (by decide)).trans <|
    (BitVec.extractLsb'_append_eq_of_le (xhi := x0 ++ x1 ++ x2 ++ x3 ++ x4 ++ x5) (xlo := x6) (start := 13) (len := 3) (by decide)).trans <|
    (BitVec.extractLsb'_append_eq_of_le (xhi := x0 ++ x1 ++ x2 ++ x3 ++ x4) (xlo := x5) (start := 8) (len := 3) (by decide)).trans <|
    (BitVec.extractLsb'_append_eq_of_add_le (xhi := x0 ++ x1 ++ x2 ++ x3) (xlo := x4) (start := 0) (len := 3) (by decide)).trans <|
    (BitVec.extractLsb'_eq_self)

theorem Encoding.fld_30_6_8 (x0 : BitVec 8) (x1 : BitVec 3) (x2 : BitVec 1) (x3 : BitVec 3) (x4 : BitVec 3) (x5 : BitVec 8) (x6 : BitVec 5) (x7 : BitVec 1) :
    fld (x0 ++ x1 ++ x2 ++ x3 ++ x4 ++ x5 ++ x6 ++ x7) 6 8 = x5 :=
  (BitVec.extractLsb'_append_eq_of_le (xhi := x0 ++ x1 ++ x2 ++ x3 ++ x4 ++ x5 ++ x6) (xlo := x7) (start := 6) (len := 8) (by decide)).trans <|
    (BitVec.extractLsb'_append_eq_of_le (xhi := x0 ++ x1 ++ x2 ++ x3 ++ x4 ++ x5) (xlo := x6) (start := 5) (len := 8) (by decide)).trans <|
    (BitVec.extractLsb'_append_eq_of_add_le (xhi := x0 ++ x1 ++ x2 ++ x3 ++ x4) (xlo := x5) (start := 0) (len := 8) (by decide)).trans <|
    (BitVec.extractLsb'_eq_self)

theorem Encoding.fld_30_1_5 (x0 : BitVec 8) (x1 : BitVec 3) (x2 : BitVec 1) (x3 : BitVec 3) (x4 : BitVec 3) (x5 : BitVec 8) (x6 : BitVec 5) (x7 : BitVec 1) :
    fld (x0 ++ x1 ++ x2 ++ x3 ++ x4 ++ x5 ++ x6 ++ x7) 1 5 = x6 :=
  (BitVec.extractLsb'_append_eq_of_le (xhi := x0 ++ x1 ++ x2 ++ x3 ++ x4 ++ x5 ++ x6) (xlo := x7) (start := 1) (len := 5) (by decide)).trans <|
    (BitVec.extractLsb'_append_eq_of_add_le (xhi := x0 ++ x1 ++ x2 ++ x3 ++ x4 ++ x5) (xlo := x6) (start := 0) (len := 5) (by decide)).trans <|
    (BitVec.extractLsb'_eq_self)

theorem Encoding.fld_31_28_4 (x0 : BitVec 8) (x1 : BitVec 3) (x2 : BitVec 5) (x3 : BitVec 5) (x4 : BitVec 1) (x5 : BitVec 1) (x6 : BitVec 1) (x7 : BitVec 3) (x8 : BitVec 5) :
    fld (x0 ++ x1 ++ x2 ++ x3 ++ x4 ++ x5 ++ x6 ++ x7 ++ x8) 28 4 = x0.extractLsb' 4 4 :=
  (BitVec.extractLsb'_append_eq_of_le (xhi := x0 ++ x1 ++ x2 ++ x3 ++ x4 ++ x5 ++ x6 ++ x7) (xlo := x8) (start := 28) (len := 4) (by decide)).trans <|
    (BitVec.extractLsb'_append_eq_of_le (xhi := x0 ++ x1 ++ x2 ++ x3 ++ x4 ++ x5 ++ x6) (xlo := x7) (start := 23) (len := 4) (by decide)).trans <|
    (BitVec.extractLsb'_append_eq_of_le (xhi := x0 ++ x1 ++ x2 ++ x3 ++ x4 ++ x5) (xlo := x6) (start := 20) (len := 4) (by decide)).trans <|
    (BitVec.extractLsb'_append_eq_of_le (xhi := x0 ++ x1 ++ x2 ++ x3 ++ x4) (xlo := x5) (start := 19) (len := 4) (by decide)).trans <|
    (BitVec.extractLsb'_append_eq_of_le (xhi := x0 ++ x1 ++ x2 ++ x3) (xlo := x4) (start := 18) (len := 4) (by decide)).trans <|
    (BitVec.extractLsb'_append_eq_of_le (xhi := x0 ++ x1 ++ x2) (xlo := x3) (start := 17) (len := 4) (by decide)).trans <|
    (BitVec.extractLsb'_append_eq_of_le (xhi := x0 ++ x1) (xlo := x2) (start := 12) (len := 4) (by decide)).trans <|
    (BitVec.extractLsb'_append_eq_of_le (xhi := x0) (xlo := x1) (start := 7) (len := 4) (by decide))

theorem Encoding.fld_31_24_5 (x0 : BitVec 8) (x1 : BitVec 3) (x2 : BitVec 5) (x3 : BitVec 5) (x4 : BitVec 1) (x5 : BitVec 1) (x6 : BitVec 1) (x7 : BitVec 3) (x8 : BitVec 5) :
    fld (x0 ++ x1 ++ x2 ++ x3 ++ x4 ++ x5 ++ x6 ++ x7 ++ x8) 24 5 = x0.extractLsb' 0 5 :=
  (BitVec.extractLsb'_append_eq_of_le (xhi := x0 ++ x1 ++ x2 ++ x3 ++ x4 ++ x5 ++ x6 ++ x7) (xlo := x8) (start := 24) (len := 5) (by decide)).trans <|
    (BitVec.extractLsb'_append_eq_of_le (xhi := x0 ++ x1 ++ x2 ++ x3 ++ x4 ++ x5 ++ x6) (xlo := x7) (start := 19) (len := 5) (by decide)).trans <|
    (BitVec.extractLsb'_append_eq_of_le (xhi := x0 ++ x1 ++ x2 ++ x3 ++ x4 ++ x5) (xlo := x6) (start := 16) (len := 5) (by decide)).trans <|
    (BitVec.extractLsb'_append_eq_of_le (xhi := x0 ++ x1 ++ x2 ++ x3 ++ x4) (xlo := x5) (start := 15) (len := 5) (by decide)).trans <|
    (BitVec.extractLsb'_append_eq_of_le (xhi := x0 ++ x1 ++ x2 ++ x3) (xlo := x4) (start := 14) (len := 5) (by decide)).trans <|
    (BitVec.extractLsb'_append_eq_of_le (xhi := x0 ++ x1 ++ x2) (xlo := x3) (start := 13) (len := 5) (by decide)).trans <|
    (BitVec.extractLsb'_append_eq_of_le (xhi := x0 ++ x1) (xlo := x2) (start := 8) (len := 5) (by decide)).trans <|
    (BitVec.extractLsb'_append_eq_of_le (xhi := x0) (xlo := x1) (start := 3) (len := 5) (by decide))

theorem Encoding.fld_31_21_3 (x0 : BitVec 8) (x1 : BitVec 3) (x2 : BitVec 5) (x3 : BitVec 5) (x4 : BitVec 1) (x5 : BitVec 1) (x6 : BitVec 1) (x7 : BitVec 3) (x8 : BitVec 5) :
    fld (x0 ++ x1 ++ x2 ++ x3 ++ x4 ++ x5 ++ x6 ++ x7 ++ x8) 21 3 = x1 :=
  (BitVec.extractLsb'_append_eq_of_le (xhi := x0 ++ x1 ++ x2 ++ x3 ++ x4 ++ x5 ++ x6 ++ x7) (xlo := x8) (start := 21) (len := 3) (by decide)).trans <|
    (BitVec.extractLsb'_append_eq_of_le (xhi := x0 ++ x1 ++ x2 ++ x3 ++ x4 ++ x5 ++ x6) (xlo := x7) (start := 16) (len := 3) (by decide)).trans <|
    (BitVec.extractLsb'_append_eq_of_le (xhi := x0 ++ x1 ++ x2 ++ x3 ++ x4 ++ x5) (xlo := x6) (start := 13) (len := 3) (by decide)).trans <|
    (BitVec.extractLsb'_append_eq_of_le (xhi := x0 ++ x1 ++ x2 ++ x3 ++ x4) (xlo := x5) (start := 12) (len := 3) (by decide)).trans <|
    (BitVec.extractLsb'_append_eq_of_le (xhi := x0 ++ x1 ++ x2 ++ x3) (xlo := x4) (start := 11) (len := 3) (by decide)).trans <|
    (BitVec.extractLsb'_append_eq_of_le (xhi := x0 ++ x1 ++ x2) (xlo := x3) (start := 10) (len := 3) (by decide)).trans <|
    (BitVec.extractLsb'_append_eq_of_le (xhi := x0 ++ x1) (xlo := x2) (start := 5) (len := 3) (by decide)).trans <|
    (BitVec.extractLsb'_append_eq_of_add_le (xhi := x0) (xlo := x1) (start := 0) (len := 3) (by decide)).trans <|
    (BitVec.extractLsb'_eq_self)

theorem Encoding.fld_31_16_5 (x0 : BitVec 8) (x1 : BitVec 3) (x2 : BitVec 5) (x3 : BitVec 5) (x4 : BitVec 1) (x5 : BitVec 1) (x6 : BitVec 1) (x7 : BitVec 3) (x8 : BitVec 5) :
    fld (x0 ++ x1 ++ x2 ++ x3 ++ x4 ++ x5 ++ x6 ++ x7 ++ x8) 16 5 = x2 :=
  (BitVec.extractLsb'_append_eq_of_le (xhi := x0 ++ x1 ++ x2 ++ x3 ++ x4 ++ x5 ++ x6 ++ x7) (xlo := x8) (start := 16) (len := 5) (by decide)).trans <|
    (BitVec.extractLsb'_append_eq_of_le (xhi := x0 ++ x1 ++ x2 ++ x3 ++ x4 ++ x5 ++ x6) (xlo := x7) (start := 11) (len := 5) (by decide)).trans <|
    (BitVec.extractLsb'_append_eq_of_le (xhi := x0 ++ x1 ++ x2 ++ x3 ++ x4 ++ x5) (xlo := x6) (start := 8) (len := 5) (by decide)).trans <|
    (BitVec.extractLsb'_append_eq_of_le (xhi := x0 ++ x1 ++ x2 ++ x3 ++ x4) (xlo := x5) (start := 7) (len := 5) (by decide)).trans <|
    (BitVec.extractLsb'_append_eq_of_le (xhi := x0 ++ x1 ++ x2 ++ x3) (xlo := x4) (start := 6) (len := 5) (by decide)).trans <|
    (BitVec.extractLsb'_append_eq_of_le (xhi := x0 ++ x1 ++ x2) (xlo := x3) (start := 5) (len := 5) (by decide)).trans <|
    (BitVec.extractLsb'_append_eq_of_add_le (xhi := x0 ++ x1) (xlo := x2) (start := 0) (len := 5) (by decide)).trans <|
    (BitVec.extractLsb'_eq_self)

theorem Encoding.fld_31_11_5 (x0 : BitVec 8) (x1 : BitVec 3) (x2 : BitVec 5) (x3 : BitVec 5) (x4 : BitVec 1) (x5 : BitVec 1) (x6 : BitVec 1) (x7 : BitVec 3) (x8 : BitVec 5) :
    fld (x0 ++ x1 ++ x2 ++ x3 ++ x4 ++ x5 ++ x6 ++ x7 ++ x8) 11 5 = x3 :=
  (BitVec.extractLsb'_append_eq_of_le (xhi := x0 ++ x1 ++ x2 ++ x3 ++ x4 ++ x5 ++ x6 ++ x7) (xlo := x8) (start := 11) (len := 5) (by decide)).trans <|
    (BitVec.extractLsb'_append_eq_of_le (xhi := x0 ++ x1 ++ x2 ++ x3 ++ x4 ++ x5 ++ x6) (xlo := x7) (start := 6) (len := 5) (by decide)).trans <|
    (BitVec.extractLsb'_append_eq_of_le (xhi := x0 ++ x1 ++ x2 ++ x3 ++ x4 ++ x5) (xlo := x6) (start := 3) (len := 5) (by decide)).trans <|
    (BitVec.extractLsb'_append_eq_of_le (xhi := x0 ++ x1 ++ x2 ++ x3 ++ x4) (xlo := x5) (start := 2) (len := 5) (by decide)).trans <|
    (BitVec.extractLsb'_append_eq_of_le (xhi := x0 ++ x1 ++ x2 ++ x3) (xlo := x4) (start := 1) (len := 5) (by decide)).trans <|
    (BitVec.extractLsb'_append_eq_of_add_le (xhi := x0 ++ x1 ++ x2) (xlo := x3) (start := 0) (len := 5) (by decide)).trans <|
    (BitVec.extractLsb'_eq_self)

theorem Encoding.fld_31_10_1 (x0 : BitVec 8) (x1 : BitVec 3) (x2 : BitVec 5) (x3 : BitVec 5) (x4 : BitVec 1) (x5 : BitVec 1) (x6 : BitVec 1) (x7 : BitVec 3) (x8 : BitVec 5) :
    fld (x0 ++ x1 ++ x2 ++ x3 ++ x4 ++ x5 ++ x6 ++ x7 ++ x8) 10 1 = x4 :=
  (BitVec.extractLsb'_append_eq_of_le (xhi := x0 ++ x1 ++ x2 ++ x3 ++ x4 ++ x5 ++ x6 ++ x7) (xlo := x8) (start := 10) (len := 1) (by decide)).trans <|
    (BitVec.extractLsb'_append_eq_of_le (xhi := x0 ++ x1 ++ x2 ++ x3 ++ x4 ++ x5 ++ x6) (xlo := x7) (start := 5) (len := 1) (by decide)).trans <|
    (BitVec.extractLsb'_append_eq_of_le (xhi := x0 ++ x1 ++ x2 ++ x3 ++ x4 ++ x5) (xlo := x6) (start := 2) (len := 1) (by decide)).trans <|
    (BitVec.extractLsb'_append_eq_of_le (xhi := x0 ++ x1 ++ x2 ++ x3 ++ x4) (xlo := x5) (start := 1) (len := 1) (by decide)).trans <|
    (BitVec.extractLsb'_append_eq_of_add_le (xhi := x0 ++ x1 ++ x2 ++ x3) (xlo := x4) (start := 0) (len := 1) (by decide)).trans <|
    (BitVec.extractLsb'_eq_self)

theorem Encoding.fld_31_9_1 (x0 : BitVec 8) (x1 : BitVec 3) (x2 : BitVec 5) (x3 : BitVec 5) (x4 : BitVec 1) (x5 : BitVec 1) (x6 : BitVec 1) (x7 : BitVec 3) (x8 : BitVec 5) :
    fld (x0 ++ x1 ++ x2 ++ x3 ++ x4 ++ x5 ++ x6 ++ x7 ++ x8) 9 1 = x5 :=
  (BitVec.extractLsb'_append_eq_of_le (xhi := x0 ++ x1 ++ x2 ++ x3 ++ x4 ++ x5 ++ x6 ++ x7) (xlo := x8) (start := 9) (len := 1) (by decide)).trans <|
    (BitVec.extractLsb'_append_eq_of_le (xhi := x0 ++ x1 ++ x2 ++ x3 ++ x4 ++ x5 ++ x6) (xlo := x7) (start := 4) (len := 1) (by decide)).trans <|
    (BitVec.extractLsb'_append_eq_of_le (xhi := x0 ++ x1 ++ x2 ++ x3 ++ x4 ++ x5) (xlo := x6) (start := 1) (len := 1) (by decide)).trans <|
    (BitVec.extractLsb'_append_eq_of_add_le (xhi := x0 ++ x1 ++ x2 ++ x3 ++ x4) (xlo := x5) (start := 0) (len := 1) (by decide)).trans <|
    (BitVec.extractLsb'_eq_self)

theorem Encoding.fld_31_8_1 (x0 : BitVec 8) (x1 : BitVec 3) (x2 : BitVec 5) (x3 : BitVec 5) (x4 : BitVec 1) (x5 : BitVec 1) (x6 : BitVec 1) (x7 : BitVec 3) (x8 : BitVec 5) :
    fld (x0 ++ x1 ++ x2 ++ x3 ++ x4 ++ x5 ++ x6 ++ x7 ++ x8) 8 1 = x6 :=
  (BitVec.extractLsb'_append_eq_of_le (xhi := x0 ++ x1 ++ x2 ++ x3 ++ x4 ++ x5 ++ x6 ++ x7) (xlo := x8) (start := 8) (len := 1) (by decide)).trans <|
    (BitVec.extractLsb'_append_eq_of_le (xhi := x0 ++ x1 ++ x2 ++ x3 ++ x4 ++ x5 ++ x6) (xlo := x7) (start := 3) (len := 1) (by decide)).trans <|
    (BitVec.extractLsb'_append_eq_of_add_le (xhi := x0 ++ x1 ++ x2 ++ x3 ++ x4 ++ x5) (xlo := x6) (start := 0) (len := 1) (by decide)).trans <|
    (BitVec.extractLsb'_eq_self)

theorem Encoding.fld_31_5_3 (x0 : BitVec 8) (x1 : BitVec 3) (x2 : BitVec 5) (x3 : BitVec 5) (x4 : BitVec 1) (x5 : BitVec 1) (x6 : BitVec 1) (x7 : BitVec 3) (x8 : BitVec 5) :
    fld (x0 ++ x1 ++ x2 ++ x3 ++ x4 ++ x5 ++ x6 ++ x7 ++ x8) 5 3 = x7 :=
  (BitVec.extractLsb'_append_eq_of_le (xhi := x0 ++ x1 ++ x2 ++ x3 ++ x4 ++ x5 ++ x6 ++ x7) (xlo := x8) (start := 5) (len := 3) (by decide)).trans <|
    (BitVec.extractLsb'_append_eq_of_add_le (xhi := x0 ++ x1 ++ x2 ++ x3 ++ x4 ++ x5 ++ x6) (xlo := x7) (start := 0) (len := 3) (by decide)).trans <|
    (BitVec.extractLsb'_eq_self)

theorem Encoding.fld_31_0_5 (x0 : BitVec 8) (x1 : BitVec 3) (x2 : BitVec 5) (x3 : BitVec 5) (x4 : BitVec 1) (x5 : BitVec 1) (x6 : BitVec 1) (x7 : BitVec 3) (x8 : BitVec 5) :
    fld (x0 ++ x1 ++ x2 ++ x3 ++ x4 ++ x5 ++ x6 ++ x7 ++ x8) 0 5 = x8 :=
  (BitVec.extractLsb'_append_eq_of_add_le (xhi := x0 ++ x1 ++ x2 ++ x3 ++ x4 ++ x5 ++ x6 ++ x7) (xlo := x8) (start := 0) (len := 5) (by decide)).trans <|
    (BitVec.extractLsb'_eq_self)

theorem Encoding.fld_32_28_4 (x0 : BitVec 8) (x1 : BitVec 3) (x2 : BitVec 5) (x3 : BitVec 5) (x4 : BitVec 1) (x5 : BitVec 1) (x6 : BitVec 1) (x7 : BitVec 3) (x8 : BitVec 4) (x9 : BitVec 1) :
    fld (x0 ++ x1 ++ x2 ++ x3 ++ x4 ++ x5 ++ x6 ++ x7 ++ x8 ++ x9) 28 4 = x0.extractLsb' 4 4 :=
  (BitVec.extractLsb'_append_eq_of_le (xhi := x0 ++ x1 ++ x2 ++ x3 ++ x4 ++ x5 ++ x6 ++ x7 ++ x8) (xlo := x9) (start := 28) (len := 4) (by decide)).trans <|
    (BitVec.extractLsb'_append_eq_of_le (xhi := x0 ++ x1 ++ x2 ++ x3 ++ x4 ++ x5 ++ x6 ++ x7) (xlo := x8) (start := 27) (len := 4) (by decide)).trans <|
    (BitVec.extractLsb'_append_eq_of_le (xhi := x0 ++ x1 ++ x2 ++ x3 ++ x4 ++ x5 ++ x6) (xlo := x7) (start := 23) (len := 4) (by decide)).trans <|
    (BitVec.extractLsb'_append_eq_of_le (xhi := x0 ++ x1 ++ x2 ++ x3 ++ x4 ++ x5) (xlo := x6) (start := 20) (len := 4) (by decide)).trans <|
    (BitVec.extractLsb'_append_eq_of_le (xhi := x0 ++ x1 ++ x2 ++ x3 ++ x4) (xlo := x5) (start := 19) (len := 4) (by decide)).trans <|
    (BitVec.extractLsb'_append_eq_of_le (xhi := x0 ++ x1 ++ x2 ++ x3) (xlo := x4) (start := 18) (len := 4) (by decide)).trans <|
    (BitVec.extractLsb'_append_eq_of_le (xhi := x0 ++ x1 ++ x2) (xlo := x3) (start := 17) (len := 4) (by decide)).trans <|
    (BitVec.extractLsb'_append_eq_of_le (xhi := x0 ++ x1) (xlo := x2) (start := 12) (len := 4) (by decide)).trans <|
    (BitVec.extractLsb'_append_eq_of_le (xhi := x0) (xlo := x1) (start := 7) (len := 4) (by decide))

theorem Encoding.fld_32_24_5 (x0 : BitVec 8) (x1 : BitVec 3) (x2 : BitVec 5) (x3 : BitVec 5) (x4 : BitVec 1) (x5 : BitVec 1) (x6 : BitVec 1) (x7 : BitVec 3) (x8 : BitVec 4) (x9 : BitVec 1) :
    fld (x0 ++ x1 ++ x2 ++ x3 ++ x4 ++ x5 ++ x6 ++ x7 ++ x8 ++ x9) 24 5 = x0.extractLsb' 0 5 :=
  (BitVec.extractLsb'_append_eq_of_le (xhi := x0 ++ x1 ++ x2 ++ x3 ++ x4 ++ x5 ++ x6 ++ x7 ++ x8) (xlo := x9) (start := 24) (len := 5) (by decide)).trans <|
    (BitVec.extractLsb'_append_eq_of_le (xhi := x0 ++ x1 ++ x2 ++ x3 ++ x4 ++ x5 ++ x6 ++ x7) (xlo := x8) (start := 23) (len := 5) (by decide)).trans <|
    (BitVec.extractLsb'_append_eq_of_le (xhi := x0 ++ x1 ++ x2 ++ x3 ++ x4 ++ x5 ++ x6) (xlo := x7) (start := 19) (len := 5) (by decide)).trans <|
    (BitVec.extractLsb'_append_eq_of_le (xhi := x0 ++ x1 ++ x2 ++ x3 ++ x4 ++ x5) (xlo := x6) (start := 16) (len := 5) (by decide)).trans <|
    (BitVec.extractLsb'_append_eq_of_le (xhi := x0 ++ x1 ++ x2 ++ x3 ++ x4) (xlo := x5) (start := 15) (len := 5) (by decide)).trans <|
    (BitVec.extractLsb'_append_eq_of_le (xhi := x0 ++ x1 ++ x2 ++ x3) (xlo := x4) (start := 14) (len := 5) (by decide)).trans <|
    (BitVec.extractLsb'_append_eq_of_le (xhi := x0 ++ x1 ++ x2) (xlo := x3) (start := 13) (len := 5) (by decide)).trans <|
    (BitVec.extractLsb'_append_eq_of_le (xhi := x0 ++ x1) (xlo := x2) (start := 8) (len := 5) (by decide)).trans <|
    (BitVec.extractLsb'_append_eq_of_le (xhi := x0) (xlo := x1) (start := 3) (len := 5) (by decide))

theorem Encoding.fld_32_21_3 (x0 : BitVec 8) (x1 : BitVec 3) (x2 : BitVec 5) (x3 : BitVec 5) (x4 : BitVec 1) (x5 : BitVec 1) (x6 : BitVec 1) (x7 : BitVec 3) (x8 : BitVec 4) (x9 : BitVec 1) :
    fld (x0 ++ x1 ++ x2 ++ x3 ++ x4 ++ x5 ++ x6 ++ x7 ++ x8 ++ x9) 21 3 = x1 :=
  (BitVec.extractLsb'_append_eq_of_le (xhi := x0 ++ x1 ++ x2 ++ x3 ++ x4 ++ x5 ++ x6 ++ x7 ++ x8) (xlo := x9) (start := 21) (len := 3) (by decide)).trans <|
    (BitVec.extractLsb'_append_eq_of_le (xhi := x0 ++ x1 ++ x2 ++ x3 ++ x4 ++ x5 ++ x6 ++ x7) (xlo := x8) (start := 20) (len := 3) (by decide)).trans <|
    (BitVec.extractLsb'_append_eq_of_le (xhi := x0 ++ x1 ++ x2 ++ x3 ++ x4 ++ x5 ++ x6) (xlo := x7) (start := 16) (len := 3) (by decide)).trans <|
    (BitVec.extractLsb'_append_eq_of_le (xhi := x0 ++ x1 ++ x2 ++ x3 ++ x4 ++ x5) (xlo := x6) (start := 13) (len := 3) (by decide)).trans <|
    (BitVec.extractLsb'_append_eq_of_le (xhi := x0 ++ x1 ++ x2 ++ x3 ++ x4) (xlo := x5) (start := 12) (len := 3) (by decide)).trans <|
    (BitVec.extractLsb'_append_eq_of_le (xhi := x0 ++ x1 ++ x2 ++ x3) (xlo := x4) (start := 11) (len := 3) (by decide)).trans <|
    (BitVec.extractLsb'_append_eq_of_le (xhi := x0 ++ x1 ++ x2) (xlo := x3) (start := 10) (len := 3) (by decide)).trans <|
    (BitVec.extractLsb'_append_eq_of_le (xhi := x0 ++ x1) (xlo := x2) (start := 5) (len := 3) (by decide)).trans <|
    (BitVec.extractLsb'_append_eq_of_add_le (xhi := x0) (xlo := x1) (start := 0) (len := 3) (by decide)).trans <|
    (BitVec.extractLsb'_eq_self)

theorem Encoding.fld_32_16_5 (x0 : BitVec 8) (x1 : BitVec 3) (x2 : BitVec 5) (x3 : BitVec 5) (x4 : BitVec 1) (x5 : BitVec 1) (x6 : BitVec 1) (x7 : BitVec 3) (x8 : BitVec 4) (x9 : BitVec 1) :
    fld (x0 ++ x1 ++ x2 ++ x3 ++ x4 ++ x5 ++ x6 ++ x7 ++ x8 ++ x9) 16 5 = x2 :=
  (BitVec.extractLsb'_append_eq_of_le (xhi := x0 ++ x1 ++ x2 ++ x3 ++ x4 ++ x5 ++ x6 ++ x7 ++ x8) (xlo := x9) (start := 16) (len := 5) (by decide)).trans <|
    (BitVec.extractLsb'_append_eq_of_le (xhi := x0 ++ x1 ++ x2 ++ x3 ++ x4 ++ x5 ++ x6 ++ x7) (xlo := x8) (start := 15) (len := 5) (by decide)).trans <|
    (BitVec.extractLsb'_append_eq_of_le (xhi := x0 ++ x1 ++ x2 ++ x3 ++ x4 ++ x5 ++ x6) (xlo := x7) (start := 11) (len := 5) (by decide)).trans <|
    (BitVec.extractLsb'_append_eq_of_le (xhi := x0 ++ x1 ++ x2 ++ x3 ++ x4 ++ x5) (xlo := x6) (start := 8) (len := 5) (by decide)).trans <|
    (BitVec.extractLsb'_append_eq_of_le (xhi := x0 ++ x1 ++ x2 ++ x3 ++ x4) (xlo := x5) (start := 7) (len := 5) (by decide)).trans <|
    (BitVec.extractLsb'_append_eq_of_le (xhi := x0 ++ x1 ++ x2 ++ x3) (xlo := x4) (start := 6) (len := 5) (by decide)).trans <|
    (BitVec.extractLsb'_append_eq_of_le (xhi := x0 ++ x1 ++ x2) (xlo := x3) (start := 5) (len := 5) (by decide)).trans <|
    (BitVec.extractLsb'_append_eq_of_add_le (xhi := x0 ++ x1) (xlo := x2) (start := 0) (len := 5) (by decide)).trans <|
    (BitVec.extractLsb'_eq_self)

theorem Encoding.fld_32_11_5 (x0 : BitVec 8) (x1 : BitVec 3) (x2 : BitVec 5) (x3 : BitVec 5) (x4 : BitVec 1) (x5 : BitVec 1) (x6 : BitVec 1) (x7 : BitVec 3) (x8 : BitVec 4) (x9 : BitVec 1) :
    fld (x0 ++ x1 ++ x2 ++ x3 ++ x4 ++ x5 ++ x6 ++ x7 ++ x8 ++ x9) 11 5 = x3 :=
  (BitVec.extractLsb'_append_eq_of_le (xhi := x0 ++ x1 ++ x2 ++ x3 ++ x4 ++ x5 ++ x6 ++ x7 ++ x8) (xlo := x9) (start := 11) (len := 5) (by decide)).trans <|
    (BitVec.extractLsb'_append_eq_of_le (xhi := x0 ++ x1 ++ x2 ++ x3 ++ x4 ++ x5 ++ x6 ++ x7) (xlo := x8) (start := 10) (len := 5) (by decide)).trans <|
    (BitVec.extractLsb'_append_eq_of_le (xhi := x0 ++ x1 ++ x2 ++ x3 ++ x4 ++ x5 ++ x6) (xlo := x7) (start := 6) (len := 5) (by decide)).trans <|
    (BitVec.extractLsb'_append_eq_of_le (xhi := x0 ++ x1 ++ x2 ++ x3 ++ x4 ++ x5) (xlo := x6) (start := 3) (len := 5) (by decide)).trans <|
    (BitVec.extractLsb'_append_eq_of_le (xhi := x0 ++ x1 ++ x2 ++ x3 ++ x4) (xlo := x5) (start := 2) (len := 5) (by decide)).trans <|
    (BitVec.extractLsb'_append_eq_of_le (xhi := x0 ++ x1 ++ x2 ++ x3) (xlo := x4) (start := 1) (len := 5) (by decide)).trans <|
    (BitVec.extractLsb'_append_eq_of_add_le (xhi := x0 ++ x1 ++ x2) (xlo := x3) (start := 0) (len := 5) (by decide)).trans <|
    (BitVec.extractLsb'_eq_self)

theorem Encoding.fld_32_10_1 (x0 : BitVec 8) (x1 : BitVec 3) (x2 : BitVec 5) (x3 : BitVec 5) (x4 : BitVec 1) (x5 : BitVec 1) (x6 : BitVec 1) (x7 : BitVec 3) (x8 : BitVec 4) (x9 : BitVec 1) :
    fld (x0 ++ x1 ++ x2 ++ x3 ++ x4 ++ x5 ++ x6 ++ x7 ++ x8 ++ x9) 10 1 = x4 :=
  (BitVec.extractLsb'_append_eq_of_le (xhi := x0 ++ x1 ++ x2 ++ x3 ++ x4 ++ x5 ++ x6 ++ x7 ++ x8) (xlo := x9) (start := 10) (len := 1) (by decide)).trans <|
    (BitVec.extractLsb'_append_eq_of_le (xhi := x0 ++ x1 ++ x2 ++ x3 ++ x4 ++ x5 ++ x6 ++ x7) (xlo := x8) (start := 9) (len := 1) (by decide)).trans <|
    (BitVec.extractLsb'_append_eq_of_le (xhi := x0 ++ x1 ++ x2 ++ x3 ++ x4 ++ x5 ++ x6) (xlo := x7) (start := 5) (len := 1) (by decide)).trans <|
    (BitVec.extractLsb'_append_eq_of_le (xhi := x0 ++ x1 ++ x2 ++ x3 ++ x4 ++ x5) (xlo := x6) (start := 2) (len := 1) (by decide)).trans <|
    (BitVec.extractLsb'_append_eq_of_le (xhi := x0 ++ x1 ++ x2 ++ x3 ++ x4) (xlo := x5) (start := 1) (len := 1) (by decide)).trans <|
    (BitVec.extractLsb'_append_eq_of_add_le (xhi := x0 ++ x1 ++ x2 ++ x3) (xlo := x4) (start := 0) (len := 1) (by decide)).trans <|
    (BitVec.extractLsb'_eq_self)

theorem Encoding.fld_32_9_1 (x0 : BitVec 8) (x1 : BitVec 3) (x2 : BitVec 5) (x3 : BitVec 5) (x4 : BitVec 1) (x5 : BitVec 1) (x6 : BitVec 1) (x7 : BitVec 3) (x8 : BitVec 4) (x9 : BitVec 1) :
    fld (x0 ++ x1 ++ x2 ++ x3 ++ x4 ++ x5 ++ x6 ++ x7 ++ x8 ++ x9) 9 1 = x5 :=
  (BitVec.extractLsb'_append_eq_of_le (xhi := x0 ++ x1 ++ x2 ++ x3 ++ x4 ++ x5 ++ x6 ++ x7 ++ x8) (xlo := x9) (start := 9) (len := 1) (by decide)).trans <|
    (BitVec.extractLsb'_append_eq_of_le (xhi := x0 ++ x1 ++ x2 ++ x3 ++ x4 ++ x5 ++ x6 ++ x7) (xlo := x8) (start := 8) (len := 1) (by decide)).trans <|
    (BitVec.extractLsb'_append_eq_of_le (xhi := x0 ++ x1 ++ x2 ++ x3 ++ x4 ++ x5 ++ x6) (xlo := x7) (start := 4) (len := 1) (by decide)).trans <|
    (BitVec.extractLsb'_append_eq_of_le (xhi := x0 ++ x1 ++ x2 ++ x3 ++ x4 ++ x5) (xlo := x6) (start := 1) (len := 1) (by decide)).trans <|
    (BitVec.extractLsb'_append_eq_of_add_le (xhi := x0 ++ x1 ++ x2 ++ x3 ++ x4) (xlo := x5) (start := 0) (len := 1) (by decide)).trans <|
    (BitVec.extractLsb'_eq_self)

theorem Encoding.fld_32_8_1 (x0 : BitVec 8) (x1 : BitVec 3) (x2 : BitVec 5) (x3 : BitVec 5) (x4 : BitVec 1) (x5 : BitVec 1) (x6 : BitVec 1) (x7 : BitVec 3) (x8 : BitVec 4) (x9 : BitVec 1) :
    fld (x0 ++ x1 ++ x2 ++ x3 ++ x4 ++ x5 ++ x6 ++ x7 ++ x8 ++ x9) 8 1 = x6 :=
  (BitVec.extractLsb'_append_eq_of_le (xhi := x0 ++ x1 ++ x2 ++ x3 ++ x4 ++ x5 ++ x6 ++ x7 ++ x8) (xlo := x9) (start := 8) (len := 1) (by decide)).trans <|
    (BitVec.extractLsb'_append_eq_of_le (xhi := x0 ++ x1 ++ x2 ++ x3 ++ x4 ++ x5 ++ x6 ++ x7) (xlo := x8) (start := 7) (len := 1) (by decide)).trans <|
    (BitVec.extractLsb'_append_eq_of_le (xhi := x0 ++ x1 ++ x2 ++ x3 ++ x4 ++ x5 ++ x6) (xlo := x7) (start := 3) (len := 1) (by decide)).trans <|
    (BitVec.extractLsb'_append_eq_of_add_le (xhi := x0 ++ x1 ++ x2 ++ x3 ++ x4 ++ x5) (xlo := x6) (start := 0) (len := 1) (by decide)).trans <|
    (BitVec.extractLsb'_eq_self)

theorem Encoding.fld_32_5_3 (x0 : BitVec 8) (x1 : BitVec 3) (x2 : BitVec 5) (x3 : BitVec 5) (x4 : BitVec 1) (x5 : BitVec 1) (x6 : BitVec 1) (x7 : BitVec 3) (x8 : BitVec 4) (x9 : BitVec 1) :
    fld (x0 ++ x1 ++ x2 ++ x3 ++ x4 ++ x5 ++ x6 ++ x7 ++ x8 ++ x9) 5 3 = x7 :=
  (BitVec.extractLsb'_append_eq_of_le (xhi := x0 ++ x1 ++ x2 ++ x3 ++ x4 ++ x5 ++ x6 ++ x7 ++ x8) (xlo := x9) (start := 5) (len := 3) (by decide)).trans <|
    (BitVec.extractLsb'_append_eq_of_le (xhi := x0 ++ x1 ++ x2 ++ x3 ++ x4 ++ x5 ++ x6 ++ x7) (xlo := x8) (start := 4) (len := 3) (by decide)).trans <|
    (BitVec.extractLsb'_append_eq_of_add_le (xhi := x0 ++ x1 ++ x2 ++ x3 ++ x4 ++ x5 ++ x6) (xlo := x7) (start := 0) (len := 3) (by decide)).trans <|
    (BitVec.extractLsb'_eq_self)

theorem Encoding.fld_32_0_1 (x0 : BitVec 8) (x1 : BitVec 3) (x2 : BitVec 5) (x3 : BitVec 5) (x4 : BitVec 1) (x5 : BitVec 1) (x6 : BitVec 1) (x7 : BitVec 3) (x8 : BitVec 4) (x9 : BitVec 1) :
    fld (x0 ++ x1 ++ x2 ++ x3 ++ x4 ++ x5 ++ x6 ++ x7 ++ x8 ++ x9) 0 1 = x9 :=
  (BitVec.extractLsb'_append_eq_of_add_le (xhi := x0 ++ x1 ++ x2 ++ x3 ++ x4 ++ x5 ++ x6 ++ x7 ++ x8) (xlo := x9) (start := 0) (len := 1) (by decide)).trans <|
    (BitVec.extractLsb'_eq_self)

theorem Encoding.fld_33_28_4 (x0 : BitVec 8) (x1 : BitVec 3) (x2 : BitVec 5) (x3 : BitVec 5) (x4 : BitVec 1) (x5 : BitVec 10) :
    fld (x0 ++ x1 ++ x2 ++ x3 ++ x4 ++ x5) 28 4 = x0.extractLsb' 4 4 :=
  (BitVec.extractLsb'_append_eq_of_le (xhi := x0 ++ x1 ++ x2 ++ x3 ++ x4) (xlo := x5) (start := 28) (len := 4) (by decide)).trans <|
    (BitVec.extractLsb'_append_eq_of_le (xhi := x0 ++ x1 ++ x2 ++ x3) (xlo := x4) (start := 18) (len := 4) (by decide)).trans <|
    (BitVec.extractLsb'_append_eq_of_le (xhi := x0 ++ x1 ++ x2) (xlo := x3) (start := 17) (len := 4) (by decide)).trans <|
    (BitVec.extractLsb'_append_eq_of_le (xhi := x0 ++ x1) (xlo := x2) (start := 12) (len := 4) (by decide)).trans <|
    (BitVec.extractLsb'_append_eq_of_le (xhi := x0) (xlo := x1) (start := 7) (len := 4) (by decide))

theorem Encoding.fld_33_24_5 (x0 : BitVec 8) (x1 : BitVec 3) (x2 : BitVec 5) (x3 : BitVec 5) (x4 : BitVec 1) (x5 : BitVec 10) :
    fld (x0 ++ x1 ++ x2 ++ x3 ++ x4 ++ x5) 24 5 = x0.extractLsb' 0 5 :=
  (BitVec.extractLsb'_append_eq_of_le (xhi := x0 ++ x1 ++ x2 ++ x3 ++ x4) (xlo := x5) (start := 24) (len := 5) (by decide)).trans <|
    (BitVec.extractLsb'_append_eq_of_le (xhi := x0 ++ x1 ++ x2 ++ x3) (xlo := x4) (start := 14) (len := 5) (by decide)).trans <|
    (BitVec.extractLsb'_append_eq_of_le (xhi := x0 ++ x1 ++ x2) (xlo := x3) (start := 13) (len := 5) (by decide)).trans <|
    (BitVec.extractLsb'_append_eq_of_le (xhi := x0 ++ x1) (xlo := x2) (start := 8) (len := 5) (by decide)).trans <|
    (BitVec.extractLsb'_append_eq_of_le (xhi := x0) (xlo := x1) (start := 3) (len := 5) (by decide))

theorem Encoding.fld_33_21_3 (x0 : BitVec 8) (x1 : BitVec 3) (x2 : BitVec 5) (x3 : BitVec 5) (x4 : BitVec 1) (x5 : BitVec 10) :
    fld (x0 ++ x1 ++ x2 ++ x3 ++ x4 ++ x5) 21 3 = x1 :=
  (BitVec.extractLsb'_append_eq_of_le (xhi := x0 ++ x1 ++ x2 ++ x3 ++ x4) (xlo := x5) (start := 21) (len := 3) (by decide)).trans <|
    (BitVec.extractLsb'_append_eq_of_le (xhi := x0 ++ x1 ++ x2 ++ x3) (xlo := x4) (start := 11) (len := 3) (by decide)).trans <|
    (BitVec.extractLsb'_append_eq_of_le (xhi := x0 ++ x1 ++ x2) (xlo := x3) (start := 10) (len := 3) (by decide)).trans <|
    (BitVec.extractLsb'_append_eq_of_le (xhi := x0 ++ x1) (xlo := x2) (start := 5) (len := 3) (by decide)).trans <|
    (BitVec.extractLsb'_append_eq_of_add_le (xhi := x0) (xlo := x1) (start := 0) (len := 3) (by decide)).trans <|
    (BitVec.extractLsb'_eq_self)

theorem Encoding.fld_33_16_5 (x0 : BitVec 8) (x1 : BitVec 3) (x2 : BitVec 5) (x3 : BitVec 5) (x4 : BitVec 1) (x5 : BitVec 10) :
    fld (x0 ++ x1 ++ x2 ++ x3 ++ x4 ++ x5) 16 5 = x2 :=
  (BitVec.extractLsb'_append_eq_of_le (xhi := x0 ++ x1 ++ x2 ++ x3 ++ x4) (xlo := x5) (start := 16) (len := 5) (by decide)).trans <|
    (BitVec.extractLsb'_append_eq_of_le (xhi := x0 ++ x1 ++ x2 ++ x3) (xlo := x4) (start := 6) (len := 5) (by decide)).trans <|
    (BitVec.extractLsb'_append_eq_of_le (xhi := x0 ++ x1 ++ x2) (xlo := x3) (start := 5) (len := 5) (by decide)).trans <|
    (BitVec.extractLsb'_append_eq_of_add_le (xhi := x0 ++ x1) (xlo := x2) (start := 0) (len := 5) (by decide)).trans <|
    (BitVec.extractLsb'_eq_self)

theorem Encoding.fld_33_11_5 (x0 : BitVec 8) (x1 : BitVec 3) (x2 : BitVec 5) (x3 : BitVec 5) (x4 : BitVec 1) (x5 : BitVec 10) :
    fld (x0 ++ x1 ++ x2 ++ x3 ++ x4 ++ x5) 11 5 = x3 :=
  (BitVec.extractLsb'_append_eq_of_le (xhi := x0 ++ x1 ++ x2 ++ x3 ++ x4) (xlo := x5) (start := 11) (len := 5) (by decide)).trans <|
    (BitVec.extractLsb'_append_eq_of_le (xhi := x0 ++ x1 ++ x2 ++ x3) (xlo := x4) (start := 1) (len := 5) (by decide)).trans <|
    (BitVec.extractLsb'_append_eq_of_add_le (xhi := x0 ++ x1 ++ x2) (xlo := x3) (start := 0) (len := 5) (by decide)).trans <|
    (BitVec.extractLsb'_eq_self)

theorem Encoding.fld_33_10_1 (x0 : BitVec 8) (x1 : BitVec 3) (x2 : BitVec 5) (x3 : BitVec 5) (x4 : BitVec 1) (x5 : BitVec 10) :
    fld (x0 ++ x1 ++ x2 ++ x3 ++ x4 ++ x5) 10 1 = x4 :=
  (BitVec.extractLsb'_append_eq_of_le (xhi := x0 ++ x1 ++ x2 ++ x3 ++ x4) (xlo := x5) (start := 10) (len := 1) (by decide)).trans <|
    (BitVec.extractLsb'_append_eq_of_add_le (xhi := x0 ++ x1 ++ x2 ++ x3) (xlo := x4) (start := 0) (len := 1) (by decide)).trans <|
    (BitVec.extractLsb'_eq_self)

theorem Encoding.fld_34_28_4 (x0 : BitVec 8) (x1 : BitVec 3) (x2 : BitVec 5) (x3 : BitVec 5) (x4 : BitVec 1) (x5 : BitVec 1) (x6 : BitVec 1) (x7 : BitVec 3) (x8 : BitVec 2) (x9 : BitVec 2) (x10 : BitVec 1) :
    fld (x0 ++ x1 ++ x2 ++ x3 ++ x4 ++ x5 ++ x6 ++ x7 ++ x8 ++ x9 ++ x10) 28 4 = x0.extractLsb' 4 4 :=
  (BitVec.extractLsb'_append_eq_of_le (xhi := x0 ++ x1 ++ x2 ++ x3 ++ x4 ++ x5 ++ x6 ++ x7 ++ x8 ++ x9) (xlo := x10) (start := 28) (len := 4) (by decide)).trans <|
    (BitVec.extractLsb'_append_eq_of_le (xhi := x0 ++ x1 ++ x2 ++ x3 ++ x4 ++ x5 ++ x6 ++ x7 ++ x8) (xlo := x9) (start := 27) (len := 4) (by decide)).trans <|
    (BitVec.extractLsb'_append_eq_of_le (xhi := x0 ++ x1 ++ x2 ++ x3 ++ x4 ++ x5 ++ x6 ++ x7) (xlo := x8) (start := 25) (len := 4) (by decide)).trans <|
    (BitVec.extractLsb'_append_eq_of_le (xhi := x0 ++ x1 ++ x2 ++ x3 ++ x4 ++ x5 ++ x6) (xlo := x7) (start := 23) (len := 4) (by decide)).trans <|
    (BitVec.extractLsb'_append_eq_of_le (xhi := x0 ++ x1 ++ x2 ++ x3 ++ x4 ++ x5) (xlo := x6) (start := 20) (len := 4) (by decide)).trans <|
    (BitVec.extractLsb'_append_eq_of_le (xhi := x0 ++ x1 ++ x2 ++ x3 ++ x4) (xlo := x5) (start := 19) (len := 4) (by decide)).trans <|
    (BitVec.extractLsb'_append_eq_of_le (xhi := x0 ++ x1 ++ x2 ++ x3) (xlo := x4) (start := 18) (len := 4) (by decide)).trans <|
    (BitVec.extractLsb'_append_eq_of_le (xhi := x0 ++ x1 ++ x2) (xlo := x3) (start := 17) (len := 4) (by decide)).trans <|
    (BitVec.extractLsb'_append_eq_of_le (xhi := x0 ++ x1) (xlo := x2) (start := 12) (len := 4) (by decide)).trans <|
    (BitVec.extractLsb'_append_eq_of_le (xhi := x0) (xlo := x1) (start := 7) (len := 4) (by decide))

theorem Encoding.fld_34_24_5 (x0 : BitVec 8) (x1 : BitVec 3) (x2 : BitVec 5) (x3 : BitVec 5) (x4 : BitVec 1) (x5 : BitVec 1) (x6 : BitVec 1) (x7 : BitVec 3) (x8 : BitVec 2) (x9 : BitVec 2) (x10 : BitVec 1) :
    fld (x0 ++ x1 ++ x2 ++ x3 ++ x4 ++ x5 ++ x6 ++ x7 ++ x8 ++ x9 ++ x10) 24 5 = x0.extractLsb' 0 5 :=
  (BitVec.extractLsb'_append_eq_of_le (xhi := x0 ++ x1 ++ x2 ++ x3 ++ x4 ++ x5 ++ x6 ++ x7 ++ x8 ++ x9) (xlo := x10) (start := 24) (len := 5) (by decide)).trans <|
    (BitVec.extractLsb'_append_eq_of_le (xhi := x0 ++ x1 ++ x2 ++ x3 ++ x4 ++ x5 ++ x6 ++ x7 ++ x8) (xlo := x9) (start := 23) (len := 5) (by decide)).trans <|
    (BitVec.extractLsb'_append_eq_of_le (xhi := x0 ++ x1 ++ x2 ++ x3 ++ x4 ++ x5 ++ x6 ++ x7) (xlo := x8) (start := 21) (len := 5) (by decide)).trans <|
    (BitVec.extractLsb'_append_eq_of_le (xhi := x0 ++ x1 ++ x2 ++ x3 ++ x4 ++ x5 ++ x6) (xlo := x7) (start := 19) (len := 5) (by decide)).trans <|
    (BitVec.extractLsb'_append_eq_of_le (xhi := x0 ++ x1 ++ x2 ++ x3 ++ x4 ++ x5) (xlo := x6) (start := 16) (len := 5) (by decide)).trans <|
    (BitVec.extractLsb'_append_eq_of_le (xhi := x0 ++ x1 ++ x2 ++ x3 ++ x4) (xlo := x5) (start := 15) (len := 5) (by decide)).trans <|
    (BitVec.extractLsb'_append_eq_of_le (xhi := x0 ++ x1 ++ x2 ++ x3) (xlo := x4) (start := 14) (len := 5) (by decide)).trans <|
    (BitVec.extractLsb'_append_eq_of_le (xhi := x0 ++ x1 ++ x2) (xlo := x3) (start := 13) (len := 5) (by decide)).trans <|
    (BitVec.extractLsb'_append_eq_of_le (xhi := x0 ++ x1) (xlo := x2) (start := 8) (len := 5) (by decide)).trans <|
    (BitVec.extractLsb'_append_eq_of_le (xhi := x0) (xlo := x1) (start := 3) (len := 5) (by decide))

theorem Encoding.fld_34_21_3 (x0 : BitVec 8) (x1 : BitVec 3) (x2 : BitVec 5) (x3 : BitVec 5) (x4 : BitVec 1) (x5 : BitVec 1) (x6 : BitVec 1) (x7 : BitVec 3) (x8 : BitVec 2) (x9 : BitVec 2) (x10 : BitVec 1) :
    fld (x0 ++ x1 ++ x2 ++ x3 ++ x4 ++ x5 ++ x6 ++ x7 ++ x8 ++ x9 ++ x10) 21 3 = x1 :=
  (BitVec.extractLsb'_append_eq_of_le (xhi := x0 ++ x1 ++ x2 ++ x3 ++ x4 ++ x5 ++ x6 ++ x7 ++ x8 ++ x9) (xlo := x10) (start := 21) (len := 3) (by decide)).trans <|
    (BitVec.extractLsb'_append_eq_of_le (xhi := x0 ++ x1 ++ x2 ++ x3 ++ x4 ++ x5 ++ x6 ++ x7 ++ x8) (xlo := x9) (start := 20) (len := 3) (by decide)).trans <|
    (BitVec.extractLsb'_append_eq_of_le (xhi := x0 ++ x1 ++ x2 ++ x3 ++ x4 ++ x5 ++ x6 ++ x7) (xlo := x8) (start := 18) (len := 3) (by decide)).trans <|
    (BitVec.extractLsb'_append_eq_of_le (xhi := x0 ++ x1 ++ x2 ++ x3 ++ x4 ++ x5 ++ x6) (xlo := x7) (start := 16) (len := 3) (by decide)).trans <|
    (BitVec.extractLsb'_append_eq_of_le (xhi := x0 ++ x1 ++ x2 ++ x3 ++ x4 ++ x5) (xlo := x6) (start := 13) (len := 3) (by decide)).trans <|
    (BitVec.extractLsb'_append_eq_of_le (xhi := x0 ++ x1 ++ x2 ++ x3 ++ x4) (xlo := x5) (start := 12) (len := 3) (by decide)).trans <|
    (BitVec.extractLsb'_append_eq_of_le (xhi := x0 ++ x1 ++ x2 ++ x3) (xlo := x4) (start := 11) (len := 3) (by decide)).trans <|
    (BitVec.extractLsb'_append_eq_of_le (xhi := x0 ++ x1 ++ x2) (xlo := x3) (start := 10) (len := 3) (by decide)).trans <|
    (BitVec.extractLsb'_append_eq_of_le (xhi := x0 ++ x1) (xlo := x2) (start := 5) (len := 3) (by decide)).trans <|
    (BitVec.extractLsb'_append_eq_of_add_le (xhi := x0) (xlo := x1) (start := 0) (len := 3) (by decide)).trans <|
    (BitVec.extractLsb'_eq_self)

theorem Encoding.fld_34_16_5 (x0 : BitVec 8) (x1 : BitVec 3) (x2 : BitVec 5) (x3 : BitVec 5) (x4 : BitVec 1) (x5 : BitVec 1) (x6 : BitVec 1) (x7 : BitVec 3) (x8 : BitVec 2) (x9 : BitVec 2) (x10 : BitVec 1) :
    fld (x0 ++ x1 ++ x2 ++ x3 ++ x4 ++ x5 ++ x6 ++ x7 ++ x8 ++ x9 ++ x10) 16 5 = x2 :=
  (BitVec.extractLsb'_append_eq_of_le (xhi := x0 ++ x1 ++ x2 ++ x3 ++ x4 ++ x5 ++ x6 ++ x7 ++ x8 ++ x9) (xlo := x10) (start := 16) (len := 5) (by decide)).trans <|
    (BitVec.extractLsb'_append_eq_of_le (xhi := x0 ++ x1 ++ x2 ++ x3 ++ x4 ++ x5 ++ x6 ++ x7 ++ x8) (xlo := x9) (start := 15) (len := 5) (by decide)).trans <|
    (BitVec.extractLsb'_append_eq_of_le (xhi := x0 ++ x1 ++ x2 ++ x3 ++ x4 ++ x5 ++ x6 ++ x7) (xlo := x8) (start := 13) (len := 5) (by decide)).trans <|
    (BitVec.extractLsb'_append_eq_of_le (xhi := x0 ++ x1 ++ x2 ++ x3 ++ x4 ++ x5 ++ x6) (xlo := x7) (start := 11) (len := 5) (by decide)).trans <|
    (BitVec.extractLsb'_append_eq_of_le (xhi := x0 ++ x1 ++ x2 ++ x3 ++ x4 ++ x5) (xlo := x6) (start := 8) (len := 5) (by decide)).trans <|
    (BitVec.extractLsb'_append_eq_of_le (xhi := x0 ++ x1 ++ x2 ++ x3 ++ x4) (xlo := x5) (start := 7) (len := 5) (by decide)).trans <|
    (BitVec.extractLsb'_append_eq_of_le (xhi := x0 ++ x1 ++ x2 ++ x3) (xlo := x4) (start := 6) (len := 5) (by decide)).trans <|
    (BitVec.extractLsb'_append_eq_of_le (xhi := x0 ++ x1 ++ x2) (xlo := x3) (start := 5) (len := 5) (by decide)).trans <|
    (BitVec.extractLsb'_append_eq_of_add_le (xhi := x0 ++ x1) (xlo := x2) (start := 0) (len := 5) (by decide)).trans <|
    (BitVec.extractLsb'_eq_self)

theorem Encoding.fld_34_11_5 (x0 : BitVec 8) (x1 : BitVec 3) (x2 : BitVec 5) (x3 : BitVec 5) (x4 : BitVec 1) (x5 : BitVec 1) (x6 : BitVec 1) (x7 : BitVec 3) (x8 : BitVec 2) (x9 : BitVec 2) (x10 : BitVec 1) :
    fld (x0 ++ x1 ++ x2 ++ x3 ++ x4 ++ x5 ++ x6 ++ x7 ++ x8 ++ x9 ++ x10) 11 5 = x3 :=
  (BitVec.extractLsb'_append_eq_of_le (xhi := x0 ++ x1 ++ x2 ++ x3 ++ x4 ++ x5 ++ x6 ++ x7 ++ x8 ++ x9) (xlo := x10) (start := 11) (len := 5) (by decide)).trans <|
    (BitVec.extractLsb'_append_eq_of_le (xhi := x0 ++ x1 ++ x2 ++ x3 ++ x4 ++ x5 ++ x6 ++ x7 ++ x8) (xlo := x9) (start := 10) (len := 5) (by decide)).trans <|
    (BitVec.extractLsb'_append_eq_of_le (xhi := x0 ++ x1 ++ x2 ++ x3 ++ x4 ++ x5 ++ x6 ++ x7) (xlo := x8) (start := 8) (len := 5) (by decide)).trans <|
    (BitVec.extractLsb'_append_eq_of_le (xhi := x0 ++ x1 ++ x2 ++ x3 ++ x4 ++ x5 ++ x6) (xlo := x7) (start := 6) (len := 5) (by decide)).trans <|
    (BitVec.extractLsb'_append_eq_of_le (xhi := x0 ++ x1 ++ x2 ++ x3 ++ x4 ++ x5) (xlo := x6) (start := 3) (len := 5) (by decide)).trans <|
    (BitVec.extractLsb'_append_eq_of_le (xhi := x0 ++ x1 ++ x2 ++ x3 ++ x4) (xlo := x5) (start := 2) (len := 5) (by decide)).trans <|
    (BitVec.extractLsb'_append_eq_of_le (xhi := x0 ++ x1 ++ x2 ++ x3) (xlo := x4) (start := 1) (len := 5) (by decide)).trans <|
    (BitVec.extractLsb'_append_eq_of_add_le (xhi := x0 ++ x1 ++ x2) (xlo := x3) (start := 0) (len := 5) (by decide)).trans <|
    (BitVec.extractLsb'_eq_self)

theorem Encoding.fld_34_9_1 (x0 : BitVec 8) (x1 : BitVec 3) (x2 : BitVec 5) (x3 : BitVec 5) (x4 : BitVec 1) (x5 : BitVec 1) (x6 : BitVec 1) (x7 : BitVec 3) (x8 : BitVec 2) (x9 : BitVec 2) (x10 : BitVec 1) :
    fld (x0 ++ x1 ++ x2 ++ x3 ++ x4 ++ x5 ++ x6 ++ x7 ++ x8 ++ x9 ++ x10) 9 1 = x5 :=
  (BitVec.extractLsb'_append_eq_of_le (xhi := x0 ++ x1 ++ x2 ++ x3 ++ x4 ++ x5 ++ x6 ++ x7 ++ x8 ++ x9) (xlo := x10) (start := 9) (len := 1) (by decide)).trans <|
    (BitVec.extractLsb'_append_eq_of_le (xhi := x0 ++ x1 ++ x2 ++ x3 ++ x4 ++ x5 ++ x6 ++ x7 ++ x8) (xlo := x9) (start := 8) (len := 1) (by decide)).trans <|
    (BitVec.extractLsb'_append_eq_of_le (xhi := x0 ++ x1 ++ x2 ++ x3 ++ x4 ++ x5 ++ x6 ++ x7) (xlo := x8) (start := 6) (len := 1) (by decide)).trans <|
    (BitVec.extractLsb'_append_eq_of_le (xhi := x0 ++ x1 ++ x2 ++ x3 ++ x4 ++ x5 ++ x6) (xlo := x7) (start := 4) (len := 1) (by decide)).trans <|
    (BitVec.extractLsb'_append_eq_of_le (xhi := x0 ++ x1 ++ x2 ++ x3 ++ x4 ++ x5) (xlo := x6) (start := 1) (len := 1) (by decide)).trans <|
    (BitVec.extractLsb'_append_eq_of_add_le (xhi := x0 ++ x1 ++ x2 ++ x3 ++ x4) (xlo := x5) (start := 0) (len := 1) (by decide)).trans <|
    (BitVec.extractLsb'_eq_self)

theorem Encoding.fld_34_5_3 (x0 : BitVec 8) (x1 : BitVec 3) (x2 : BitVec 5) (x3 : BitVec 5) (x4 : BitVec 1) (x5 : BitVec 1) (x6 : BitVec 1) (x7 : BitVec 3) (x8 : BitVec 2) (x9 : BitVec 2) (x10 : BitVec 1) :
    fld (x0 ++ x1 ++ x2 ++ x3 ++ x4 ++ x5 ++ x6 ++ x7 ++ x8 ++ x9 ++ x10) 5 3 = x7 :=
  (BitVec.extractLsb'_append_eq_of_le (xhi := x0 ++ x1 ++ x2 ++ x3 ++ x4 ++ x5 ++ x6 ++ x7 ++ x8 ++ x9) (xlo := x10) (start := 5) (len := 3) (by decide)).trans <|
    (BitVec.extractLsb'_append_eq_of_le (xhi := x0 ++ x1 ++ x2 ++ x3 ++ x4 ++ x5 ++ x6 ++ x7 ++ x8) (xlo := x9) (start := 4) (len := 3) (by decide)).trans <|
    (BitVec.extractLsb'_append_eq_of_le (xhi := x0 ++ x1 ++ x2 ++ x3 ++ x4 ++ x5 ++ x6 ++ x7) (xlo := x8) (start := 2) (len := 3) (by decide)).trans <|
    (BitVec.extractLsb'_append_eq_of_add_le (xhi := x0 ++ x1 ++ x2 ++ x3 ++ x4 ++ x5 ++ x6) (xlo := x7) (start := 0) (len := 3) (by decide)).trans <|
    (BitVec.extractLsb'_eq_self)

theorem Encoding.fld_34_3_2 (x0 : BitVec 8) (x1 : BitVec 3) (x2 : BitVec 5) (x3 : BitVec 5) (x4 : BitVec 1) (x5 : BitVec 1) (x6 : BitVec 1) (x7 : BitVec 3) (x8 : BitVec 2) (x9 : BitVec 2) (x10 : BitVec 1) :
    fld (x0 ++ x1 ++ x2 ++ x3 ++ x4 ++ x5 ++ x6 ++ x7 ++ x8 ++ x9 ++ x10) 3 2 = x8 :=
  (BitVec.extractLsb'_append_eq_of_le (xhi := x0 ++ x1 ++ x2 ++ x3 ++ x4 ++ x5 ++ x6 ++ x7 ++ x8 ++ x9) (xlo := x10) (start := 3) (len := 2) (by decide)).trans <|
    (BitVec.extractLsb'_append_eq_of_le (xhi := x0 ++ x1 ++ x2 ++ x3 ++ x4 ++ x5 ++ x6 ++ x7 ++ x8) (xlo := x9) (start := 2) (len := 2) (by decide)).trans <|
    (BitVec.extractLsb'_append_eq_of_add_le (xhi := x0 ++ x1 ++ x2 ++ x3 ++ x4 ++ x5 ++ x6 ++ x7) (xlo := x8) (start := 0) (len := 2) (by decide)).trans <|
    (BitVec.extractLsb'_eq_self)

theorem Encoding.fld_34_1_2 (x0 : BitVec 8) (x1 : BitVec 3) (x2 : BitVec 5) (x3 : BitVec 5) (x4 : BitVec 1) (x5 : BitVec 1) (x6 : BitVec 1) (x7 : BitVec 3) (x8 : BitVec 2) (x9 : BitVec 2) (x10 : BitVec 1) :
    fld (x0 ++ x1 ++ x2 ++ x3 ++ x4 ++ x5 ++ x6 ++ x7 ++ x8 ++ x9 ++ x10) 1 2 = x9 :=
  (BitVec.extractLsb'_append_eq_of_le (xhi := x0 ++ x1 ++ x2 ++ x3 ++ x4 ++ x5 ++ x6 ++ x7 ++ x8 ++ x9) (xlo := x10) (start := 1) (len := 2) (by decide)).trans <|
    (BitVec.extractLsb'_append_eq_of_add_le (xhi := x0 ++ x1 ++ x2 ++ x3 ++ x4 ++ x5 ++ x6 ++ x7 ++ x8) (xlo := x9) (start := 0) (len := 2) (by decide)).trans <|
    (BitVec.extractLsb'_eq_self)

theorem Encoding.fld_35_28_4 (x0 : BitVec 8) (x1 : BitVec 3) (x2 : BitVec 5) (x3 : BitVec 5) (x4 : BitVec 1) (x5 : BitVec 1) (x6 : BitVec 1) (x7 : BitVec 3) (x8 : BitVec 2) (x9 : BitVec 1) (x10 : BitVec 2) :
    fld (x0 ++ x1 ++ x2 ++ x3 ++ x4 ++ x5 ++ x6 ++ x7 ++ x8 ++ x9 ++ x10) 28 4 = x0.extractLsb' 4 4 :=
  (BitVec.extractLsb'_append_eq_of_le (xhi := x0 ++ x1 ++ x2 ++ x3 ++ x4 ++ x5 ++ x6 ++ x7 ++ x8 ++ x9) (xlo := x10) (start := 28) (len := 4) (by decide)).trans <|
    (BitVec.extractLsb'_append_eq_of_le (xhi := x0 ++ x1 ++ x2 ++ x3 ++ x4 ++ x5 ++ x6 ++ x7 ++ x8) (xlo := x9) (start := 26) (len := 4) (by decide)).trans <|
    (BitVec.extractLsb'_append_eq_of_le (xhi := x0 ++ x1 ++ x2 ++ x3 ++ x4 ++ x5 ++ x6 ++ x7) (xlo := x8) (start := 25) (len := 4) (by decide)).trans <|
    (BitVec.extractLsb'_append_eq_of_le (xhi := x0 ++ x1 ++ x2 ++ x3 ++ x4 ++ x5 ++ x6) (xlo := x7) (start := 23) (len := 4) (by decide)).trans <|
    (BitVec.extractLsb'_append_eq_of_le (xhi := x0 ++ x1 ++ x2 ++ x3 ++ x4 ++ x5) (xlo := x6) (start := 20) (len := 4) (by decide)).trans <|
    (BitVec.extractLsb'_append_eq_of_le (xhi := x0 ++ x1 ++ x2 ++ x3 ++ x4) (xlo := x5) (start := 19) (len := 4) (by decide)).trans <|
    (BitVec.extractLsb'_append_eq_of_le (xhi := x0 ++ x1 ++ x2 ++ x3) (xlo := x4) (start := 18) (len := 4) (by decide)).trans <|
    (BitVec.extractLsb'_append_eq_of_le (xhi := x0 ++ x1 ++ x2) (xlo := x3) (start := 17) (len := 4) (by decide)).trans <|
    (BitVec.extractLsb'_append_eq_of_le (xhi := x0 ++ x1) (xlo := x2) (start := 12) (len := 4) (by decide)).trans <|
    (BitVec.extractLsb'_append_eq_of_le (xhi := x0) (xlo := x1) (start := 7) (len := 4) (by decide))

theorem Encoding.fld_35_24_5 (x0 : BitVec 8) (x1 : BitVec 3) (x2 : BitVec 5) (x3 : BitVec 5) (x4 : BitVec 1) (x5 : BitVec 1) (x6 : BitVec 1) (x7 : BitVec 3) (x8 : BitVec 2) (x9 : BitVec 1) (x10 : BitVec 2) :
    fld (x0 ++ x1 ++ x2 ++ x3 ++ x4 ++ x5 ++ x6 ++ x7 ++ x8 ++ x9 ++ x10) 24 5 = x0.extractLsb' 0 5 :=
  (BitVec.extractLsb'_append_eq_of_le (xhi := x0 ++ x1 ++ x2 ++ x3 ++ x4 ++ x5 ++ x6 ++ x7 ++ x8 ++ x9) (xlo := x10) (start := 24) (len := 5) (by decide)).trans <|
    (BitVec.extractLsb'_append_eq_of_le (xhi := x0 ++ x1 ++ x2 ++ x3 ++ x4 ++ x5 ++ x6 ++ x7 ++ x8) (xlo := x9) (start := 22) (len := 5) (by decide)).trans <|
    (BitVec.extractLsb'_append_eq_of_le (xhi := x0 ++ x1 ++ x2 ++ x3 ++ x4 ++ x5 ++ x6 ++ x7) (xlo := x8) (start := 21) (len := 5) (by decide)).trans <|
    (BitVec.extractLsb'_append_eq_of_le (xhi := x0 ++ x1 ++ x2 ++ x3 ++ x4 ++ x5 ++ x6) (xlo := x7) (start := 19) (len := 5) (by decide)).trans <|
    (BitVec.extractLsb'_append_eq_of_le (xhi := x0 ++ x1 ++ x2 ++ x3 ++ x4 ++ x5) (xlo := x6) (start := 16) (len := 5) (by decide)).trans <|
    (BitVec.extractLsb'_append_eq_of_le (xhi := x0 ++ x1 ++ x2 ++ x3 ++ x4) (xlo := x5) (start := 15) (len := 5) (by decide)).trans <|
    (BitVec.extractLsb'_append_eq_of_le (xhi := x0 ++ x1 ++ x2 ++ x3) (xlo := x4) (start := 14) (len := 5) (by decide)).trans <|
    (BitVec.extractLsb'_append_eq_of_le (xhi := x0 ++ x1 ++ x2) (xlo := x3) (start := 13) (len := 5) (by decide)).trans <|
    (BitVec.extractLsb'_append_eq_of_le (xhi := x0 ++ x1) (xlo := x2) (start := 8) (len := 5) (by decide)).trans <|
    (BitVec.extractLsb'_append_eq_of_le (xhi := x0) (xlo := x1) (start := 3) (len := 5) (by decide))

theorem Encoding.fld_35_21_3 (x0 : BitVec 8) (x1 : BitVec 3) (x2 : BitVec 5) (x3 : BitVec 5) (x4 : BitVec 1) (x5 : BitVec 1) (x6 : BitVec 1) (x7 : BitVec 3) (x8 : BitVec 2) (x9 : BitVec 1) (x10 : BitVec 2) :
    fld (x0 ++ x1 ++ x2 ++ x3 ++ x4 ++ x5 ++ x6 ++ x7 ++ x8 ++ x9 ++ x10) 21 3 = x1 :=
  (BitVec.extractLsb'_append_eq_of_le (xhi := x0 ++ x1 ++ x2 ++ x3 ++ x4 ++ x5 ++ x6 ++ x7 ++ x8 ++ x9) (xlo := x10) (start := 21) (len := 3) (by decide)).trans <|
    (BitVec.extractLsb'_append_eq_of_le (xhi := x0 ++ x1 ++ x2 ++ x3 ++ x4 ++ x5 ++ x6 ++ x7 ++ x8) (xlo := x9) (start := 19) (len := 3) (by decide)).trans <|
    (BitVec.extractLsb'_append_eq_of_le (xhi := x0 ++ x1 ++ x2 ++ x3 ++ x4 ++ x5 ++ x6 ++ x7) (xlo := x8) (start := 18) (len := 3) (by decide)).trans <|
    (BitVec.extractLsb'_append_eq_of_le (xhi := x0 ++ x1 ++ x2 ++ x3 ++ x4 ++ x5 ++ x6) (xlo := x7) (start := 16) (len := 3) (by decide)).trans <|
    (BitVec.extractLsb'_append_eq_of_le (xhi := x0 ++ x1 ++ x2 ++ x3 ++ x4 ++ x5) (xlo := x6) (start := 13) (len := 3) (by decide)).trans <|
    (BitVec.extractLsb'_append_eq_of_le (xhi := x0 ++ x1 ++ x2 ++ x3 ++ x4) (xlo := x5) (start := 12) (len := 3) (by decide)).trans <|
    (BitVec.extractLsb'_append_eq_of_le (xhi := x0 ++ x1 ++ x2 ++ x3) (xlo := x4) (start := 11) (len := 3) (by decide)).trans <|
    (BitVec.extractLsb'_append_eq_of_le (xhi := x0 ++ x1 ++ x2) (xlo := x3) (start := 10) (len := 3) (by decide)).trans <|
    (BitVec.extractLsb'_append_eq_of_le (xhi := x0 ++ x1) (xlo := x2) (start := 5) (len := 3) (by decide)).trans <|
    (BitVec.extractLsb'_append_eq_of_add_le (xhi := x0) (xlo := x1) (start := 0) (len := 3) (by decide)).trans <|
    (BitVec.extractLsb'_eq_self)

theorem Encoding.fld_35_16_5 (x0 : BitVec 8) (x1 : BitVec 3) (x2 : BitVec 5) (x3 : BitVec 5) (x4 : BitVec 1) (x5 : BitVec 1) (x6 : BitVec 1) (x7 : BitVec 3) (x8 : BitVec 2) (x9 : BitVec 1) (x10 : BitVec 2) :
    fld (x0 ++ x1 ++ x2 ++ x3 ++ x4 ++ x5 ++ x6 ++ x7 ++ x8 ++ x9 ++ x10) 16 5 = x2 :=
  (BitVec.extractLsb'_append_eq_of_le (xhi := x0 ++ x1 ++ x2 ++ x3 ++ x4 ++ x5 ++ x6 ++ x7 ++ x8 ++ x9) (xlo := x10) (start := 16) (len := 5) (by decide)).trans <|
    (BitVec.extractLsb'_append_eq_of_le (xhi := x0 ++ x1 ++ x2 ++ x3 ++ x4 ++ x5 ++ x6 ++ x7 ++ x8) (xlo := x9) (start := 14) (len := 5) (by decide)).trans <|
    (BitVec.extractLsb'_append_eq_of_le (xhi := x0 ++ x1 ++ x2 ++ x3 ++ x4 ++ x5 ++ x6 ++ x7) (xlo := x8) (start := 13) (len := 5) (by decide)).trans <|
    (BitVec.extractLsb'_append_eq_of_le (xhi := x0 ++ x1 ++ x2 ++ x3 ++ x4 ++ x5 ++ x6) (xlo := x7) (start := 11) (len := 5) (by decide)).trans <|
    (BitVec.extractLsb'_append_eq_of_le (xhi := x0 ++ x1 ++ x2 ++ x3 ++ x4 ++ x5) (xlo := x6) (start := 8) (len := 5) (by decide)).trans <|
    (BitVec.extractLsb'_append_eq_of_le (xhi := x0 ++ x1 ++ x2 ++ x3 ++ x4) (xlo := x5) (start := 7) (len := 5) (by decide)).trans <|
    (BitVec.extractLsb'_append_eq_of_le (xhi := x0 ++ x1 ++ x2 ++ x3) (xlo := x4) (start := 6) (len := 5) (by decide)).trans <|
    (BitVec.extractLsb'_append_eq_of_le (xhi := x0 ++ x1 ++ x2) (xlo := x3) (start := 5) (len := 5) (by decide)).trans <|
    (BitVec.extractLsb'_append_eq_of_add_le (xhi := x0 ++ x1) (xlo := x2) (start := 0) (len := 5) (by decide)).trans <|
    (BitVec.extractLsb'_eq_self)

theorem Encoding.fld_35_11_5 (x0 : BitVec 8) (x1 : BitVec 3) (x2 : BitVec 5) (x3 : BitVec 5) (x4 : BitVec 1) (x5 : BitVec 1) (x6 : BitVec 1) (x7 : BitVec 3) (x8 : BitVec 2) (x9 : BitVec 1) (x10 : BitVec 2) :
    fld (x0 ++ x1 ++ x2 ++ x3 ++ x4 ++ x5 ++ x6 ++ x7 ++ x8 ++ x9 ++ x10) 11 5 = x3 :=
  (BitVec.extractLsb'_append_eq_of_le (xhi := x0 ++ x1 ++ x2 ++ x3 ++ x4 ++ x5 ++ x6 ++ x7 ++ x8 ++ x9) (xlo := x10) (start := 11) (len := 5) (by decide)).trans <|
    (BitVec.extractLsb'_append_eq_of_le (xhi := x0 ++ x1 ++ x2 ++ x3 ++ x4 ++ x5 ++ x6 ++ x7 ++ x8) (xlo := x9) (start := 9) (len := 5) (by decide)).trans <|
    (BitVec.extractLsb'_append_eq_of_le (xhi := x0 ++ x1 ++ x2 ++ x3 ++ x4 ++ x5 ++ x6 ++ x7) (xlo := x8) (start := 8) (len := 5) (by decide)).trans <|
    (BitVec.extractLsb'_append_eq_of_le (xhi := x0 ++ x1 ++ x2 ++ x3 ++ x4 ++ x5 ++ x6) (xlo := x7) (start := 6) (len := 5) (by decide)).trans <|
    (BitVec.extractLsb'_append_eq_of_le (xhi := x0 ++ x1 ++ x2 ++ x3 ++ x4 ++ x5) (xlo := x6) (start := 3) (len := 5) (by decide)).trans <|
    (BitVec.extractLsb'_append_eq_of_le (xhi := x0 ++ x1 ++ x2 ++ x3 ++ x4) (xlo := x5) (start := 2) (len := 5) (by decide)).trans <|
    (BitVec.extractLsb'_append_eq_of_le (xhi := x0 ++ x1 ++ x2 ++ x3) (xlo := x4) (start := 1) (len := 5) (by decide)).trans <|
    (BitVec.extractLsb'_append_eq_of_add_le (xhi := x0 ++ x1 ++ x2) (xlo := x3) (start := 0) (len := 5) (by decide)).trans <|
    (BitVec.extractLsb'_eq_self)

theorem Encoding.fld_35_10_1 (x0 : BitVec 8) (x1 : BitVec 3) (x2 : BitVec 5) (x3 : BitVec 5) (x4 : BitVec 1) (x5 : BitVec 1) (x6 : BitVec 1) (x7 : BitVec 3) (x8 : BitVec 2) (x9 : BitVec 1) (x10 : BitVec 2) :
    fld (x0 ++ x1 ++ x2 ++ x3 ++ x4 ++ x5 ++ x6 ++ x7 ++ x8 ++ x9 ++ x10) 10 1 = x4 :=
  (BitVec.extractLsb'_append_eq_of_le (xhi := x0 ++ x1 ++ x2 ++ x3 ++ x4 ++ x5 ++ x6 ++ x7 ++ x8 ++ x9) (xlo := x10) (start := 10) (len := 1) (by decide)).trans <|
    (BitVec.extractLsb'_append_eq_of_le (xhi := x0 ++ x1 ++ x2 ++ x3 ++ x4 ++ x5 ++ x6 ++ x7 ++ x8) (xlo := x9) (start := 8) (len := 1) (by decide)).trans <|
    (BitVec.extractLsb'_append_eq_of_le (xhi := x0 ++ x1 ++ x2 ++ x3 ++ x4 ++ x5 ++ x6 ++ x7) (xlo := x8) (start := 7) (len := 1) (by decide)).trans <|
    (BitVec.extractLsb'_append_eq_of_le (xhi := x0 ++ x1 ++ x2 ++ x3 ++ x4 ++ x5 ++ x6) (xlo := x7) (start := 5) (len := 1) (by decide)).trans <|
    (BitVec.extractLsb'_append_eq_of_le (xhi := x0 ++ x1 ++ x2 ++ x3 ++ x4 ++ x5) (xlo := x6) (start := 2) (len := 1) (by decide)).trans <|
    (BitVec.extractLsb'_append_eq_of_le (xhi := x0 ++ x1 ++ x2 ++ x3 ++ x4) (xlo := x5) (start := 1) (len := 1) (by decide)).trans <|
    (BitVec.extractLsb'_append_eq_of_add_le (xhi := x0 ++ x1 ++ x2 ++ x3) (xlo := x4) (start := 0) (len := 1) (by decide)).trans <|
    (BitVec.extractLsb'_eq_self)

theorem Encoding.fld_35_9_1 (x0 : BitVec 8) (x1 : BitVec 3) (x2 : BitVec 5) (x3 : BitVec 5) (x4 : BitVec 1) (x5 : BitVec 1) (x6 : BitVec 1) (x7 : BitVec 3) (x8 : BitVec 2) (x9 : BitVec 1) (x10 : BitVec 2) :
    fld (x0 ++ x1 ++ x2 ++ x3 ++ x4 ++ x5 ++ x6 ++ x7 ++ x8 ++ x9 ++ x10) 9 1 = x5 :=
  (BitVec.extractLsb'_append_eq_of_le (xhi := x0 ++ x1 ++ x2 ++ x3 ++ x4 ++ x5 ++ x6 ++ x7 ++ x8 ++ x9) (xlo := x10) (start := 9) (len := 1) (by decide)).trans <|
    (BitVec.extractLsb'_append_eq_of_le (xhi := x0 ++ x1 ++ x2 ++ x3 ++ x4 ++ x5 ++ x6 ++ x7 ++ x8) (xlo := x9) (start := 7) (len := 1) (by decide)).trans <|
    (BitVec.extractLsb'_append_eq_of_le (xhi := x0 ++ x1 ++ x2 ++ x3 ++ x4 ++ x5 ++ x6 ++ x7) (xlo := x8) (start := 6) (len := 1) (by decide)).trans <|
    (BitVec.extractLsb'_append_eq_of_le (xhi := x0 ++ x1 ++ x2 ++ x3 ++ x4 ++ x5 ++ x6) (xlo := x7) (start := 4) (len := 1) (by decide)).trans <|
    (BitVec.extractLsb'_append_eq_of_le (xhi := x0 ++ x1 ++ x2 ++ x3 ++ x4 ++ x5) (xlo := x6) (start := 1) (len := 1) (by decide)).trans <|
    (BitVec.extractLsb'_append_eq_of_add_le (xhi := x0 ++ x1 ++ x2 ++ x3 ++ x4) (xlo := x5) (start := 0) (len := 1) (by decide)).trans <|
    (BitVec.extractLsb'_eq_self)

theorem Encoding.fld_35_5_3 (x0 : BitVec 8) (x1 : BitVec 3) (x2 : BitVec 5) (x3 : BitVec 5) (x4 : BitVec 1) (x5 : BitVec 1) (x6 : BitVec 1) (x7 : BitVec 3) (x8 : BitVec 2) (x9 : BitVec 1) (x10 : BitVec 2) :
    fld (x0 ++ x1 ++ x2 ++ x3 ++ x4 ++ x5 ++ x6 ++ x7 ++ x8 ++ x9 ++ x10) 5 3 = x7 :=
  (BitVec.extractLsb'_append_eq_of_le (xhi := x0 ++ x1 ++ x2 ++ x3 ++ x4 ++ x5 ++ x6 ++ x7 ++ x8 ++ x9) (xlo := x10) (start := 5) (len := 3) (by decide)).trans <|
    (BitVec.extractLsb'_append_eq_of_le (xhi := x0 ++ x1 ++ x2 ++ x3 ++ x4 ++ x5 ++ x6 ++ x7 ++ x8) (xlo := x9) (start := 3) (len := 3) (by decide)).trans <|
    (BitVec.extractLsb'_append_eq_of_le (xhi := x0 ++ x1 ++ x2 ++ x3 ++ x4 ++ x5 ++ x6 ++ x7) (xlo := x8) (start := 2) (len := 3) (by decide)).trans <|
    (BitVec.extractLsb'_append_eq_of_add_le (xhi := x0 ++ x1 ++ x2 ++ x3 ++ x4 ++ x5 ++ x6) (xlo := x7) (start := 0) (len := 3) (by decide)).trans <|
    (BitVec.extractLsb'_eq_self)

theorem Encoding.fld_35_3_2 (x0 : BitVec 8) (x1 : BitVec 3) (x2 : BitVec 5) (x3 : BitVec 5) (x4 : BitVec 1) (x5 : BitVec 1) (x6 : BitVec 1) (x7 : BitVec 3) (x8 : BitVec 2) (x9 : BitVec 1) (x10 : BitVec 2) :
    fld (x0 ++ x1 ++ x2 ++ x3 ++ x4 ++ x5 ++ x6 ++ x7 ++ x8 ++ x9 ++ x10) 3 2 = x8 :=
  (BitVec.extractLsb'_append_eq_of_le (xhi := x0 ++ x1 ++ x2 ++ x3 ++ x4 ++ x5 ++ x6 ++ x7 ++ x8 ++ x9) (xlo := x10) (start := 3) (len := 2) (by decide)).trans <|
    (BitVec.extractLsb'_append_eq_of_le (xhi := x0 ++ x1 ++ x2 ++ x3 ++ x4 ++ x5 ++ x6 ++ x7 ++ x8) (xlo := x9) (start := 1) (len := 2) (by decide)).trans <|
    (BitVec.extractLsb'_append_eq_of_add_le (xhi := x0 ++ x1 ++ x2 ++ x3 ++ x4 ++ x5 ++ x6 ++ x7) (xlo := x8) (start := 0) (len := 2) (by decide)).trans <|
    (BitVec.extractLsb'_eq_self)

theorem Encoding.fld_35_2_1 (x0 : BitVec 8) (x1 : BitVec 3) (x2 : BitVec 5) (x3 : BitVec 5) (x4 : BitVec 1) (x5 : BitVec 1) (x6 : BitVec 1) (x7 : BitVec 3) (x8 : BitVec 2) (x9 : BitVec 1) (x10 : BitVec 2) :
    fld (x0 ++ x1 ++ x2 ++ x3 ++ x4 ++ x5 ++ x6 ++ x7 ++ x8 ++ x9 ++ x10) 2 1 = x9 :=
  (BitVec.extractLsb'_append_eq_of_le (xhi := x0 ++ x1 ++ x2 ++ x3 ++ x4 ++ x5 ++ x6 ++ x7 ++ x8 ++ x9) (xlo := x10) (start := 2) (len := 1) (by decide)).trans <|
    (BitVec.extractLsb'_append_eq_of_add_le (xhi := x0 ++ x1 ++ x2 ++ x3 ++ x4 ++ x5 ++ x6 ++ x7 ++ x8) (xlo := x9) (start := 0) (len := 1) (by decide)).trans <|
    (BitVec.extractLsb'_eq_self)

theorem Encoding.fld_35_8_1 (x0 : BitVec 8) (x1 : BitVec 3) (x2 : BitVec 5) (x3 : BitVec 5) (x4 : BitVec 1) (x5 : BitVec 1) (x6 : BitVec 1) (x7 : BitVec 3) (x8 : BitVec 2) (x9 : BitVec 1) (x10 : BitVec 2) :
    fld (x0 ++ x1 ++ x2 ++ x3 ++ x4 ++ x5 ++ x6 ++ x7 ++ x8 ++ x9 ++ x10) 8 1 = x6 :=
  (BitVec.extractLsb'_append_eq_of_le (xhi := x0 ++ x1 ++ x2 ++ x3 ++ x4 ++ x5 ++ x6 ++ x7 ++ x8 ++ x9) (xlo := x10) (start := 8) (len := 1) (by decide)).trans <|
    (BitVec.extractLsb'_append_eq_of_le (xhi := x0 ++ x1 ++ x2 ++ x3 ++ x4 ++ x5 ++ x6 ++ x7 ++ x8) (xlo := x9) (start := 6) (len := 1) (by decide)).trans <|
    (BitVec.extractLsb'_append_eq_of_le (xhi := x0 ++ x1 ++ x2 ++ x3 ++ x4 ++ x5 ++ x6 ++ x7) (xlo := x8) (start := 5) (len := 1) (by decide)).trans <|
    (BitVec.extractLsb'_append_eq_of_le (xhi := x0 ++ x1 ++ x2 ++ x3 ++ x4 ++ x5 ++ x6) (xlo := x7) (start := 3) (len := 1) (by decide)).trans <|
    (BitVec.extractLsb'_append_eq_of_add_le (xhi := x0 ++ x1 ++ x2 ++ x3 ++ x4 ++ x5) (xlo := x6) (start := 0) (len := 1) (by decide)).trans <|
    (BitVec.extractLsb'_eq_self)

theorem Encoding.fld_36_28_4 (x0 : BitVec 8) (x1 : BitVec 3) (x2 : BitVec 5) (x3 : BitVec 5) (x4 : BitVec 1) (x5 : BitVec 5) (x6 : BitVec 2) (x7 : BitVec 3) :
    fld (x0 ++ x1 ++ x2 ++ x3 ++ x4 ++ x5 ++ x6 ++ x7) 28 4 = x0.extractLsb' 4 4 :=
  (BitVec.extractLsb'_append_eq_of_le (xhi := x0 ++ x1 ++ x2 ++ x3 ++ x4 ++ x5 ++ x6) (xlo := x7) (start := 28) (len := 4) (by decide)).trans <|
    (BitVec.extractLsb'_append_eq_of_le (xhi := x0 ++ x1 ++ x2 ++ x3 ++ x4 ++ x5) (xlo := x6) (start := 25) (len := 4) (by decide)).trans <|
    (BitVec.extractLsb'_append_eq_of_le (xhi := x0 ++ x1 ++ x2 ++ x3 ++ x4) (xlo := x5) (start := 23) (len := 4) (by decide)).trans <|
    (BitVec.extractLsb'_append_eq_of_le (xhi := x0 ++ x1 ++ x2 ++ x3) (xlo := x4) (start := 18) (len := 4) (by decide)).trans <|
    (BitVec.extractLsb'_append_eq_of_le (xhi := x0 ++ x1 ++ x2) (xlo := x3) (start := 17) (len := 4) (by decide)).trans <|
    (BitVec.extractLsb'_append_eq_of_le (xhi := x0 ++ x1) (xlo := x2) (start := 12) (len := 4) (by decide)).trans <|
    (BitVec.extractLsb'_append_eq_of_le (xhi := x0) (xlo := x1) (start := 7) (len := 4) (by decide))

theorem Encoding.fld_36_24_5 (x0 : BitVec 8) (x1 : BitVec 3) (x2 : BitVec 5) (x3 : BitVec 5) (x4 : BitVec 1) (x5 : BitVec 5) (x6 : BitVec 2) (x7 : BitVec 3) :
    fld (x0 ++ x1 ++ x2 ++ x3 ++ x4 ++ x5 ++ x6 ++ x7) 24 5 = x0.extractLsb' 0 5 :=
  (BitVec.extractLsb'_append_eq_of_le (xhi := x0 ++ x1 ++ x2 ++ x3 ++ x4 ++ x5 ++ x6) (xlo := x7) (start := 24) (len := 5) (by decide)).trans <|
    (BitVec.extractLsb'_append_eq_of_le (xhi := x0 ++ x1 ++ x2 ++ x3 ++ x4 ++ x5) (xlo := x6) (start := 21) (len := 5) (by decide)).trans <|
    (BitVec.extractLsb'_append_eq_of_le (xhi := x0 ++ x1 ++ x2 ++ x3 ++ x4) (xlo := x5) (start := 19) (len := 5) (by decide)).trans <|
    (BitVec.extractLsb'_append_eq_of_le (xhi := x0 ++ x1 ++ x2 ++ x3) (xlo := x4) (start := 14) (len := 5) (by decide)).trans <|
    (BitVec.extractLsb'_append_eq_of_le (xhi := x0 ++ x1 ++ x2) (xlo := x3) (start := 13) (len := 5) (by decide)).trans <|
    (BitVec.extractLsb'_append_eq_of_le (xhi := x0 ++ x1) (xlo := x2) (start := 8) (len := 5) (by decide)).trans <|
    (BitVec.extractLsb'_append_eq_of_le (xhi := x0) (xlo := x1) (start := 3) (len := 5) (by decide))

theorem Encoding.fld_36_21_3 (x0 : BitVec 8) (x1 : BitVec 3) (x2 : BitVec 5) (x3 : BitVec 5) (x4 : BitVec 1) (x5 : BitVec 5) (x6 : BitVec 2) (x7 : BitVec 3) :
    fld (x0 ++ x1 ++ x2 ++ x3 ++ x4 ++ x5 ++ x6 ++ x7) 21 3 = x1 :=
  (BitVec.extractLsb'_append_eq_of_le (xhi := x0 ++ x1 ++ x2 ++ x3 ++ x4 ++ x5 ++ x6) (xlo := x7) (start := 21) (len := 3) (by decide)).trans <|
    (BitVec.extractLsb'_append_eq_of_le (xhi := x0 ++ x1 ++ x2 ++ x3 ++ x4 ++ x5) (xlo := x6) (start := 18) (len := 3) (by decide)).trans <|
    (BitVec.extractLsb'_append_eq_of_le (xhi := x0 ++ x1 ++ x2 ++ x3 ++ x4) (xlo := x5) (start := 16) (len := 3) (by decide)).trans <|
    (BitVec.extractLsb'_append_eq_of_le (xhi := x0 ++ x1 ++ x2 ++ x3) (xlo := x4) (start := 11) (len := 3) (by decide)).trans <|
    (BitVec.extractLsb'_append_eq_of_le (xhi := x0 ++ x1 ++ x2) (xlo := x3) (start := 10) (len := 3) (by decide)).trans <|
    (BitVec.extractLsb'_append_eq_of_le (xhi := x0 ++ x1) (xlo := x2) (start := 5) (len := 3) (by decide)).trans <|
    (BitVec.extractLsb'_append_eq_of_add_le (xhi := x0) (xlo := x1) (start := 0) (len := 3) (by decide)).trans <|
    (BitVec.extractLsb'_eq_self)

theorem Encoding.fld_36_16_5 (x0 : BitVec 8) (x1 : BitVec 3) (x2 : BitVec 5) (x3 : BitVec 5) (x4 : BitVec 1) (x5 : BitVec 5) (x6 : BitVec 2) (x7 : BitVec 3) :
    fld (x0 ++ x1 ++ x2 ++ x3 ++ x4 ++ x5 ++ x6 ++ x7) 16 5 = x2 :=
  (BitVec.extractLsb'_append_eq_of_le (xhi := x0 ++ x1 ++ x2 ++ x3 ++ x4 ++ x5 ++ x6) (xlo := x7) (start := 16) (len := 5) (by decide)).trans <|
    (BitVec.extractLsb'_append_eq_of_le (xhi := x0 ++ x1 ++ x2 ++ x3 ++ x4 ++ x5) (xlo := x6) (start := 13) (len := 5) (by decide)).trans <|
    (BitVec.extractLsb'_append_eq_of_le (xhi := x0 ++ x1 ++ x2 ++ x3 ++ x4) (xlo := x5) (start := 11) (len := 5) (by decide)).trans <|
    (BitVec.extractLsb'_append_eq_of_le (xhi := x0 ++ x1 ++ x2 ++ x3) (xlo := x4) (start := 6) (len := 5) (by decide)).trans <|
    (BitVec.extractLsb'_append_eq_of_le (xhi := x0 ++ x1 ++ x2) (xlo := x3) (start := 5) (len := 5) (by decide)).trans <|
    (BitVec.extractLsb'_append_eq_of_add_le (xhi := x0 ++ x1) (xlo := x2) (start := 0) (len := 5) (by decide)).trans <|
    (BitVec.extractLsb'_eq_self)

theorem Encoding.fld_36_11_5 (x0 : BitVec 8) (x1 : BitVec 3) (x2 : BitVec 5) (x3 : BitVec 5) (x4 : BitVec 1) (x5 : BitVec 5) (x6 : BitVec 2) (x7 : BitVec 3) :
    fld (x0 ++ x1 ++ x2 ++ x3 ++ x4 ++ x5 ++ x6 ++ x7) 11 5 = x3 :=
  (BitVec.extractLsb'_append_eq_of_le (xhi := x0 ++ x1 ++ x2 ++ x3 ++ x4 ++ x5 ++ x6) (xlo := x7) (start := 11) (len := 5) (by decide)).trans <|
    (BitVec.extractLsb'_append_eq_of_le (xhi := x0 ++ x1 ++ x2 ++ x3 ++ x4 ++ x5) (xlo := x6) (start := 8) (len := 5) (by decide)).trans <|
    (BitVec.extractLsb'_append_eq_of_le (xhi := x0 ++ x1 ++ x2 ++ x3 ++ x4) (xlo := x5) (start := 6) (len := 5) (by decide)).trans <|
    (BitVec.extractLsb'_append_eq_of_le (xhi := x0 ++ x1 ++ x2 ++ x3) (xlo := x4) (start := 1) (len := 5) (by decide)).trans <|
    (BitVec.extractLsb'_append_eq_of_add_le (xhi := x0 ++ x1 ++ x2) (xlo := x3) (start := 0) (len := 5) (by decide)).trans <|
    (BitVec.extractLsb'_eq_self)

theorem Encoding.fld_36_10_1 (x0 : BitVec 8) (x1 : BitVec 3) (x2 : BitVec 5) (x3 : BitVec 5) (x4 : BitVec 1) (x5 : BitVec 5) (x6 : BitVec 2) (x7 : BitVec 3) :
    fld (x0 ++ x1 ++ x2 ++ x3 ++ x4 ++ x5 ++ x6 ++ x7) 10 1 = x4 :=
  (BitVec.extractLsb'_append_eq_of_le (xhi := x0 ++ x1 ++ x2 ++ x3 ++ x4 ++ x5 ++ x6) (xlo := x7) (start := 10) (len := 1) (by decide)).trans <|
    (BitVec.extractLsb'_append_eq_of_le (xhi := x0 ++ x1 ++ x2 ++ x3 ++ x4 ++ x5) (xlo := x6) (start := 7) (len := 1) (by decide)).trans <|
    (BitVec.extractLsb'_append_eq_of_le (xhi := x0 ++ x1 ++ x2 ++ x3 ++ x4) (xlo := x5) (start := 5) (len := 1) (by decide)).trans <|
    (BitVec.extractLsb'_append_eq_of_add_le (xhi := x0 ++ x1 ++ x2 ++ x3) (xlo := x4) (start := 0) (len := 1) (by decide)).trans <|
    (BitVec.extractLsb'_eq_self)

theorem Encoding.fld_36_3_2 (x0 : BitVec 8) (x1 : BitVec 3) (x2 : BitVec 5) (x3 : BitVec 5) (x4 : BitVec 1) (x5 : BitVec 5) (x6 : BitVec 2) (x7 : BitVec 3) :
    fld (x0 ++ x1 ++ x2 ++ x3 ++ x4 ++ x5 ++ x6 ++ x7) 3 2 = x6 :=
  (BitVec.extractLsb'_append_eq_of_le (xhi := x0 ++ x1 ++ x2 ++ x3 ++ x4 ++ x5 ++ x6) (xlo := x7) (start := 3) (len := 2) (by decide)).trans <|
    (BitVec.extractLsb'_append_eq_of_add_le (xhi := x0 ++ x1 ++ x2 ++ x3 ++ x4 ++ x5) (xlo := x6) (start := 0) (len := 2) (by decide)).trans <|
    (BitVec.extractLsb'_eq_self)

theorem Encoding.fld_37_27_5 (x0 : BitVec 5) (x1 : BitVec 1) (x2 : BitVec 1) (x3 : BitVec 7) (x4 : BitVec 6) (x5 : BitVec 3) (x6 : BitVec 9) :
    fld (x0 ++ x1 ++ x2 ++ x3 ++ x4 ++ x5 ++ x6) 27 5 = x0 :=
  (BitVec.extractLsb'_append_eq_of_le (xhi := x0 ++ x1 ++ x2 ++ x3 ++ x4 ++ x5) (xlo := x6) (start := 27) (len := 5) (by decide)).trans <|
    (BitVec.extractLsb'_append_eq_of_le (xhi := x0 ++ x1 ++ x2 ++ x3 ++ x4) (xlo := x5) (start := 18) (len := 5) (by decide)).trans <|
    (BitVec.extractLsb'_append_eq_of_le (xhi := x0 ++ x1 ++ x2 ++ x3) (xlo := x4) (start := 15) (len := 5) (by decide)).trans <|
    (BitVec.extractLsb'_append_eq_of_le (xhi := x0 ++ x1 ++ x2) (xlo := x3) (start := 9) (len := 5) (by decide)).trans <|
    (BitVec.extractLsb'_append_eq_of_le (xhi := x0 ++ x1) (xlo := x2) (start := 2) (len := 5) (by decide)).trans <|
    (BitVec.extractLsb'_append_eq_of_le (xhi := x0) (xlo := x1) (start := 1) (len := 5) (by decide)).trans <|
    (BitVec.extractLsb'_eq_self)

theorem Encoding.fld_37_26_1 (x0 : BitVec 5) (x1 : BitVec 1) (x2 : BitVec 1) (x3 : BitVec 7) (x4 : BitVec 6) (x5 : BitVec 3) (x6 : BitVec 9) :
    fld (x0 ++ x1 ++ x2 ++ x3 ++ x4 ++ x5 ++ x6) 26 1 = x1 :=
  (BitVec.extractLsb'_append_eq_of_le (xhi := x0 ++ x1 ++ x2 ++ x3 ++ x4 ++ x5) (xlo := x6) (start := 26) (len := 1) (by decide)).trans <|
    (BitVec.extractLsb'_append_eq_of_le (xhi := x0 ++ x1 ++ x2 ++ x3 ++ x4) (xlo := x5) (start := 17) (len := 1) (by decide)).trans <|
    (BitVec.extractLsb'_append_eq_of_le (xhi := x0 ++ x1 ++ x2 ++ x3) (xlo := x4) (start := 14) (len := 1) (by decide)).trans <|
    (BitVec.extractLsb'_append_eq_of_le (xhi := x0 ++ x1 ++ x2) (xlo := x3) (start := 8) (len := 1) (by decide)).trans <|
    (BitVec.extractLsb'_append_eq_of_le (xhi := x0 ++ x1) (xlo := x2) (start := 1) (len := 1) (by decide)).trans <|
    (BitVec.extractLsb'_append_eq_of_add_le (xhi := x0) (xlo := x1) (start := 0) (len := 1) (by decide)).trans <|
    (BitVec.extractLsb'_eq_self)

theorem Encoding.fld_37_18_7 (x0 : BitVec 5) (x1 : BitVec 1) (x2 : BitVec 1) (x3 : BitVec 7) (x4 : BitVec 6) (x5 : BitVec 3) (x6 : BitVec 9) :
    fld (x0 ++ x1 ++ x2 ++ x3 ++ x4 ++ x5 ++ x6) 18 7 = x3 :=
  (BitVec.extractLsb'_append_eq_of_le (xhi := x0 ++ x1 ++ x2 ++ x3 ++ x4 ++ x5) (xlo := x6) (start := 18) (len := 7) (by decide)).trans <|
    (BitVec.extractLsb'_append_eq_of_le (xhi := x0 ++ x1 ++ x2 ++ x3 ++ x4) (xlo := x5) (start := 9) (len := 7) (by decide)).trans <|
    (BitVec.extractLsb'_append_eq_of_le (xhi := x0 ++ x1 ++ x2 ++ x3) (xlo := x4) (start := 6) (len := 7) (by decide)).trans <|
    (BitVec.extractLsb'_append_eq_of_add_le (xhi := x0 ++ x1 ++ x2) (xlo := x3) (start := 0) (len := 7) (by decide)).trans <|
    (BitVec.extractLsb'_eq_self)

theorem Encoding.fld_37_9_3 (x0 : BitVec 5) (x1 : BitVec 1) (x2 : BitVec 1) (x3 : BitVec 7) (x4 : BitVec 6) (x5 : BitVec 3) (x6 : BitVec 9) :
    fld (x0 ++ x1 ++ x2 ++ x3 ++ x4 ++ x5 ++ x6) 9 3 = x5 :=
  (BitVec.extractLsb'_append_eq_of_le (xhi := x0 ++ x1 ++ x2 ++ x3 ++ x4 ++ x5) (xlo := x6) (start := 9) (len := 3) (by decide)).trans <|
    (BitVec.extractLsb'_append_eq_of_add_le (xhi := x0 ++ x1 ++ x2 ++ x3 ++ x4) (xlo := x5) (start := 0) (len := 3) (by decide)).trans <|
    (BitVec.extractLsb'_eq_self)

theorem Encoding.fld_38_27_5 (x0 : BitVec 5) (x1 : BitVec 1) (x2 : BitVec 1) (x3 : BitVec 7) (x4 : BitVec 7) (x5 : BitVec 2) (x6 : BitVec 9) :
    fld (x0 ++ x1 ++ x2 ++ x3 ++ x4 ++ x5 ++ x6) 27 5 = x0 :=
  (BitVec.extractLsb'_append_eq_of_le (xhi := x0 ++ x1 ++ x2 ++ x3 ++ x4 ++ x5) (xlo := x6) (start := 27) (len := 5) (by decide)).trans <|
    (BitVec.extractLsb'_append_eq_of_le (xhi := x0 ++ x1 ++ x2 ++ x3 ++ x4) (xlo := x5) (start := 18) (len := 5) (by decide)).trans <|
    (BitVec.extractLsb'_append_eq_of_le (xhi := x0 ++ x1 ++ x2 ++ x3) (xlo := x4) (start := 16) (len := 5) (by decide)).trans <|
    (BitVec.extractLsb'_append_eq_of_le (xhi := x0 ++ x1 ++ x2) (xlo := x3) (start := 9) (len := 5) (by decide)).trans <|
    (BitVec.extractLsb'_append_eq_of_le (xhi := x0 ++ x1) (xlo := x2) (start := 2) (len := 5) (by decide)).trans <|
    (BitVec.extractLsb'_append_eq_of_le (xhi := x0) (xlo := x1) (start := 1) (len := 5) (by decide)).trans <|
    (BitVec.extractLsb'_eq_self)

theorem Encoding.fld_38_26_1 (x0 : BitVec 5) (x1 : BitVec 1) (x2 : BitVec 1) (x3 : BitVec 7) (x4 : BitVec 7) (x5 : BitVec 2) (x6 : BitVec 9) :
    fld (x0 ++ x1 ++ x2 ++ x3 ++ x4 ++ x5 ++ x6) 26 1 = x1 :=
  (BitVec.extractLsb'_append_eq_of_le (xhi := x0 ++ x1 ++ x2 ++ x3 ++ x4 ++ x5) (xlo := x6) (start := 26) (len := 1) (by decide)).trans <|
    (BitVec.extractLsb'_append_eq_of_le (xhi := x0 ++ x1 ++ x2 ++ x3 ++ x4) (xlo := x5) (start := 17) (len := 1) (by decide)).trans <|
    (BitVec.extractLsb'_append_eq_of_le (xhi := x0 ++ x1 ++ x2 ++ x3) (xlo := x4) (start := 15) (len := 1) (by decide)).trans <|
    (BitVec.extractLsb'_append_eq_of_le (xhi := x0 ++ x1 ++ x2) (xlo := x3) (start := 8) (len := 1) (by decide)).trans <|
    (BitVec.extractLsb'_append_eq_of_le (xhi := x0 ++ x1) (xlo := x2) (start := 1) (len := 1) (by decide)).trans <|
    (BitVec.extractLsb'_append_eq_of_add_le (xhi := x0) (xlo := x1) (start := 0) (len := 1) (by decide)).trans <|
    (BitVec.extractLsb'_eq_self)

theorem Encoding.fld_38_18_7 (x0 : BitVec 5) (x1 : BitVec 1) (x2 : BitVec 1) (x3 : BitVec 7) (x4 : BitVec 7) (x5 : BitVec 2) (x6 : BitVec 9) :
    fld (x0 ++ x1 ++ x2 ++ x3 ++ x4 ++ x5 ++ x6) 18 7 = x3 :=
  (BitVec.extractLsb'_append_eq_of_le (xhi := x0 ++ x1 ++ x2 ++ x3 ++ x4 ++ x5) (xlo := x6) (start := 18) (len := 7) (by decide)).trans <|
    (BitVec.extractLsb'_append_eq_of_le (xhi := x0 ++ x1 ++ x2 ++ x3 ++ x4) (xlo := x5) (start := 9) (len := 7) (by decide)).trans <|
    (BitVec.extractLsb'_append_eq_of_le (xhi := x0 ++ x1 ++ x2 ++ x3) (xlo := x4) (start := 7) (len := 7) (by decide)).trans <|
    (BitVec.extractLsb'_append_eq_of_add_le (xhi := x0 ++ x1 ++ x2) (xlo := x3) (start := 0) (len := 7) (by decide)).trans <|
    (BitVec.extractLsb'_eq_self)

theorem Encoding.fld_38_9_2 (x0 : BitVec 5) (x1 : BitVec 1) (x2 : BitVec 1) (x3 : BitVec 7) (x4 : BitVec 7) (x5 : BitVec 2) (x6 : BitVec 9) :
    fld (x0 ++ x1 ++ x2 ++ x3 ++ x4 ++ x5 ++ x6) 9 2 = x5 :=
  (BitVec.extractLsb'_append_eq_of_le (xhi := x0 ++ x1 ++ x2 ++ x3 ++ x4 ++ x5) (xlo := x6) (start := 9) (len := 2) (by decide)).trans <|
    (BitVec.extractLsb'_append_eq_of_add_le (xhi := x0 ++ x1 ++ x2 ++ x3 ++ x4) (xlo := x5) (start := 0) (len := 2) (by decide)).trans <|
    (BitVec.extractLsb'_eq_self)

theorem Encoding.fld_39_27_5 (x0 : BitVec 5) (x1 : BitVec 9) (x2 : BitVec 9) (x3 : BitVec 9) :
    fld (x0 ++ x1 ++ x2 ++ x3) 27 5 = x0 :=
  (BitVec.extractLsb'_append_eq_of_le (xhi := x0 ++ x1 ++ x2) (xlo := x3) (start := 27) (len := 5) (by decide)).trans <|
    (BitVec.extractLsb'_append_eq_of_le (xhi := x0 ++ x1) (xlo := x2) (start := 18) (len := 5) (by decide)).trans <|
    (BitVec.extractLsb'_append_eq_of_le (xhi := x0) (xlo := x1) (start := 9) (len := 5) (by decide)).trans <|
    (BitVec.extractLsb'_eq_self)

theorem Encoding.fld_39_18_9 (x0 : BitVec 5) (x1 : BitVec 9) (x2 : BitVec 9) (x3 : BitVec 9) :
    fld (x0 ++ x1 ++ x2 ++ x3) 18 9 = x1 :=
  (BitVec.extractLsb'_append_eq_of_le (xhi := x0 ++ x1 ++ x2) (xlo := x3) (start := 18) (len := 9) (by decide)).trans <|
    (BitVec.extractLsb'_append_eq_of_le (xhi := x0 ++ x1) (xlo := x2) (start := 9) (len := 9) (by decide)).trans <|
    (BitVec.extractLsb'_append_eq_of_add_le (xhi := x0) (xlo := x1) (start := 0) (len := 9) (by decide)).trans <|
    (BitVec.extractLsb'_eq_self)

theorem Encoding.fld_39_9_9 (x0 : BitVec 5) (x1 : BitVec 9) (x2 : BitVec 9) (x3 : BitVec 9) :
    fld (x0 ++ x1 ++ x2 ++ x3) 9 9 = x2 :=
  (BitVec.extractLsb'_append_eq_of_le (xhi := x0 ++ x1 ++ x2) (xlo := x3) (start := 9) (len := 9) (by decide)).trans <|
    (BitVec.extractLsb'_append_eq_of_add_le (xhi := x0 ++ x1) (xlo := x2) (start := 0) (len := 9) (by decide)).trans <|
    (BitVec.extractLsb'_eq_self)

theorem Encoding.fld_39_0_9 (x0 : BitVec 5) (x1 : BitVec 9) (x2 : BitVec 9) (x3 : BitVec 9) :
    fld (x0 ++ x1 ++ x2 ++ x3) 0 9 = x3 :=
  (BitVec.extractLsb'_append_eq_of_add_le (xhi := x0 ++ x1 ++ x2) (xlo := x3) (start := 0) (len := 9) (by decide)).trans <|
    (BitVec.extractLsb'_eq_self)

theorem Encoding.fld_40_27_5 (x0 : BitVec 11) (x1 : BitVec 2) (x2 : BitVec 1) (x3 : BitVec 18) :
    fld (x0 ++ x1 ++ x2 ++ x3) 27 5 = x0.extractLsb' 6 5 :=
  (BitVec.extractLsb'_append_eq_of_le (xhi := x0 ++ x1 ++ x2) (xlo := x3) (start := 27) (len := 5) (by decide)).trans <|
    (BitVec.extractLsb'_append_eq_of_le (xhi := x0 ++ x1) (xlo := x2) (start := 9) (len := 5) (by decide)).trans <|
    (BitVec.extractLsb'_append_eq_of_le (xhi := x0) (xlo := x1) (start := 8) (len := 5) (by decide))

theorem Encoding.fld_40_19_2 (x0 : BitVec 11) (x1 : BitVec 2) (x2 : BitVec 1) (x3 : BitVec 18) :
    fld (x0 ++ x1 ++ x2 ++ x3) 19 2 = x1 :=
  (BitVec.extractLsb'_append_eq_of_le (xhi := x0 ++ x1 ++ x2) (xlo := x3) (start := 19) (len := 2) (by decide)).trans <|
    (BitVec.extractLsb'_append_eq_of_le (xhi := x0 ++ x1) (xlo := x2) (start := 1) (len := 2) (by decide)).trans <|
    (BitVec.extractLsb'_append_eq_of_add_le (xhi := x0) (xlo := x1) (start := 0) (len := 2) (by decide)).trans <|
    (BitVec.extractLsb'_eq_self)

theorem Encoding.fld_40_18_1 (x0 : BitVec 11) (x1 : BitVec 2) (x2 : BitVec 1) (x3 : BitVec 18) :
    fld (x0 ++ x1 ++ x2 ++ x3) 18 1 = x2 :=
  (BitVec.extractLsb'_append_eq_of_le (xhi := x0 ++ x1 ++ x2) (xlo := x3) (start := 18) (len := 1) (by decide)).trans <|
    (BitVec.extractLsb'_append_eq_of_add_le (xhi := x0 ++ x1) (xlo := x2) (start := 0) (len := 1) (by decide)).trans <|
    (BitVec.extractLsb'_eq_self)

theorem Encoding.fld_41_27_5 (x0 : BitVec 13) (x1 : BitVec 1) (x2 : BitVec 18) :
    fld (x0 ++ x1 ++ x2) 27 5 = x0.extractLsb' 8 5 :=
  (BitVec.extractLsb'_append_eq_of_le (xhi := x0 ++ x1) (xlo := x2) (start := 27) (len := 5) (by decide)).trans <|
    (BitVec.extractLsb'_append_eq_of_le (xhi := x0) (xlo := x1) (start := 9) (len := 5) (by decide))

theorem Encoding.fld_41_18_1 (x0 : BitVec 13) (x1 : BitVec 1) (x2 : BitVec 18) :
    fld (x0 ++ x1 ++ x2) 18 1 = x1 :=
  (BitVec.extractLsb'_append_eq_of_le (xhi := x0 ++ x1) (xlo := x2) (start := 18) (len := 1) (by decide)).trans <|
    (BitVec.extractLsb'_append_eq_of_add_le (xhi := x0) (xlo := x1) (start := 0) (len := 1) (by decide)).trans <|
    (BitVec.extractLsb'_eq_self)

theorem Encoding.fld_42_27_5 (x0 : BitVec 13) (x1 : BitVec 1) (x2 : BitVec 8) (x3 : BitVec 1) (x4 : BitVec 8) (x5 : BitVec 1) :
    fld (x0 ++ x1 ++ x2 ++ x3 ++ x4 ++ x5) 27 5 = x0.extractLsb' 8 5 :=
  (BitVec.extractLsb'_append_eq_of_le (xhi := x0 ++ x1 ++ x2 ++ x3 ++ x4) (xlo := x5) (start := 27) (len := 5) (by decide)).trans <|
    (BitVec.extractLsb'_append_eq_of_le (xhi := x0 ++ x1 ++ x2 ++ x3) (xlo := x4) (start := 26) (len := 5) (by decide)).trans <|
    (BitVec.extractLsb'_append_eq_of_le (xhi := x0 ++ x1 ++ x2) (xlo := x3) (start := 18) (len := 5) (by decide)).trans <|
    (BitVec.extractLsb'_append_eq_of_le (xhi := x0 ++ x1) (xlo := x2) (start := 17) (len := 5) (by decide)).trans <|
    (BitVec.extractLsb'_append_eq_of_le (xhi := x0) (xlo := x1) (start := 9) (len := 5) (by decide))

theorem Encoding.fld_42_18_1 (x0 : BitVec 13) (x1 : BitVec 1) (x2 : BitVec 8) (x3 : BitVec 1) (x4 : BitVec 8) (x5 : BitVec 1) :
    fld (x0 ++ x1 ++ x2 ++ x3 ++ x4 ++ x5) 18 1 = x1 :=
  (BitVec.extractLsb'_append_eq_of_le (xhi := x0 ++ x1 ++ x2 ++ x3 ++ x4) (xlo := x5) (start := 18) (len := 1) (by decide)).trans <|
    (BitVec.extractLsb'_append_eq_of_le (xhi := x0 ++ x1 ++ x2 ++ x3) (xlo := x4) (start := 17) (len := 1) (by decide)).trans <|
    (BitVec.extractLsb'_append_eq_of_le (xhi := x0 ++ x1 ++ x2) (xlo := x3) (start := 9) (len := 1) (by decide)).trans <|
    (BitVec.extractLsb'_append_eq_of_le (xhi := x0 ++ x1) (xlo := x2) (start := 8) (len := 1) (by decide)).trans <|
    (BitVec.extractLsb'_append_eq_of_add_le (xhi := x0) (xlo := x1) (start := 0) (len := 1) (by decide)).trans <|
    (BitVec.extractLsb'_eq_self)

theorem Encoding.fld_42_9_1 (x0 : BitVec 13) (x1 : BitVec 1) (x2 : BitVec 8) (x3 : BitVec 1) (x4 : BitVec 8) (x5 : BitVec 1) :
    fld (x0 ++ x1 ++ x2 ++ x3 ++ x4 ++ x5) 9 1 = x3 :=
  (BitVec.extractLsb'_append_eq_of_le (xhi := x0 ++ x1 ++ x2 ++ x3 ++ x4) (xlo := x5) (start := 9) (len := 1) (by decide)).trans <|
    (BitVec.extractLsb'_append_eq_of_le (xhi := x0 ++ x1 ++ x2 ++ x3) (xlo := x4) (start := 8) (len := 1) (by decide)).trans <|
    (BitVec.extractLsb'_append_eq_of_add_le (xhi := x0 ++ x1 ++ x2) (xlo := x3) (start := 0) (len := 1) (by decide)).trans <|
    (BitVec.extractLsb'_eq_self)

theorem Encoding.fld_42_0_1 (x0 : BitVec 13) (x1 : BitVec 1) (x2 : BitVec 8) (x3 : BitVec 1) (x4 : BitVec 8) (x5 : BitVec 1) :
    fld (x0 ++ x1 ++ x2 ++ x3 ++ x4 ++ x5) 0 1 = x5 :=
  (BitVec.extractLsb'_append_eq_of_add_le (xhi := x0 ++ x1 ++ x2 ++ x3 ++ x4) (xlo := x5) (start := 0) (len := 1) (by decide)).trans <|
    (BitVec.extractLsb'_eq_self)

theorem Encoding.fld_43_27_5 (x0 : BitVec 13) (x1 : BitVec 1) (x2 : BitVec 8) (x3 : BitVec 1) (x4 : BitVec 9) :
    fld (x0 ++ x1 ++ x2 ++ x3 ++ x4) 27 5 = x0.extractLsb' 8 5 :=
  (BitVec.extractLsb'_append_eq_of_le (xhi := x0 ++ x1 ++ x2 ++ x3) (xlo := x4) (start := 27) (len := 5) (by decide)).trans <|
    (BitVec.extractLsb'_append_eq_of_le (xhi := x0 ++ x1 ++ x2) (xlo := x3) (start := 18) (len := 5) (by decide)).trans <|
    (BitVec.extractLsb'_append_eq_of_le (xhi := x0 ++ x1) (xlo := x2) (start := 17) (len := 5) (by decide)).trans <|
    (BitVec.extractLsb'_append_eq_of_le (xhi := x0) (xlo := x1) (start := 9) (len := 5) (by decide))

theorem Encoding.fld_43_18_1 (x0 : BitVec 13) (x1 : BitVec 1) (x2 : BitVec 8) (x3 : BitVec 1) (x4 : BitVec 9) :
    fld (x0 ++ x1 ++ x2 ++ x3 ++ x4) 18 1 = x1 :=
  (BitVec.extractLsb'_append_eq_of_le (xhi := x0 ++ x1 ++ x2 ++ x3) (xlo := x4) (start := 18) (len := 1) (by decide)).trans <|
    (BitVec.extractLsb'_append_eq_of_le (xhi := x0 ++ x1 ++ x2) (xlo := x3) (start := 9) (len := 1) (by decide)).trans <|
    (BitVec.extractLsb'_append_eq_of_le (xhi := x0 ++ x1) (xlo := x2) (start := 8) (len := 1) (by decide)).trans <|
    (BitVec.extractLsb'_append_eq_of_add_le (xhi := x0) (xlo := x1) (start := 0) (len := 1) (by decide)).trans <|
    (BitVec.extractLsb'_eq_self)

theorem Encoding.fld_43_9_1 (x0 : BitVec 13) (x1 : BitVec 1) (x2 : BitVec 8) (x3 : BitVec 1) (x4 : BitVec 9) :
    fld (x0 ++ x1 ++ x2 ++ x3 ++ x4) 9 1 = x3 :=
  (BitVec.extractLsb'_append_eq_of_le (xhi := x0 ++ x1 ++ x2 ++ x3) (xlo := x4) (start := 9) (len := 1) (by decide)).trans <|
    (BitVec.extractLsb'_append_eq_of_add_le (xhi := x0 ++ x1 ++ x2) (xlo := x3) (start := 0) (len := 1) (by decide)).trans <|
    (BitVec.extractLsb'_eq_self)

theorem Encoding.fld_43_0_9 (x0 : BitVec 13) (x1 : BitVec 1) (x2 : BitVec 8) (x3 : BitVec 1) (x4 : BitVec 9) :
    fld (x0 ++ x1 ++ x2 ++ x3 ++ x4) 0 9 = x4 :=
  (BitVec.extractLsb'_append_eq_of_add_le (xhi := x0 ++ x1 ++ x2 ++ x3) (xlo := x4) (start := 0) (len := 9) (by decide)).trans <|
    (BitVec.extractLsb'_eq_self)

theorem Encoding.fld_44_27_5 (x0 : BitVec 5) (x1 : BitVec 9) (x2 : BitVec 18) :
    fld (x0 ++ x1 ++ x2) 27 5 = x0 :=
  (BitVec.extractLsb'_append_eq_of_le (xhi := x0 ++ x1) (xlo := x2) (start := 27) (len := 5) (by decide)).trans <|
    (BitVec.extractLsb'_append_eq_of_le (xhi := x0) (xlo := x1) (start := 9) (len := 5) (by decide)).trans <|
    (BitVec.extractLsb'_eq_self)

theorem Encoding.fld_44_18_9 (x0 : BitVec 5) (x1 : BitVec 9) (x2 : BitVec 18) :
    fld (x0 ++ x1 ++ x2) 18 9 = x1 :=
  (BitVec.extractLsb'_append_eq_of_le (xhi := x0 ++ x1) (xlo := x2) (start := 18) (len := 9) (by decide)).trans <|
    (BitVec.extractLsb'_append_eq_of_add_le (xhi := x0) (xlo := x1) (start := 0) (len := 9) (by decide)).trans <|
    (BitVec.extractLsb'_eq_self)

/-! One lemma per constructor. -/

theorem Encoding.add (g : BitVec 4) (d : BitVec 7) (a : BitVec 7) (b : BitVec 7) : Encoding.Statement (.add g d a b) := by
  refine Encoding.of_core rfl rfl ?_
  rw [decodeOpcode, Encoding.fld_1_28_4]
  show decodeLR _ = _
  rw [decodeLR, Encoding.fld_1_25_5]
  show some (Instr.add (fld _ 21 4) (fld _ 14 7) (fld _ 7 7) (fld _ 0 7)) = _
  rw [Encoding.fld_1_21_4, Encoding.fld_1_14_7, Encoding.fld_1_7_7, Encoding.fld_1_0_7]

theorem Encoding.sub (g : BitVec 4) (d : BitVec 7) (a : BitVec 7) (b : BitVec 7) : Encoding.Statement (.sub g d a b) := by
  refine Encoding.of_core rfl rfl ?_
  rw [decodeOpcode, Encoding.fld_1_28_4]
  show decodeLR _ = _
  rw [decodeLR, Encoding.fld_1_25_5]
  show some (Instr.sub (fld _ 21 4) (fld _ 14 7) (fld _ 7 7) (fld _ 0 7)) = _
  rw [Encoding.fld_1_21_4, Encoding.fld_1_14_7, Encoding.fld_1_7_7, Encoding.fld_1_0_7]

theorem Encoding.mul (g : BitVec 4) (d : BitVec 7) (a : BitVec 7) (b : BitVec 7) : Encoding.Statement (.mul g d a b) := by
  refine Encoding.of_core rfl rfl ?_
  rw [decodeOpcode, Encoding.fld_1_28_4]
  show decodeLR _ = _
  rw [decodeLR, Encoding.fld_1_25_5]
  show some (Instr.mul (fld _ 21 4) (fld _ 14 7) (fld _ 7 7) (fld _ 0 7)) = _
  rw [Encoding.fld_1_21_4, Encoding.fld_1_14_7, Encoding.fld_1_7_7, Encoding.fld_1_0_7]

theorem Encoding.mulhi (g : BitVec 4) (d : BitVec 7) (a : BitVec 7) (b : BitVec 7) : Encoding.Statement (.mulhi g d a b) := by
  refine Encoding.of_core rfl rfl ?_
  rw [decodeOpcode, Encoding.fld_1_28_4]
  show decodeLR _ = _
  rw [decodeLR, Encoding.fld_1_25_5]
  show some (Instr.mulhi (fld _ 21 4) (fld _ 14 7) (fld _ 7 7) (fld _ 0 7)) = _
  rw [Encoding.fld_1_21_4, Encoding.fld_1_14_7, Encoding.fld_1_7_7, Encoding.fld_1_0_7]

theorem Encoding.mulhn (g : BitVec 4) (d : BitVec 7) (a : BitVec 7) (b : BitVec 7) : Encoding.Statement (.mulhn g d a b) := by
  refine Encoding.of_core rfl rfl ?_
  rw [decodeOpcode, Encoding.fld_1_28_4]
  show decodeLR _ = _
  rw [decodeLR, Encoding.fld_1_25_5]
  show some (Instr.mulhn (fld _ 21 4) (fld _ 14 7) (fld _ 7 7) (fld _ 0 7)) = _
  rw [Encoding.fld_1_21_4, Encoding.fld_1_14_7, Encoding.fld_1_7_7, Encoding.fld_1_0_7]

theorem Encoding.and (g : BitVec 4) (d : BitVec 7) (a : BitVec 7) (b : BitVec 7) : Encoding.Statement (.and g d a b) := by
  refine Encoding.of_core rfl rfl ?_
  rw [decodeOpcode, Encoding.fld_1_28_4]
  show decodeLR _ = _
  rw [decodeLR, Encoding.fld_1_25_5]
  show some (Instr.and (fld _ 21 4) (fld _ 14 7) (fld _ 7 7) (fld _ 0 7)) = _
  rw [Encoding.fld_1_21_4, Encoding.fld_1_14_7, Encoding.fld_1_7_7, Encoding.fld_1_0_7]

theorem Encoding.or (g : BitVec 4) (d : BitVec 7) (a : BitVec 7) (b : BitVec 7) : Encoding.Statement (.or g d a b) := by
  refine Encoding.of_core rfl rfl ?_
  rw [decodeOpcode, Encoding.fld_1_28_4]
  show decodeLR _ = _
  rw [decodeLR, Encoding.fld_1_25_5]
  show some (Instr.or (fld _ 21 4) (fld _ 14 7) (fld _ 7 7) (fld _ 0 7)) = _
  rw [Encoding.fld_1_21_4, Encoding.fld_1_14_7, Encoding.fld_1_7_7, Encoding.fld_1_0_7]

theorem Encoding.xor (g : BitVec 4) (d : BitVec 7) (a : BitVec 7) (b : BitVec 7) : Encoding.Statement (.xor g d a b) := by
  refine Encoding.of_core rfl rfl ?_
  rw [decodeOpcode, Encoding.fld_1_28_4]
  show decodeLR _ = _
  rw [decodeLR, Encoding.fld_1_25_5]
  show some (Instr.xor (fld _ 21 4) (fld _ 14 7) (fld _ 7 7) (fld _ 0 7)) = _
  rw [Encoding.fld_1_21_4, Encoding.fld_1_14_7, Encoding.fld_1_7_7, Encoding.fld_1_0_7]

theorem Encoding.shl (g : BitVec 4) (d : BitVec 7) (a : BitVec 7) (b : BitVec 7) : Encoding.Statement (.shl g d a b) := by
  refine Encoding.of_core rfl rfl ?_
  rw [decodeOpcode, Encoding.fld_1_28_4]
  show decodeLR _ = _
  rw [decodeLR, Encoding.fld_1_25_5]
  show some (Instr.shl (fld _ 21 4) (fld _ 14 7) (fld _ 7 7) (fld _ 0 7)) = _
  rw [Encoding.fld_1_21_4, Encoding.fld_1_14_7, Encoding.fld_1_7_7, Encoding.fld_1_0_7]

theorem Encoding.shrn (g : BitVec 4) (d : BitVec 7) (a : BitVec 7) (b : BitVec 7) : Encoding.Statement (.shrn g d a b) := by
  refine Encoding.of_core rfl rfl ?_
  rw [decodeOpcode, Encoding.fld_1_28_4]
  show decodeLR _ = _
  rw [decodeLR, Encoding.fld_1_25_5]
  show some (Instr.shrn (fld _ 21 4) (fld _ 14 7) (fld _ 7 7) (fld _ 0 7)) = _
  rw [Encoding.fld_1_21_4, Encoding.fld_1_14_7, Encoding.fld_1_7_7, Encoding.fld_1_0_7]

theorem Encoding.shri (g : BitVec 4) (d : BitVec 7) (a : BitVec 7) (b : BitVec 7) : Encoding.Statement (.shri g d a b) := by
  refine Encoding.of_core rfl rfl ?_
  rw [decodeOpcode, Encoding.fld_1_28_4]
  show decodeLR _ = _
  rw [decodeLR, Encoding.fld_1_25_5]
  show some (Instr.shri (fld _ 21 4) (fld _ 14 7) (fld _ 7 7) (fld _ 0 7)) = _
  rw [Encoding.fld_1_21_4, Encoding.fld_1_14_7, Encoding.fld_1_7_7, Encoding.fld_1_0_7]

theorem Encoding.mini (g : BitVec 4) (d : BitVec 7) (a : BitVec 7) (b : BitVec 7) : Encoding.Statement (.mini g d a b) := by
  refine Encoding.of_core rfl rfl ?_
  rw [decodeOpcode, Encoding.fld_1_28_4]
  show decodeLR _ = _
  rw [decodeLR, Encoding.fld_1_25_5]
  show some (Instr.mini (fld _ 21 4) (fld _ 14 7) (fld _ 7 7) (fld _ 0 7)) = _
  rw [Encoding.fld_1_21_4, Encoding.fld_1_14_7, Encoding.fld_1_7_7, Encoding.fld_1_0_7]

theorem Encoding.maxi (g : BitVec 4) (d : BitVec 7) (a : BitVec 7) (b : BitVec 7) : Encoding.Statement (.maxi g d a b) := by
  refine Encoding.of_core rfl rfl ?_
  rw [decodeOpcode, Encoding.fld_1_28_4]
  show decodeLR _ = _
  rw [decodeLR, Encoding.fld_1_25_5]
  show some (Instr.maxi (fld _ 21 4) (fld _ 14 7) (fld _ 7 7) (fld _ 0 7)) = _
  rw [Encoding.fld_1_21_4, Encoding.fld_1_14_7, Encoding.fld_1_7_7, Encoding.fld_1_0_7]

theorem Encoding.minn (g : BitVec 4) (d : BitVec 7) (a : BitVec 7) (b : BitVec 7) : Encoding.Statement (.minn g d a b) := by
  refine Encoding.of_core rfl rfl ?_
  rw [decodeOpcode, Encoding.fld_1_28_4]
  show decodeLR _ = _
  rw [decodeLR, Encoding.fld_1_25_5]
  show some (Instr.minn (fld _ 21 4) (fld _ 14 7) (fld _ 7 7) (fld _ 0 7)) = _
  rw [Encoding.fld_1_21_4, Encoding.fld_1_14_7, Encoding.fld_1_7_7, Encoding.fld_1_0_7]

theorem Encoding.maxn (g : BitVec 4) (d : BitVec 7) (a : BitVec 7) (b : BitVec 7) : Encoding.Statement (.maxn g d a b) := by
  refine Encoding.of_core rfl rfl ?_
  rw [decodeOpcode, Encoding.fld_1_28_4]
  show decodeLR _ = _
  rw [decodeLR, Encoding.fld_1_25_5]
  show some (Instr.maxn (fld _ 21 4) (fld _ 14 7) (fld _ 7 7) (fld _ 0 7)) = _
  rw [Encoding.fld_1_21_4, Encoding.fld_1_14_7, Encoding.fld_1_7_7, Encoding.fld_1_0_7]

theorem Encoding.sel (p : BitVec 4) (d : BitVec 7) (a : BitVec 7) (b : BitVec 7) : Encoding.Statement (.sel p d a b) := by
  refine Encoding.of_core rfl rfl ?_
  rw [decodeOpcode, Encoding.fld_1_28_4]
  show decodeLR _ = _
  rw [decodeLR, Encoding.fld_1_25_5]
  show some (Instr.sel (fld _ 21 4) (fld _ 14 7) (fld _ 7 7) (fld _ 0 7)) = _
  rw [Encoding.fld_1_21_4, Encoding.fld_1_14_7, Encoding.fld_1_7_7, Encoding.fld_1_0_7]

theorem Encoding.fadd32 (g : BitVec 4) (d : BitVec 7) (a : BitVec 7) (b : BitVec 7) : Encoding.Statement (.fadd32 g d a b) := by
  refine Encoding.of_core rfl rfl ?_
  rw [decodeOpcode, Encoding.fld_1_28_4]
  show decodeLR _ = _
  rw [decodeLR, Encoding.fld_1_25_5]
  show some (Instr.fadd32 (fld _ 21 4) (fld _ 14 7) (fld _ 7 7) (fld _ 0 7)) = _
  rw [Encoding.fld_1_21_4, Encoding.fld_1_14_7, Encoding.fld_1_7_7, Encoding.fld_1_0_7]

theorem Encoding.fmul32 (g : BitVec 4) (d : BitVec 7) (a : BitVec 7) (b : BitVec 7) : Encoding.Statement (.fmul32 g d a b) := by
  refine Encoding.of_core rfl rfl ?_
  rw [decodeOpcode, Encoding.fld_1_28_4]
  show decodeLR _ = _
  rw [decodeLR, Encoding.fld_1_25_5]
  show some (Instr.fmul32 (fld _ 21 4) (fld _ 14 7) (fld _ 7 7) (fld _ 0 7)) = _
  rw [Encoding.fld_1_21_4, Encoding.fld_1_14_7, Encoding.fld_1_7_7, Encoding.fld_1_0_7]

theorem Encoding.ffma32 (g : BitVec 4) (d : BitVec 7) (a : BitVec 7) (b : BitVec 7) : Encoding.Statement (.ffma32 g d a b) := by
  refine Encoding.of_core rfl rfl ?_
  rw [decodeOpcode, Encoding.fld_1_28_4]
  show decodeLR _ = _
  rw [decodeLR, Encoding.fld_1_25_5]
  show some (Instr.ffma32 (fld _ 21 4) (fld _ 14 7) (fld _ 7 7) (fld _ 0 7)) = _
  rw [Encoding.fld_1_21_4, Encoding.fld_1_14_7, Encoding.fld_1_7_7, Encoding.fld_1_0_7]

theorem Encoding.fsub32 (g : BitVec 4) (d : BitVec 7) (a : BitVec 7) (b : BitVec 7) : Encoding.Statement (.fsub32 g d a b) := by
  refine Encoding.of_core rfl rfl ?_
  rw [decodeOpcode, Encoding.fld_1_28_4]
  show decodeLR _ = _
  rw [decodeLR, Encoding.fld_1_25_5]
  show some (Instr.fsub32 (fld _ 21 4) (fld _ 14 7) (fld _ 7 7) (fld _ 0 7)) = _
  rw [Encoding.fld_1_21_4, Encoding.fld_1_14_7, Encoding.fld_1_7_7, Encoding.fld_1_0_7]

theorem Encoding.fadd64 (g : BitVec 4) (d : BitVec 7) (a : BitVec 7) (b : BitVec 7) : Encoding.Statement (.fadd64 g d a b) := by
  refine Encoding.of_core rfl rfl ?_
  rw [decodeOpcode, Encoding.fld_1_28_4]
  show decodeLR _ = _
  rw [decodeLR, Encoding.fld_1_25_5]
  show some (Instr.fadd64 (fld _ 21 4) (fld _ 14 7) (fld _ 7 7) (fld _ 0 7)) = _
  rw [Encoding.fld_1_21_4, Encoding.fld_1_14_7, Encoding.fld_1_7_7, Encoding.fld_1_0_7]

theorem Encoding.fmul64 (g : BitVec 4) (d : BitVec 7) (a : BitVec 7) (b : BitVec 7) : Encoding.Statement (.fmul64 g d a b) := by
  refine Encoding.of_core rfl rfl ?_
  rw [decodeOpcode, Encoding.fld_1_28_4]
  show decodeLR _ = _
  rw [decodeLR, Encoding.fld_1_25_5]
  show some (Instr.fmul64 (fld _ 21 4) (fld _ 14 7) (fld _ 7 7) (fld _ 0 7)) = _
  rw [Encoding.fld_1_21_4, Encoding.fld_1_14_7, Encoding.fld_1_7_7, Encoding.fld_1_0_7]

theorem Encoding.ffma64 (g : BitVec 4) (d : BitVec 7) (a : BitVec 7) (b : BitVec 7) : Encoding.Statement (.ffma64 g d a b) := by
  refine Encoding.of_core rfl rfl ?_
  rw [decodeOpcode, Encoding.fld_1_28_4]
  show decodeLR _ = _
  rw [decodeLR, Encoding.fld_1_25_5]
  show some (Instr.ffma64 (fld _ 21 4) (fld _ 14 7) (fld _ 7 7) (fld _ 0 7)) = _
  rw [Encoding.fld_1_21_4, Encoding.fld_1_14_7, Encoding.fld_1_7_7, Encoding.fld_1_0_7]

theorem Encoding.ffma2h (g : BitVec 4) (d : BitVec 7) (a : BitVec 7) (b : BitVec 7) : Encoding.Statement (.ffma2h g d a b) := by
  refine Encoding.of_core rfl rfl ?_
  rw [decodeOpcode, Encoding.fld_1_28_4]
  show decodeLR _ = _
  rw [decodeLR, Encoding.fld_1_25_5]
  show some (Instr.ffma2h (fld _ 21 4) (fld _ 14 7) (fld _ 7 7) (fld _ 0 7)) = _
  rw [Encoding.fld_1_21_4, Encoding.fld_1_14_7, Encoding.fld_1_7_7, Encoding.fld_1_0_7]

theorem Encoding.ld32 (g : BitVec 4) (d : BitVec 7) (a : BitVec 7) (o : BitVec 7) : Encoding.Statement (.ld32 g d a o) := by
  refine Encoding.of_core rfl rfl ?_
  rw [decodeOpcode, Encoding.fld_1_28_4]
  show decodeLR _ = _
  rw [decodeLR, Encoding.fld_1_25_5]
  show some (Instr.ld32 (fld _ 21 4) (fld _ 14 7) (fld _ 7 7) (fld _ 0 7)) = _
  rw [Encoding.fld_1_21_4, Encoding.fld_1_14_7, Encoding.fld_1_7_7, Encoding.fld_1_0_7]

theorem Encoding.ld64 (g : BitVec 4) (d : BitVec 7) (a : BitVec 7) (o : BitVec 7) : Encoding.Statement (.ld64 g d a o) := by
  refine Encoding.of_core rfl rfl ?_
  rw [decodeOpcode, Encoding.fld_1_28_4]
  show decodeLR _ = _
  rw [decodeLR, Encoding.fld_1_25_5]
  show some (Instr.ld64 (fld _ 21 4) (fld _ 14 7) (fld _ 7 7) (fld _ 0 7)) = _
  rw [Encoding.fld_1_21_4, Encoding.fld_1_14_7, Encoding.fld_1_7_7, Encoding.fld_1_0_7]

theorem Encoding.ld128 (g : BitVec 4) (d : BitVec 7) (a : BitVec 7) (o : BitVec 7) : Encoding.Statement (.ld128 g d a o) := by
  refine Encoding.of_core rfl rfl ?_
  rw [decodeOpcode, Encoding.fld_1_28_4]
  show decodeLR _ = _
  rw [decodeLR, Encoding.fld_1_25_5]
  show some (Instr.ld128 (fld _ 21 4) (fld _ 14 7) (fld _ 7 7) (fld _ 0 7)) = _
  rw [Encoding.fld_1_21_4, Encoding.fld_1_14_7, Encoding.fld_1_7_7, Encoding.fld_1_0_7]

theorem Encoding.st32 (g : BitVec 4) (d : BitVec 7) (a : BitVec 7) (o : BitVec 7) : Encoding.Statement (.st32 g d a o) := by
  refine Encoding.of_core rfl rfl ?_
  rw [decodeOpcode, Encoding.fld_1_28_4]
  show decodeLR _ = _
  rw [decodeLR, Encoding.fld_1_25_5]
  show some (Instr.st32 (fld _ 21 4) (fld _ 14 7) (fld _ 7 7) (fld _ 0 7)) = _
  rw [Encoding.fld_1_21_4, Encoding.fld_1_14_7, Encoding.fld_1_7_7, Encoding.fld_1_0_7]

theorem Encoding.st64 (g : BitVec 4) (d : BitVec 7) (a : BitVec 7) (o : BitVec 7) : Encoding.Statement (.st64 g d a o) := by
  refine Encoding.of_core rfl rfl ?_
  rw [decodeOpcode, Encoding.fld_1_28_4]
  show decodeLR _ = _
  rw [decodeLR, Encoding.fld_1_25_5]
  show some (Instr.st64 (fld _ 21 4) (fld _ 14 7) (fld _ 7 7) (fld _ 0 7)) = _
  rw [Encoding.fld_1_21_4, Encoding.fld_1_14_7, Encoding.fld_1_7_7, Encoding.fld_1_0_7]

theorem Encoding.st128 (g : BitVec 4) (d : BitVec 7) (a : BitVec 7) (o : BitVec 7) : Encoding.Statement (.st128 g d a o) := by
  refine Encoding.of_core rfl rfl ?_
  rw [decodeOpcode, Encoding.fld_1_28_4]
  show decodeLR _ = _
  rw [decodeLR, Encoding.fld_1_25_5]
  show some (Instr.st128 (fld _ 21 4) (fld _ 14 7) (fld _ 7 7) (fld _ 0 7)) = _
  rw [Encoding.fld_1_21_4, Encoding.fld_1_14_7, Encoding.fld_1_7_7, Encoding.fld_1_0_7]

theorem Encoding.lds (g : BitVec 4) (d : BitVec 7) (a : BitVec 7) (o : BitVec 7) : Encoding.Statement (.lds g d a o) := by
  refine Encoding.of_core rfl rfl ?_
  rw [decodeOpcode, Encoding.fld_1_28_4]
  show decodeLR _ = _
  rw [decodeLR, Encoding.fld_1_25_5]
  show some (Instr.lds (fld _ 21 4) (fld _ 14 7) (fld _ 7 7) (fld _ 0 7)) = _
  rw [Encoding.fld_1_21_4, Encoding.fld_1_14_7, Encoding.fld_1_7_7, Encoding.fld_1_0_7]

theorem Encoding.sts (g : BitVec 4) (d : BitVec 7) (a : BitVec 7) (o : BitVec 7) : Encoding.Statement (.sts g d a o) := by
  refine Encoding.of_core rfl rfl ?_
  rw [decodeOpcode, Encoding.fld_1_28_4]
  show decodeLR _ = _
  rw [decodeLR, Encoding.fld_1_25_5]
  show some (Instr.sts (fld _ 21 4) (fld _ 14 7) (fld _ 7 7) (fld _ 0 7)) = _
  rw [Encoding.fld_1_21_4, Encoding.fld_1_14_7, Encoding.fld_1_7_7, Encoding.fld_1_0_7]

theorem Encoding.mov (g : BitVec 4) (d : BitVec 7) (a : BitVec 7) : Encoding.Statement (.mov g d a) := by
  refine Encoding.of_core rfl rfl ?_
  rw [decodeOpcode, Encoding.fld_2_28_4]
  show decodeLX _ = _
  rw [decodeLX, Encoding.fld_2_26_2]
  show decodeLXlow _ = _
  rw [decodeLXlow, Encoding.fld_2_18_10]
  show some (Instr.mov (fld _ 14 4) (fld _ 7 7) (fld _ 0 7)) = _
  rw [Encoding.fld_2_14_4, Encoding.fld_2_7_7, Encoding.fld_2_0_7]

theorem Encoding.not (g : BitVec 4) (d : BitVec 7) (a : BitVec 7) : Encoding.Statement (.not g d a) := by
  refine Encoding.of_core rfl rfl ?_
  rw [decodeOpcode, Encoding.fld_2_28_4]
  show decodeLX _ = _
  rw [decodeLX, Encoding.fld_2_26_2]
  show decodeLXlow _ = _
  rw [decodeLXlow, Encoding.fld_2_18_10]
  show some (Instr.not (fld _ 14 4) (fld _ 7 7) (fld _ 0 7)) = _
  rw [Encoding.fld_2_14_4, Encoding.fld_2_7_7, Encoding.fld_2_0_7]

theorem Encoding.neg (g : BitVec 4) (d : BitVec 7) (a : BitVec 7) : Encoding.Statement (.neg g d a) := by
  refine Encoding.of_core rfl rfl ?_
  rw [decodeOpcode, Encoding.fld_2_28_4]
  show decodeLX _ = _
  rw [decodeLX, Encoding.fld_2_26_2]
  show decodeLXlow _ = _
  rw [decodeLXlow, Encoding.fld_2_18_10]
  show some (Instr.neg (fld _ 14 4) (fld _ 7 7) (fld _ 0 7)) = _
  rw [Encoding.fld_2_14_4, Encoding.fld_2_7_7, Encoding.fld_2_0_7]

theorem Encoding.abs (g : BitVec 4) (d : BitVec 7) (a : BitVec 7) : Encoding.Statement (.abs g d a) := by
  refine Encoding.of_core rfl rfl ?_
  rw [decodeOpcode, Encoding.fld_2_28_4]
  show decodeLX _ = _
  rw [decodeLX, Encoding.fld_2_26_2]
  show decodeLXlow _ = _
  rw [decodeLXlow, Encoding.fld_2_18_10]
  show some (Instr.abs (fld _ 14 4) (fld _ 7 7) (fld _ 0 7)) = _
  rw [Encoding.fld_2_14_4, Encoding.fld_2_7_7, Encoding.fld_2_0_7]

theorem Encoding.popc (g : BitVec 4) (d : BitVec 7) (a : BitVec 7) : Encoding.Statement (.popc g d a) := by
  refine Encoding.of_core rfl rfl ?_
  rw [decodeOpcode, Encoding.fld_2_28_4]
  show decodeLX _ = _
  rw [decodeLX, Encoding.fld_2_26_2]
  show decodeLXlow _ = _
  rw [decodeLXlow, Encoding.fld_2_18_10]
  show some (Instr.popc (fld _ 14 4) (fld _ 7 7) (fld _ 0 7)) = _
  rw [Encoding.fld_2_14_4, Encoding.fld_2_7_7, Encoding.fld_2_0_7]

theorem Encoding.clz (g : BitVec 4) (d : BitVec 7) (a : BitVec 7) : Encoding.Statement (.clz g d a) := by
  refine Encoding.of_core rfl rfl ?_
  rw [decodeOpcode, Encoding.fld_2_28_4]
  show decodeLX _ = _
  rw [decodeLX, Encoding.fld_2_26_2]
  show decodeLXlow _ = _
  rw [decodeLXlow, Encoding.fld_2_18_10]
  show some (Instr.clz (fld _ 14 4) (fld _ 7 7) (fld _ 0 7)) = _
  rw [Encoding.fld_2_14_4, Encoding.fld_2_7_7, Encoding.fld_2_0_7]

theorem Encoding.ctz (g : BitVec 4) (d : BitVec 7) (a : BitVec 7) : Encoding.Statement (.ctz g d a) := by
  refine Encoding.of_core rfl rfl ?_
  rw [decodeOpcode, Encoding.fld_2_28_4]
  show decodeLX _ = _
  rw [decodeLX, Encoding.fld_2_26_2]
  show decodeLXlow _ = _
  rw [decodeLXlow, Encoding.fld_2_18_10]
  show some (Instr.ctz (fld _ 14 4) (fld _ 7 7) (fld _ 0 7)) = _
  rw [Encoding.fld_2_14_4, Encoding.fld_2_7_7, Encoding.fld_2_0_7]

theorem Encoding.brev (g : BitVec 4) (d : BitVec 7) (a : BitVec 7) : Encoding.Statement (.brev g d a) := by
  refine Encoding.of_core rfl rfl ?_
  rw [decodeOpcode, Encoding.fld_2_28_4]
  show decodeLX _ = _
  rw [decodeLX, Encoding.fld_2_26_2]
  show decodeLXlow _ = _
  rw [decodeLXlow, Encoding.fld_2_18_10]
  show some (Instr.brev (fld _ 14 4) (fld _ 7 7) (fld _ 0 7)) = _
  rw [Encoding.fld_2_14_4, Encoding.fld_2_7_7, Encoding.fld_2_0_7]

theorem Encoding.sext8 (g : BitVec 4) (d : BitVec 7) (a : BitVec 7) : Encoding.Statement (.sext8 g d a) := by
  refine Encoding.of_core rfl rfl ?_
  rw [decodeOpcode, Encoding.fld_2_28_4]
  show decodeLX _ = _
  rw [decodeLX, Encoding.fld_2_26_2]
  show decodeLXlow _ = _
  rw [decodeLXlow, Encoding.fld_2_18_10]
  show some (Instr.sext8 (fld _ 14 4) (fld _ 7 7) (fld _ 0 7)) = _
  rw [Encoding.fld_2_14_4, Encoding.fld_2_7_7, Encoding.fld_2_0_7]

theorem Encoding.sext16 (g : BitVec 4) (d : BitVec 7) (a : BitVec 7) : Encoding.Statement (.sext16 g d a) := by
  refine Encoding.of_core rfl rfl ?_
  rw [decodeOpcode, Encoding.fld_2_28_4]
  show decodeLX _ = _
  rw [decodeLX, Encoding.fld_2_26_2]
  show decodeLXlow _ = _
  rw [decodeLXlow, Encoding.fld_2_18_10]
  show some (Instr.sext16 (fld _ 14 4) (fld _ 7 7) (fld _ 0 7)) = _
  rw [Encoding.fld_2_14_4, Encoding.fld_2_7_7, Encoding.fld_2_0_7]

theorem Encoding.andn (g : BitVec 4) (d : BitVec 7) (a : BitVec 7) : Encoding.Statement (.andn g d a) := by
  refine Encoding.of_core rfl rfl ?_
  rw [decodeOpcode, Encoding.fld_2_28_4]
  show decodeLX _ = _
  rw [decodeLX, Encoding.fld_2_26_2]
  show decodeLXlow _ = _
  rw [decodeLXlow, Encoding.fld_2_18_10]
  show some (Instr.andn (fld _ 14 4) (fld _ 7 7) (fld _ 0 7)) = _
  rw [Encoding.fld_2_14_4, Encoding.fld_2_7_7, Encoding.fld_2_0_7]

theorem Encoding.orn (g : BitVec 4) (d : BitVec 7) (a : BitVec 7) : Encoding.Statement (.orn g d a) := by
  refine Encoding.of_core rfl rfl ?_
  rw [decodeOpcode, Encoding.fld_2_28_4]
  show decodeLX _ = _
  rw [decodeLX, Encoding.fld_2_26_2]
  show decodeLXlow _ = _
  rw [decodeLXlow, Encoding.fld_2_18_10]
  show some (Instr.orn (fld _ 14 4) (fld _ 7 7) (fld _ 0 7)) = _
  rw [Encoding.fld_2_14_4, Encoding.fld_2_7_7, Encoding.fld_2_0_7]

theorem Encoding.rotl (g : BitVec 4) (d : BitVec 7) (a : BitVec 7) : Encoding.Statement (.rotl g d a) := by
  refine Encoding.of_core rfl rfl ?_
  rw [decodeOpcode, Encoding.fld_2_28_4]
  show decodeLX _ = _
  rw [decodeLX, Encoding.fld_2_26_2]
  show decodeLXlow _ = _
  rw [decodeLXlow, Encoding.fld_2_18_10]
  show some (Instr.rotl (fld _ 14 4) (fld _ 7 7) (fld _ 0 7)) = _
  rw [Encoding.fld_2_14_4, Encoding.fld_2_7_7, Encoding.fld_2_0_7]

theorem Encoding.rotr (g : BitVec 4) (d : BitVec 7) (a : BitVec 7) : Encoding.Statement (.rotr g d a) := by
  refine Encoding.of_core rfl rfl ?_
  rw [decodeOpcode, Encoding.fld_2_28_4]
  show decodeLX _ = _
  rw [decodeLX, Encoding.fld_2_26_2]
  show decodeLXlow _ = _
  rw [decodeLXlow, Encoding.fld_2_18_10]
  show some (Instr.rotr (fld _ 14 4) (fld _ 7 7) (fld _ 0 7)) = _
  rw [Encoding.fld_2_14_4, Encoding.fld_2_7_7, Encoding.fld_2_0_7]

theorem Encoding.addsi (g : BitVec 4) (d : BitVec 7) (a : BitVec 7) : Encoding.Statement (.addsi g d a) := by
  refine Encoding.of_core rfl rfl ?_
  rw [decodeOpcode, Encoding.fld_2_28_4]
  show decodeLX _ = _
  rw [decodeLX, Encoding.fld_2_26_2]
  show decodeLXlow _ = _
  rw [decodeLXlow, Encoding.fld_2_18_10]
  show some (Instr.addsi (fld _ 14 4) (fld _ 7 7) (fld _ 0 7)) = _
  rw [Encoding.fld_2_14_4, Encoding.fld_2_7_7, Encoding.fld_2_0_7]

theorem Encoding.subsi (g : BitVec 4) (d : BitVec 7) (a : BitVec 7) : Encoding.Statement (.subsi g d a) := by
  refine Encoding.of_core rfl rfl ?_
  rw [decodeOpcode, Encoding.fld_2_28_4]
  show decodeLX _ = _
  rw [decodeLX, Encoding.fld_2_26_2]
  show decodeLXlow _ = _
  rw [decodeLXlow, Encoding.fld_2_18_10]
  show some (Instr.subsi (fld _ 14 4) (fld _ 7 7) (fld _ 0 7)) = _
  rw [Encoding.fld_2_14_4, Encoding.fld_2_7_7, Encoding.fld_2_0_7]

theorem Encoding.addsn (g : BitVec 4) (d : BitVec 7) (a : BitVec 7) : Encoding.Statement (.addsn g d a) := by
  refine Encoding.of_core rfl rfl ?_
  rw [decodeOpcode, Encoding.fld_2_28_4]
  show decodeLX _ = _
  rw [decodeLX, Encoding.fld_2_26_2]
  show decodeLXlow _ = _
  rw [decodeLXlow, Encoding.fld_2_18_10]
  show some (Instr.addsn (fld _ 14 4) (fld _ 7 7) (fld _ 0 7)) = _
  rw [Encoding.fld_2_14_4, Encoding.fld_2_7_7, Encoding.fld_2_0_7]

theorem Encoding.subsn (g : BitVec 4) (d : BitVec 7) (a : BitVec 7) : Encoding.Statement (.subsn g d a) := by
  refine Encoding.of_core rfl rfl ?_
  rw [decodeOpcode, Encoding.fld_2_28_4]
  show decodeLX _ = _
  rw [decodeLX, Encoding.fld_2_26_2]
  show decodeLXlow _ = _
  rw [decodeLXlow, Encoding.fld_2_18_10]
  show some (Instr.subsn (fld _ 14 4) (fld _ 7 7) (fld _ 0 7)) = _
  rw [Encoding.fld_2_14_4, Encoding.fld_2_7_7, Encoding.fld_2_0_7]

theorem Encoding.bfxn (g : BitVec 4) (d : BitVec 7) (a : BitVec 7) : Encoding.Statement (.bfxn g d a) := by
  refine Encoding.of_core rfl rfl ?_
  rw [decodeOpcode, Encoding.fld_2_28_4]
  show decodeLX _ = _
  rw [decodeLX, Encoding.fld_2_26_2]
  show decodeLXlow _ = _
  rw [decodeLXlow, Encoding.fld_2_18_10]
  show some (Instr.bfxn (fld _ 14 4) (fld _ 7 7) (fld _ 0 7)) = _
  rw [Encoding.fld_2_14_4, Encoding.fld_2_7_7, Encoding.fld_2_0_7]

theorem Encoding.bfxi (g : BitVec 4) (d : BitVec 7) (a : BitVec 7) : Encoding.Statement (.bfxi g d a) := by
  refine Encoding.of_core rfl rfl ?_
  rw [decodeOpcode, Encoding.fld_2_28_4]
  show decodeLX _ = _
  rw [decodeLX, Encoding.fld_2_26_2]
  show decodeLXlow _ = _
  rw [decodeLXlow, Encoding.fld_2_18_10]
  show some (Instr.bfxi (fld _ 14 4) (fld _ 7 7) (fld _ 0 7)) = _
  rw [Encoding.fld_2_14_4, Encoding.fld_2_7_7, Encoding.fld_2_0_7]

theorem Encoding.bfi (g : BitVec 4) (d : BitVec 7) (a : BitVec 7) : Encoding.Statement (.bfi g d a) := by
  refine Encoding.of_core rfl rfl ?_
  rw [decodeOpcode, Encoding.fld_2_28_4]
  show decodeLX _ = _
  rw [decodeLX, Encoding.fld_2_26_2]
  show decodeLXlow _ = _
  rw [decodeLXlow, Encoding.fld_2_18_10]
  show some (Instr.bfi (fld _ 14 4) (fld _ 7 7) (fld _ 0 7)) = _
  rw [Encoding.fld_2_14_4, Encoding.fld_2_7_7, Encoding.fld_2_0_7]

theorem Encoding.mov64 (g : BitVec 4) (d : BitVec 7) (a : BitVec 7) : Encoding.Statement (.mov64 g d a) := by
  refine Encoding.of_core rfl rfl ?_
  rw [decodeOpcode, Encoding.fld_2_28_4]
  show decodeLX _ = _
  rw [decodeLX, Encoding.fld_2_26_2]
  show decodeLXlow _ = _
  rw [decodeLXlow, Encoding.fld_2_18_10]
  show some (Instr.mov64 (fld _ 14 4) (fld _ 7 7) (fld _ 0 7)) = _
  rw [Encoding.fld_2_14_4, Encoding.fld_2_7_7, Encoding.fld_2_0_7]

theorem Encoding.neg64 (g : BitVec 4) (d : BitVec 7) (a : BitVec 7) : Encoding.Statement (.neg64 g d a) := by
  refine Encoding.of_core rfl rfl ?_
  rw [decodeOpcode, Encoding.fld_2_28_4]
  show decodeLX _ = _
  rw [decodeLX, Encoding.fld_2_26_2]
  show decodeLXlow _ = _
  rw [decodeLXlow, Encoding.fld_2_18_10]
  show some (Instr.neg64 (fld _ 14 4) (fld _ 7 7) (fld _ 0 7)) = _
  rw [Encoding.fld_2_14_4, Encoding.fld_2_7_7, Encoding.fld_2_0_7]

theorem Encoding.sext64 (g : BitVec 4) (d : BitVec 7) (a : BitVec 7) : Encoding.Statement (.sext64 g d a) := by
  refine Encoding.of_core rfl rfl ?_
  rw [decodeOpcode, Encoding.fld_2_28_4]
  show decodeLX _ = _
  rw [decodeLX, Encoding.fld_2_26_2]
  show decodeLXlow _ = _
  rw [decodeLXlow, Encoding.fld_2_18_10]
  show some (Instr.sext64 (fld _ 14 4) (fld _ 7 7) (fld _ 0 7)) = _
  rw [Encoding.fld_2_14_4, Encoding.fld_2_7_7, Encoding.fld_2_0_7]

theorem Encoding.add64 (g : BitVec 4) (d : BitVec 7) (a : BitVec 7) : Encoding.Statement (.add64 g d a) := by
  refine Encoding.of_core rfl rfl ?_
  rw [decodeOpcode, Encoding.fld_2_28_4]
  show decodeLX _ = _
  rw [decodeLX, Encoding.fld_2_26_2]
  show decodeLXlow _ = _
  rw [decodeLXlow, Encoding.fld_2_18_10]
  show some (Instr.add64 (fld _ 14 4) (fld _ 7 7) (fld _ 0 7)) = _
  rw [Encoding.fld_2_14_4, Encoding.fld_2_7_7, Encoding.fld_2_0_7]

theorem Encoding.sub64 (g : BitVec 4) (d : BitVec 7) (a : BitVec 7) : Encoding.Statement (.sub64 g d a) := by
  refine Encoding.of_core rfl rfl ?_
  rw [decodeOpcode, Encoding.fld_2_28_4]
  show decodeLX _ = _
  rw [decodeLX, Encoding.fld_2_26_2]
  show decodeLXlow _ = _
  rw [decodeLXlow, Encoding.fld_2_18_10]
  show some (Instr.sub64 (fld _ 14 4) (fld _ 7 7) (fld _ 0 7)) = _
  rw [Encoding.fld_2_14_4, Encoding.fld_2_7_7, Encoding.fld_2_0_7]

theorem Encoding.mul64 (g : BitVec 4) (d : BitVec 7) (a : BitVec 7) : Encoding.Statement (.mul64 g d a) := by
  refine Encoding.of_core rfl rfl ?_
  rw [decodeOpcode, Encoding.fld_2_28_4]
  show decodeLX _ = _
  rw [decodeLX, Encoding.fld_2_26_2]
  show decodeLXlow _ = _
  rw [decodeLXlow, Encoding.fld_2_18_10]
  show some (Instr.mul64 (fld _ 14 4) (fld _ 7 7) (fld _ 0 7)) = _
  rw [Encoding.fld_2_14_4, Encoding.fld_2_7_7, Encoding.fld_2_0_7]

theorem Encoding.shl64 (g : BitVec 4) (d : BitVec 7) (a : BitVec 7) : Encoding.Statement (.shl64 g d a) := by
  refine Encoding.of_core rfl rfl ?_
  rw [decodeOpcode, Encoding.fld_2_28_4]
  show decodeLX _ = _
  rw [decodeLX, Encoding.fld_2_26_2]
  show decodeLXlow _ = _
  rw [decodeLXlow, Encoding.fld_2_18_10]
  show some (Instr.shl64 (fld _ 14 4) (fld _ 7 7) (fld _ 0 7)) = _
  rw [Encoding.fld_2_14_4, Encoding.fld_2_7_7, Encoding.fld_2_0_7]

theorem Encoding.shrn64 (g : BitVec 4) (d : BitVec 7) (a : BitVec 7) : Encoding.Statement (.shrn64 g d a) := by
  refine Encoding.of_core rfl rfl ?_
  rw [decodeOpcode, Encoding.fld_2_28_4]
  show decodeLX _ = _
  rw [decodeLX, Encoding.fld_2_26_2]
  show decodeLXlow _ = _
  rw [decodeLXlow, Encoding.fld_2_18_10]
  show some (Instr.shrn64 (fld _ 14 4) (fld _ 7 7) (fld _ 0 7)) = _
  rw [Encoding.fld_2_14_4, Encoding.fld_2_7_7, Encoding.fld_2_0_7]

theorem Encoding.shri64 (g : BitVec 4) (d : BitVec 7) (a : BitVec 7) : Encoding.Statement (.shri64 g d a) := by
  refine Encoding.of_core rfl rfl ?_
  rw [decodeOpcode, Encoding.fld_2_28_4]
  show decodeLX _ = _
  rw [decodeLX, Encoding.fld_2_26_2]
  show decodeLXlow _ = _
  rw [decodeLXlow, Encoding.fld_2_18_10]
  show some (Instr.shri64 (fld _ 14 4) (fld _ 7 7) (fld _ 0 7)) = _
  rw [Encoding.fld_2_14_4, Encoding.fld_2_7_7, Encoding.fld_2_0_7]

theorem Encoding.mini64 (g : BitVec 4) (d : BitVec 7) (a : BitVec 7) : Encoding.Statement (.mini64 g d a) := by
  refine Encoding.of_core rfl rfl ?_
  rw [decodeOpcode, Encoding.fld_2_28_4]
  show decodeLX _ = _
  rw [decodeLX, Encoding.fld_2_26_2]
  show decodeLXlow _ = _
  rw [decodeLXlow, Encoding.fld_2_18_10]
  show some (Instr.mini64 (fld _ 14 4) (fld _ 7 7) (fld _ 0 7)) = _
  rw [Encoding.fld_2_14_4, Encoding.fld_2_7_7, Encoding.fld_2_0_7]

theorem Encoding.maxi64 (g : BitVec 4) (d : BitVec 7) (a : BitVec 7) : Encoding.Statement (.maxi64 g d a) := by
  refine Encoding.of_core rfl rfl ?_
  rw [decodeOpcode, Encoding.fld_2_28_4]
  show decodeLX _ = _
  rw [decodeLX, Encoding.fld_2_26_2]
  show decodeLXlow _ = _
  rw [decodeLXlow, Encoding.fld_2_18_10]
  show some (Instr.maxi64 (fld _ 14 4) (fld _ 7 7) (fld _ 0 7)) = _
  rw [Encoding.fld_2_14_4, Encoding.fld_2_7_7, Encoding.fld_2_0_7]

theorem Encoding.minn64 (g : BitVec 4) (d : BitVec 7) (a : BitVec 7) : Encoding.Statement (.minn64 g d a) := by
  refine Encoding.of_core rfl rfl ?_
  rw [decodeOpcode, Encoding.fld_2_28_4]
  show decodeLX _ = _
  rw [decodeLX, Encoding.fld_2_26_2]
  show decodeLXlow _ = _
  rw [decodeLXlow, Encoding.fld_2_18_10]
  show some (Instr.minn64 (fld _ 14 4) (fld _ 7 7) (fld _ 0 7)) = _
  rw [Encoding.fld_2_14_4, Encoding.fld_2_7_7, Encoding.fld_2_0_7]

theorem Encoding.maxn64 (g : BitVec 4) (d : BitVec 7) (a : BitVec 7) : Encoding.Statement (.maxn64 g d a) := by
  refine Encoding.of_core rfl rfl ?_
  rw [decodeOpcode, Encoding.fld_2_28_4]
  show decodeLX _ = _
  rw [decodeLX, Encoding.fld_2_26_2]
  show decodeLXlow _ = _
  rw [decodeLXlow, Encoding.fld_2_18_10]
  show some (Instr.maxn64 (fld _ 14 4) (fld _ 7 7) (fld _ 0 7)) = _
  rw [Encoding.fld_2_14_4, Encoding.fld_2_7_7, Encoding.fld_2_0_7]

theorem Encoding.mulwi (g : BitVec 4) (d : BitVec 7) (a : BitVec 7) : Encoding.Statement (.mulwi g d a) := by
  refine Encoding.of_core rfl rfl ?_
  rw [decodeOpcode, Encoding.fld_2_28_4]
  show decodeLX _ = _
  rw [decodeLX, Encoding.fld_2_26_2]
  show decodeLXlow _ = _
  rw [decodeLXlow, Encoding.fld_2_18_10]
  show some (Instr.mulwi (fld _ 14 4) (fld _ 7 7) (fld _ 0 7)) = _
  rw [Encoding.fld_2_14_4, Encoding.fld_2_7_7, Encoding.fld_2_0_7]

theorem Encoding.mulwn (g : BitVec 4) (d : BitVec 7) (a : BitVec 7) : Encoding.Statement (.mulwn g d a) := by
  refine Encoding.of_core rfl rfl ?_
  rw [decodeOpcode, Encoding.fld_2_28_4]
  show decodeLX _ = _
  rw [decodeLX, Encoding.fld_2_26_2]
  show decodeLXlow _ = _
  rw [decodeLXlow, Encoding.fld_2_18_10]
  show some (Instr.mulwn (fld _ 14 4) (fld _ 7 7) (fld _ 0 7)) = _
  rw [Encoding.fld_2_14_4, Encoding.fld_2_7_7, Encoding.fld_2_0_7]

theorem Encoding.popc64 (g : BitVec 4) (d : BitVec 7) (a : BitVec 7) : Encoding.Statement (.popc64 g d a) := by
  refine Encoding.of_core rfl rfl ?_
  rw [decodeOpcode, Encoding.fld_2_28_4]
  show decodeLX _ = _
  rw [decodeLX, Encoding.fld_2_26_2]
  show decodeLXlow _ = _
  rw [decodeLXlow, Encoding.fld_2_18_10]
  show some (Instr.popc64 (fld _ 14 4) (fld _ 7 7) (fld _ 0 7)) = _
  rw [Encoding.fld_2_14_4, Encoding.fld_2_7_7, Encoding.fld_2_0_7]

theorem Encoding.clz64 (g : BitVec 4) (d : BitVec 7) (a : BitVec 7) : Encoding.Statement (.clz64 g d a) := by
  refine Encoding.of_core rfl rfl ?_
  rw [decodeOpcode, Encoding.fld_2_28_4]
  show decodeLX _ = _
  rw [decodeLX, Encoding.fld_2_26_2]
  show decodeLXlow _ = _
  rw [decodeLXlow, Encoding.fld_2_18_10]
  show some (Instr.clz64 (fld _ 14 4) (fld _ 7 7) (fld _ 0 7)) = _
  rw [Encoding.fld_2_14_4, Encoding.fld_2_7_7, Encoding.fld_2_0_7]

theorem Encoding.exit (g : BitVec 4) : Encoding.Statement (.exit g) := by
  refine Encoding.of_core rfl rfl ?_
  rw [decodeOpcode, Encoding.fld_3_28_4]
  show decodeLX _ = _
  rw [decodeLX, Encoding.fld_3_26_2]
  show decodeLXlow _ = _
  rw [decodeLXlow, Encoding.fld_3_18_10]
  show some (Instr.exit (fld _ 14 4)) = _
  rw [Encoding.fld_3_14_4]

theorem Encoding.brr (g : BitVec 4) (a : BitVec 7) : Encoding.Statement (.brr g a) := by
  refine Encoding.of_core rfl rfl ?_
  rw [decodeOpcode, Encoding.fld_2_28_4]
  show decodeLX _ = _
  rw [decodeLX, Encoding.fld_2_26_2]
  show decodeLXlow _ = _
  rw [decodeLXlow, Encoding.fld_2_18_10]
  show some (Instr.brr (fld _ 14 4) (fld _ 0 7)) = _
  rw [Encoding.fld_2_14_4, Encoding.fld_2_0_7]

theorem Encoding.callr (g : BitVec 4) (d : BitVec 7) (a : BitVec 7) : Encoding.Statement (.callr g d a) := by
  refine Encoding.of_core rfl rfl ?_
  rw [decodeOpcode, Encoding.fld_2_28_4]
  show decodeLX _ = _
  rw [decodeLX, Encoding.fld_2_26_2]
  show decodeLXlow _ = _
  rw [decodeLXlow, Encoding.fld_2_18_10]
  show some (Instr.callr (fld _ 14 4) (fld _ 7 7) (fld _ 0 7)) = _
  rw [Encoding.fld_2_14_4, Encoding.fld_2_7_7, Encoding.fld_2_0_7]

theorem Encoding.meetr (g : BitVec 4) (a : BitVec 7) : Encoding.Statement (.meetr g a) := by
  refine Encoding.of_core rfl rfl ?_
  rw [decodeOpcode, Encoding.fld_2_28_4]
  show decodeLX _ = _
  rw [decodeLX, Encoding.fld_2_26_2]
  show decodeLXlow _ = _
  rw [decodeLXlow, Encoding.fld_2_18_10]
  show some (Instr.meetr (fld _ 14 4) (fld _ 0 7)) = _
  rw [Encoding.fld_2_14_4, Encoding.fld_2_0_7]

theorem Encoding.fmin32 (g : BitVec 4) (d : BitVec 7) (a : BitVec 7) : Encoding.Statement (.fmin32 g d a) := by
  refine Encoding.of_core rfl rfl ?_
  rw [decodeOpcode, Encoding.fld_2_28_4]
  show decodeLX _ = _
  rw [decodeLX, Encoding.fld_2_26_2]
  show decodeLXlow _ = _
  rw [decodeLXlow, Encoding.fld_2_18_10]
  show some (Instr.fmin32 (fld _ 14 4) (fld _ 7 7) (fld _ 0 7)) = _
  rw [Encoding.fld_2_14_4, Encoding.fld_2_7_7, Encoding.fld_2_0_7]

theorem Encoding.fmax32 (g : BitVec 4) (d : BitVec 7) (a : BitVec 7) : Encoding.Statement (.fmax32 g d a) := by
  refine Encoding.of_core rfl rfl ?_
  rw [decodeOpcode, Encoding.fld_2_28_4]
  show decodeLX _ = _
  rw [decodeLX, Encoding.fld_2_26_2]
  show decodeLXlow _ = _
  rw [decodeLXlow, Encoding.fld_2_18_10]
  show some (Instr.fmax32 (fld _ 14 4) (fld _ 7 7) (fld _ 0 7)) = _
  rw [Encoding.fld_2_14_4, Encoding.fld_2_7_7, Encoding.fld_2_0_7]

theorem Encoding.fmin64 (g : BitVec 4) (d : BitVec 7) (a : BitVec 7) : Encoding.Statement (.fmin64 g d a) := by
  refine Encoding.of_core rfl rfl ?_
  rw [decodeOpcode, Encoding.fld_2_28_4]
  show decodeLX _ = _
  rw [decodeLX, Encoding.fld_2_26_2]
  show decodeLXlow _ = _
  rw [decodeLXlow, Encoding.fld_2_18_10]
  show some (Instr.fmin64 (fld _ 14 4) (fld _ 7 7) (fld _ 0 7)) = _
  rw [Encoding.fld_2_14_4, Encoding.fld_2_7_7, Encoding.fld_2_0_7]

theorem Encoding.fmax64 (g : BitVec 4) (d : BitVec 7) (a : BitVec 7) : Encoding.Statement (.fmax64 g d a) := by
  refine Encoding.of_core rfl rfl ?_
  rw [decodeOpcode, Encoding.fld_2_28_4]
  show decodeLX _ = _
  rw [decodeLX, Encoding.fld_2_26_2]
  show decodeLXlow _ = _
  rw [decodeLXlow, Encoding.fld_2_18_10]
  show some (Instr.fmax64 (fld _ 14 4) (fld _ 7 7) (fld _ 0 7)) = _
  rw [Encoding.fld_2_14_4, Encoding.fld_2_7_7, Encoding.fld_2_0_7]

theorem Encoding.fdiv32 (g : BitVec 4) (d : BitVec 7) (a : BitVec 7) : Encoding.Statement (.fdiv32 g d a) := by
  refine Encoding.of_core rfl rfl ?_
  rw [decodeOpcode, Encoding.fld_2_28_4]
  show decodeLX _ = _
  rw [decodeLX, Encoding.fld_2_26_2]
  show decodeLXlow _ = _
  rw [decodeLXlow, Encoding.fld_2_18_10]
  show some (Instr.fdiv32 (fld _ 14 4) (fld _ 7 7) (fld _ 0 7)) = _
  rw [Encoding.fld_2_14_4, Encoding.fld_2_7_7, Encoding.fld_2_0_7]

theorem Encoding.fdiv64 (g : BitVec 4) (d : BitVec 7) (a : BitVec 7) : Encoding.Statement (.fdiv64 g d a) := by
  refine Encoding.of_core rfl rfl ?_
  rw [decodeOpcode, Encoding.fld_2_28_4]
  show decodeLX _ = _
  rw [decodeLX, Encoding.fld_2_26_2]
  show decodeLXlow _ = _
  rw [decodeLXlow, Encoding.fld_2_18_10]
  show some (Instr.fdiv64 (fld _ 14 4) (fld _ 7 7) (fld _ 0 7)) = _
  rw [Encoding.fld_2_14_4, Encoding.fld_2_7_7, Encoding.fld_2_0_7]

theorem Encoding.fsqrt32 (g : BitVec 4) (d : BitVec 7) (a : BitVec 7) : Encoding.Statement (.fsqrt32 g d a) := by
  refine Encoding.of_core rfl rfl ?_
  rw [decodeOpcode, Encoding.fld_2_28_4]
  show decodeLX _ = _
  rw [decodeLX, Encoding.fld_2_26_2]
  show decodeLXlow _ = _
  rw [decodeLXlow, Encoding.fld_2_18_10]
  show some (Instr.fsqrt32 (fld _ 14 4) (fld _ 7 7) (fld _ 0 7)) = _
  rw [Encoding.fld_2_14_4, Encoding.fld_2_7_7, Encoding.fld_2_0_7]

theorem Encoding.fsqrt64 (g : BitVec 4) (d : BitVec 7) (a : BitVec 7) : Encoding.Statement (.fsqrt64 g d a) := by
  refine Encoding.of_core rfl rfl ?_
  rw [decodeOpcode, Encoding.fld_2_28_4]
  show decodeLX _ = _
  rw [decodeLX, Encoding.fld_2_26_2]
  show decodeLXlow _ = _
  rw [decodeLXlow, Encoding.fld_2_18_10]
  show some (Instr.fsqrt64 (fld _ 14 4) (fld _ 7 7) (fld _ 0 7)) = _
  rw [Encoding.fld_2_14_4, Encoding.fld_2_7_7, Encoding.fld_2_0_7]

theorem Encoding.frsqrt32 (g : BitVec 4) (d : BitVec 7) (a : BitVec 7) : Encoding.Statement (.frsqrt32 g d a) := by
  refine Encoding.of_core rfl rfl ?_
  rw [decodeOpcode, Encoding.fld_2_28_4]
  show decodeLX _ = _
  rw [decodeLX, Encoding.fld_2_26_2]
  show decodeLXlow _ = _
  rw [decodeLXlow, Encoding.fld_2_18_10]
  show some (Instr.frsqrt32 (fld _ 14 4) (fld _ 7 7) (fld _ 0 7)) = _
  rw [Encoding.fld_2_14_4, Encoding.fld_2_7_7, Encoding.fld_2_0_7]

theorem Encoding.frsqrt64 (g : BitVec 4) (d : BitVec 7) (a : BitVec 7) : Encoding.Statement (.frsqrt64 g d a) := by
  refine Encoding.of_core rfl rfl ?_
  rw [decodeOpcode, Encoding.fld_2_28_4]
  show decodeLX _ = _
  rw [decodeLX, Encoding.fld_2_26_2]
  show decodeLXlow _ = _
  rw [decodeLXlow, Encoding.fld_2_18_10]
  show some (Instr.frsqrt64 (fld _ 14 4) (fld _ 7 7) (fld _ 0 7)) = _
  rw [Encoding.fld_2_14_4, Encoding.fld_2_7_7, Encoding.fld_2_0_7]

theorem Encoding.frcp32 (g : BitVec 4) (d : BitVec 7) (a : BitVec 7) : Encoding.Statement (.frcp32 g d a) := by
  refine Encoding.of_core rfl rfl ?_
  rw [decodeOpcode, Encoding.fld_2_28_4]
  show decodeLX _ = _
  rw [decodeLX, Encoding.fld_2_26_2]
  show decodeLXlow _ = _
  rw [decodeLXlow, Encoding.fld_2_18_10]
  show some (Instr.frcp32 (fld _ 14 4) (fld _ 7 7) (fld _ 0 7)) = _
  rw [Encoding.fld_2_14_4, Encoding.fld_2_7_7, Encoding.fld_2_0_7]

theorem Encoding.frcp64 (g : BitVec 4) (d : BitVec 7) (a : BitVec 7) : Encoding.Statement (.frcp64 g d a) := by
  refine Encoding.of_core rfl rfl ?_
  rw [decodeOpcode, Encoding.fld_2_28_4]
  show decodeLX _ = _
  rw [decodeLX, Encoding.fld_2_26_2]
  show decodeLXlow _ = _
  rw [decodeLXlow, Encoding.fld_2_18_10]
  show some (Instr.frcp64 (fld _ 14 4) (fld _ 7 7) (fld _ 0 7)) = _
  rw [Encoding.fld_2_14_4, Encoding.fld_2_7_7, Encoding.fld_2_0_7]

theorem Encoding.fexp2 (g : BitVec 4) (d : BitVec 7) (a : BitVec 7) : Encoding.Statement (.fexp2 g d a) := by
  refine Encoding.of_core rfl rfl ?_
  rw [decodeOpcode, Encoding.fld_2_28_4]
  show decodeLX _ = _
  rw [decodeLX, Encoding.fld_2_26_2]
  show decodeLXlow _ = _
  rw [decodeLXlow, Encoding.fld_2_18_10]
  show some (Instr.fexp2 (fld _ 14 4) (fld _ 7 7) (fld _ 0 7)) = _
  rw [Encoding.fld_2_14_4, Encoding.fld_2_7_7, Encoding.fld_2_0_7]

theorem Encoding.flog2 (g : BitVec 4) (d : BitVec 7) (a : BitVec 7) : Encoding.Statement (.flog2 g d a) := by
  refine Encoding.of_core rfl rfl ?_
  rw [decodeOpcode, Encoding.fld_2_28_4]
  show decodeLX _ = _
  rw [decodeLX, Encoding.fld_2_26_2]
  show decodeLXlow _ = _
  rw [decodeLXlow, Encoding.fld_2_18_10]
  show some (Instr.flog2 (fld _ 14 4) (fld _ 7 7) (fld _ 0 7)) = _
  rw [Encoding.fld_2_14_4, Encoding.fld_2_7_7, Encoding.fld_2_0_7]

theorem Encoding.fneg32 (g : BitVec 4) (d : BitVec 7) (a : BitVec 7) : Encoding.Statement (.fneg32 g d a) := by
  refine Encoding.of_core rfl rfl ?_
  rw [decodeOpcode, Encoding.fld_2_28_4]
  show decodeLX _ = _
  rw [decodeLX, Encoding.fld_2_26_2]
  show decodeLXlow _ = _
  rw [decodeLXlow, Encoding.fld_2_18_10]
  show some (Instr.fneg32 (fld _ 14 4) (fld _ 7 7) (fld _ 0 7)) = _
  rw [Encoding.fld_2_14_4, Encoding.fld_2_7_7, Encoding.fld_2_0_7]

theorem Encoding.fabs32 (g : BitVec 4) (d : BitVec 7) (a : BitVec 7) : Encoding.Statement (.fabs32 g d a) := by
  refine Encoding.of_core rfl rfl ?_
  rw [decodeOpcode, Encoding.fld_2_28_4]
  show decodeLX _ = _
  rw [decodeLX, Encoding.fld_2_26_2]
  show decodeLXlow _ = _
  rw [decodeLXlow, Encoding.fld_2_18_10]
  show some (Instr.fabs32 (fld _ 14 4) (fld _ 7 7) (fld _ 0 7)) = _
  rw [Encoding.fld_2_14_4, Encoding.fld_2_7_7, Encoding.fld_2_0_7]

theorem Encoding.fneg64 (g : BitVec 4) (d : BitVec 7) (a : BitVec 7) : Encoding.Statement (.fneg64 g d a) := by
  refine Encoding.of_core rfl rfl ?_
  rw [decodeOpcode, Encoding.fld_2_28_4]
  show decodeLX _ = _
  rw [decodeLX, Encoding.fld_2_26_2]
  show decodeLXlow _ = _
  rw [decodeLXlow, Encoding.fld_2_18_10]
  show some (Instr.fneg64 (fld _ 14 4) (fld _ 7 7) (fld _ 0 7)) = _
  rw [Encoding.fld_2_14_4, Encoding.fld_2_7_7, Encoding.fld_2_0_7]

theorem Encoding.fabs64 (g : BitVec 4) (d : BitVec 7) (a : BitVec 7) : Encoding.Statement (.fabs64 g d a) := by
  refine Encoding.of_core rfl rfl ?_
  rw [decodeOpcode, Encoding.fld_2_28_4]
  show decodeLX _ = _
  rw [decodeLX, Encoding.fld_2_26_2]
  show decodeLXlow _ = _
  rw [decodeLXlow, Encoding.fld_2_18_10]
  show some (Instr.fabs64 (fld _ 14 4) (fld _ 7 7) (fld _ 0 7)) = _
  rw [Encoding.fld_2_14_4, Encoding.fld_2_7_7, Encoding.fld_2_0_7]

theorem Encoding.ffma2b (g : BitVec 4) (d : BitVec 7) (a : BitVec 7) : Encoding.Statement (.ffma2b g d a) := by
  refine Encoding.of_core rfl rfl ?_
  rw [decodeOpcode, Encoding.fld_2_28_4]
  show decodeLX _ = _
  rw [decodeLX, Encoding.fld_2_26_2]
  show decodeLXlow _ = _
  rw [decodeLXlow, Encoding.fld_2_18_10]
  show some (Instr.ffma2b (fld _ 14 4) (fld _ 7 7) (fld _ 0 7)) = _
  rw [Encoding.fld_2_14_4, Encoding.fld_2_7_7, Encoding.fld_2_0_7]

theorem Encoding.fclass32 (g : BitVec 4) (d : BitVec 7) (a : BitVec 7) : Encoding.Statement (.fclass32 g d a) := by
  refine Encoding.of_core rfl rfl ?_
  rw [decodeOpcode, Encoding.fld_2_28_4]
  show decodeLX _ = _
  rw [decodeLX, Encoding.fld_2_26_2]
  show decodeLXlow _ = _
  rw [decodeLXlow, Encoding.fld_2_18_10]
  show some (Instr.fclass32 (fld _ 14 4) (fld _ 7 7) (fld _ 0 7)) = _
  rw [Encoding.fld_2_14_4, Encoding.fld_2_7_7, Encoding.fld_2_0_7]

theorem Encoding.fclass64 (g : BitVec 4) (d : BitVec 7) (a : BitVec 7) : Encoding.Statement (.fclass64 g d a) := by
  refine Encoding.of_core rfl rfl ?_
  rw [decodeOpcode, Encoding.fld_2_28_4]
  show decodeLX _ = _
  rw [decodeLX, Encoding.fld_2_26_2]
  show decodeLXlow _ = _
  rw [decodeLXlow, Encoding.fld_2_18_10]
  show some (Instr.fclass64 (fld _ 14 4) (fld _ 7 7) (fld _ 0 7)) = _
  rw [Encoding.fld_2_14_4, Encoding.fld_2_7_7, Encoding.fld_2_0_7]

theorem Encoding.fclass16 (g : BitVec 4) (d : BitVec 7) (a : BitVec 7) : Encoding.Statement (.fclass16 g d a) := by
  refine Encoding.of_core rfl rfl ?_
  rw [decodeOpcode, Encoding.fld_2_28_4]
  show decodeLX _ = _
  rw [decodeLX, Encoding.fld_2_26_2]
  show decodeLXlow _ = _
  rw [decodeLXlow, Encoding.fld_2_18_10]
  show some (Instr.fclass16 (fld _ 14 4) (fld _ 7 7) (fld _ 0 7)) = _
  rw [Encoding.fld_2_14_4, Encoding.fld_2_7_7, Encoding.fld_2_0_7]

theorem Encoding.cvt (p : BitVec 5) (s : BitVec 1) (r : BitVec 2) (g : BitVec 4) (d : BitVec 7) (a : BitVec 7) : Encoding.Statement (.cvt p s r g d a) := by
  refine Encoding.of_core rfl rfl ?_
  rw [decodeOpcode, Encoding.fld_4_28_4]
  show decodeLX _ = _
  rw [decodeLX, Encoding.fld_4_26_2]
  show some (Instr.cvt (fld _ 21 5) (fld _ 20 1) (fld _ 18 2) (fld _ 14 4) (fld _ 7 7) (fld _ 0 7)) = _
  rw [Encoding.fld_4_21_5, Encoding.fld_4_20_1, Encoding.fld_4_18_2, Encoding.fld_4_14_4, Encoding.fld_4_7_7, Encoding.fld_4_0_7]

theorem Encoding.ld8n (g : BitVec 4) (d : BitVec 7) (a : BitVec 7) : Encoding.Statement (.ld8n g d a) := by
  refine Encoding.of_core rfl rfl ?_
  rw [decodeOpcode, Encoding.fld_2_28_4]
  show decodeLX _ = _
  rw [decodeLX, Encoding.fld_2_26_2]
  show decodeLXlow _ = _
  rw [decodeLXlow, Encoding.fld_2_18_10]
  show some (Instr.ld8n (fld _ 14 4) (fld _ 7 7) (fld _ 0 7)) = _
  rw [Encoding.fld_2_14_4, Encoding.fld_2_7_7, Encoding.fld_2_0_7]

theorem Encoding.ld8i (g : BitVec 4) (d : BitVec 7) (a : BitVec 7) : Encoding.Statement (.ld8i g d a) := by
  refine Encoding.of_core rfl rfl ?_
  rw [decodeOpcode, Encoding.fld_2_28_4]
  show decodeLX _ = _
  rw [decodeLX, Encoding.fld_2_26_2]
  show decodeLXlow _ = _
  rw [decodeLXlow, Encoding.fld_2_18_10]
  show some (Instr.ld8i (fld _ 14 4) (fld _ 7 7) (fld _ 0 7)) = _
  rw [Encoding.fld_2_14_4, Encoding.fld_2_7_7, Encoding.fld_2_0_7]

theorem Encoding.ld16n (g : BitVec 4) (d : BitVec 7) (a : BitVec 7) : Encoding.Statement (.ld16n g d a) := by
  refine Encoding.of_core rfl rfl ?_
  rw [decodeOpcode, Encoding.fld_2_28_4]
  show decodeLX _ = _
  rw [decodeLX, Encoding.fld_2_26_2]
  show decodeLXlow _ = _
  rw [decodeLXlow, Encoding.fld_2_18_10]
  show some (Instr.ld16n (fld _ 14 4) (fld _ 7 7) (fld _ 0 7)) = _
  rw [Encoding.fld_2_14_4, Encoding.fld_2_7_7, Encoding.fld_2_0_7]

theorem Encoding.ld16i (g : BitVec 4) (d : BitVec 7) (a : BitVec 7) : Encoding.Statement (.ld16i g d a) := by
  refine Encoding.of_core rfl rfl ?_
  rw [decodeOpcode, Encoding.fld_2_28_4]
  show decodeLX _ = _
  rw [decodeLX, Encoding.fld_2_26_2]
  show decodeLXlow _ = _
  rw [decodeLXlow, Encoding.fld_2_18_10]
  show some (Instr.ld16i (fld _ 14 4) (fld _ 7 7) (fld _ 0 7)) = _
  rw [Encoding.fld_2_14_4, Encoding.fld_2_7_7, Encoding.fld_2_0_7]

theorem Encoding.st8 (g : BitVec 4) (d : BitVec 7) (a : BitVec 7) : Encoding.Statement (.st8 g d a) := by
  refine Encoding.of_core rfl rfl ?_
  rw [decodeOpcode, Encoding.fld_2_28_4]
  show decodeLX _ = _
  rw [decodeLX, Encoding.fld_2_26_2]
  show decodeLXlow _ = _
  rw [decodeLXlow, Encoding.fld_2_18_10]
  show some (Instr.st8 (fld _ 14 4) (fld _ 7 7) (fld _ 0 7)) = _
  rw [Encoding.fld_2_14_4, Encoding.fld_2_7_7, Encoding.fld_2_0_7]

theorem Encoding.st16 (g : BitVec 4) (d : BitVec 7) (a : BitVec 7) : Encoding.Statement (.st16 g d a) := by
  refine Encoding.of_core rfl rfl ?_
  rw [decodeOpcode, Encoding.fld_2_28_4]
  show decodeLX _ = _
  rw [decodeLX, Encoding.fld_2_26_2]
  show decodeLXlow _ = _
  rw [decodeLXlow, Encoding.fld_2_18_10]
  show some (Instr.st16 (fld _ 14 4) (fld _ 7 7) (fld _ 0 7)) = _
  rw [Encoding.fld_2_14_4, Encoding.fld_2_7_7, Encoding.fld_2_0_7]

theorem Encoding.lds8n (g : BitVec 4) (d : BitVec 7) (a : BitVec 7) : Encoding.Statement (.lds8n g d a) := by
  refine Encoding.of_core rfl rfl ?_
  rw [decodeOpcode, Encoding.fld_2_28_4]
  show decodeLX _ = _
  rw [decodeLX, Encoding.fld_2_26_2]
  show decodeLXlow _ = _
  rw [decodeLXlow, Encoding.fld_2_18_10]
  show some (Instr.lds8n (fld _ 14 4) (fld _ 7 7) (fld _ 0 7)) = _
  rw [Encoding.fld_2_14_4, Encoding.fld_2_7_7, Encoding.fld_2_0_7]

theorem Encoding.lds8i (g : BitVec 4) (d : BitVec 7) (a : BitVec 7) : Encoding.Statement (.lds8i g d a) := by
  refine Encoding.of_core rfl rfl ?_
  rw [decodeOpcode, Encoding.fld_2_28_4]
  show decodeLX _ = _
  rw [decodeLX, Encoding.fld_2_26_2]
  show decodeLXlow _ = _
  rw [decodeLXlow, Encoding.fld_2_18_10]
  show some (Instr.lds8i (fld _ 14 4) (fld _ 7 7) (fld _ 0 7)) = _
  rw [Encoding.fld_2_14_4, Encoding.fld_2_7_7, Encoding.fld_2_0_7]

theorem Encoding.lds16n (g : BitVec 4) (d : BitVec 7) (a : BitVec 7) : Encoding.Statement (.lds16n g d a) := by
  refine Encoding.of_core rfl rfl ?_
  rw [decodeOpcode, Encoding.fld_2_28_4]
  show decodeLX _ = _
  rw [decodeLX, Encoding.fld_2_26_2]
  show decodeLXlow _ = _
  rw [decodeLXlow, Encoding.fld_2_18_10]
  show some (Instr.lds16n (fld _ 14 4) (fld _ 7 7) (fld _ 0 7)) = _
  rw [Encoding.fld_2_14_4, Encoding.fld_2_7_7, Encoding.fld_2_0_7]

theorem Encoding.lds16i (g : BitVec 4) (d : BitVec 7) (a : BitVec 7) : Encoding.Statement (.lds16i g d a) := by
  refine Encoding.of_core rfl rfl ?_
  rw [decodeOpcode, Encoding.fld_2_28_4]
  show decodeLX _ = _
  rw [decodeLX, Encoding.fld_2_26_2]
  show decodeLXlow _ = _
  rw [decodeLXlow, Encoding.fld_2_18_10]
  show some (Instr.lds16i (fld _ 14 4) (fld _ 7 7) (fld _ 0 7)) = _
  rw [Encoding.fld_2_14_4, Encoding.fld_2_7_7, Encoding.fld_2_0_7]

theorem Encoding.sts8 (g : BitVec 4) (d : BitVec 7) (a : BitVec 7) : Encoding.Statement (.sts8 g d a) := by
  refine Encoding.of_core rfl rfl ?_
  rw [decodeOpcode, Encoding.fld_2_28_4]
  show decodeLX _ = _
  rw [decodeLX, Encoding.fld_2_26_2]
  show decodeLXlow _ = _
  rw [decodeLXlow, Encoding.fld_2_18_10]
  show some (Instr.sts8 (fld _ 14 4) (fld _ 7 7) (fld _ 0 7)) = _
  rw [Encoding.fld_2_14_4, Encoding.fld_2_7_7, Encoding.fld_2_0_7]

theorem Encoding.sts16 (g : BitVec 4) (d : BitVec 7) (a : BitVec 7) : Encoding.Statement (.sts16 g d a) := by
  refine Encoding.of_core rfl rfl ?_
  rw [decodeOpcode, Encoding.fld_2_28_4]
  show decodeLX _ = _
  rw [decodeLX, Encoding.fld_2_26_2]
  show decodeLXlow _ = _
  rw [decodeLXlow, Encoding.fld_2_18_10]
  show some (Instr.sts16 (fld _ 14 4) (fld _ 7 7) (fld _ 0 7)) = _
  rw [Encoding.fld_2_14_4, Encoding.fld_2_7_7, Encoding.fld_2_0_7]

theorem Encoding.lds64 (g : BitVec 4) (d : BitVec 7) (a : BitVec 7) : Encoding.Statement (.lds64 g d a) := by
  refine Encoding.of_core rfl rfl ?_
  rw [decodeOpcode, Encoding.fld_2_28_4]
  show decodeLX _ = _
  rw [decodeLX, Encoding.fld_2_26_2]
  show decodeLXlow _ = _
  rw [decodeLXlow, Encoding.fld_2_18_10]
  show some (Instr.lds64 (fld _ 14 4) (fld _ 7 7) (fld _ 0 7)) = _
  rw [Encoding.fld_2_14_4, Encoding.fld_2_7_7, Encoding.fld_2_0_7]

theorem Encoding.lds128 (g : BitVec 4) (d : BitVec 7) (a : BitVec 7) : Encoding.Statement (.lds128 g d a) := by
  refine Encoding.of_core rfl rfl ?_
  rw [decodeOpcode, Encoding.fld_2_28_4]
  show decodeLX _ = _
  rw [decodeLX, Encoding.fld_2_26_2]
  show decodeLXlow _ = _
  rw [decodeLXlow, Encoding.fld_2_18_10]
  show some (Instr.lds128 (fld _ 14 4) (fld _ 7 7) (fld _ 0 7)) = _
  rw [Encoding.fld_2_14_4, Encoding.fld_2_7_7, Encoding.fld_2_0_7]

theorem Encoding.sts64 (g : BitVec 4) (d : BitVec 7) (a : BitVec 7) : Encoding.Statement (.sts64 g d a) := by
  refine Encoding.of_core rfl rfl ?_
  rw [decodeOpcode, Encoding.fld_2_28_4]
  show decodeLX _ = _
  rw [decodeLX, Encoding.fld_2_26_2]
  show decodeLXlow _ = _
  rw [decodeLXlow, Encoding.fld_2_18_10]
  show some (Instr.sts64 (fld _ 14 4) (fld _ 7 7) (fld _ 0 7)) = _
  rw [Encoding.fld_2_14_4, Encoding.fld_2_7_7, Encoding.fld_2_0_7]

theorem Encoding.sts128 (g : BitVec 4) (d : BitVec 7) (a : BitVec 7) : Encoding.Statement (.sts128 g d a) := by
  refine Encoding.of_core rfl rfl ?_
  rw [decodeOpcode, Encoding.fld_2_28_4]
  show decodeLX _ = _
  rw [decodeLX, Encoding.fld_2_26_2]
  show decodeLXlow _ = _
  rw [decodeLXlow, Encoding.fld_2_18_10]
  show some (Instr.sts128 (fld _ 14 4) (fld _ 7 7) (fld _ 0 7)) = _
  rw [Encoding.fld_2_14_4, Encoding.fld_2_7_7, Encoding.fld_2_0_7]

theorem Encoding.gredAdd (g : BitVec 4) (d : BitVec 7) (a : BitVec 7) : Encoding.Statement (.gredAdd g d a) := by
  refine Encoding.of_core rfl rfl ?_
  rw [decodeOpcode, Encoding.fld_2_28_4]
  show decodeLX _ = _
  rw [decodeLX, Encoding.fld_2_26_2]
  show decodeLXlow _ = _
  rw [decodeLXlow, Encoding.fld_2_18_10]
  show some (Instr.gredAdd (fld _ 14 4) (fld _ 7 7) (fld _ 0 7)) = _
  rw [Encoding.fld_2_14_4, Encoding.fld_2_7_7, Encoding.fld_2_0_7]

theorem Encoding.gredFadd32 (g : BitVec 4) (d : BitVec 7) (a : BitVec 7) : Encoding.Statement (.gredFadd32 g d a) := by
  refine Encoding.of_core rfl rfl ?_
  rw [decodeOpcode, Encoding.fld_2_28_4]
  show decodeLX _ = _
  rw [decodeLX, Encoding.fld_2_26_2]
  show decodeLXlow _ = _
  rw [decodeLXlow, Encoding.fld_2_18_10]
  show some (Instr.gredFadd32 (fld _ 14 4) (fld _ 7 7) (fld _ 0 7)) = _
  rw [Encoding.fld_2_14_4, Encoding.fld_2_7_7, Encoding.fld_2_0_7]

theorem Encoding.gredMini (g : BitVec 4) (d : BitVec 7) (a : BitVec 7) : Encoding.Statement (.gredMini g d a) := by
  refine Encoding.of_core rfl rfl ?_
  rw [decodeOpcode, Encoding.fld_2_28_4]
  show decodeLX _ = _
  rw [decodeLX, Encoding.fld_2_26_2]
  show decodeLXlow _ = _
  rw [decodeLXlow, Encoding.fld_2_18_10]
  show some (Instr.gredMini (fld _ 14 4) (fld _ 7 7) (fld _ 0 7)) = _
  rw [Encoding.fld_2_14_4, Encoding.fld_2_7_7, Encoding.fld_2_0_7]

theorem Encoding.gredMaxi (g : BitVec 4) (d : BitVec 7) (a : BitVec 7) : Encoding.Statement (.gredMaxi g d a) := by
  refine Encoding.of_core rfl rfl ?_
  rw [decodeOpcode, Encoding.fld_2_28_4]
  show decodeLX _ = _
  rw [decodeLX, Encoding.fld_2_26_2]
  show decodeLXlow _ = _
  rw [decodeLXlow, Encoding.fld_2_18_10]
  show some (Instr.gredMaxi (fld _ 14 4) (fld _ 7 7) (fld _ 0 7)) = _
  rw [Encoding.fld_2_14_4, Encoding.fld_2_7_7, Encoding.fld_2_0_7]

theorem Encoding.gredMinn (g : BitVec 4) (d : BitVec 7) (a : BitVec 7) : Encoding.Statement (.gredMinn g d a) := by
  refine Encoding.of_core rfl rfl ?_
  rw [decodeOpcode, Encoding.fld_2_28_4]
  show decodeLX _ = _
  rw [decodeLX, Encoding.fld_2_26_2]
  show decodeLXlow _ = _
  rw [decodeLXlow, Encoding.fld_2_18_10]
  show some (Instr.gredMinn (fld _ 14 4) (fld _ 7 7) (fld _ 0 7)) = _
  rw [Encoding.fld_2_14_4, Encoding.fld_2_7_7, Encoding.fld_2_0_7]

theorem Encoding.gredMaxn (g : BitVec 4) (d : BitVec 7) (a : BitVec 7) : Encoding.Statement (.gredMaxn g d a) := by
  refine Encoding.of_core rfl rfl ?_
  rw [decodeOpcode, Encoding.fld_2_28_4]
  show decodeLX _ = _
  rw [decodeLX, Encoding.fld_2_26_2]
  show decodeLXlow _ = _
  rw [decodeLXlow, Encoding.fld_2_18_10]
  show some (Instr.gredMaxn (fld _ 14 4) (fld _ 7 7) (fld _ 0 7)) = _
  rw [Encoding.fld_2_14_4, Encoding.fld_2_7_7, Encoding.fld_2_0_7]

theorem Encoding.latomAdd (g : BitVec 4) (d : BitVec 7) (a : BitVec 7) : Encoding.Statement (.latomAdd g d a) := by
  refine Encoding.of_core rfl rfl ?_
  rw [decodeOpcode, Encoding.fld_2_28_4]
  show decodeLX _ = _
  rw [decodeLX, Encoding.fld_2_26_2]
  show decodeLXlow _ = _
  rw [decodeLXlow, Encoding.fld_2_18_10]
  show some (Instr.latomAdd (fld _ 14 4) (fld _ 7 7) (fld _ 0 7)) = _
  rw [Encoding.fld_2_14_4, Encoding.fld_2_7_7, Encoding.fld_2_0_7]

theorem Encoding.latomAnd (g : BitVec 4) (d : BitVec 7) (a : BitVec 7) : Encoding.Statement (.latomAnd g d a) := by
  refine Encoding.of_core rfl rfl ?_
  rw [decodeOpcode, Encoding.fld_2_28_4]
  show decodeLX _ = _
  rw [decodeLX, Encoding.fld_2_26_2]
  show decodeLXlow _ = _
  rw [decodeLXlow, Encoding.fld_2_18_10]
  show some (Instr.latomAnd (fld _ 14 4) (fld _ 7 7) (fld _ 0 7)) = _
  rw [Encoding.fld_2_14_4, Encoding.fld_2_7_7, Encoding.fld_2_0_7]

theorem Encoding.latomOr (g : BitVec 4) (d : BitVec 7) (a : BitVec 7) : Encoding.Statement (.latomOr g d a) := by
  refine Encoding.of_core rfl rfl ?_
  rw [decodeOpcode, Encoding.fld_2_28_4]
  show decodeLX _ = _
  rw [decodeLX, Encoding.fld_2_26_2]
  show decodeLXlow _ = _
  rw [decodeLXlow, Encoding.fld_2_18_10]
  show some (Instr.latomOr (fld _ 14 4) (fld _ 7 7) (fld _ 0 7)) = _
  rw [Encoding.fld_2_14_4, Encoding.fld_2_7_7, Encoding.fld_2_0_7]

theorem Encoding.latomXor (g : BitVec 4) (d : BitVec 7) (a : BitVec 7) : Encoding.Statement (.latomXor g d a) := by
  refine Encoding.of_core rfl rfl ?_
  rw [decodeOpcode, Encoding.fld_2_28_4]
  show decodeLX _ = _
  rw [decodeLX, Encoding.fld_2_26_2]
  show decodeLXlow _ = _
  rw [decodeLXlow, Encoding.fld_2_18_10]
  show some (Instr.latomXor (fld _ 14 4) (fld _ 7 7) (fld _ 0 7)) = _
  rw [Encoding.fld_2_14_4, Encoding.fld_2_7_7, Encoding.fld_2_0_7]

theorem Encoding.latomMini (g : BitVec 4) (d : BitVec 7) (a : BitVec 7) : Encoding.Statement (.latomMini g d a) := by
  refine Encoding.of_core rfl rfl ?_
  rw [decodeOpcode, Encoding.fld_2_28_4]
  show decodeLX _ = _
  rw [decodeLX, Encoding.fld_2_26_2]
  show decodeLXlow _ = _
  rw [decodeLXlow, Encoding.fld_2_18_10]
  show some (Instr.latomMini (fld _ 14 4) (fld _ 7 7) (fld _ 0 7)) = _
  rw [Encoding.fld_2_14_4, Encoding.fld_2_7_7, Encoding.fld_2_0_7]

theorem Encoding.latomMaxi (g : BitVec 4) (d : BitVec 7) (a : BitVec 7) : Encoding.Statement (.latomMaxi g d a) := by
  refine Encoding.of_core rfl rfl ?_
  rw [decodeOpcode, Encoding.fld_2_28_4]
  show decodeLX _ = _
  rw [decodeLX, Encoding.fld_2_26_2]
  show decodeLXlow _ = _
  rw [decodeLXlow, Encoding.fld_2_18_10]
  show some (Instr.latomMaxi (fld _ 14 4) (fld _ 7 7) (fld _ 0 7)) = _
  rw [Encoding.fld_2_14_4, Encoding.fld_2_7_7, Encoding.fld_2_0_7]

theorem Encoding.latomMinn (g : BitVec 4) (d : BitVec 7) (a : BitVec 7) : Encoding.Statement (.latomMinn g d a) := by
  refine Encoding.of_core rfl rfl ?_
  rw [decodeOpcode, Encoding.fld_2_28_4]
  show decodeLX _ = _
  rw [decodeLX, Encoding.fld_2_26_2]
  show decodeLXlow _ = _
  rw [decodeLXlow, Encoding.fld_2_18_10]
  show some (Instr.latomMinn (fld _ 14 4) (fld _ 7 7) (fld _ 0 7)) = _
  rw [Encoding.fld_2_14_4, Encoding.fld_2_7_7, Encoding.fld_2_0_7]

theorem Encoding.latomMaxn (g : BitVec 4) (d : BitVec 7) (a : BitVec 7) : Encoding.Statement (.latomMaxn g d a) := by
  refine Encoding.of_core rfl rfl ?_
  rw [decodeOpcode, Encoding.fld_2_28_4]
  show decodeLX _ = _
  rw [decodeLX, Encoding.fld_2_26_2]
  show decodeLXlow _ = _
  rw [decodeLXlow, Encoding.fld_2_18_10]
  show some (Instr.latomMaxn (fld _ 14 4) (fld _ 7 7) (fld _ 0 7)) = _
  rw [Encoding.fld_2_14_4, Encoding.fld_2_7_7, Encoding.fld_2_0_7]

theorem Encoding.latomSwap (g : BitVec 4) (d : BitVec 7) (a : BitVec 7) : Encoding.Statement (.latomSwap g d a) := by
  refine Encoding.of_core rfl rfl ?_
  rw [decodeOpcode, Encoding.fld_2_28_4]
  show decodeLX _ = _
  rw [decodeLX, Encoding.fld_2_26_2]
  show decodeLXlow _ = _
  rw [decodeLXlow, Encoding.fld_2_18_10]
  show some (Instr.latomSwap (fld _ 14 4) (fld _ 7 7) (fld _ 0 7)) = _
  rw [Encoding.fld_2_14_4, Encoding.fld_2_7_7, Encoding.fld_2_0_7]

theorem Encoding.latomCas (g : BitVec 4) (d : BitVec 7) (a : BitVec 7) : Encoding.Statement (.latomCas g d a) := by
  refine Encoding.of_core rfl rfl ?_
  rw [decodeOpcode, Encoding.fld_2_28_4]
  show decodeLX _ = _
  rw [decodeLX, Encoding.fld_2_26_2]
  show decodeLXlow _ = _
  rw [decodeLXlow, Encoding.fld_2_18_10]
  show some (Instr.latomCas (fld _ 14 4) (fld _ 7 7) (fld _ 0 7)) = _
  rw [Encoding.fld_2_14_4, Encoding.fld_2_7_7, Encoding.fld_2_0_7]

theorem Encoding.latomAdd64 (g : BitVec 4) (d : BitVec 7) (a : BitVec 7) : Encoding.Statement (.latomAdd64 g d a) := by
  refine Encoding.of_core rfl rfl ?_
  rw [decodeOpcode, Encoding.fld_2_28_4]
  show decodeLX _ = _
  rw [decodeLX, Encoding.fld_2_26_2]
  show decodeLXlow _ = _
  rw [decodeLXlow, Encoding.fld_2_18_10]
  show some (Instr.latomAdd64 (fld _ 14 4) (fld _ 7 7) (fld _ 0 7)) = _
  rw [Encoding.fld_2_14_4, Encoding.fld_2_7_7, Encoding.fld_2_0_7]

theorem Encoding.latomSwap64 (g : BitVec 4) (d : BitVec 7) (a : BitVec 7) : Encoding.Statement (.latomSwap64 g d a) := by
  refine Encoding.of_core rfl rfl ?_
  rw [decodeOpcode, Encoding.fld_2_28_4]
  show decodeLX _ = _
  rw [decodeLX, Encoding.fld_2_26_2]
  show decodeLXlow _ = _
  rw [decodeLXlow, Encoding.fld_2_18_10]
  show some (Instr.latomSwap64 (fld _ 14 4) (fld _ 7 7) (fld _ 0 7)) = _
  rw [Encoding.fld_2_14_4, Encoding.fld_2_7_7, Encoding.fld_2_0_7]

theorem Encoding.latomCas64 (g : BitVec 4) (d : BitVec 7) (a : BitVec 7) : Encoding.Statement (.latomCas64 g d a) := by
  refine Encoding.of_core rfl rfl ?_
  rw [decodeOpcode, Encoding.fld_2_28_4]
  show decodeLX _ = _
  rw [decodeLX, Encoding.fld_2_26_2]
  show decodeLXlow _ = _
  rw [decodeLXlow, Encoding.fld_2_18_10]
  show some (Instr.latomCas64 (fld _ 14 4) (fld _ 7 7) (fld _ 0 7)) = _
  rw [Encoding.fld_2_14_4, Encoding.fld_2_7_7, Encoding.fld_2_0_7]

theorem Encoding.latomFadd32 (g : BitVec 4) (d : BitVec 7) (a : BitVec 7) : Encoding.Statement (.latomFadd32 g d a) := by
  refine Encoding.of_core rfl rfl ?_
  rw [decodeOpcode, Encoding.fld_2_28_4]
  show decodeLX _ = _
  rw [decodeLX, Encoding.fld_2_26_2]
  show decodeLXlow _ = _
  rw [decodeLXlow, Encoding.fld_2_18_10]
  show some (Instr.latomFadd32 (fld _ 14 4) (fld _ 7 7) (fld _ 0 7)) = _
  rw [Encoding.fld_2_14_4, Encoding.fld_2_7_7, Encoding.fld_2_0_7]

theorem Encoding.atomAdd (s : BitVec 3) (r : BitVec 2) (g : BitVec 4) (d : BitVec 7) (a : BitVec 7) : Encoding.Statement (.atomAdd s r g d a) := by
  refine Encoding.of_core rfl rfl ?_
  rw [decodeOpcode, Encoding.fld_5_28_4]
  show decodeLX _ = _
  rw [decodeLX, Encoding.fld_5_26_2]
  show decodeAtom _ = _
  rw [decodeAtom, Encoding.fld_5_23_4]
  show some (Instr.atomAdd (fld _ 20 3) (fld _ 18 2) (fld _ 14 4) (fld _ 7 7) (fld _ 0 7)) = _
  rw [Encoding.fld_5_20_3, Encoding.fld_5_18_2, Encoding.fld_5_14_4, Encoding.fld_5_7_7, Encoding.fld_5_0_7]

theorem Encoding.atomAnd (s : BitVec 3) (r : BitVec 2) (g : BitVec 4) (d : BitVec 7) (a : BitVec 7) : Encoding.Statement (.atomAnd s r g d a) := by
  refine Encoding.of_core rfl rfl ?_
  rw [decodeOpcode, Encoding.fld_5_28_4]
  show decodeLX _ = _
  rw [decodeLX, Encoding.fld_5_26_2]
  show decodeAtom _ = _
  rw [decodeAtom, Encoding.fld_5_23_4]
  show some (Instr.atomAnd (fld _ 20 3) (fld _ 18 2) (fld _ 14 4) (fld _ 7 7) (fld _ 0 7)) = _
  rw [Encoding.fld_5_20_3, Encoding.fld_5_18_2, Encoding.fld_5_14_4, Encoding.fld_5_7_7, Encoding.fld_5_0_7]

theorem Encoding.atomOr (s : BitVec 3) (r : BitVec 2) (g : BitVec 4) (d : BitVec 7) (a : BitVec 7) : Encoding.Statement (.atomOr s r g d a) := by
  refine Encoding.of_core rfl rfl ?_
  rw [decodeOpcode, Encoding.fld_5_28_4]
  show decodeLX _ = _
  rw [decodeLX, Encoding.fld_5_26_2]
  show decodeAtom _ = _
  rw [decodeAtom, Encoding.fld_5_23_4]
  show some (Instr.atomOr (fld _ 20 3) (fld _ 18 2) (fld _ 14 4) (fld _ 7 7) (fld _ 0 7)) = _
  rw [Encoding.fld_5_20_3, Encoding.fld_5_18_2, Encoding.fld_5_14_4, Encoding.fld_5_7_7, Encoding.fld_5_0_7]

theorem Encoding.atomXor (s : BitVec 3) (r : BitVec 2) (g : BitVec 4) (d : BitVec 7) (a : BitVec 7) : Encoding.Statement (.atomXor s r g d a) := by
  refine Encoding.of_core rfl rfl ?_
  rw [decodeOpcode, Encoding.fld_5_28_4]
  show decodeLX _ = _
  rw [decodeLX, Encoding.fld_5_26_2]
  show decodeAtom _ = _
  rw [decodeAtom, Encoding.fld_5_23_4]
  show some (Instr.atomXor (fld _ 20 3) (fld _ 18 2) (fld _ 14 4) (fld _ 7 7) (fld _ 0 7)) = _
  rw [Encoding.fld_5_20_3, Encoding.fld_5_18_2, Encoding.fld_5_14_4, Encoding.fld_5_7_7, Encoding.fld_5_0_7]

theorem Encoding.atomMini (s : BitVec 3) (r : BitVec 2) (g : BitVec 4) (d : BitVec 7) (a : BitVec 7) : Encoding.Statement (.atomMini s r g d a) := by
  refine Encoding.of_core rfl rfl ?_
  rw [decodeOpcode, Encoding.fld_5_28_4]
  show decodeLX _ = _
  rw [decodeLX, Encoding.fld_5_26_2]
  show decodeAtom _ = _
  rw [decodeAtom, Encoding.fld_5_23_4]
  show some (Instr.atomMini (fld _ 20 3) (fld _ 18 2) (fld _ 14 4) (fld _ 7 7) (fld _ 0 7)) = _
  rw [Encoding.fld_5_20_3, Encoding.fld_5_18_2, Encoding.fld_5_14_4, Encoding.fld_5_7_7, Encoding.fld_5_0_7]

theorem Encoding.atomMaxi (s : BitVec 3) (r : BitVec 2) (g : BitVec 4) (d : BitVec 7) (a : BitVec 7) : Encoding.Statement (.atomMaxi s r g d a) := by
  refine Encoding.of_core rfl rfl ?_
  rw [decodeOpcode, Encoding.fld_5_28_4]
  show decodeLX _ = _
  rw [decodeLX, Encoding.fld_5_26_2]
  show decodeAtom _ = _
  rw [decodeAtom, Encoding.fld_5_23_4]
  show some (Instr.atomMaxi (fld _ 20 3) (fld _ 18 2) (fld _ 14 4) (fld _ 7 7) (fld _ 0 7)) = _
  rw [Encoding.fld_5_20_3, Encoding.fld_5_18_2, Encoding.fld_5_14_4, Encoding.fld_5_7_7, Encoding.fld_5_0_7]

theorem Encoding.atomMinn (s : BitVec 3) (r : BitVec 2) (g : BitVec 4) (d : BitVec 7) (a : BitVec 7) : Encoding.Statement (.atomMinn s r g d a) := by
  refine Encoding.of_core rfl rfl ?_
  rw [decodeOpcode, Encoding.fld_5_28_4]
  show decodeLX _ = _
  rw [decodeLX, Encoding.fld_5_26_2]
  show decodeAtom _ = _
  rw [decodeAtom, Encoding.fld_5_23_4]
  show some (Instr.atomMinn (fld _ 20 3) (fld _ 18 2) (fld _ 14 4) (fld _ 7 7) (fld _ 0 7)) = _
  rw [Encoding.fld_5_20_3, Encoding.fld_5_18_2, Encoding.fld_5_14_4, Encoding.fld_5_7_7, Encoding.fld_5_0_7]

theorem Encoding.atomMaxn (s : BitVec 3) (r : BitVec 2) (g : BitVec 4) (d : BitVec 7) (a : BitVec 7) : Encoding.Statement (.atomMaxn s r g d a) := by
  refine Encoding.of_core rfl rfl ?_
  rw [decodeOpcode, Encoding.fld_5_28_4]
  show decodeLX _ = _
  rw [decodeLX, Encoding.fld_5_26_2]
  show decodeAtom _ = _
  rw [decodeAtom, Encoding.fld_5_23_4]
  show some (Instr.atomMaxn (fld _ 20 3) (fld _ 18 2) (fld _ 14 4) (fld _ 7 7) (fld _ 0 7)) = _
  rw [Encoding.fld_5_20_3, Encoding.fld_5_18_2, Encoding.fld_5_14_4, Encoding.fld_5_7_7, Encoding.fld_5_0_7]

theorem Encoding.atomSwap (s : BitVec 3) (r : BitVec 2) (g : BitVec 4) (d : BitVec 7) (a : BitVec 7) : Encoding.Statement (.atomSwap s r g d a) := by
  refine Encoding.of_core rfl rfl ?_
  rw [decodeOpcode, Encoding.fld_5_28_4]
  show decodeLX _ = _
  rw [decodeLX, Encoding.fld_5_26_2]
  show decodeAtom _ = _
  rw [decodeAtom, Encoding.fld_5_23_4]
  show some (Instr.atomSwap (fld _ 20 3) (fld _ 18 2) (fld _ 14 4) (fld _ 7 7) (fld _ 0 7)) = _
  rw [Encoding.fld_5_20_3, Encoding.fld_5_18_2, Encoding.fld_5_14_4, Encoding.fld_5_7_7, Encoding.fld_5_0_7]

theorem Encoding.atomCas (s : BitVec 3) (r : BitVec 2) (g : BitVec 4) (d : BitVec 7) (a : BitVec 7) : Encoding.Statement (.atomCas s r g d a) := by
  refine Encoding.of_core rfl rfl ?_
  rw [decodeOpcode, Encoding.fld_5_28_4]
  show decodeLX _ = _
  rw [decodeLX, Encoding.fld_5_26_2]
  show decodeAtom _ = _
  rw [decodeAtom, Encoding.fld_5_23_4]
  show some (Instr.atomCas (fld _ 20 3) (fld _ 18 2) (fld _ 14 4) (fld _ 7 7) (fld _ 0 7)) = _
  rw [Encoding.fld_5_20_3, Encoding.fld_5_18_2, Encoding.fld_5_14_4, Encoding.fld_5_7_7, Encoding.fld_5_0_7]

theorem Encoding.atomAdd64 (s : BitVec 3) (r : BitVec 2) (g : BitVec 4) (d : BitVec 7) (a : BitVec 7) : Encoding.Statement (.atomAdd64 s r g d a) := by
  refine Encoding.of_core rfl rfl ?_
  rw [decodeOpcode, Encoding.fld_5_28_4]
  show decodeLX _ = _
  rw [decodeLX, Encoding.fld_5_26_2]
  show decodeAtom _ = _
  rw [decodeAtom, Encoding.fld_5_23_4]
  show some (Instr.atomAdd64 (fld _ 20 3) (fld _ 18 2) (fld _ 14 4) (fld _ 7 7) (fld _ 0 7)) = _
  rw [Encoding.fld_5_20_3, Encoding.fld_5_18_2, Encoding.fld_5_14_4, Encoding.fld_5_7_7, Encoding.fld_5_0_7]

theorem Encoding.atomSwap64 (s : BitVec 3) (r : BitVec 2) (g : BitVec 4) (d : BitVec 7) (a : BitVec 7) : Encoding.Statement (.atomSwap64 s r g d a) := by
  refine Encoding.of_core rfl rfl ?_
  rw [decodeOpcode, Encoding.fld_5_28_4]
  show decodeLX _ = _
  rw [decodeLX, Encoding.fld_5_26_2]
  show decodeAtom _ = _
  rw [decodeAtom, Encoding.fld_5_23_4]
  show some (Instr.atomSwap64 (fld _ 20 3) (fld _ 18 2) (fld _ 14 4) (fld _ 7 7) (fld _ 0 7)) = _
  rw [Encoding.fld_5_20_3, Encoding.fld_5_18_2, Encoding.fld_5_14_4, Encoding.fld_5_7_7, Encoding.fld_5_0_7]

theorem Encoding.atomCas64 (s : BitVec 3) (r : BitVec 2) (g : BitVec 4) (d : BitVec 7) (a : BitVec 7) : Encoding.Statement (.atomCas64 s r g d a) := by
  refine Encoding.of_core rfl rfl ?_
  rw [decodeOpcode, Encoding.fld_5_28_4]
  show decodeLX _ = _
  rw [decodeLX, Encoding.fld_5_26_2]
  show decodeAtom _ = _
  rw [decodeAtom, Encoding.fld_5_23_4]
  show some (Instr.atomCas64 (fld _ 20 3) (fld _ 18 2) (fld _ 14 4) (fld _ 7 7) (fld _ 0 7)) = _
  rw [Encoding.fld_5_20_3, Encoding.fld_5_18_2, Encoding.fld_5_14_4, Encoding.fld_5_7_7, Encoding.fld_5_0_7]

theorem Encoding.atomFadd32 (s : BitVec 3) (r : BitVec 2) (g : BitVec 4) (d : BitVec 7) (a : BitVec 7) : Encoding.Statement (.atomFadd32 s r g d a) := by
  refine Encoding.of_core rfl rfl ?_
  rw [decodeOpcode, Encoding.fld_5_28_4]
  show decodeLX _ = _
  rw [decodeLX, Encoding.fld_5_26_2]
  show decodeAtom _ = _
  rw [decodeAtom, Encoding.fld_5_23_4]
  show some (Instr.atomFadd32 (fld _ 20 3) (fld _ 18 2) (fld _ 14 4) (fld _ 7 7) (fld _ 0 7)) = _
  rw [Encoding.fld_5_20_3, Encoding.fld_5_18_2, Encoding.fld_5_14_4, Encoding.fld_5_7_7, Encoding.fld_5_0_7]

theorem Encoding.cmpI32 (c : BitVec 2) (t : BitVec 3) (x : BitVec 3) (y : BitVec 3) (a : BitVec 7) (b : BitVec 7) : Encoding.Statement (.cmpI32 c t x y a b) := by
  refine Encoding.of_core rfl rfl ?_
  rw [decodeOpcode, Encoding.fld_6_28_4]
  show decodeLC _ = _
  rw [decodeLC, Encoding.fld_6_25_3]
  show some (Instr.cmpI32 (fld _ 23 2) (fld _ 20 3) (fld _ 17 3) (fld _ 14 3) (fld _ 7 7) (fld _ 0 7)) = _
  rw [Encoding.fld_6_23_2, Encoding.fld_6_20_3, Encoding.fld_6_17_3, Encoding.fld_6_14_3, Encoding.fld_6_7_7, Encoding.fld_6_0_7]

theorem Encoding.cmpN32 (c : BitVec 2) (t : BitVec 3) (x : BitVec 3) (y : BitVec 3) (a : BitVec 7) (b : BitVec 7) : Encoding.Statement (.cmpN32 c t x y a b) := by
  refine Encoding.of_core rfl rfl ?_
  rw [decodeOpcode, Encoding.fld_6_28_4]
  show decodeLC _ = _
  rw [decodeLC, Encoding.fld_6_25_3]
  show some (Instr.cmpN32 (fld _ 23 2) (fld _ 20 3) (fld _ 17 3) (fld _ 14 3) (fld _ 7 7) (fld _ 0 7)) = _
  rw [Encoding.fld_6_23_2, Encoding.fld_6_20_3, Encoding.fld_6_17_3, Encoding.fld_6_14_3, Encoding.fld_6_7_7, Encoding.fld_6_0_7]

theorem Encoding.cmpI64 (c : BitVec 2) (t : BitVec 3) (x : BitVec 3) (y : BitVec 3) (a : BitVec 7) (b : BitVec 7) : Encoding.Statement (.cmpI64 c t x y a b) := by
  refine Encoding.of_core rfl rfl ?_
  rw [decodeOpcode, Encoding.fld_6_28_4]
  show decodeLC _ = _
  rw [decodeLC, Encoding.fld_6_25_3]
  show some (Instr.cmpI64 (fld _ 23 2) (fld _ 20 3) (fld _ 17 3) (fld _ 14 3) (fld _ 7 7) (fld _ 0 7)) = _
  rw [Encoding.fld_6_23_2, Encoding.fld_6_20_3, Encoding.fld_6_17_3, Encoding.fld_6_14_3, Encoding.fld_6_7_7, Encoding.fld_6_0_7]

theorem Encoding.fcmpF32 (c : BitVec 2) (t : BitVec 3) (x : BitVec 3) (y : BitVec 3) (a : BitVec 7) (b : BitVec 7) : Encoding.Statement (.fcmpF32 c t x y a b) := by
  refine Encoding.of_core rfl rfl ?_
  rw [decodeOpcode, Encoding.fld_6_28_4]
  show decodeLC _ = _
  rw [decodeLC, Encoding.fld_6_25_3]
  show some (Instr.fcmpF32 (fld _ 23 2) (fld _ 20 3) (fld _ 17 3) (fld _ 14 3) (fld _ 7 7) (fld _ 0 7)) = _
  rw [Encoding.fld_6_23_2, Encoding.fld_6_20_3, Encoding.fld_6_17_3, Encoding.fld_6_14_3, Encoding.fld_6_7_7, Encoding.fld_6_0_7]

theorem Encoding.fcmpF64 (c : BitVec 2) (t : BitVec 3) (x : BitVec 3) (y : BitVec 3) (a : BitVec 7) (b : BitVec 7) : Encoding.Statement (.fcmpF64 c t x y a b) := by
  refine Encoding.of_core rfl rfl ?_
  rw [decodeOpcode, Encoding.fld_6_28_4]
  show decodeLC _ = _
  rw [decodeLC, Encoding.fld_6_25_3]
  show some (Instr.fcmpF64 (fld _ 23 2) (fld _ 20 3) (fld _ 17 3) (fld _ 14 3) (fld _ 7 7) (fld _ 0 7)) = _
  rw [Encoding.fld_6_23_2, Encoding.fld_6_20_3, Encoding.fld_6_17_3, Encoding.fld_6_14_3, Encoding.fld_6_7_7, Encoding.fld_6_0_7]

theorem Encoding.cmpiI32 (c : BitVec 2) (t : BitVec 3) (x : BitVec 3) (y : BitVec 3) (a : BitVec 7) (i : BitVec 7) : Encoding.Statement (.cmpiI32 c t x y a i) := by
  refine Encoding.of_core rfl rfl ?_
  rw [decodeOpcode, Encoding.fld_6_28_4]
  show decodeLC _ = _
  rw [decodeLC, Encoding.fld_6_25_3]
  show some (Instr.cmpiI32 (fld _ 23 2) (fld _ 20 3) (fld _ 17 3) (fld _ 14 3) (fld _ 7 7) (fld _ 0 7)) = _
  rw [Encoding.fld_6_23_2, Encoding.fld_6_20_3, Encoding.fld_6_17_3, Encoding.fld_6_14_3, Encoding.fld_6_7_7, Encoding.fld_6_0_7]

theorem Encoding.fcmpF16 (c : BitVec 2) (t : BitVec 3) (x : BitVec 3) (y : BitVec 3) (a : BitVec 7) (b : BitVec 7) : Encoding.Statement (.fcmpF16 c t x y a b) := by
  refine Encoding.of_core rfl rfl ?_
  rw [decodeOpcode, Encoding.fld_6_28_4]
  show decodeLC _ = _
  rw [decodeLC, Encoding.fld_6_25_3]
  show some (Instr.fcmpF16 (fld _ 23 2) (fld _ 20 3) (fld _ 17 3) (fld _ 14 3) (fld _ 7 7) (fld _ 0 7)) = _
  rw [Encoding.fld_6_23_2, Encoding.fld_6_20_3, Encoding.fld_6_17_3, Encoding.fld_6_14_3, Encoding.fld_6_7_7, Encoding.fld_6_0_7]

theorem Encoding.testb (c : BitVec 2) (t : BitVec 3) (x : BitVec 3) (y : BitVec 3) (a : BitVec 7) (b : BitVec 7) : Encoding.Statement (.testb c t x y a b) := by
  refine Encoding.of_core rfl rfl ?_
  rw [decodeOpcode, Encoding.fld_6_28_4]
  show decodeLC _ = _
  rw [decodeLC, Encoding.fld_6_25_3]
  show some (Instr.testb (fld _ 23 2) (fld _ 20 3) (fld _ 17 3) (fld _ 14 3) (fld _ 7 7) (fld _ 0 7)) = _
  rw [Encoding.fld_6_23_2, Encoding.fld_6_20_3, Encoding.fld_6_17_3, Encoding.fld_6_14_3, Encoding.fld_6_7_7, Encoding.fld_6_0_7]

theorem Encoding.movi (g : BitVec 4) (d : BitVec 7) (i : BitVec 14) : Encoding.Statement (.movi g d i) := by
  refine Encoding.of_core rfl rfl ?_
  rw [decodeOpcode, Encoding.fld_7_28_4]
  show decodeLI _ = _
  rw [decodeLI, Encoding.fld_7_25_3]
  show some (Instr.movi (fld _ 21 4) (fld _ 14 7) (fld _ 0 14)) = _
  rw [Encoding.fld_7_21_4, Encoding.fld_7_14_7, Encoding.fld_7_0_14]

theorem Encoding.addi (g : BitVec 4) (d : BitVec 7) (i : BitVec 14) : Encoding.Statement (.addi g d i) := by
  refine Encoding.of_core rfl rfl ?_
  rw [decodeOpcode, Encoding.fld_7_28_4]
  show decodeLI _ = _
  rw [decodeLI, Encoding.fld_7_25_3]
  show some (Instr.addi (fld _ 21 4) (fld _ 14 7) (fld _ 0 14)) = _
  rw [Encoding.fld_7_21_4, Encoding.fld_7_14_7, Encoding.fld_7_0_14]

theorem Encoding.andi (g : BitVec 4) (d : BitVec 7) (i : BitVec 14) : Encoding.Statement (.andi g d i) := by
  refine Encoding.of_core rfl rfl ?_
  rw [decodeOpcode, Encoding.fld_7_28_4]
  show decodeLI _ = _
  rw [decodeLI, Encoding.fld_7_25_3]
  show some (Instr.andi (fld _ 21 4) (fld _ 14 7) (fld _ 0 14)) = _
  rw [Encoding.fld_7_21_4, Encoding.fld_7_14_7, Encoding.fld_7_0_14]

theorem Encoding.ori (g : BitVec 4) (d : BitVec 7) (i : BitVec 14) : Encoding.Statement (.ori g d i) := by
  refine Encoding.of_core rfl rfl ?_
  rw [decodeOpcode, Encoding.fld_7_28_4]
  show decodeLI _ = _
  rw [decodeLI, Encoding.fld_7_25_3]
  show some (Instr.ori (fld _ 21 4) (fld _ 14 7) (fld _ 0 14)) = _
  rw [Encoding.fld_7_21_4, Encoding.fld_7_14_7, Encoding.fld_7_0_14]

theorem Encoding.xori (g : BitVec 4) (d : BitVec 7) (i : BitVec 14) : Encoding.Statement (.xori g d i) := by
  refine Encoding.of_core rfl rfl ?_
  rw [decodeOpcode, Encoding.fld_7_28_4]
  show decodeLI _ = _
  rw [decodeLI, Encoding.fld_7_25_3]
  show some (Instr.xori (fld _ 21 4) (fld _ 14 7) (fld _ 0 14)) = _
  rw [Encoding.fld_7_21_4, Encoding.fld_7_14_7, Encoding.fld_7_0_14]

theorem Encoding.brl (g : BitVec 4) (i : BitVec 14) : Encoding.Statement (.brl g i) := by
  refine Encoding.of_core rfl rfl ?_
  rw [decodeOpcode, Encoding.fld_7_28_4]
  show decodeLI _ = _
  rw [decodeLI, Encoding.fld_7_25_3]
  show some (Instr.brl (fld _ 21 4) (fld _ 0 14)) = _
  rw [Encoding.fld_7_21_4, Encoding.fld_7_0_14]

theorem Encoding.meet (g : BitVec 4) (d : BitVec 7) (i : BitVec 14) : Encoding.Statement (.meet g d i) := by
  refine Encoding.of_core rfl rfl ?_
  rw [decodeOpcode, Encoding.fld_7_28_4]
  show decodeLI _ = _
  rw [decodeLI, Encoding.fld_7_25_3]
  show some (Instr.meet (fld _ 21 4) (fld _ 14 7) (fld _ 0 14)) = _
  rw [Encoding.fld_7_21_4, Encoding.fld_7_14_7, Encoding.fld_7_0_14]

theorem Encoding.calll (g : BitVec 4) (d : BitVec 7) (i : BitVec 14) : Encoding.Statement (.calll g d i) := by
  refine Encoding.of_core rfl rfl ?_
  rw [decodeOpcode, Encoding.fld_7_28_4]
  show decodeLI _ = _
  rw [decodeLI, Encoding.fld_7_25_3]
  show some (Instr.calll (fld _ 21 4) (fld _ 14 7) (fld _ 0 14)) = _
  rw [Encoding.fld_7_21_4, Encoding.fld_7_14_7, Encoding.fld_7_0_14]

theorem Encoding.ballot (p : BitVec 3) (m : BitVec 6) (d : BitVec 7) : Encoding.Statement (.ballot p m d) := by
  refine Encoding.of_core rfl rfl ?_
  rw [decodeOpcode, Encoding.fld_8_28_4]
  show decodeLW _ = _
  rw [decodeLW, Encoding.fld_8_24_4]
  show (if fld _ 0 1 = 0 then some (Instr.ballot (fld _ 21 3) (fld _ 15 6) (fld _ 8 7)) else none) = _
  rw [if_pos (by rw [Encoding.fld_8_0_1]; rfl), Encoding.fld_8_21_3, Encoding.fld_8_15_6, Encoding.fld_8_8_7]

theorem Encoding.vote (p : BitVec 3) (m : BitVec 6) (d : BitVec 7) (w : BitVec 1) : Encoding.Statement (.vote p m d w) := by
  refine Encoding.of_core rfl rfl ?_
  rw [decodeOpcode, Encoding.fld_9_28_4]
  show decodeLW _ = _
  rw [decodeLW, Encoding.fld_9_24_4]
  show some (Instr.vote (fld _ 21 3) (fld _ 15 6) (fld _ 8 7) (fld _ 0 1)) = _
  rw [Encoding.fld_9_21_3, Encoding.fld_9_15_6, Encoding.fld_9_8_7, Encoding.fld_9_0_1]

theorem Encoding.matchMembers (m : BitVec 6) (d : BitVec 7) (a : BitVec 7) (w : BitVec 1) : Encoding.Statement (.matchMembers m d a w) := by
  refine Encoding.of_core rfl rfl ?_
  rw [decodeOpcode, Encoding.fld_10_28_4]
  show decodeLW _ = _
  rw [decodeLW, Encoding.fld_10_24_4]
  show some (Instr.matchMembers (fld _ 15 6) (fld _ 8 7) (fld _ 1 7) (fld _ 0 1)) = _
  rw [Encoding.fld_10_15_6, Encoding.fld_10_8_7, Encoding.fld_10_1_7, Encoding.fld_10_0_1]

theorem Encoding.shflIdx (m : BitVec 6) (d : BitVec 7) (a : BitVec 7) (w : BitVec 1) : Encoding.Statement (.shflIdx m d a w) := by
  refine Encoding.of_core rfl rfl ?_
  rw [decodeOpcode, Encoding.fld_10_28_4]
  show decodeLW _ = _
  rw [decodeLW, Encoding.fld_10_24_4]
  show some (Instr.shflIdx (fld _ 15 6) (fld _ 8 7) (fld _ 1 7) (fld _ 0 1)) = _
  rw [Encoding.fld_10_15_6, Encoding.fld_10_8_7, Encoding.fld_10_1_7, Encoding.fld_10_0_1]

theorem Encoding.shflUp (m : BitVec 6) (d : BitVec 7) (a : BitVec 7) (w : BitVec 1) : Encoding.Statement (.shflUp m d a w) := by
  refine Encoding.of_core rfl rfl ?_
  rw [decodeOpcode, Encoding.fld_10_28_4]
  show decodeLW _ = _
  rw [decodeLW, Encoding.fld_10_24_4]
  show some (Instr.shflUp (fld _ 15 6) (fld _ 8 7) (fld _ 1 7) (fld _ 0 1)) = _
  rw [Encoding.fld_10_15_6, Encoding.fld_10_8_7, Encoding.fld_10_1_7, Encoding.fld_10_0_1]

theorem Encoding.shflDown (m : BitVec 6) (d : BitVec 7) (a : BitVec 7) (w : BitVec 1) : Encoding.Statement (.shflDown m d a w) := by
  refine Encoding.of_core rfl rfl ?_
  rw [decodeOpcode, Encoding.fld_10_28_4]
  show decodeLW _ = _
  rw [decodeLW, Encoding.fld_10_24_4]
  show some (Instr.shflDown (fld _ 15 6) (fld _ 8 7) (fld _ 1 7) (fld _ 0 1)) = _
  rw [Encoding.fld_10_15_6, Encoding.fld_10_8_7, Encoding.fld_10_1_7, Encoding.fld_10_0_1]

theorem Encoding.shflXor (m : BitVec 6) (d : BitVec 7) (a : BitVec 7) (w : BitVec 1) : Encoding.Statement (.shflXor m d a w) := by
  refine Encoding.of_core rfl rfl ?_
  rw [decodeOpcode, Encoding.fld_10_28_4]
  show decodeLW _ = _
  rw [decodeLW, Encoding.fld_10_24_4]
  show some (Instr.shflXor (fld _ 15 6) (fld _ 8 7) (fld _ 1 7) (fld _ 0 1)) = _
  rw [Encoding.fld_10_15_6, Encoding.fld_10_8_7, Encoding.fld_10_1_7, Encoding.fld_10_0_1]

theorem Encoding.reduceAdd (m : BitVec 6) (d : BitVec 7) (a : BitVec 7) (w : BitVec 1) : Encoding.Statement (.reduceAdd m d a w) := by
  refine Encoding.of_core rfl rfl ?_
  rw [decodeOpcode, Encoding.fld_10_28_4]
  show decodeLW _ = _
  rw [decodeLW, Encoding.fld_10_24_4]
  show some (Instr.reduceAdd (fld _ 15 6) (fld _ 8 7) (fld _ 1 7) (fld _ 0 1)) = _
  rw [Encoding.fld_10_15_6, Encoding.fld_10_8_7, Encoding.fld_10_1_7, Encoding.fld_10_0_1]

theorem Encoding.reduceMin (m : BitVec 6) (d : BitVec 7) (a : BitVec 7) (w : BitVec 1) : Encoding.Statement (.reduceMin m d a w) := by
  refine Encoding.of_core rfl rfl ?_
  rw [decodeOpcode, Encoding.fld_10_28_4]
  show decodeLW _ = _
  rw [decodeLW, Encoding.fld_10_24_4]
  show some (Instr.reduceMin (fld _ 15 6) (fld _ 8 7) (fld _ 1 7) (fld _ 0 1)) = _
  rw [Encoding.fld_10_15_6, Encoding.fld_10_8_7, Encoding.fld_10_1_7, Encoding.fld_10_0_1]

theorem Encoding.reduceMax (m : BitVec 6) (d : BitVec 7) (a : BitVec 7) (w : BitVec 1) : Encoding.Statement (.reduceMax m d a w) := by
  refine Encoding.of_core rfl rfl ?_
  rw [decodeOpcode, Encoding.fld_10_28_4]
  show decodeLW _ = _
  rw [decodeLW, Encoding.fld_10_24_4]
  show some (Instr.reduceMax (fld _ 15 6) (fld _ 8 7) (fld _ 1 7) (fld _ 0 1)) = _
  rw [Encoding.fld_10_15_6, Encoding.fld_10_8_7, Encoding.fld_10_1_7, Encoding.fld_10_0_1]

theorem Encoding.reduceAnd (m : BitVec 6) (d : BitVec 7) (a : BitVec 7) (w : BitVec 1) : Encoding.Statement (.reduceAnd m d a w) := by
  refine Encoding.of_core rfl rfl ?_
  rw [decodeOpcode, Encoding.fld_10_28_4]
  show decodeLW _ = _
  rw [decodeLW, Encoding.fld_10_24_4]
  show some (Instr.reduceAnd (fld _ 15 6) (fld _ 8 7) (fld _ 1 7) (fld _ 0 1)) = _
  rw [Encoding.fld_10_15_6, Encoding.fld_10_8_7, Encoding.fld_10_1_7, Encoding.fld_10_0_1]

theorem Encoding.reduceOr (m : BitVec 6) (d : BitVec 7) (a : BitVec 7) (w : BitVec 1) : Encoding.Statement (.reduceOr m d a w) := by
  refine Encoding.of_core rfl rfl ?_
  rw [decodeOpcode, Encoding.fld_10_28_4]
  show decodeLW _ = _
  rw [decodeLW, Encoding.fld_10_24_4]
  show some (Instr.reduceOr (fld _ 15 6) (fld _ 8 7) (fld _ 1 7) (fld _ 0 1)) = _
  rw [Encoding.fld_10_15_6, Encoding.fld_10_8_7, Encoding.fld_10_1_7, Encoding.fld_10_0_1]

theorem Encoding.reduceXor (m : BitVec 6) (d : BitVec 7) (a : BitVec 7) (w : BitVec 1) : Encoding.Statement (.reduceXor m d a w) := by
  refine Encoding.of_core rfl rfl ?_
  rw [decodeOpcode, Encoding.fld_10_28_4]
  show decodeLW _ = _
  rw [decodeLW, Encoding.fld_10_24_4]
  show some (Instr.reduceXor (fld _ 15 6) (fld _ 8 7) (fld _ 1 7) (fld _ 0 1)) = _
  rw [Encoding.fld_10_15_6, Encoding.fld_10_8_7, Encoding.fld_10_1_7, Encoding.fld_10_0_1]

theorem Encoding.scanAdd (m : BitVec 6) (d : BitVec 7) (a : BitVec 7) (w : BitVec 1) : Encoding.Statement (.scanAdd m d a w) := by
  refine Encoding.of_core rfl rfl ?_
  rw [decodeOpcode, Encoding.fld_10_28_4]
  show decodeLW _ = _
  rw [decodeLW, Encoding.fld_10_24_4]
  show some (Instr.scanAdd (fld _ 15 6) (fld _ 8 7) (fld _ 1 7) (fld _ 0 1)) = _
  rw [Encoding.fld_10_15_6, Encoding.fld_10_8_7, Encoding.fld_10_1_7, Encoding.fld_10_0_1]

theorem Encoding.scanMin (m : BitVec 6) (d : BitVec 7) (a : BitVec 7) (w : BitVec 1) : Encoding.Statement (.scanMin m d a w) := by
  refine Encoding.of_core rfl rfl ?_
  rw [decodeOpcode, Encoding.fld_10_28_4]
  show decodeLW _ = _
  rw [decodeLW, Encoding.fld_10_24_4]
  show some (Instr.scanMin (fld _ 15 6) (fld _ 8 7) (fld _ 1 7) (fld _ 0 1)) = _
  rw [Encoding.fld_10_15_6, Encoding.fld_10_8_7, Encoding.fld_10_1_7, Encoding.fld_10_0_1]

theorem Encoding.scanMax (m : BitVec 6) (d : BitVec 7) (a : BitVec 7) (w : BitVec 1) : Encoding.Statement (.scanMax m d a w) := by
  refine Encoding.of_core rfl rfl ?_
  rw [decodeOpcode, Encoding.fld_10_28_4]
  show decodeLW _ = _
  rw [decodeLW, Encoding.fld_10_24_4]
  show some (Instr.scanMax (fld _ 15 6) (fld _ 8 7) (fld _ 1 7) (fld _ 0 1)) = _
  rw [Encoding.fld_10_15_6, Encoding.fld_10_8_7, Encoding.fld_10_1_7, Encoding.fld_10_0_1]

theorem Encoding.uadd (k : BitVec 3) (d : BitVec 5) (a : BitVec 5) (b : BitVec 5) : Encoding.Statement (.uadd k d a b) := by
  refine Encoding.of_core rfl rfl ?_
  rw [decodeOpcode, Encoding.fld_11_28_4]
  show decodeUR _ = _
  rw [decodeUR, Encoding.fld_11_23_6]
  show some (Instr.uadd (fld _ 20 3) (fld _ 15 5) (fld _ 10 5) (fld _ 5 5)) = _
  rw [Encoding.fld_11_20_3, Encoding.fld_11_15_5, Encoding.fld_11_10_5, Encoding.fld_11_5_5]

theorem Encoding.usub (k : BitVec 3) (d : BitVec 5) (a : BitVec 5) (b : BitVec 5) : Encoding.Statement (.usub k d a b) := by
  refine Encoding.of_core rfl rfl ?_
  rw [decodeOpcode, Encoding.fld_11_28_4]
  show decodeUR _ = _
  rw [decodeUR, Encoding.fld_11_23_6]
  show some (Instr.usub (fld _ 20 3) (fld _ 15 5) (fld _ 10 5) (fld _ 5 5)) = _
  rw [Encoding.fld_11_20_3, Encoding.fld_11_15_5, Encoding.fld_11_10_5, Encoding.fld_11_5_5]

theorem Encoding.umul (k : BitVec 3) (d : BitVec 5) (a : BitVec 5) (b : BitVec 5) : Encoding.Statement (.umul k d a b) := by
  refine Encoding.of_core rfl rfl ?_
  rw [decodeOpcode, Encoding.fld_11_28_4]
  show decodeUR _ = _
  rw [decodeUR, Encoding.fld_11_23_6]
  show some (Instr.umul (fld _ 20 3) (fld _ 15 5) (fld _ 10 5) (fld _ 5 5)) = _
  rw [Encoding.fld_11_20_3, Encoding.fld_11_15_5, Encoding.fld_11_10_5, Encoding.fld_11_5_5]

theorem Encoding.umulhi (k : BitVec 3) (d : BitVec 5) (a : BitVec 5) (b : BitVec 5) : Encoding.Statement (.umulhi k d a b) := by
  refine Encoding.of_core rfl rfl ?_
  rw [decodeOpcode, Encoding.fld_11_28_4]
  show decodeUR _ = _
  rw [decodeUR, Encoding.fld_11_23_6]
  show some (Instr.umulhi (fld _ 20 3) (fld _ 15 5) (fld _ 10 5) (fld _ 5 5)) = _
  rw [Encoding.fld_11_20_3, Encoding.fld_11_15_5, Encoding.fld_11_10_5, Encoding.fld_11_5_5]

theorem Encoding.uand (k : BitVec 3) (d : BitVec 5) (a : BitVec 5) (b : BitVec 5) : Encoding.Statement (.uand k d a b) := by
  refine Encoding.of_core rfl rfl ?_
  rw [decodeOpcode, Encoding.fld_11_28_4]
  show decodeUR _ = _
  rw [decodeUR, Encoding.fld_11_23_6]
  show some (Instr.uand (fld _ 20 3) (fld _ 15 5) (fld _ 10 5) (fld _ 5 5)) = _
  rw [Encoding.fld_11_20_3, Encoding.fld_11_15_5, Encoding.fld_11_10_5, Encoding.fld_11_5_5]

theorem Encoding.uor (k : BitVec 3) (d : BitVec 5) (a : BitVec 5) (b : BitVec 5) : Encoding.Statement (.uor k d a b) := by
  refine Encoding.of_core rfl rfl ?_
  rw [decodeOpcode, Encoding.fld_11_28_4]
  show decodeUR _ = _
  rw [decodeUR, Encoding.fld_11_23_6]
  show some (Instr.uor (fld _ 20 3) (fld _ 15 5) (fld _ 10 5) (fld _ 5 5)) = _
  rw [Encoding.fld_11_20_3, Encoding.fld_11_15_5, Encoding.fld_11_10_5, Encoding.fld_11_5_5]

theorem Encoding.uxor (k : BitVec 3) (d : BitVec 5) (a : BitVec 5) (b : BitVec 5) : Encoding.Statement (.uxor k d a b) := by
  refine Encoding.of_core rfl rfl ?_
  rw [decodeOpcode, Encoding.fld_11_28_4]
  show decodeUR _ = _
  rw [decodeUR, Encoding.fld_11_23_6]
  show some (Instr.uxor (fld _ 20 3) (fld _ 15 5) (fld _ 10 5) (fld _ 5 5)) = _
  rw [Encoding.fld_11_20_3, Encoding.fld_11_15_5, Encoding.fld_11_10_5, Encoding.fld_11_5_5]

theorem Encoding.ushl (k : BitVec 3) (d : BitVec 5) (a : BitVec 5) (b : BitVec 5) : Encoding.Statement (.ushl k d a b) := by
  refine Encoding.of_core rfl rfl ?_
  rw [decodeOpcode, Encoding.fld_11_28_4]
  show decodeUR _ = _
  rw [decodeUR, Encoding.fld_11_23_6]
  show some (Instr.ushl (fld _ 20 3) (fld _ 15 5) (fld _ 10 5) (fld _ 5 5)) = _
  rw [Encoding.fld_11_20_3, Encoding.fld_11_15_5, Encoding.fld_11_10_5, Encoding.fld_11_5_5]

theorem Encoding.ushrn (k : BitVec 3) (d : BitVec 5) (a : BitVec 5) (b : BitVec 5) : Encoding.Statement (.ushrn k d a b) := by
  refine Encoding.of_core rfl rfl ?_
  rw [decodeOpcode, Encoding.fld_11_28_4]
  show decodeUR _ = _
  rw [decodeUR, Encoding.fld_11_23_6]
  show some (Instr.ushrn (fld _ 20 3) (fld _ 15 5) (fld _ 10 5) (fld _ 5 5)) = _
  rw [Encoding.fld_11_20_3, Encoding.fld_11_15_5, Encoding.fld_11_10_5, Encoding.fld_11_5_5]

theorem Encoding.ushri (k : BitVec 3) (d : BitVec 5) (a : BitVec 5) (b : BitVec 5) : Encoding.Statement (.ushri k d a b) := by
  refine Encoding.of_core rfl rfl ?_
  rw [decodeOpcode, Encoding.fld_11_28_4]
  show decodeUR _ = _
  rw [decodeUR, Encoding.fld_11_23_6]
  show some (Instr.ushri (fld _ 20 3) (fld _ 15 5) (fld _ 10 5) (fld _ 5 5)) = _
  rw [Encoding.fld_11_20_3, Encoding.fld_11_15_5, Encoding.fld_11_10_5, Encoding.fld_11_5_5]

theorem Encoding.umini (k : BitVec 3) (d : BitVec 5) (a : BitVec 5) (b : BitVec 5) : Encoding.Statement (.umini k d a b) := by
  refine Encoding.of_core rfl rfl ?_
  rw [decodeOpcode, Encoding.fld_11_28_4]
  show decodeUR _ = _
  rw [decodeUR, Encoding.fld_11_23_6]
  show some (Instr.umini (fld _ 20 3) (fld _ 15 5) (fld _ 10 5) (fld _ 5 5)) = _
  rw [Encoding.fld_11_20_3, Encoding.fld_11_15_5, Encoding.fld_11_10_5, Encoding.fld_11_5_5]

theorem Encoding.umaxi (k : BitVec 3) (d : BitVec 5) (a : BitVec 5) (b : BitVec 5) : Encoding.Statement (.umaxi k d a b) := by
  refine Encoding.of_core rfl rfl ?_
  rw [decodeOpcode, Encoding.fld_11_28_4]
  show decodeUR _ = _
  rw [decodeUR, Encoding.fld_11_23_6]
  show some (Instr.umaxi (fld _ 20 3) (fld _ 15 5) (fld _ 10 5) (fld _ 5 5)) = _
  rw [Encoding.fld_11_20_3, Encoding.fld_11_15_5, Encoding.fld_11_10_5, Encoding.fld_11_5_5]

theorem Encoding.usel (k : BitVec 3) (d : BitVec 5) (a : BitVec 5) (b : BitVec 5) (p : BitVec 2) (n : BitVec 1) : Encoding.Statement (.usel k d a b p n) := by
  refine Encoding.of_core rfl rfl ?_
  rw [decodeOpcode, Encoding.fld_12_28_4]
  show decodeUR _ = _
  rw [decodeUR, Encoding.fld_12_23_6]
  show some (Instr.usel (fld _ 20 3) (fld _ 15 5) (fld _ 10 5) (fld _ 5 5) (fld _ 1 2) (fld _ 0 1)) = _
  rw [Encoding.fld_12_20_3, Encoding.fld_12_15_5, Encoding.fld_12_10_5, Encoding.fld_12_5_5, Encoding.fld_12_1_2, Encoding.fld_12_0_1]

theorem Encoding.uadd64 (k : BitVec 3) (d : BitVec 5) (a : BitVec 5) (b : BitVec 5) : Encoding.Statement (.uadd64 k d a b) := by
  refine Encoding.of_core rfl rfl ?_
  rw [decodeOpcode, Encoding.fld_11_28_4]
  show decodeUR _ = _
  rw [decodeUR, Encoding.fld_11_23_6]
  show some (Instr.uadd64 (fld _ 20 3) (fld _ 15 5) (fld _ 10 5) (fld _ 5 5)) = _
  rw [Encoding.fld_11_20_3, Encoding.fld_11_15_5, Encoding.fld_11_10_5, Encoding.fld_11_5_5]

theorem Encoding.usub64 (k : BitVec 3) (d : BitVec 5) (a : BitVec 5) (b : BitVec 5) : Encoding.Statement (.usub64 k d a b) := by
  refine Encoding.of_core rfl rfl ?_
  rw [decodeOpcode, Encoding.fld_11_28_4]
  show decodeUR _ = _
  rw [decodeUR, Encoding.fld_11_23_6]
  show some (Instr.usub64 (fld _ 20 3) (fld _ 15 5) (fld _ 10 5) (fld _ 5 5)) = _
  rw [Encoding.fld_11_20_3, Encoding.fld_11_15_5, Encoding.fld_11_10_5, Encoding.fld_11_5_5]

theorem Encoding.ucmpI32 (k : BitVec 3) (x : BitVec 2) (y : BitVec 2) (a : BitVec 5) (b : BitVec 5) (c : BitVec 2) : Encoding.Statement (.ucmpI32 k x y a b c) := by
  refine Encoding.of_core rfl rfl ?_
  rw [decodeOpcode, Encoding.fld_13_28_4]
  show decodeUR _ = _
  rw [decodeUR, Encoding.fld_13_23_6]
  show some (Instr.ucmpI32 (fld _ 20 3) (fld _ 17 2) (fld _ 15 2) (fld _ 10 5) (fld _ 5 5) (fld _ 0 2)) = _
  rw [Encoding.fld_13_20_3, Encoding.fld_13_17_2, Encoding.fld_13_15_2, Encoding.fld_13_10_5, Encoding.fld_13_5_5, Encoding.fld_13_0_2]

theorem Encoding.ucmpN32 (k : BitVec 3) (x : BitVec 2) (y : BitVec 2) (a : BitVec 5) (b : BitVec 5) (c : BitVec 2) : Encoding.Statement (.ucmpN32 k x y a b c) := by
  refine Encoding.of_core rfl rfl ?_
  rw [decodeOpcode, Encoding.fld_13_28_4]
  show decodeUR _ = _
  rw [decodeUR, Encoding.fld_13_23_6]
  show some (Instr.ucmpN32 (fld _ 20 3) (fld _ 17 2) (fld _ 15 2) (fld _ 10 5) (fld _ 5 5) (fld _ 0 2)) = _
  rw [Encoding.fld_13_20_3, Encoding.fld_13_17_2, Encoding.fld_13_15_2, Encoding.fld_13_10_5, Encoding.fld_13_5_5, Encoding.fld_13_0_2]

theorem Encoding.ucmpI64 (k : BitVec 3) (x : BitVec 2) (y : BitVec 2) (a : BitVec 5) (b : BitVec 5) (c : BitVec 2) : Encoding.Statement (.ucmpI64 k x y a b c) := by
  refine Encoding.of_core rfl rfl ?_
  rw [decodeOpcode, Encoding.fld_13_28_4]
  show decodeUR _ = _
  rw [decodeUR, Encoding.fld_13_23_6]
  show some (Instr.ucmpI64 (fld _ 20 3) (fld _ 17 2) (fld _ 15 2) (fld _ 10 5) (fld _ 5 5) (fld _ 0 2)) = _
  rw [Encoding.fld_13_20_3, Encoding.fld_13_17_2, Encoding.fld_13_15_2, Encoding.fld_13_10_5, Encoding.fld_13_5_5, Encoding.fld_13_0_2]

theorem Encoding.uld32 (k : BitVec 3) (d : BitVec 5) (a : BitVec 5) (o : BitVec 5) : Encoding.Statement (.uld32 k d a o) := by
  refine Encoding.of_core rfl rfl ?_
  rw [decodeOpcode, Encoding.fld_11_28_4]
  show decodeUR _ = _
  rw [decodeUR, Encoding.fld_11_23_6]
  show some (Instr.uld32 (fld _ 20 3) (fld _ 15 5) (fld _ 10 5) (fld _ 0 5)) = _
  rw [Encoding.fld_11_20_3, Encoding.fld_11_15_5, Encoding.fld_11_10_5, Encoding.fld_11_0_5]

theorem Encoding.uld64 (k : BitVec 3) (d : BitVec 5) (a : BitVec 5) (o : BitVec 5) : Encoding.Statement (.uld64 k d a o) := by
  refine Encoding.of_core rfl rfl ?_
  rw [decodeOpcode, Encoding.fld_11_28_4]
  show decodeUR _ = _
  rw [decodeUR, Encoding.fld_11_23_6]
  show some (Instr.uld64 (fld _ 20 3) (fld _ 15 5) (fld _ 10 5) (fld _ 0 5)) = _
  rw [Encoding.fld_11_20_3, Encoding.fld_11_15_5, Encoding.fld_11_10_5, Encoding.fld_11_0_5]

theorem Encoding.ust32 (k : BitVec 3) (d : BitVec 5) (a : BitVec 5) (o : BitVec 5) : Encoding.Statement (.ust32 k d a o) := by
  refine Encoding.of_core rfl rfl ?_
  rw [decodeOpcode, Encoding.fld_11_28_4]
  show decodeUR _ = _
  rw [decodeUR, Encoding.fld_11_23_6]
  show some (Instr.ust32 (fld _ 20 3) (fld _ 15 5) (fld _ 10 5) (fld _ 0 5)) = _
  rw [Encoding.fld_11_20_3, Encoding.fld_11_15_5, Encoding.fld_11_10_5, Encoding.fld_11_0_5]

theorem Encoding.ust64 (k : BitVec 3) (d : BitVec 5) (a : BitVec 5) (o : BitVec 5) : Encoding.Statement (.ust64 k d a o) := by
  refine Encoding.of_core rfl rfl ?_
  rw [decodeOpcode, Encoding.fld_11_28_4]
  show decodeUR _ = _
  rw [decodeUR, Encoding.fld_11_23_6]
  show some (Instr.ust64 (fld _ 20 3) (fld _ 15 5) (fld _ 10 5) (fld _ 0 5)) = _
  rw [Encoding.fld_11_20_3, Encoding.fld_11_15_5, Encoding.fld_11_10_5, Encoding.fld_11_0_5]

theorem Encoding.ulds (k : BitVec 3) (d : BitVec 5) (a : BitVec 5) (o : BitVec 5) : Encoding.Statement (.ulds k d a o) := by
  refine Encoding.of_core rfl rfl ?_
  rw [decodeOpcode, Encoding.fld_11_28_4]
  show decodeUR _ = _
  rw [decodeUR, Encoding.fld_11_23_6]
  show some (Instr.ulds (fld _ 20 3) (fld _ 15 5) (fld _ 10 5) (fld _ 0 5)) = _
  rw [Encoding.fld_11_20_3, Encoding.fld_11_15_5, Encoding.fld_11_10_5, Encoding.fld_11_0_5]

theorem Encoding.usts (k : BitVec 3) (d : BitVec 5) (a : BitVec 5) (o : BitVec 5) : Encoding.Statement (.usts k d a o) := by
  refine Encoding.of_core rfl rfl ?_
  rw [decodeOpcode, Encoding.fld_11_28_4]
  show decodeUR _ = _
  rw [decodeUR, Encoding.fld_11_23_6]
  show some (Instr.usts (fld _ 20 3) (fld _ 15 5) (fld _ 10 5) (fld _ 0 5)) = _
  rw [Encoding.fld_11_20_3, Encoding.fld_11_15_5, Encoding.fld_11_10_5, Encoding.fld_11_0_5]

theorem Encoding.usrd (k : BitVec 3) (d : BitVec 5) (n : BitVec 10) : Encoding.Statement (.usrd k d n) := by
  refine Encoding.of_core rfl rfl ?_
  rw [decodeOpcode, Encoding.fld_14_28_4]
  show decodeUR _ = _
  rw [decodeUR, Encoding.fld_14_23_6]
  show some (Instr.usrd (fld _ 20 3) (fld _ 15 5) (fld _ 0 10)) = _
  rw [Encoding.fld_14_20_3, Encoding.fld_14_15_5, Encoding.fld_14_0_10]

theorem Encoding.uswr (k : BitVec 3) (a : BitVec 5) (n : BitVec 10) : Encoding.Statement (.uswr k a n) := by
  refine Encoding.of_core rfl rfl ?_
  rw [decodeOpcode, Encoding.fld_14_28_4]
  show decodeUR _ = _
  rw [decodeUR, Encoding.fld_14_23_6]
  show some (Instr.uswr (fld _ 20 3) (fld _ 10 5) (fld _ 0 10)) = _
  rw [Encoding.fld_14_20_3, Encoding.fld_14_10_5, Encoding.fld_14_0_10]

theorem Encoding.bar (k : BitVec 3) (m : BitVec 2) (s : BitVec 3) (i : BitVec 4) : Encoding.Statement (.bar k m s i) := by
  refine Encoding.of_core rfl rfl ?_
  rw [decodeOpcode, Encoding.fld_15_28_4]
  show decodeUR _ = _
  rw [decodeUR, Encoding.fld_15_23_6]
  show some (Instr.bar (fld _ 20 3) (fld _ 18 2) (fld _ 15 3) (fld _ 0 4)) = _
  rw [Encoding.fld_15_20_3, Encoding.fld_15_18_2, Encoding.fld_15_15_3, Encoding.fld_15_0_4]

theorem Encoding.acquire (k : BitVec 3) : Encoding.Statement (.acquire k) := by
  refine Encoding.of_core rfl rfl ?_
  rw [decodeOpcode, Encoding.fld_16_28_4]
  show decodeUR _ = _
  rw [decodeUR, Encoding.fld_16_23_6]
  show some (Instr.acquire (fld _ 20 3)) = _
  rw [Encoding.fld_16_20_3]

theorem Encoding.yield (k : BitVec 3) : Encoding.Statement (.yield k) := by
  refine Encoding.of_core rfl rfl ?_
  rw [decodeOpcode, Encoding.fld_16_28_4]
  show decodeUR _ = _
  rw [decodeUR, Encoding.fld_16_23_6]
  show some (Instr.yield (fld _ 20 3)) = _
  rw [Encoding.fld_16_20_3]

theorem Encoding.mwait (k : BitVec 3) (a : BitVec 5) : Encoding.Statement (.mwait k a) := by
  refine Encoding.of_core rfl rfl ?_
  rw [decodeOpcode, Encoding.fld_14_28_4]
  show decodeUR _ = _
  rw [decodeUR, Encoding.fld_14_23_6]
  show some (Instr.mwait (fld _ 20 3) (fld _ 10 5)) = _
  rw [Encoding.fld_14_20_3, Encoding.fld_14_10_5]

theorem Encoding.trap (k : BitVec 3) (a : BitVec 5) (c : BitVec 5) : Encoding.Statement (.trap k a c) := by
  refine Encoding.of_core rfl rfl ?_
  rw [decodeOpcode, Encoding.fld_11_28_4]
  show decodeUR _ = _
  rw [decodeUR, Encoding.fld_11_23_6]
  show some (Instr.trap (fld _ 20 3) (fld _ 10 5) (fld _ 0 5)) = _
  rw [Encoding.fld_11_20_3, Encoding.fld_11_10_5, Encoding.fld_11_0_5]

theorem Encoding.fenceNear (k : BitVec 3) (s : BitVec 3) : Encoding.Statement (.fenceNear k s) := by
  refine Encoding.of_core rfl rfl ?_
  rw [decodeOpcode, Encoding.fld_17_28_4]
  show decodeUR _ = _
  rw [decodeUR, Encoding.fld_17_23_6]
  show some (Instr.fenceNear (fld _ 20 3) (fld _ 0 3)) = _
  rw [Encoding.fld_17_20_3, Encoding.fld_17_0_3]

theorem Encoding.fenceFar (k : BitVec 3) (s : BitVec 3) : Encoding.Statement (.fenceFar k s) := by
  refine Encoding.of_core rfl rfl ?_
  rw [decodeOpcode, Encoding.fld_17_28_4]
  show decodeUR _ = _
  rw [decodeUR, Encoding.fld_17_23_6]
  show some (Instr.fenceFar (fld _ 20 3) (fld _ 0 3)) = _
  rw [Encoding.fld_17_20_3, Encoding.fld_17_0_3]

theorem Encoding.fenceAcq (k : BitVec 3) (s : BitVec 3) : Encoding.Statement (.fenceAcq k s) := by
  refine Encoding.of_core rfl rfl ?_
  rw [decodeOpcode, Encoding.fld_17_28_4]
  show decodeUR _ = _
  rw [decodeUR, Encoding.fld_17_23_6]
  show some (Instr.fenceAcq (fld _ 20 3) (fld _ 0 3)) = _
  rw [Encoding.fld_17_20_3, Encoding.fld_17_0_3]

theorem Encoding.fenceRel (k : BitVec 3) (s : BitVec 3) : Encoding.Statement (.fenceRel k s) := by
  refine Encoding.of_core rfl rfl ?_
  rw [decodeOpcode, Encoding.fld_17_28_4]
  show decodeUR _ = _
  rw [decodeUR, Encoding.fld_17_23_6]
  show some (Instr.fenceRel (fld _ 20 3) (fld _ 0 3)) = _
  rw [Encoding.fld_17_20_3, Encoding.fld_17_0_3]

theorem Encoding.fenceAr (k : BitVec 3) (s : BitVec 3) : Encoding.Statement (.fenceAr k s) := by
  refine Encoding.of_core rfl rfl ?_
  rw [decodeOpcode, Encoding.fld_17_28_4]
  show decodeUR _ = _
  rw [decodeUR, Encoding.fld_17_23_6]
  show some (Instr.fenceAr (fld _ 20 3) (fld _ 0 3)) = _
  rw [Encoding.fld_17_20_3, Encoding.fld_17_0_3]

theorem Encoding.fenceSc (k : BitVec 3) (s : BitVec 3) : Encoding.Statement (.fenceSc k s) := by
  refine Encoding.of_core rfl rfl ?_
  rw [decodeOpcode, Encoding.fld_17_28_4]
  show decodeUR _ = _
  rw [decodeUR, Encoding.fld_17_23_6]
  show some (Instr.fenceSc (fld _ 20 3) (fld _ 0 3)) = _
  rw [Encoding.fld_17_20_3, Encoding.fld_17_0_3]

theorem Encoding.rtt (k : BitVec 3) (m : BitVec 1) : Encoding.Statement (.rtt k m) := by
  refine Encoding.of_core rfl rfl ?_
  rw [decodeOpcode, Encoding.fld_18_28_4]
  show decodeUR _ = _
  rw [decodeUR, Encoding.fld_18_23_6]
  show some (Instr.rtt (fld _ 20 3) (fld _ 0 1)) = _
  rw [Encoding.fld_18_20_3, Encoding.fld_18_0_1]

theorem Encoding.lread (k : BitVec 3) (d : BitVec 5) (a : BitVec 5) (b : BitVec 5) : Encoding.Statement (.lread k d a b) := by
  refine Encoding.of_core rfl rfl ?_
  rw [decodeOpcode, Encoding.fld_11_28_4]
  show decodeUR _ = _
  rw [decodeUR, Encoding.fld_11_23_6]
  show some (Instr.lread (fld _ 20 3) (fld _ 15 5) (fld _ 10 5) (fld _ 5 5)) = _
  rw [Encoding.fld_11_20_3, Encoding.fld_11_15_5, Encoding.fld_11_10_5, Encoding.fld_11_5_5]

theorem Encoding.lwrite (k : BitVec 3) (d : BitVec 5) (a : BitVec 5) (b : BitVec 5) : Encoding.Statement (.lwrite k d a b) := by
  refine Encoding.of_core rfl rfl ?_
  rw [decodeOpcode, Encoding.fld_11_28_4]
  show decodeUR _ = _
  rw [decodeUR, Encoding.fld_11_23_6]
  show some (Instr.lwrite (fld _ 20 3) (fld _ 15 5) (fld _ 10 5) (fld _ 5 5)) = _
  rw [Encoding.fld_11_20_3, Encoding.fld_11_15_5, Encoding.fld_11_10_5, Encoding.fld_11_5_5]

theorem Encoding.pread (k : BitVec 3) (d : BitVec 5) (a : BitVec 5) : Encoding.Statement (.pread k d a) := by
  refine Encoding.of_core rfl rfl ?_
  rw [decodeOpcode, Encoding.fld_14_28_4]
  show decodeUR _ = _
  rw [decodeUR, Encoding.fld_14_23_6]
  show some (Instr.pread (fld _ 20 3) (fld _ 15 5) (fld _ 10 5)) = _
  rw [Encoding.fld_14_20_3, Encoding.fld_14_15_5, Encoding.fld_14_10_5]

theorem Encoding.pwrite (k : BitVec 3) (d : BitVec 5) (a : BitVec 5) : Encoding.Statement (.pwrite k d a) := by
  refine Encoding.of_core rfl rfl ?_
  rw [decodeOpcode, Encoding.fld_14_28_4]
  show decodeUR _ = _
  rw [decodeUR, Encoding.fld_14_23_6]
  show some (Instr.pwrite (fld _ 20 3) (fld _ 15 5) (fld _ 10 5)) = _
  rw [Encoding.fld_14_20_3, Encoding.fld_14_15_5, Encoding.fld_14_10_5]

theorem Encoding.mread (k : BitVec 3) (d : BitVec 5) (a : BitVec 5) (s : BitVec 1) : Encoding.Statement (.mread k d a s) := by
  refine Encoding.of_core rfl rfl ?_
  rw [decodeOpcode, Encoding.fld_19_28_4]
  show decodeUR _ = _
  rw [decodeUR, Encoding.fld_19_23_6]
  show some (Instr.mread (fld _ 20 3) (fld _ 15 5) (fld _ 10 5) (fld _ 0 1)) = _
  rw [Encoding.fld_19_20_3, Encoding.fld_19_15_5, Encoding.fld_19_10_5, Encoding.fld_19_0_1]

theorem Encoding.mwrite (k : BitVec 3) (d : BitVec 5) (a : BitVec 5) (s : BitVec 1) : Encoding.Statement (.mwrite k d a s) := by
  refine Encoding.of_core rfl rfl ?_
  rw [decodeOpcode, Encoding.fld_19_28_4]
  show decodeUR _ = _
  rw [decodeUR, Encoding.fld_19_23_6]
  show some (Instr.mwrite (fld _ 20 3) (fld _ 15 5) (fld _ 10 5) (fld _ 0 1)) = _
  rw [Encoding.fld_19_20_3, Encoding.fld_19_15_5, Encoding.fld_19_10_5, Encoding.fld_19_0_1]

theorem Encoding.barrd (k : BitVec 3) (d : BitVec 5) (a : BitVec 5) (s : BitVec 2) : Encoding.Statement (.barrd k d a s) := by
  refine Encoding.of_core rfl rfl ?_
  rw [decodeOpcode, Encoding.fld_20_28_4]
  show decodeUR _ = _
  rw [decodeUR, Encoding.fld_20_23_6]
  show some (Instr.barrd (fld _ 20 3) (fld _ 15 5) (fld _ 10 5) (fld _ 0 2)) = _
  rw [Encoding.fld_20_20_3, Encoding.fld_20_15_5, Encoding.fld_20_10_5, Encoding.fld_20_0_2]

theorem Encoding.barwr (k : BitVec 3) (d : BitVec 5) (a : BitVec 5) (s : BitVec 2) : Encoding.Statement (.barwr k d a s) := by
  refine Encoding.of_core rfl rfl ?_
  rw [decodeOpcode, Encoding.fld_20_28_4]
  show decodeUR _ = _
  rw [decodeUR, Encoding.fld_20_23_6]
  show some (Instr.barwr (fld _ 20 3) (fld _ 15 5) (fld _ 10 5) (fld _ 0 2)) = _
  rw [Encoding.fld_20_20_3, Encoding.fld_20_15_5, Encoding.fld_20_10_5, Encoding.fld_20_0_2]

theorem Encoding.swait (k : BitVec 3) (d : BitVec 5) (a : BitVec 5) (b : BitVec 5) : Encoding.Statement (.swait k d a b) := by
  refine Encoding.of_core rfl rfl ?_
  rw [decodeOpcode, Encoding.fld_11_28_4]
  show decodeUR _ = _
  rw [decodeUR, Encoding.fld_11_23_6]
  show some (Instr.swait (fld _ 20 3) (fld _ 15 5) (fld _ 10 5) (fld _ 5 5)) = _
  rw [Encoding.fld_11_20_3, Encoding.fld_11_15_5, Encoding.fld_11_10_5, Encoding.fld_11_5_5]

theorem Encoding.mquery (k : BitVec 3) (d : BitVec 5) (a : BitVec 5) (s : BitVec 2) : Encoding.Statement (.mquery k d a s) := by
  refine Encoding.of_core rfl rfl ?_
  rw [decodeOpcode, Encoding.fld_20_28_4]
  show decodeUR _ = _
  rw [decodeUR, Encoding.fld_20_23_6]
  show some (Instr.mquery (fld _ 20 3) (fld _ 15 5) (fld _ 10 5) (fld _ 0 2)) = _
  rw [Encoding.fld_20_20_3, Encoding.fld_20_15_5, Encoding.fld_20_10_5, Encoding.fld_20_0_2]

theorem Encoding.otake (k : BitVec 3) (d : BitVec 5) (a : BitVec 5) (m : BitVec 1) : Encoding.Statement (.otake k d a m) := by
  refine Encoding.of_core rfl rfl ?_
  rw [decodeOpcode, Encoding.fld_19_28_4]
  show decodeUR _ = _
  rw [decodeUR, Encoding.fld_19_23_6]
  show some (Instr.otake (fld _ 20 3) (fld _ 15 5) (fld _ 10 5) (fld _ 0 1)) = _
  rw [Encoding.fld_19_20_3, Encoding.fld_19_15_5, Encoding.fld_19_10_5, Encoding.fld_19_0_1]

theorem Encoding.owait (k : BitVec 3) (d : BitVec 5) (a : BitVec 5) : Encoding.Statement (.owait k d a) := by
  refine Encoding.of_core rfl rfl ?_
  rw [decodeOpcode, Encoding.fld_14_28_4]
  show decodeUR _ = _
  rw [decodeUR, Encoding.fld_14_23_6]
  show some (Instr.owait (fld _ 20 3) (fld _ 15 5) (fld _ 10 5)) = _
  rw [Encoding.fld_14_20_3, Encoding.fld_14_15_5, Encoding.fld_14_10_5]

theorem Encoding.ostat (k : BitVec 3) (d : BitVec 5) (a : BitVec 5) (s : BitVec 4) : Encoding.Statement (.ostat k d a s) := by
  refine Encoding.of_core rfl rfl ?_
  rw [decodeOpcode, Encoding.fld_21_28_4]
  show decodeUR _ = _
  rw [decodeUR, Encoding.fld_21_23_6]
  show some (Instr.ostat (fld _ 20 3) (fld _ 15 5) (fld _ 10 5) (fld _ 0 4)) = _
  rw [Encoding.fld_21_20_3, Encoding.fld_21_15_5, Encoding.fld_21_10_5, Encoding.fld_21_0_4]

theorem Encoding.qpop (k : BitVec 3) (d : BitVec 5) (a : BitVec 5) (m : BitVec 1) (l : BitVec 2) : Encoding.Statement (.qpop k d a m l) := by
  refine Encoding.of_core rfl rfl ?_
  rw [decodeOpcode, Encoding.fld_22_28_4]
  show decodeUR _ = _
  rw [decodeUR, Encoding.fld_22_23_6]
  show some (Instr.qpop (fld _ 20 3) (fld _ 15 5) (fld _ 10 5) (fld _ 2 1) (fld _ 0 2)) = _
  rw [Encoding.fld_22_20_3, Encoding.fld_22_15_5, Encoding.fld_22_10_5, Encoding.fld_22_2_1, Encoding.fld_22_0_2]

theorem Encoding.vwaitq (k : BitVec 3) (d : BitVec 5) (a : BitVec 5) (g : BitVec 1) (l : BitVec 2) : Encoding.Statement (.vwaitq k d a g l) := by
  refine Encoding.of_core rfl rfl ?_
  rw [decodeOpcode, Encoding.fld_22_28_4]
  show decodeUR _ = _
  rw [decodeUR, Encoding.fld_22_23_6]
  show some (Instr.vwaitq (fld _ 20 3) (fld _ 15 5) (fld _ 10 5) (fld _ 2 1) (fld _ 0 2)) = _
  rw [Encoding.fld_22_20_3, Encoding.fld_22_15_5, Encoding.fld_22_10_5, Encoding.fld_22_2_1, Encoding.fld_22_0_2]

theorem Encoding.vstat (k : BitVec 3) (d : BitVec 5) (a : BitVec 5) (s : BitVec 5) : Encoding.Statement (.vstat k d a s) := by
  refine Encoding.of_core rfl rfl ?_
  rw [decodeOpcode, Encoding.fld_11_28_4]
  show decodeUR _ = _
  rw [decodeUR, Encoding.fld_11_23_6]
  show some (Instr.vstat (fld _ 20 3) (fld _ 15 5) (fld _ 10 5) (fld _ 0 5)) = _
  rw [Encoding.fld_11_20_3, Encoding.fld_11_15_5, Encoding.fld_11_10_5, Encoding.fld_11_0_5]

theorem Encoding.umovi (k : BitVec 3) (d : BitVec 5) (i : BitVec 17) : Encoding.Statement (.umovi k d i) := by
  refine Encoding.of_core rfl rfl ?_
  rw [decodeOpcode, Encoding.fld_23_28_4]
  show decodeUI _ = _
  rw [decodeUI, Encoding.fld_23_25_4]
  show some (Instr.umovi (fld _ 22 3) (fld _ 17 5) (fld _ 0 17)) = _
  rw [Encoding.fld_23_22_3, Encoding.fld_23_17_5, Encoding.fld_23_0_17]

theorem Encoding.ului (k : BitVec 3) (d : BitVec 5) (i : BitVec 17) : Encoding.Statement (.ului k d i) := by
  refine Encoding.of_core rfl rfl ?_
  rw [decodeOpcode, Encoding.fld_23_28_4]
  show decodeUI _ = _
  rw [decodeUI, Encoding.fld_23_25_4]
  show some (Instr.ului (fld _ 22 3) (fld _ 17 5) (fld _ 0 17)) = _
  rw [Encoding.fld_23_22_3, Encoding.fld_23_17_5, Encoding.fld_23_0_17]

theorem Encoding.uaddi (k : BitVec 3) (d : BitVec 5) (i : BitVec 17) : Encoding.Statement (.uaddi k d i) := by
  refine Encoding.of_core rfl rfl ?_
  rw [decodeOpcode, Encoding.fld_23_28_4]
  show decodeUI _ = _
  rw [decodeUI, Encoding.fld_23_25_4]
  show some (Instr.uaddi (fld _ 22 3) (fld _ 17 5) (fld _ 0 17)) = _
  rw [Encoding.fld_23_22_3, Encoding.fld_23_17_5, Encoding.fld_23_0_17]

theorem Encoding.uandi (k : BitVec 3) (d : BitVec 5) (i : BitVec 17) : Encoding.Statement (.uandi k d i) := by
  refine Encoding.of_core rfl rfl ?_
  rw [decodeOpcode, Encoding.fld_23_28_4]
  show decodeUI _ = _
  rw [decodeUI, Encoding.fld_23_25_4]
  show some (Instr.uandi (fld _ 22 3) (fld _ 17 5) (fld _ 0 17)) = _
  rw [Encoding.fld_23_22_3, Encoding.fld_23_17_5, Encoding.fld_23_0_17]

theorem Encoding.uori (k : BitVec 3) (d : BitVec 5) (i : BitVec 17) : Encoding.Statement (.uori k d i) := by
  refine Encoding.of_core rfl rfl ?_
  rw [decodeOpcode, Encoding.fld_23_28_4]
  show decodeUI _ = _
  rw [decodeUI, Encoding.fld_23_25_4]
  show some (Instr.uori (fld _ 22 3) (fld _ 17 5) (fld _ 0 17)) = _
  rw [Encoding.fld_23_22_3, Encoding.fld_23_17_5, Encoding.fld_23_0_17]

theorem Encoding.ucmpi (k : BitVec 3) (d : BitVec 5) (c : BitVec 2) (x : BitVec 2) (y : BitVec 2) (i : BitVec 11) : Encoding.Statement (.ucmpi k d c x y i) := by
  refine Encoding.of_core rfl rfl ?_
  rw [decodeOpcode, Encoding.fld_24_28_4]
  show decodeUI _ = _
  rw [decodeUI, Encoding.fld_24_25_4]
  show some (Instr.ucmpi (fld _ 22 3) (fld _ 17 5) (fld _ 15 2) (fld _ 13 2) (fld _ 11 2) (fld _ 0 11)) = _
  rw [Encoding.fld_24_22_3, Encoding.fld_24_17_5, Encoding.fld_24_15_2, Encoding.fld_24_13_2, Encoding.fld_24_11_2, Encoding.fld_24_0_11]

theorem Encoding.clause (l : BitVec 4) (w : BitVec 12) (a : BitVec 4) (b : BitVec 4) : Encoding.Statement (.clause l w a b) := by
  refine Encoding.of_core rfl rfl ?_
  rw [decodeOpcode, Encoding.fld_25_28_4]
  show decodeUB _ = _
  rw [decodeUB, Encoding.fld_25_24_5]
  show some (Instr.clause (fld _ 20 4) (fld _ 8 12) (fld _ 4 4) (fld _ 0 4)) = _
  rw [Encoding.fld_25_20_4, Encoding.fld_25_8_12, Encoding.fld_25_4_4, Encoding.fld_25_0_4]

theorem Encoding.bra (k : BitVec 3) (d : BitVec 21) : Encoding.Statement (.bra k d) := by
  refine Encoding.of_core rfl rfl ?_
  rw [decodeOpcode, Encoding.fld_26_28_4]
  show decodeUB _ = _
  rw [decodeUB, Encoding.fld_26_24_5]
  show some (Instr.bra (fld _ 21 3) (fld _ 0 21)) = _
  rw [Encoding.fld_26_21_3, Encoding.fld_26_0_21]

theorem Encoding.call (k : BitVec 3) (d : BitVec 21) : Encoding.Statement (.call k d) := by
  refine Encoding.of_core rfl rfl ?_
  rw [decodeOpcode, Encoding.fld_26_28_4]
  show decodeUB _ = _
  rw [decodeUB, Encoding.fld_26_24_5]
  show some (Instr.call (fld _ 21 3) (fld _ 0 21)) = _
  rw [Encoding.fld_26_21_3, Encoding.fld_26_0_21]

theorem Encoding.brx (k : BitVec 3) (d : BitVec 21) : Encoding.Statement (.brx k d) := by
  refine Encoding.of_core rfl rfl ?_
  rw [decodeOpcode, Encoding.fld_26_28_4]
  show decodeUB _ = _
  rw [decodeUB, Encoding.fld_26_24_5]
  show some (Instr.brx (fld _ 21 3) (fld _ 0 21)) = _
  rw [Encoding.fld_26_21_3, Encoding.fld_26_0_21]

theorem Encoding.ret (k : BitVec 3) : Encoding.Statement (.ret k) := by
  refine Encoding.of_core rfl rfl ?_
  rw [decodeOpcode, Encoding.fld_26_28_4]
  show decodeUB _ = _
  rw [decodeUB, Encoding.fld_26_24_5]
  show some (Instr.ret (fld _ 21 3)) = _
  rw [Encoding.fld_26_21_3]

theorem Encoding.cset (k : BitVec 3) (c : BitVec 4) (a : BitVec 5) : Encoding.Statement (.cset k c a) := by
  refine Encoding.of_core rfl rfl ?_
  rw [decodeOpcode, Encoding.fld_27_28_4]
  show decodeUE _ = _
  rw [decodeUE, Encoding.fld_27_24_5]
  show some (Instr.cset (fld _ 21 3) (fld _ 17 4) (fld _ 12 5)) = _
  rw [Encoding.fld_27_21_3, Encoding.fld_27_17_4, Encoding.fld_27_12_5]

theorem Encoding.mma (k : BitVec 3) (c : BitVec 4) (s : BitVec 3) (w : BitVec 8) (o : BitVec 5) (z : BitVec 1) : Encoding.Statement (.mma k c s w o z) := by
  refine Encoding.of_core rfl rfl ?_
  rw [decodeOpcode, Encoding.fld_28_28_4]
  show decodeUE _ = _
  rw [decodeUE, Encoding.fld_28_24_5]
  show some (Instr.mma (fld _ 21 3) (fld _ 17 4) (fld _ 14 3) (fld _ 6 8) (fld _ 1 5) (fld _ 0 1)) = _
  rw [Encoding.fld_28_21_3, Encoding.fld_28_17_4, Encoding.fld_28_14_3, Encoding.fld_28_6_8, Encoding.fld_28_1_5, Encoding.fld_28_0_1]

theorem Encoding.mstat (k : BitVec 3) (s : BitVec 3) (w : BitVec 8) (a : BitVec 5) : Encoding.Statement (.mstat k s w a) := by
  refine Encoding.of_core rfl rfl ?_
  rw [decodeOpcode, Encoding.fld_28_28_4]
  show decodeUE _ = _
  rw [decodeUE, Encoding.fld_28_24_5]
  show some (Instr.mstat (fld _ 21 3) (fld _ 14 3) (fld _ 6 8) (fld _ 1 5)) = _
  rw [Encoding.fld_28_21_3, Encoding.fld_28_14_3, Encoding.fld_28_6_8, Encoding.fld_28_1_5]

theorem Encoding.munstat (k : BitVec 3) (s : BitVec 3) (w : BitVec 8) (a : BitVec 5) : Encoding.Statement (.munstat k s w a) := by
  refine Encoding.of_core rfl rfl ?_
  rw [decodeOpcode, Encoding.fld_28_28_4]
  show decodeUE _ = _
  rw [decodeUE, Encoding.fld_28_24_5]
  show some (Instr.munstat (fld _ 21 3) (fld _ 14 3) (fld _ 6 8) (fld _ 1 5)) = _
  rw [Encoding.fld_28_21_3, Encoding.fld_28_14_3, Encoding.fld_28_6_8, Encoding.fld_28_1_5]

theorem Encoding.mzero (k : BitVec 3) (t : BitVec 3) (s : BitVec 3) (w : BitVec 8) : Encoding.Statement (.mzero k t s w) := by
  refine Encoding.of_core rfl rfl ?_
  rw [decodeOpcode, Encoding.fld_29_28_4]
  show decodeUE _ = _
  rw [decodeUE, Encoding.fld_29_24_5]
  show some (Instr.mzero (fld _ 21 3) (fld _ 17 3) (fld _ 14 3) (fld _ 6 8)) = _
  rw [Encoding.fld_29_21_3, Encoding.fld_29_17_3, Encoding.fld_29_14_3, Encoding.fld_29_6_8]

theorem Encoding.scac (k : BitVec 3) (s : BitVec 3) (w : BitVec 8) (a : BitVec 5) : Encoding.Statement (.scac k s w a) := by
  refine Encoding.of_core rfl rfl ?_
  rw [decodeOpcode, Encoding.fld_28_28_4]
  show decodeUE _ = _
  rw [decodeUE, Encoding.fld_28_24_5]
  show some (Instr.scac (fld _ 21 3) (fld _ 14 3) (fld _ 6 8) (fld _ 1 5)) = _
  rw [Encoding.fld_28_21_3, Encoding.fld_28_14_3, Encoding.fld_28_6_8, Encoding.fld_28_1_5]

theorem Encoding.mtread (k : BitVec 3) (t : BitVec 3) (s : BitVec 3) (w : BitVec 8) (a : BitVec 5) : Encoding.Statement (.mtread k t s w a) := by
  refine Encoding.of_core rfl rfl ?_
  rw [decodeOpcode, Encoding.fld_30_28_4]
  show decodeUE _ = _
  rw [decodeUE, Encoding.fld_30_24_5]
  show some (Instr.mtread (fld _ 21 3) (fld _ 17 3) (fld _ 14 3) (fld _ 6 8) (fld _ 1 5)) = _
  rw [Encoding.fld_30_21_3, Encoding.fld_30_17_3, Encoding.fld_30_14_3, Encoding.fld_30_6_8, Encoding.fld_30_1_5]

theorem Encoding.tcopy (k : BitVec 3) (c : BitVec 5) (d : BitVec 5) (n : BitVec 1) (q : BitVec 1) (r : BitVec 1) (s : BitVec 3) : Encoding.Statement (.tcopy k c d n q r s) := by
  refine Encoding.of_core rfl rfl ?_
  rw [decodeOpcode, Encoding.fld_31_28_4]
  show decodeUE _ = _
  rw [decodeUE, Encoding.fld_31_24_5]
  show some (Instr.tcopy (fld _ 21 3) (fld _ 16 5) (fld _ 11 5) (fld _ 10 1) (fld _ 9 1) (fld _ 8 1) (fld _ 5 3)) = _
  rw [Encoding.fld_31_21_3, Encoding.fld_31_16_5, Encoding.fld_31_11_5, Encoding.fld_31_10_1, Encoding.fld_31_9_1, Encoding.fld_31_8_1, Encoding.fld_31_5_3]

theorem Encoding.tstore (k : BitVec 3) (c : BitVec 5) (d : BitVec 5) (n : BitVec 1) (q : BitVec 1) (r : BitVec 1) (s : BitVec 3) : Encoding.Statement (.tstore k c d n q r s) := by
  refine Encoding.of_core rfl rfl ?_
  rw [decodeOpcode, Encoding.fld_31_28_4]
  show decodeUE _ = _
  rw [decodeUE, Encoding.fld_31_24_5]
  show some (Instr.tstore (fld _ 21 3) (fld _ 16 5) (fld _ 11 5) (fld _ 10 1) (fld _ 9 1) (fld _ 8 1) (fld _ 5 3)) = _
  rw [Encoding.fld_31_21_3, Encoding.fld_31_16_5, Encoding.fld_31_11_5, Encoding.fld_31_10_1, Encoding.fld_31_9_1, Encoding.fld_31_8_1, Encoding.fld_31_5_3]

theorem Encoding.tmcast (k : BitVec 3) (c : BitVec 5) (d : BitVec 5) (n : BitVec 1) (q : BitVec 1) (r : BitVec 1) (s : BitVec 3) (m : BitVec 5) : Encoding.Statement (.tmcast k c d n q r s m) := by
  refine Encoding.of_core rfl rfl ?_
  rw [decodeOpcode, Encoding.fld_31_28_4]
  show decodeUE _ = _
  rw [decodeUE, Encoding.fld_31_24_5]
  show some (Instr.tmcast (fld _ 21 3) (fld _ 16 5) (fld _ 11 5) (fld _ 10 1) (fld _ 9 1) (fld _ 8 1) (fld _ 5 3) (fld _ 0 5)) = _
  rw [Encoding.fld_31_21_3, Encoding.fld_31_16_5, Encoding.fld_31_11_5, Encoding.fld_31_10_1, Encoding.fld_31_9_1, Encoding.fld_31_8_1, Encoding.fld_31_5_3, Encoding.fld_31_0_5]

theorem Encoding.tnotice (k : BitVec 3) (c : BitVec 5) (d : BitVec 5) (n : BitVec 1) (q : BitVec 1) (r : BitVec 1) (s : BitVec 3) (m : BitVec 1) : Encoding.Statement (.tnotice k c d n q r s m) := by
  refine Encoding.of_core rfl rfl ?_
  rw [decodeOpcode, Encoding.fld_32_28_4]
  show decodeUE _ = _
  rw [decodeUE, Encoding.fld_32_24_5]
  show some (Instr.tnotice (fld _ 21 3) (fld _ 16 5) (fld _ 11 5) (fld _ 10 1) (fld _ 9 1) (fld _ 8 1) (fld _ 5 3) (fld _ 0 1)) = _
  rw [Encoding.fld_32_21_3, Encoding.fld_32_16_5, Encoding.fld_32_11_5, Encoding.fld_32_10_1, Encoding.fld_32_9_1, Encoding.fld_32_8_1, Encoding.fld_32_5_3, Encoding.fld_32_0_1]

theorem Encoding.sarm (k : BitVec 3) (a : BitVec 5) (b : BitVec 5) (r : BitVec 1) : Encoding.Statement (.sarm k a b r) := by
  refine Encoding.of_core rfl rfl ?_
  rw [decodeOpcode, Encoding.fld_33_28_4]
  show decodeUE _ = _
  rw [decodeUE, Encoding.fld_33_24_5]
  show some (Instr.sarm (fld _ 21 3) (fld _ 16 5) (fld _ 11 5) (fld _ 10 1)) = _
  rw [Encoding.fld_33_21_3, Encoding.fld_33_16_5, Encoding.fld_33_11_5, Encoding.fld_33_10_1]

theorem Encoding.tpref (k : BitVec 3) (c : BitVec 5) (d : BitVec 5) (n : BitVec 1) (q : BitVec 1) (r : BitVec 1) (s : BitVec 3) : Encoding.Statement (.tpref k c d n q r s) := by
  refine Encoding.of_core rfl rfl ?_
  rw [decodeOpcode, Encoding.fld_31_28_4]
  show decodeUE _ = _
  rw [decodeUE, Encoding.fld_31_24_5]
  show some (Instr.tpref (fld _ 21 3) (fld _ 16 5) (fld _ 11 5) (fld _ 10 1) (fld _ 9 1) (fld _ 8 1) (fld _ 5 3)) = _
  rw [Encoding.fld_31_21_3, Encoding.fld_31_16_5, Encoding.fld_31_11_5, Encoding.fld_31_10_1, Encoding.fld_31_9_1, Encoding.fld_31_8_1, Encoding.fld_31_5_3]

theorem Encoding.launch (k : BitVec 3) (l : BitVec 5) (d : BitVec 5) (n : BitVec 1) (q : BitVec 1) (r : BitVec 1) (s : BitVec 3) : Encoding.Statement (.launch k l d n q r s) := by
  refine Encoding.of_core rfl rfl ?_
  rw [decodeOpcode, Encoding.fld_31_28_4]
  show decodeUE _ = _
  rw [decodeUE, Encoding.fld_31_24_5]
  show some (Instr.launch (fld _ 21 3) (fld _ 16 5) (fld _ 11 5) (fld _ 10 1) (fld _ 9 1) (fld _ 8 1) (fld _ 5 3)) = _
  rw [Encoding.fld_31_21_3, Encoding.fld_31_16_5, Encoding.fld_31_11_5, Encoding.fld_31_10_1, Encoding.fld_31_9_1, Encoding.fld_31_8_1, Encoding.fld_31_5_3]

theorem Encoding.oload (k : BitVec 3) (a : BitVec 5) (d : BitVec 5) (n : BitVec 1) (q : BitVec 1) (r : BitVec 1) (s : BitVec 3) : Encoding.Statement (.oload k a d n q r s) := by
  refine Encoding.of_core rfl rfl ?_
  rw [decodeOpcode, Encoding.fld_31_28_4]
  show decodeUE _ = _
  rw [decodeUE, Encoding.fld_31_24_5]
  show some (Instr.oload (fld _ 21 3) (fld _ 16 5) (fld _ 11 5) (fld _ 10 1) (fld _ 9 1) (fld _ 8 1) (fld _ 5 3)) = _
  rw [Encoding.fld_31_21_3, Encoding.fld_31_16_5, Encoding.fld_31_11_5, Encoding.fld_31_10_1, Encoding.fld_31_9_1, Encoding.fld_31_8_1, Encoding.fld_31_5_3]

theorem Encoding.obind (k : BitVec 3) (a : BitVec 5) (d : BitVec 5) (n : BitVec 1) (q : BitVec 1) (r : BitVec 1) (s : BitVec 3) : Encoding.Statement (.obind k a d n q r s) := by
  refine Encoding.of_core rfl rfl ?_
  rw [decodeOpcode, Encoding.fld_31_28_4]
  show decodeUE _ = _
  rw [decodeUE, Encoding.fld_31_24_5]
  show some (Instr.obind (fld _ 21 3) (fld _ 16 5) (fld _ 11 5) (fld _ 10 1) (fld _ 9 1) (fld _ 8 1) (fld _ 5 3)) = _
  rw [Encoding.fld_31_21_3, Encoding.fld_31_16_5, Encoding.fld_31_11_5, Encoding.fld_31_10_1, Encoding.fld_31_9_1, Encoding.fld_31_8_1, Encoding.fld_31_5_3]

theorem Encoding.orun (k : BitVec 3) (a : BitVec 5) (d : BitVec 5) (n : BitVec 1) (q : BitVec 1) (r : BitVec 1) (s : BitVec 3) : Encoding.Statement (.orun k a d n q r s) := by
  refine Encoding.of_core rfl rfl ?_
  rw [decodeOpcode, Encoding.fld_31_28_4]
  show decodeUE _ = _
  rw [decodeUE, Encoding.fld_31_24_5]
  show some (Instr.orun (fld _ 21 3) (fld _ 16 5) (fld _ 11 5) (fld _ 10 1) (fld _ 9 1) (fld _ 8 1) (fld _ 5 3)) = _
  rw [Encoding.fld_31_21_3, Encoding.fld_31_16_5, Encoding.fld_31_11_5, Encoding.fld_31_10_1, Encoding.fld_31_9_1, Encoding.fld_31_8_1, Encoding.fld_31_5_3]

theorem Encoding.ostep (k : BitVec 3) (a : BitVec 5) (d : BitVec 5) (n : BitVec 1) (q : BitVec 1) (r : BitVec 1) (s : BitVec 3) : Encoding.Statement (.ostep k a d n q r s) := by
  refine Encoding.of_core rfl rfl ?_
  rw [decodeOpcode, Encoding.fld_31_28_4]
  show decodeUE _ = _
  rw [decodeUE, Encoding.fld_31_24_5]
  show some (Instr.ostep (fld _ 21 3) (fld _ 16 5) (fld _ 11 5) (fld _ 10 1) (fld _ 9 1) (fld _ 8 1) (fld _ 5 3)) = _
  rw [Encoding.fld_31_21_3, Encoding.fld_31_16_5, Encoding.fld_31_11_5, Encoding.fld_31_10_1, Encoding.fld_31_9_1, Encoding.fld_31_8_1, Encoding.fld_31_5_3]

theorem Encoding.odone (k : BitVec 3) (a : BitVec 5) (d : BitVec 5) (n : BitVec 1) (q : BitVec 1) (r : BitVec 1) (s : BitVec 3) : Encoding.Statement (.odone k a d n q r s) := by
  refine Encoding.of_core rfl rfl ?_
  rw [decodeOpcode, Encoding.fld_31_28_4]
  show decodeUE _ = _
  rw [decodeUE, Encoding.fld_31_24_5]
  show some (Instr.odone (fld _ 21 3) (fld _ 16 5) (fld _ 11 5) (fld _ 10 1) (fld _ 9 1) (fld _ 8 1) (fld _ 5 3)) = _
  rw [Encoding.fld_31_21_3, Encoding.fld_31_16_5, Encoding.fld_31_11_5, Encoding.fld_31_10_1, Encoding.fld_31_9_1, Encoding.fld_31_8_1, Encoding.fld_31_5_3]

theorem Encoding.odense (k : BitVec 3) (a : BitVec 5) (d : BitVec 5) (n : BitVec 1) (q : BitVec 1) (r : BitVec 1) (s : BitVec 3) : Encoding.Statement (.odense k a d n q r s) := by
  refine Encoding.of_core rfl rfl ?_
  rw [decodeOpcode, Encoding.fld_31_28_4]
  show decodeUE _ = _
  rw [decodeUE, Encoding.fld_31_24_5]
  show some (Instr.odense (fld _ 21 3) (fld _ 16 5) (fld _ 11 5) (fld _ 10 1) (fld _ 9 1) (fld _ 8 1) (fld _ 5 3)) = _
  rw [Encoding.fld_31_21_3, Encoding.fld_31_16_5, Encoding.fld_31_11_5, Encoding.fld_31_10_1, Encoding.fld_31_9_1, Encoding.fld_31_8_1, Encoding.fld_31_5_3]

theorem Encoding.ostop (k : BitVec 3) (a : BitVec 5) (d : BitVec 5) (n : BitVec 1) (q : BitVec 1) (r : BitVec 1) (s : BitVec 3) (f : BitVec 1) : Encoding.Statement (.ostop k a d n q r s f) := by
  refine Encoding.of_core rfl rfl ?_
  rw [decodeOpcode, Encoding.fld_32_28_4]
  show decodeUE _ = _
  rw [decodeUE, Encoding.fld_32_24_5]
  show some (Instr.ostop (fld _ 21 3) (fld _ 16 5) (fld _ 11 5) (fld _ 10 1) (fld _ 9 1) (fld _ 8 1) (fld _ 5 3) (fld _ 0 1)) = _
  rw [Encoding.fld_32_21_3, Encoding.fld_32_16_5, Encoding.fld_32_11_5, Encoding.fld_32_10_1, Encoding.fld_32_9_1, Encoding.fld_32_8_1, Encoding.fld_32_5_3, Encoding.fld_32_0_1]

theorem Encoding.vnew (k : BitVec 3) (a : BitVec 5) (d : BitVec 5) (q : BitVec 1) (s : BitVec 3) (t : BitVec 2) (l : BitVec 2) : Encoding.Statement (.vnew k a d q s t l) := by
  refine Encoding.of_core rfl rfl ?_
  rw [decodeOpcode, Encoding.fld_34_28_4]
  show decodeUE _ = _
  rw [decodeUE, Encoding.fld_34_24_5]
  show some (Instr.vnew (fld _ 21 3) (fld _ 16 5) (fld _ 11 5) (fld _ 9 1) (fld _ 5 3) (fld _ 3 2) (fld _ 1 2)) = _
  rw [Encoding.fld_34_21_3, Encoding.fld_34_16_5, Encoding.fld_34_11_5, Encoding.fld_34_9_1, Encoding.fld_34_5_3, Encoding.fld_34_3_2, Encoding.fld_34_1_2]

theorem Encoding.vfree (k : BitVec 3) (a : BitVec 5) (d : BitVec 5) (n : BitVec 1) : Encoding.Statement (.vfree k a d n) := by
  refine Encoding.of_core rfl rfl ?_
  rw [decodeOpcode, Encoding.fld_33_28_4]
  show decodeUE _ = _
  rw [decodeUE, Encoding.fld_33_24_5]
  show some (Instr.vfree (fld _ 21 3) (fld _ 16 5) (fld _ 11 5) (fld _ 10 1)) = _
  rw [Encoding.fld_33_21_3, Encoding.fld_33_16_5, Encoding.fld_33_11_5, Encoding.fld_33_10_1]

theorem Encoding.vspawn (k : BitVec 3) (a : BitVec 5) (d : BitVec 5) (n : BitVec 1) (q : BitVec 1) (s : BitVec 3) (l : BitVec 2) (m : BitVec 1) : Encoding.Statement (.vspawn k a d n q s l m) := by
  refine Encoding.of_core rfl rfl ?_
  rw [decodeOpcode, Encoding.fld_35_28_4]
  show decodeUE _ = _
  rw [decodeUE, Encoding.fld_35_24_5]
  show some (Instr.vspawn (fld _ 21 3) (fld _ 16 5) (fld _ 11 5) (fld _ 10 1) (fld _ 9 1) (fld _ 5 3) (fld _ 3 2) (fld _ 2 1)) = _
  rw [Encoding.fld_35_21_3, Encoding.fld_35_16_5, Encoding.fld_35_11_5, Encoding.fld_35_10_1, Encoding.fld_35_9_1, Encoding.fld_35_5_3, Encoding.fld_35_3_2, Encoding.fld_35_2_1]

theorem Encoding.vsend (k : BitVec 3) (a : BitVec 5) (d : BitVec 5) (n : BitVec 1) (q : BitVec 1) (s : BitVec 3) (l : BitVec 2) (m : BitVec 1) : Encoding.Statement (.vsend k a d n q s l m) := by
  refine Encoding.of_core rfl rfl ?_
  rw [decodeOpcode, Encoding.fld_35_28_4]
  show decodeUE _ = _
  rw [decodeUE, Encoding.fld_35_24_5]
  show some (Instr.vsend (fld _ 21 3) (fld _ 16 5) (fld _ 11 5) (fld _ 10 1) (fld _ 9 1) (fld _ 5 3) (fld _ 3 2) (fld _ 2 1)) = _
  rw [Encoding.fld_35_21_3, Encoding.fld_35_16_5, Encoding.fld_35_11_5, Encoding.fld_35_10_1, Encoding.fld_35_9_1, Encoding.fld_35_5_3, Encoding.fld_35_3_2, Encoding.fld_35_2_1]

theorem Encoding.qpush (k : BitVec 3) (a : BitVec 5) (d : BitVec 5) (n : BitVec 1) (q : BitVec 1) (s : BitVec 3) (l : BitVec 2) (m : BitVec 1) : Encoding.Statement (.qpush k a d n q s l m) := by
  refine Encoding.of_core rfl rfl ?_
  rw [decodeOpcode, Encoding.fld_35_28_4]
  show decodeUE _ = _
  rw [decodeUE, Encoding.fld_35_24_5]
  show some (Instr.qpush (fld _ 21 3) (fld _ 16 5) (fld _ 11 5) (fld _ 10 1) (fld _ 9 1) (fld _ 5 3) (fld _ 3 2) (fld _ 2 1)) = _
  rw [Encoding.fld_35_21_3, Encoding.fld_35_16_5, Encoding.fld_35_11_5, Encoding.fld_35_10_1, Encoding.fld_35_9_1, Encoding.fld_35_5_3, Encoding.fld_35_3_2, Encoding.fld_35_2_1]

theorem Encoding.bsend (k : BitVec 3) (a : BitVec 5) (d : BitVec 5) (n : BitVec 1) (q : BitVec 1) (s : BitVec 3) (l : BitVec 2) (m : BitVec 1) : Encoding.Statement (.bsend k a d n q s l m) := by
  refine Encoding.of_core rfl rfl ?_
  rw [decodeOpcode, Encoding.fld_35_28_4]
  show decodeUE _ = _
  rw [decodeUE, Encoding.fld_35_24_5]
  show some (Instr.bsend (fld _ 21 3) (fld _ 16 5) (fld _ 11 5) (fld _ 10 1) (fld _ 9 1) (fld _ 5 3) (fld _ 3 2) (fld _ 2 1)) = _
  rw [Encoding.fld_35_21_3, Encoding.fld_35_16_5, Encoding.fld_35_11_5, Encoding.fld_35_10_1, Encoding.fld_35_9_1, Encoding.fld_35_5_3, Encoding.fld_35_3_2, Encoding.fld_35_2_1]

theorem Encoding.vgive (k : BitVec 3) (a : BitVec 5) (d : BitVec 5) (n : BitVec 1) (r : BitVec 1) (s : BitVec 3) (l : BitVec 2) (m : BitVec 1) : Encoding.Statement (.vgive k a d n r s l m) := by
  refine Encoding.of_core rfl rfl ?_
  rw [decodeOpcode, Encoding.fld_35_28_4]
  show decodeUE _ = _
  rw [decodeUE, Encoding.fld_35_24_5]
  show some (Instr.vgive (fld _ 21 3) (fld _ 16 5) (fld _ 11 5) (fld _ 10 1) (fld _ 8 1) (fld _ 5 3) (fld _ 3 2) (fld _ 2 1)) = _
  rw [Encoding.fld_35_21_3, Encoding.fld_35_16_5, Encoding.fld_35_11_5, Encoding.fld_35_10_1, Encoding.fld_35_8_1, Encoding.fld_35_5_3, Encoding.fld_35_3_2, Encoding.fld_35_2_1]

theorem Encoding.vborrow (k : BitVec 3) (a : BitVec 5) (d : BitVec 5) (n : BitVec 1) (l : BitVec 2) : Encoding.Statement (.vborrow k a d n l) := by
  refine Encoding.of_core rfl rfl ?_
  rw [decodeOpcode, Encoding.fld_36_28_4]
  show decodeUE _ = _
  rw [decodeUE, Encoding.fld_36_24_5]
  show some (Instr.vborrow (fld _ 21 3) (fld _ 16 5) (fld _ 11 5) (fld _ 10 1) (fld _ 3 2)) = _
  rw [Encoding.fld_36_21_3, Encoding.fld_36_16_5, Encoding.fld_36_11_5, Encoding.fld_36_10_1, Encoding.fld_36_3_2]

theorem Encoding.nbSld (r : BitVec 1) (s : BitVec 7) (c : BitVec 3) : Encoding.Statement (.nbSld r s c) := by
  refine Encoding.of_near rfl rfl ?_
  rw [decodeNear, Encoding.fld_37_27_5]
  show some (Instr.nbSld (fld _ 26 1) (fld _ 18 7) (fld _ 9 3)) = _
  rw [Encoding.fld_37_26_1, Encoding.fld_37_18_7, Encoding.fld_37_9_3]

theorem Encoding.nbSst (r : BitVec 1) (s : BitVec 7) (b : BitVec 2) : Encoding.Statement (.nbSst r s b) := by
  refine Encoding.of_near rfl rfl ?_
  rw [decodeNear, Encoding.fld_38_27_5]
  show some (Instr.nbSst (fld _ 26 1) (fld _ 18 7) (fld _ 9 2)) = _
  rw [Encoding.fld_38_26_1, Encoding.fld_38_18_7, Encoding.fld_38_9_2]

theorem Encoding.nbKey (a : BitVec 9) (b : BitVec 9) (c : BitVec 9) : Encoding.Statement (.nbKey a b c) := by
  refine Encoding.of_near rfl rfl ?_
  rw [decodeNear, Encoding.fld_39_27_5]
  show some (Instr.nbKey (fld _ 18 9) (fld _ 9 9) (fld _ 0 9)) = _
  rw [Encoding.fld_39_18_9, Encoding.fld_39_9_9, Encoding.fld_39_0_9]

theorem Encoding.nbMask (a : BitVec 9) (b : BitVec 9) (c : BitVec 9) : Encoding.Statement (.nbMask a b c) := by
  refine Encoding.of_near rfl rfl ?_
  rw [decodeNear, Encoding.fld_39_27_5]
  show some (Instr.nbMask (fld _ 18 9) (fld _ 9 9) (fld _ 0 9)) = _
  rw [Encoding.fld_39_18_9, Encoding.fld_39_9_9, Encoding.fld_39_0_9]

theorem Encoding.nbCmp (m : BitVec 2) (t : BitVec 1) : Encoding.Statement (.nbCmp m t) := by
  refine Encoding.of_near rfl rfl ?_
  rw [decodeNear, Encoding.fld_40_27_5]
  show some (Instr.nbCmp (fld _ 19 2) (fld _ 18 1)) = _
  rw [Encoding.fld_40_19_2, Encoding.fld_40_18_1]

theorem Encoding.nbWr (t : BitVec 1) : Encoding.Statement (.nbWr t) := by
  refine Encoding.of_near rfl rfl ?_
  rw [decodeNear, Encoding.fld_41_27_5]
  show some (Instr.nbWr (fld _ 18 1)) = _
  rw [Encoding.fld_41_18_1]

theorem Encoding.nbTagand (d : BitVec 1) (a : BitVec 1) (b : BitVec 1) : Encoding.Statement (.nbTagand d a b) := by
  refine Encoding.of_near rfl rfl ?_
  rw [decodeNear, Encoding.fld_42_27_5]
  show some (Instr.nbTagand (fld _ 18 1) (fld _ 9 1) (fld _ 0 1)) = _
  rw [Encoding.fld_42_18_1, Encoding.fld_42_9_1, Encoding.fld_42_0_1]

theorem Encoding.nbTagor (d : BitVec 1) (a : BitVec 1) (b : BitVec 1) : Encoding.Statement (.nbTagor d a b) := by
  refine Encoding.of_near rfl rfl ?_
  rw [decodeNear, Encoding.fld_42_27_5]
  show some (Instr.nbTagor (fld _ 18 1) (fld _ 9 1) (fld _ 0 1)) = _
  rw [Encoding.fld_42_18_1, Encoding.fld_42_9_1, Encoding.fld_42_0_1]

theorem Encoding.nbTagnot (d : BitVec 1) (a : BitVec 1) : Encoding.Statement (.nbTagnot d a) := by
  refine Encoding.of_near rfl rfl ?_
  rw [decodeNear, Encoding.fld_43_27_5]
  show some (Instr.nbTagnot (fld _ 18 1) (fld _ 9 1)) = _
  rw [Encoding.fld_43_18_1, Encoding.fld_43_9_1]

theorem Encoding.nbTagsh (d : BitVec 1) (a : BitVec 1) (n : BitVec 9) : Encoding.Statement (.nbTagsh d a n) := by
  refine Encoding.of_near rfl rfl ?_
  rw [decodeNear, Encoding.fld_43_27_5]
  show some (Instr.nbTagsh (fld _ 18 1) (fld _ 9 1) (fld _ 0 9)) = _
  rw [Encoding.fld_43_18_1, Encoding.fld_43_9_1, Encoding.fld_43_0_9]

theorem Encoding.nbLoop (n : BitVec 9) : Encoding.Statement (.nbLoop n) := by
  refine Encoding.of_near rfl rfl ?_
  rw [decodeNear, Encoding.fld_44_27_5]
  show some (Instr.nbLoop (fld _ 18 9)) = _
  rw [Encoding.fld_44_18_9]

theorem Encoding.nbEnd : Encoding.Statement .nbEnd := by
  exact Encoding.of_near rfl rfl rfl

theorem Encoding.clauseFetch (a1 : Nat) (a2 : BitVec 32) :
    Encoding.Statement (.clauseFetch a1 a2) := Encoding.of_none rfl rfl

theorem Encoding.issueChoice (a1 : Nat) :
    Encoding.Statement (.issueChoice a1) := Encoding.of_none rfl rfl

theorem Encoding.gangPromotion (a1 : Nat) (a2 : Nat) (a3 : BitVec 32) :
    Encoding.Statement (.gangPromotion a1 a2 a3) := Encoding.of_none rfl rfl

theorem Encoding.engineCommandAccept (a1 : Nat) (a2 : Nat) :
    Encoding.Statement (.engineCommandAccept a1 a2) := Encoding.of_none rfl rfl

theorem Encoding.trackedOpComplete (a1 : Nat) (a2 : Nat) :
    Encoding.Statement (.trackedOpComplete a1 a2) := Encoding.of_none rfl rfl

theorem Encoding.storeQueueLeave (a1 : Nat) :
    Encoding.Statement (.storeQueueLeave a1) := Encoding.of_none rfl rfl

theorem Encoding.spinDemotionEnd (a1 : Nat) (a2 : BitVec 32) :
    Encoding.Statement (.spinDemotionEnd a1 a2) := Encoding.of_none rfl rfl

theorem Encoding.spinDemotionTimeout (a1 : Nat) (a2 : BitVec 32) :
    Encoding.Statement (.spinDemotionTimeout a1 a2) := Encoding.of_none rfl rfl

theorem Encoding.warpEnd (a1 : Nat) :
    Encoding.Statement (.warpEnd a1) := Encoding.of_none rfl rfl

theorem Encoding.poisonTrap (a1 : Nat) :
    Encoding.Statement (.poisonTrap a1) := Encoding.of_none rfl rfl

theorem Encoding.debugConfigPost (a1 : Nat) (a2 : List (BitVec 32)) :
    Encoding.Statement (.debugConfigPost a1 a2) := Encoding.of_none rfl rfl

theorem Encoding.collectionPost (a1 : Nat) (a2 : Nat) :
    Encoding.Statement (.collectionPost a1 a2) := Encoding.of_none rfl rfl

theorem Encoding.convergenceTimeout (a1 : Nat) (a2 : Nat) :
    Encoding.Statement (.convergenceTimeout a1 a2) := Encoding.of_none rfl rfl

theorem Encoding.preemptionRequest (a1 : Nat) :
    Encoding.Statement (.preemptionRequest a1) := Encoding.of_none rfl rfl

theorem Encoding.groupRestore (a1 : Nat) (a2 : Nat) :
    Encoding.Statement (.groupRestore a1 a2) := Encoding.of_none rfl rfl

theorem Encoding.groupAdmit (a1 : Nat) :
    Encoding.Statement (.groupAdmit a1) := Encoding.of_none rfl rfl

theorem Encoding.admissionStarvation (a1 : Nat) :
    Encoding.Statement (.admissionStarvation a1) := Encoding.of_none rfl rfl

theorem Encoding.launchForward (a1 : Nat) (a2 : Nat) :
    Encoding.Statement (.launchForward a1 a2) := Encoding.of_none rfl rfl

theorem Encoding.hostQueueDoorbell (a1 : Nat) (a2 : BitVec 64) :
    Encoding.Statement (.hostQueueDoorbell a1 a2) := Encoding.of_none rfl rfl

theorem Encoding.stealRequest (a1 : Nat) :
    Encoding.Statement (.stealRequest a1) := Encoding.of_none rfl rfl

theorem Encoding.stealReply (a1 : Nat) :
    Encoding.Statement (.stealReply a1) := Encoding.of_none rfl rfl

theorem Encoding.remainderReport (a1 : Nat) :
    Encoding.Statement (.remainderReport a1) := Encoding.of_none rfl rfl

theorem Encoding.congestionSample (a1 : Nat) (a2 : List Nat) (a3 : List (Nat × Nat)) :
    Encoding.Statement (.congestionSample a1 a2 a3) := Encoding.of_none rfl rfl

theorem Encoding.memoryRequest (a1 : Nat) :
    Encoding.Statement (.memoryRequest a1) := Encoding.of_none rfl rfl

theorem Encoding.pageServiceComplete (a1 : Nat) (a2 : Nat) (a3 : Nat) (a4 : Nat) (a5 : Nat) :
    Encoding.Statement (.pageServiceComplete a1 a2 a3 a4 a5) := Encoding.of_none rfl rfl

theorem Encoding.walkerFill (a1 : Nat) (a2 : Nat) (a3 : Nat) (a4 : Nat) (a5 : Bool) :
    Encoding.Statement (.walkerFill a1 a2 a3 a4 a5) := Encoding.of_none rfl rfl

theorem Encoding.pageEntryChange (a1 : Nat) (a2 : Nat) (a3 : Nat) (a4 : BitVec 64) :
    Encoding.Statement (.pageEntryChange a1 a2 a3 a4) := Encoding.of_none rfl rfl

theorem Encoding.translationInvalidation (a1 : Nat) (a2 : Nat) :
    Encoding.Statement (.translationInvalidation a1 a2) := Encoding.of_none rfl rfl

theorem Encoding.invalidationAck (a1 : Nat) (a2 : Nat) :
    Encoding.Statement (.invalidationAck a1 a2) := Encoding.of_none rfl rfl

theorem Encoding.bufferShootdown (a1 : Nat) (a2 : Nat) (a3 : List (BitVec 64)) :
    Encoding.Statement (.bufferShootdown a1 a2 a3) := Encoding.of_none rfl rfl

theorem Encoding.agingVisit (a1 : Nat) :
    Encoding.Statement (.agingVisit a1) := Encoding.of_none rfl rfl

theorem Encoding.pageEviction (a1 : Nat) (a2 : Nat) (a3 : Nat) (a4 : Nat) (a5 : Bool) :
    Encoding.Statement (.pageEviction a1 a2 a3 a4 a5) := Encoding.of_none rfl rfl

theorem Encoding.pageMigration (a1 : Nat) (a2 : Nat) (a3 : Nat) (a4 : Nat) (a5 : Nat) :
    Encoding.Statement (.pageMigration a1 a2 a3 a4 a5) := Encoding.of_none rfl rfl

theorem Encoding.migrationSwitch (a1 : Nat) (a2 : Nat) (a3 : Nat) :
    Encoding.Statement (.migrationSwitch a1 a2 a3) := Encoding.of_none rfl rfl

theorem Encoding.scrub (a1 : Nat) :
    Encoding.Statement (.scrub a1) := Encoding.of_none rfl rfl

theorem Encoding.rowCopyComplete (a1 : Nat) (a2 : Nat) (a3 : Nat) :
    Encoding.Statement (.rowCopyComplete a1 a2 a3) := Encoding.of_none rfl rfl

theorem Encoding.registerWrite (a1 : Nat) (a2 : Nat) (a3 : BitVec 64) :
    Encoding.Statement (.registerWrite a1 a2 a3) := Encoding.of_none rfl rfl

theorem Encoding.tileCommandStart (a1 : Nat) (a2 : Nat) :
    Encoding.Statement (.tileCommandStart a1 a2) := Encoding.of_none rfl rfl

theorem Encoding.walkAheadFill (a1 : Nat) (a2 : Nat) (a3 : Nat) :
    Encoding.Statement (.walkAheadFill a1 a2 a3) := Encoding.of_none rfl rfl

theorem Encoding.sectorDeliver (a1 : Nat) (a2 : Nat) (a3 : Nat) :
    Encoding.Statement (.sectorDeliver a1 a2 a3) := Encoding.of_none rfl rfl

theorem Encoding.tmcastReady (a1 : Nat) (a2 : Nat) (a3 : Nat) :
    Encoding.Statement (.tmcastReady a1 a2 a3) := Encoding.of_none rfl rfl

theorem Encoding.tmcastSector (a1 : Nat) (a2 : Nat) (a3 : Nat) :
    Encoding.Statement (.tmcastSector a1 a2 a3) := Encoding.of_none rfl rfl

theorem Encoding.noticePostPlace (a1 : Nat) (a2 : Nat) :
    Encoding.Statement (.noticePostPlace a1 a2) := Encoding.of_none rfl rfl

theorem Encoding.noticeMatch (a1 : Nat) (a2 : Nat) :
    Encoding.Statement (.noticeMatch a1 a2) := Encoding.of_none rfl rfl

theorem Encoding.noticeAck (a1 : Nat) (a2 : Nat) :
    Encoding.Statement (.noticeAck a1 a2) := Encoding.of_none rfl rfl

theorem Encoding.matrixPassGrant (a1 : Nat) :
    Encoding.Statement (.matrixPassGrant a1) := Encoding.of_none rfl rfl

theorem Encoding.matrixRowResult (a1 : Nat) (a2 : Nat) :
    Encoding.Statement (.matrixRowResult a1 a2) := Encoding.of_none rfl rfl

theorem Encoding.macroMark (a1 : Nat) (a2 : Nat) :
    Encoding.Statement (.macroMark a1 a2) := Encoding.of_none rfl rfl

theorem Encoding.macroUnmark (a1 : Nat) (a2 : Nat) :
    Encoding.Statement (.macroUnmark a1 a2) := Encoding.of_none rfl rfl

theorem Encoding.orreryCombinationDone (a1 : Nat) (a2 : Nat) :
    Encoding.Statement (.orreryCombinationDone a1 a2) := Encoding.of_none rfl rfl

theorem Encoding.callHandoff (a1 : Nat) (a2 : Nat) :
    Encoding.Statement (.callHandoff a1 a2) := Encoding.of_none rfl rfl

theorem Encoding.lumenReturn (a1 : Nat) (a2 : Nat) :
    Encoding.Statement (.lumenReturn a1 a2) := Encoding.of_none rfl rfl

theorem Encoding.purseDraw (a1 : Nat) (a2 : Nat) :
    Encoding.Statement (.purseDraw a1 a2) := Encoding.of_none rfl rfl

theorem Encoding.purseRecall (a1 : Nat) (a2 : Nat) :
    Encoding.Statement (.purseRecall a1 a2) := Encoding.of_none rfl rfl

theorem Encoding.vsendMessage (a1 : Nat) (a2 : Nat) :
    Encoding.Statement (.vsendMessage a1 a2) := Encoding.of_none rfl rfl

theorem Encoding.binTimer (a1 : Nat) (a2 : Nat) :
    Encoding.Statement (.binTimer a1 a2) := Encoding.of_none rfl rfl

theorem Encoding.kick (a1 : Nat) :
    Encoding.Statement (.kick a1) := Encoding.of_none rfl rfl

theorem Encoding.nbuKernelStart (a1 : Nat) :
    Encoding.Statement (.nbuKernelStart a1) := Encoding.of_none rfl rfl

theorem Encoding.nbuPassEnd (a1 : Nat) (a2 : Nat) :
    Encoding.Statement (.nbuPassEnd a1 a2) := Encoding.of_none rfl rfl

theorem Encoding.listRefresh (a1 : Nat) :
    Encoding.Statement (.listRefresh a1) := Encoding.of_none rfl rfl

theorem Encoding.nbuInstall (a1 : Nat) (a2 : Nat) (a3 : Nat) (a4 : List (BitVec 32)) :
    Encoding.Statement (.nbuInstall a1 a2 a3 a4) := Encoding.of_none rfl rfl

theorem Encoding.contextDestroy (a1 : Nat) :
    Encoding.Statement (.contextDestroy a1) := Encoding.of_none rfl rfl

theorem Encoding.hostWrite (a1 : Nat) (a2 : BitVec 64) (a3 : List (BitVec 8)) :
    Encoding.Statement (.hostWrite a1 a2 a3) := Encoding.of_none rfl rfl

theorem Encoding.atsInvalidation (a1 : Nat) (a2 : Nat) (a3 : Nat) :
    Encoding.Statement (.atsInvalidation a1 a2 a3) := Encoding.of_none rfl rfl

theorem Encoding.pageRequestResponse (a1 : Nat) (a2 : Nat) (a3 : Nat) (a4 : Bool) (a5 : Nat) :
    Encoding.Statement (.pageRequestResponse a1 a2 a3 a4 a5) := Encoding.of_none rfl rfl

theorem Encoding.remoteAccess (a1 : Nat) (a2 : Nat) (a3 : BitVec 64) (a4 : Nat) (a5 : List (BitVec 8)) :
    Encoding.Statement (.remoteAccess a1 a2 a3 a4 a5) := Encoding.of_none rfl rfl

theorem Encoding.podBarrierArrival (a1 : Nat) (a2 : Nat) :
    Encoding.Statement (.podBarrierArrival a1 a2) := Encoding.of_none rfl rfl

theorem Encoding.podBarrierAdvance (a1 : Nat) (a2 : Nat) :
    Encoding.Statement (.podBarrierAdvance a1 a2) := Encoding.of_none rfl rfl

theorem Encoding.meridianPortFailure (a1 : Nat) (a2 : List Nat) :
    Encoding.Statement (.meridianPortFailure a1 a2) := Encoding.of_none rfl rfl

theorem Encoding.checkpoint : Encoding.Statement .checkpoint := Encoding.of_none rfl rfl

theorem Encoding.checkpointRestore : Encoding.Statement .checkpointRestore := Encoding.of_none rfl rfl

theorem Encoding.featureWordWrite (a1 : BitVec 128) :
    Encoding.Statement (.featureWordWrite a1) := Encoding.of_none rfl rfl

theorem Encoding.boot (a1 : Bool) (a2 : Nat) :
    Encoding.Statement (.boot a1 a2) := Encoding.of_none rfl rfl

theorem Encoding.attestationRequest (a1 : BitVec 256) :
    Encoding.Statement (.attestationRequest a1) := Encoding.of_none rfl rfl

theorem Encoding.monitorSample (a1 : Nat) (a2 : List Nat) (a3 : List Nat) :
    Encoding.Statement (.monitorSample a1 a2 a3) := Encoding.of_none rfl rfl

theorem Encoding.powerLimitWrite (a1 : Nat) :
    Encoding.Statement (.powerLimitWrite a1) := Encoding.of_none rfl rfl

theorem Encoding.powerClockStep (a1 : Nat) (a2 : Bool) :
    Encoding.Statement (.powerClockStep a1 a2) := Encoding.of_none rfl rfl

theorem Encoding.thermalThrottle (a1 : Nat) :
    Encoding.Statement (.thermalThrottle a1) := Encoding.of_none rfl rfl

theorem Encoding.thermalShutdown : Encoding.Statement .thermalShutdown := Encoding.of_none rfl rfl

theorem Encoding.hostEndGroup (a1 : Nat) :
    Encoding.Statement (.hostEndGroup a1) := Encoding.of_none rfl rfl

theorem Encoding.hostAtomicop (a1 : Nat) (a2 : BitVec 64) (a3 : Nat) (a4 : Bool) (a5 : BitVec 64) (a6 : BitVec 64) :
    Encoding.Statement (.hostAtomicop a1 a2 a3 a4 a5 a6) := Encoding.of_none rfl rfl

theorem Encoding.evictionComplete (a1 : Nat) (a2 : Nat) (a3 : Nat) :
    Encoding.Statement (.evictionComplete a1 a2 a3) := Encoding.of_none rfl rfl

theorem Encoding.matrixEntryComplete (a1 : Nat) (a2 : Nat) :
    Encoding.Statement (.matrixEntryComplete a1 a2) := Encoding.of_none rfl rfl

end Sys2Proof.Laws
end

