-- ==== Sys2Proof/Laws/Words.lean ====
section
/-! SUPPORT. Uniform accesses, compares, transfers and engine commands: what each shape of word does at issue. -/

namespace Sys2Proof.Machine

section Words
variable {s : State} {c : Ctx} {i : Instr}

/-! ## Uniform accesses -/

theorem uniLoads_exec {f : UMemForm} (s : State) (h : uniLoads i = some f) :
    exec i s = issue (issueFault i) (uniLoadEff f.space f.bytes f.guard f.reg f.addr) s := by
  unfold uniLoads at h
  split at h <;> try cases h
  · show execUld32 _ _ _ _ s = _
    unfold execUld32
    rw [show uniMemAddr _ _ 4 = uRefPlus _ _ from funext fun w => uRefPlus_eq _ _ 4 w]
    rfl
  · show execUld64 _ _ _ _ s = _
    unfold execUld64
    rw [show uniMemAddr _ _ 8 = uRefPlus _ _ from funext fun w => uRefPlus_eq _ _ 8 w]
    rfl
  · show execUlds _ _ _ _ s = _
    unfold execUlds
    rw [show uniLanternAddr _ _ 4 = uOffPlus _ _ from funext fun w => uOffPlus_eq _ _ 4 w]
    rfl

theorem uniStores_exec {f : UMemForm} (s : State) (h : uniStores i = some f) :
    exec i s = issue (issueFault i) (uniStoreEff f.space f.bytes f.guard f.reg f.addr) s := by
  unfold uniStores at h
  split at h <;> try cases h
  · show execUst32 _ _ _ _ s = _
    unfold execUst32
    rw [show uniMemAddr _ _ 4 = uRefPlus _ _ from funext fun w => uRefPlus_eq _ _ 4 w]
    rfl
  · show execUst64 _ _ _ _ s = _
    unfold execUst64
    rw [show uniMemAddr _ _ 8 = uRefPlus _ _ from funext fun w => uRefPlus_eq _ _ 8 w]
    rfl
  · show execUsts _ _ _ _ s = _
    unfold execUsts
    rw [show uniLanternAddr _ _ 4 = uOffPlus _ _ from funext fun w => uOffPlus_eq _ _ 4 w]
    rfl

theorem uniStores_bytes {f : UMemForm} (h : uniStores i = some f) : f.bytes = 4 ∨ f.bytes = 8 := by
  unfold uniStores at h
  split at h <;> cases h <;> simp

section Loads
variable {sp : Space} {n : Nat} {k : BitVec 3} {d : BitVec 5} {f : Warp → Dword}

theorem uniLoad_off (h : Issues s c i) (he : exec i s = issue (issueFault i) (uniLoadEff sp n k d f) s)
    (hg : guardUni k c.w = false) : Completes s c i (s.fallNow c.w.id c.g.fa none) := by
  unfold Completes
  rw [he]
  exact h.go (by simp only [uniLoadEff, hg, if_true])

theorem uniLoad_trap {t : TrapSpec} (h : Issues s c i) (he : exec i s = issue (issueFault i) (uniLoadEff sp n k d f) s)
    (hg : guardUni k c.w = true) (ht : checkUni s c sp .load n (f c.rv) = some t) : Traps s c i t := by
  unfold Traps
  rw [he]
  exact issue_trap h.ctx h.quiet h.sound (by simp only [uniLoadEff, hg, Bool.true_eq_false, if_false, ht])

theorem uniLoad_acc (h : Issues s c i) (he : exec i s = issue (issueFault i) (uniLoadEff sp n k d f) s)
    (hg : guardUni k c.w = true) (ht : checkUni s c sp .load n (f c.rv) = none) :
    CompletesAcc s c i [⟨uniLane, sp, f c.rv, n, 0⟩]
      (s.trackLoud c c.g.fa none (.accesses [⟨uniLane, sp, f c.rv, n, d.toNat, .load false⟩])) := by
  unfold CompletesAcc
  rw [he]
  exact h.acc (by
    simp only [uniLoadEff, hg, Bool.true_eq_false, if_false, ht]
    rfl)

theorem uniStore_off (h : Issues s c i) (he : exec i s = issue (issueFault i) (uniStoreEff sp n k d f) s)
    (hg : guardUni k c.w = false) : Completes s c i (s.fallNow c.w.id none c.g.fb) := by
  unfold Completes
  rw [he]
  exact h.go (by simp only [uniStoreEff, hg, if_true])

theorem uniStore_trap {t : TrapSpec} (h : Issues s c i) (he : exec i s = issue (issueFault i) (uniStoreEff sp n k d f) s)
    (hg : guardUni k c.w = true) (ht : checkUni s c sp .store n (f c.rv) = some t) : Traps s c i t := by
  unfold Traps
  rw [he]
  exact issue_trap h.ctx h.quiet h.sound (by simp only [uniStoreEff, hg, Bool.true_eq_false, if_false, ht])

theorem uniStore_full (h : Issues s c i) (he : exec i s = issue (issueFault i) (uniStoreEff sp n k d f) s)
    (hg : guardUni k c.w = true) (ht : checkUni s c sp .store n (f c.rv) = none) (hq : 16 ≤ c.w.sq.length) :
    Stalls s i := by
  unfold Stalls
  rw [he]
  exact issue_stall h.ctx h.quiet h.sound (by
    simp only [uniStoreEff, hg, Bool.true_eq_false, if_false, ht, hq, if_true])

theorem uniStore_acc (h : Issues s c i) (he : exec i s = issue (issueFault i) (uniStoreEff sp n k d f) s)
    (hg : guardUni k c.w = true) (ht : checkUni s c sp .store n (f c.rv) = none) (hq : c.w.sq.length < 16)
    (hn : n = 4 ∨ n = 8) :
    CompletesAcc s c i [⟨uniLane, sp, f c.rv, n, 1⟩]
      (s.enqueue c [⟨uniLane, sp, f c.rv, operandBytes c.rv.getS d.toNat n⟩]) := by
  unfold CompletesAcc
  rw [he]
  exact h.acc (by
    have hq' : ¬ 16 ≤ c.w.sq.length := by omega
    simp only [uniStoreEff, hg, Bool.true_eq_false, if_false, ht, hq',
      operandBytes_eq _ _ n (by omega)]
    rfl)

end Loads

/-! ## Tracked float words -/

theorem tracked_none {g : BitVec 4} {f : Rd → Nat → List RegWrite} (h : Issues s c i)
    (he : exec i s = laneTracked i g f s) (hg : c.guarded g = 0) :
    Completes s c i (s.fallNow c.w.id c.g.fa none) := by
  unfold Completes
  rw [he]
  exact h.go (by simp only [maskLanes_empty, hg, decide_true, if_true])

theorem tracked_go {g : BitVec 4} {f : Rd → Nat → List RegWrite} (h : Issues s c i)
    (he : exec i s = laneTracked i g f s) (hg : c.guarded g ≠ 0) :
    Completes s c i (s.track c c.g.fa none (.done ((maskLanes (c.guarded g)).flatMap fun l => f (c.rd l) l))) := by
  unfold Completes
  rw [he]
  exact h.go (by
    simp only [maskLanes_empty, hg, decide_false, Bool.false_eq_true, if_false]
    rfl)

/-! ## Uniform compares -/

theorem uniCompare_completes (k : BitVec 3) (x y : BitVec 2) {f : Warp → Bool} (h : Issues s c i)
    (he : exec i s = uniCompare i k x y f s) :
    Completes s c i (if guardUni k c.w then s.setWarp { c.w with k := setK (setK c.w.k x.toNat (f c.rv)) y.toNat (!f c.rv) }
      else s) := by
  unfold Completes
  rw [he]
  obtain ⟨t, h1, h2⟩ := h.go (eff := fun c s => .go (if guardUni k c.w then
    s.setWarp { c.w with k := setK (setK c.w.k x.toNat (f c.rv)) y.toNat (!f c.rv) }.unquiet else s) []) rfl
  refine ⟨t, h1, ?_⟩
  split
  · rename_i hg
    rw [if_pos hg] at h2
    exact .of_moved (unquiet_moved s _) rfl h2
  · rename_i hg
    rw [if_neg hg] at h2
    exact h2

/-! ## Engine commands -/

/-- The checks of a matrix word are those of R50 for it. -/
theorem checks_eq (i : Instr) (sub res regs : Bool) (gr : Ctx → Bool) (c : Ctx) (h1 : subfieldOk i = sub)
    (h2 : reservedOk i = res) (h3 : regsOk i = regs) (h4 : predsOk i = true) (h5 : handlerOnly i = false)
    (h6 : trapRegOutside i c = false) (h7 : beyondAllot i c = false) (h8 : grantBeyond i c = !gr c) :
    issueFault i c = checks sub res regs gr c := by
  unfold issueFault checks
  simp only [h1, h2, h3, h4, h5, h6, h7, h8]
  cases sub <;> cases res <;> cases regs <;> cases gr c <;> simp

/-- Register lists and status destinations of the tables are the words' own. -/
theorem uRegs_eq (n k : Nat) : uRegs n k = sRegs n k := rfl

theorem statusTo_eq (ns : BitVec 1) (d : BitVec 5) : statusTo ns d = statusDst ns d := by
  unfold statusTo statusDst
  have : ns = 0 ∨ ns = 1 := by revert ns; decide
  rcases this with rfl | rfl <;> rfl

theorem word_zext3 (t : BitVec 3) : word t.toNat = t.setWidth 32 := by
  apply BitVec.eq_of_toNat_eq
  simp [word]

theorem uRegs_two (n : Nat) (w : Warp) : uRegs n 2 w = [w.getS n, w.getS (n + 1)] := rfl

theorem no_tiles (n : Nat) : (n == 0) = !(decide (1 ≤ n) && true) := by
  rw [Bool.eq_iff_iff]; simp

theorem beyond_tiles (n t : Nat) : decide (n ≤ t) = !(decide (1 ≤ n) && decide (t < n)) := by
  rw [Bool.eq_iff_iff]; simp; omega

/-- A command word is a command of its table's engine code, and its checks are those of R50. -/
theorem commands_exec {f : CmdForm} (s : State) (h : commands i = some f) :
    ∃ chk : Ctx → Option Nat, (∀ c, issueFault i c = chk c) ∧
      exec i s = commandWord chk f.guard f.eop f.status f.regs s := by
  unfold commands at h
  split at h <;> try cases h
  · rename_i k sl w a
    refine ⟨checks true true true fun c => decide (1 ≤ c.grp.desc.tiles) && true, fun c => ?_, ?_⟩
    · refine checks_eq _ _ _ _ _ c ?_ ?_ ?_ rfl rfl rfl ?_ ?_
      · rfl
      · rfl
      · rfl
      · rfl
      · exact no_tiles _
    · rfl
  · rename_i k sl w a
    refine ⟨checks true true true fun c => decide (1 ≤ c.grp.desc.tiles) && true, fun c => ?_, ?_⟩
    · refine checks_eq _ _ _ _ _ c ?_ ?_ ?_ rfl rfl rfl ?_ ?_
      · rfl
      · rfl
      · rfl
      · rfl
      · exact no_tiles _
    · rfl
  · rename_i k t sl w
    refine ⟨checks true true true fun c => decide (1 ≤ c.grp.desc.tiles) && decide (t.toNat < c.grp.desc.tiles), fun c => ?_, ?_⟩
    · refine checks_eq _ _ _ _ _ c ?_ ?_ ?_ rfl rfl rfl ?_ ?_
      · rfl
      · rfl
      · rfl
      · rfl
      · exact beyond_tiles _ _
    · simp only [word_zext3]
      rfl
  · rename_i k sl w a
    refine ⟨checks true true true fun c => decide (1 ≤ c.grp.desc.tiles) && true, fun c => ?_, ?_⟩
    · refine checks_eq _ _ _ _ _ c ?_ ?_ ?_ rfl rfl rfl ?_ ?_
      · rfl
      · rfl
      · rfl
      · rfl
      · exact no_tiles _
    · rfl
  · rename_i k t sl w a
    refine ⟨checks true true (evenU a) fun c => decide (1 ≤ c.grp.desc.tiles) && decide (t.toNat < c.grp.desc.tiles), fun c => ?_, ?_⟩
    · refine checks_eq _ _ _ _ _ c ?_ ?_ ?_ rfl rfl rfl ?_ ?_
      · rfl
      · rfl
      · rfl
      · rfl
      · exact beyond_tiles _ _
    · simp only [word_zext3]
      rfl
  · rename_i k cb sd ns q r sc
    refine ⟨checks (scopeOk sc) (nostatOk ns sd) (evenU cb && decide (cb.toNat ≤ 22) && BitVec.toNat (0 : BitVec 5) % 4 == 0) fun _ => true, fun c => ?_, ?_⟩
    · refine checks_eq _ _ _ _ _ c ?_ ?_ ?_ rfl rfl rfl ?_ ?_
      · rfl
      · rfl
      · exact (Bool.and_true _).symm
      · rfl
      · rfl
    · simp only [statusTo_eq]
      rfl
  · rename_i k cb sd ns q r sc
    refine ⟨checks (scopeOk sc) (nostatOk ns sd) (evenU cb && decide (cb.toNat ≤ 22) && BitVec.toNat (0 : BitVec 5) % 4 == 0) fun _ => true, fun c => ?_, ?_⟩
    · refine checks_eq _ _ _ _ _ c ?_ ?_ ?_ rfl rfl rfl ?_ ?_
      · rfl
      · rfl
      · exact (Bool.and_true _).symm
      · rfl
      · rfl
    · simp only [statusTo_eq]
      rfl
  · rename_i k cb sd ns q r sc mk
    refine ⟨checks (scopeOk sc) (nostatOk ns sd) (evenU cb && decide (cb.toNat ≤ 22) && BitVec.toNat mk % 4 == 0) fun _ => true, fun c => ?_, ?_⟩
    · refine checks_eq _ _ _ _ _ c ?_ ?_ ?_ rfl rfl rfl ?_ ?_
      · rfl
      · rfl
      · rfl
      · rfl
      · rfl
    · simp only [statusTo_eq]
      rfl
  · rename_i k cb sd ns q r sc m
    refine ⟨checks (scopeOk sc) (nostatOk ns sd) (evenU cb && decide (cb.toNat ≤ 22) && BitVec.toNat (0 : BitVec 5) % 4 == 0) fun _ => true, fun c => ?_, ?_⟩
    · refine checks_eq _ _ _ _ _ c ?_ ?_ ?_ rfl rfl rfl ?_ ?_
      · rfl
      · rfl
      · exact (Bool.and_true _).symm
      · rfl
      · rfl
    · simp only [statusTo_eq]
      rfl
  · rename_i k a b r
    refine ⟨checks true true true fun _ => true, fun c => ?_, ?_⟩
    · refine checks_eq _ _ _ _ _ c ?_ ?_ ?_ rfl rfl rfl ?_ ?_
      · rfl
      · rfl
      · rfl
      · rfl
      · rfl
    · rfl
  · rename_i k cb sd ns q r sc
    refine ⟨checks (scopeOk sc) (nostatOk ns sd) (evenU cb && decide (cb.toNat ≤ 22) && BitVec.toNat (0 : BitVec 5) % 4 == 0) fun _ => true, fun c => ?_, ?_⟩
    · refine checks_eq _ _ _ _ _ c ?_ ?_ ?_ rfl rfl rfl ?_ ?_
      · rfl
      · rfl
      · exact (Bool.and_true _).symm
      · rfl
      · rfl
    · simp only [statusTo_eq]
      rfl
  · rename_i k l d n q r sc
    refine ⟨checks (scopeOk sc) (nostatOk n d) (evenU l) fun _ => true, fun c => ?_, ?_⟩
    · refine checks_eq _ _ _ _ _ c ?_ ?_ ?_ rfl rfl rfl ?_ ?_
      · rfl
      · rfl
      · rfl
      · rfl
      · rfl
    · simp only [statusTo_eq]
      rfl
  · rename_i k a d n q r sc
    refine ⟨checks (scopeOk sc) (nostatOk n d) (evenU a) fun _ => true, fun c => ?_, ?_⟩
    · refine checks_eq _ _ _ _ _ c ?_ ?_ ?_ rfl rfl rfl ?_ ?_
      · rfl
      · rfl
      · rfl
      · rfl
      · rfl
    · simp only [statusTo_eq]
      rfl
  · rename_i k a d n q r sc
    refine ⟨checks (scopeOk sc) (nostatOk n d) (evenU a && decide (a.toNat ≤ 28)) fun _ => true, fun c => ?_, ?_⟩
    · refine checks_eq _ _ _ _ _ c ?_ ?_ ?_ rfl rfl rfl ?_ ?_
      · rfl
      · rfl
      · rfl
      · rfl
      · rfl
    · simp only [statusTo_eq]
      rfl
  · rename_i k a d n q r sc
    refine ⟨checks (scopeOk sc) (nostatOk n d) true fun _ => true, fun c => ?_, ?_⟩
    · refine checks_eq _ _ _ _ _ c ?_ ?_ ?_ rfl rfl rfl ?_ ?_
      · rfl
      · rfl
      · rfl
      · rfl
      · rfl
    · simp only [statusTo_eq]
      rfl
  · rename_i k a d n q r sc
    refine ⟨checks (scopeOk sc) (nostatOk n d) true fun _ => true, fun c => ?_, ?_⟩
    · refine checks_eq _ _ _ _ _ c ?_ ?_ ?_ rfl rfl rfl ?_ ?_
      · rfl
      · rfl
      · rfl
      · rfl
      · rfl
    · simp only [statusTo_eq]
      rfl
  · rename_i k a d n q r sc
    refine ⟨checks (scopeOk sc) (nostatOk n d) (evenU a) fun _ => true, fun c => ?_, ?_⟩
    · refine checks_eq _ _ _ _ _ c ?_ ?_ ?_ rfl rfl rfl ?_ ?_
      · rfl
      · rfl
      · rfl
      · rfl
      · rfl
    · simp only [statusTo_eq]
      rfl
  · rename_i k a d n q r sc
    refine ⟨checks (scopeOk sc) (nostatOk n d) (evenU a && decide (a.toNat ≤ 26)) fun _ => true, fun c => ?_, ?_⟩
    · refine checks_eq _ _ _ _ _ c ?_ ?_ ?_ rfl rfl rfl ?_ ?_
      · rfl
      · rfl
      · rfl
      · rfl
      · rfl
    · simp only [statusTo_eq]
      rfl
  · rename_i k a d n q r sc f
    refine ⟨checks (scopeOk sc) (nostatOk n d) true fun _ => true, fun c => ?_, ?_⟩
    · refine checks_eq _ _ _ _ _ c ?_ ?_ ?_ rfl rfl rfl ?_ ?_
      · rfl
      · rfl
      · rfl
      · rfl
      · rfl
    · simp only [statusTo_eq]
      rfl
  · rename_i k a d q sc t l
    refine ⟨checks (decide (t ≠ 3) && scopeOk sc) ((t == 0 && q == 0) || (t != 0 && l == 0)) (t == 0 || evenU a) fun _ => true, fun c => ?_, ?_⟩
    · refine checks_eq _ _ _ _ _ c ?_ ?_ ?_ rfl rfl rfl ?_ ?_
      · rfl
      · rfl
      · rfl
      · rfl
      · rfl
    · rfl
  · rename_i k a d n
    refine ⟨checks true (nostatOk n d) true fun _ => true, fun c => ?_, ?_⟩
    · refine checks_eq _ _ _ _ _ c ?_ ?_ ?_ rfl rfl rfl ?_ ?_
      · rfl
      · rfl
      · rfl
      · rfl
      · rfl
    · simp only [statusTo_eq]
      rfl
  · rename_i k a d n q sc l m
    refine ⟨checks (scopeOk sc) (nostatOk n d) (evenU a && decide (a.toNat ≤ 28)) fun _ => true, fun c => ?_, ?_⟩
    · refine checks_eq _ _ _ _ _ c ?_ ?_ ?_ rfl rfl rfl ?_ ?_
      · rfl
      · rfl
      · rfl
      · rfl
      · rfl
    · simp only [statusTo_eq]
      rfl
  · rename_i k a d n q sc l m
    refine ⟨checks (scopeOk sc) (nostatOk n d) (evenU a && decide (a.toNat ≤ 20)) fun _ => true, fun c => ?_, ?_⟩
    · refine checks_eq _ _ _ _ _ c ?_ ?_ ?_ rfl rfl rfl ?_ ?_
      · rfl
      · rfl
      · rfl
      · rfl
      · rfl
    · simp only [statusTo_eq]
      rfl
  · rename_i k a d n q sc l m
    refine ⟨checks (scopeOk sc) (nostatOk n d) (evenU a && decide (a.toNat ≤ 20)) fun _ => true, fun c => ?_, ?_⟩
    · refine checks_eq _ _ _ _ _ c ?_ ?_ ?_ rfl rfl rfl ?_ ?_
      · rfl
      · rfl
      · rfl
      · rfl
      · rfl
    · simp only [statusTo_eq]
      rfl
  · rename_i k a d n q sc l m
    refine ⟨checks (scopeOk sc) (nostatOk n d) (evenU a && decide (a.toNat ≤ 20)) fun _ => true, fun c => ?_, ?_⟩
    · refine checks_eq _ _ _ _ _ c ?_ ?_ ?_ rfl rfl rfl ?_ ?_
      · rfl
      · rfl
      · rfl
      · rfl
      · rfl
    · simp only [statusTo_eq]
      rfl
  · rename_i k a d n r sc l m
    refine ⟨checks (scopeOk sc) (nostatOk n d && (m == 1 || a == 0)) (evenU a) fun _ => true, fun c => ?_, ?_⟩
    · refine checks_eq _ _ _ _ _ c ?_ ?_ ?_ rfl rfl rfl ?_ ?_
      · rfl
      · rfl
      · rfl
      · rfl
      · rfl
    · simp only [statusTo_eq]
      rfl
  · rename_i k a d n l
    refine ⟨checks true (nostatOk n d) (evenU a) fun _ => true, fun c => ?_, ?_⟩
    · refine checks_eq _ _ _ _ _ c ?_ ?_ ?_ rfl rfl rfl ?_ ?_
      · rfl
      · rfl
      · rfl
      · rfl
      · rfl
    · simp only [statusTo_eq]
      rfl

theorem updateBy_twice {α : Type} {key : α → Nat} (f g : α → α) (l : List α) (n : Nat) (hf : ∀ x, key (f x) = key x) :
    updateBy key n g (updateBy key n f l) = updateBy key n (fun x => g (f x)) l := by
  unfold updateBy
  rw [List.map_map]
  apply List.map_congr_left
  intro x _
  simp only [Function.comp]
  by_cases h : key x = n
  · rw [if_pos h, if_pos (by rw [hf, h]), if_pos h]
  · rw [if_neg h, if_neg h, if_neg h]

theorem updWarp_twice (s : State) (n : Nat) (f g : Warp → Warp) (hf : ∀ w, (f w).id = w.id) :
    (s.updWarp n f).updWarp n g = s.updWarp n fun w => g (f w) := by
  unfold State.updWarp
  rw [updateBy_twice f g s.warps n hf]

section Commands
variable {chk : Ctx → Option Nat} {k : BitVec 3} {eop : Nat} {sd : Option Nat} {regs : Warp → List Word}

theorem command_off (h : Issues s c i) (hk : ∀ c, issueFault i c = chk c) (he : exec i s = commandWord chk k eop sd regs s)
    (hg : guardUni k c.w = false) :
    Completes s c i (s.fallNow c.w.id (if sd.isSome then c.g.fa else none) c.g.fb) := by
  unfold Completes
  rw [he]
  exact issue_go h.ctx h.quiet (hk c ▸ h.sound) (by simp only [commandEff, hg, if_true])

theorem command_full (h : Issues s c i) (hk : ∀ c, issueFault i c = chk c) (he : exec i s = commandWord chk k eop sd regs s)
    (hg : guardUni k c.w = true) (hq : 8 ≤ (s.core c.grp.coreId).cmds.length) : Stalls s i := by
  unfold Stalls
  rw [he]
  exact issue_stall h.ctx h.quiet (hk c ▸ h.sound) (by
    simp only [commandEff, hg, Bool.true_eq_false, if_false, hq, if_true])

theorem command_go (h : Issues s c i) (hk : ∀ c, issueFault i c = chk c) (he : exec i s = commandWord chk k eop sd regs s)
    (hg : guardUni k c.w = true) (hq : (s.core c.grp.coreId).cmds.length < 8) :
    Completes s c i (s.issueCmd c ⟨k, eop, sd, regs⟩) := by
  unfold Completes
  rw [he]
  refine issue_go h.ctx h.quiet (hk c ▸ h.sound) ?_
  have hq' : ¬ 8 ≤ (s.core c.grp.coreId).cmds.length := by omega
  simp only [commandEff, hg, Bool.true_eq_false, if_false, hq']
  cases sd with
  | none =>
    simp only [Option.isSome_none, Bool.false_eq_true, if_false, State.fresh, State.addOp]
    rw [updWarp_twice]
    · rfl
    · intro w; rfl
  | some d =>
    simp only [Option.isSome_some, if_true, State.fresh, State.addOp]
    rw [updWarp_twice, updWarp_twice]
    · simp only [List.append_assoc]
      rfl
    · intro w; rfl
    · intro w; rfl

end Commands

end Words

end Sys2Proof.Machine
end

