-- ==== Sys2Proof/Tests/Slice0.lean ====
section
/-! SUPPORT. Tests: terms and words that are refused, words written out from the manual's tables, a small state at which
every core word issues, and for each statement of the slice states and operands that meet its hypotheses. -/

namespace Sys2Proof.Tests
set_option Elab.async false
open Sys2Proof Sys2Proof.Machine

/-! ## A small state -/

/-- Descriptor, group, warp and gang of the tests: group 2 on core 0, warp 3, gang 4 of all 64 lanes. -/
def desc0 : KDesc :=
  { handler := 0x1000, dbgentry := 0x2000, tiles := 8, cvcount := 16, gbars := 16, qbars := 4, dbars := 4, pbars := 4
    odbars := 4, full := 96, prolog := 96, lbytes := 2 ^ 15 }
def grp0 : Group :=
  { id := 2, launch := 1, index := 0, ctx := 1, desc := desc0, die := 0, core := 0, quad := 0, acquired := true, lbase := 0
    tiles := List.range 8, bars := List.replicate 16 { exp := 1 }, conv := List.replicate 16 { expect := 1 }
    slots := List.replicate 4 {} }
def warp0 : Warp := { id := 3, group := 2, num := 0, slot := 0, lanes := List.replicate 64 {} }
def gang0 (w : Word) : Gang := { uid := 4, warp := 3, lanes := BitVec.allOnes 64, hdr := 0, index := 1, rest := [w] }

/-- Buffer 5 of context 1: two pages of 64 KiB, bank-chunked, every right; page 0 is resident in frame 3 of stack 0. -/
def buf0 : BufEntry := { size := 2 ^ 17, ctx := 1, rights := 0x1F, pgsz := 1, ilv := 4, bflags := 1, peer := 0 }
def page0 : PageEntry := { state := 1, mig := false, stack := 0, frame := 3 }
def key0 : PageKey := ⟨1, 5, 0⟩
/-- A reference into buffer 5. -/
def ref0 (off : Nat) : Dword := BitVec.ofNat 64 (5 * 2 ^ 44 + off)

def base : State :=
  { groups := [grp0], warps := [warp0], nextId := 100, bufs := [((1, 5), buf0)], pages := [(key0, page0)] }

/-- The base state with a gang at a word that issues. -/
def atWord (w : Word) : State := { base with gangs := [gang0 w], cur := 4 }

/-- The next state of an outcome. -/
def nextOf (o : Host.Outcome State Fault Refusal) : State := match o with | .next t => t | _ => {}

/-- The same in a handler that holds every lane. -/
def inHandler (w : Word) (rest : List Word := []) : State :=
  { atWord w with gangs := [{ gang0 w with rest := w :: rest }]
                  warps := [{ warp0 with handler := some { debug := false, lanes := BitVec.allOnes 64, rest := [0x41010000] } }] }

/-- The word i issues at s, and its context meets P. -/
def MeetsB (s : State) (i : Instr) (P : Ctx → Prop) [DecidablePred P] : Bool :=
  match s.ctx with
  | some c => decide (c.debugDue = none ∧ issueFault i c = none ∧ P c)
  | none => false

theorem meets {s : State} {i : Instr} {P : Ctx → Prop} [DecidablePred P] (h : MeetsB s i P = true) :
    ∃ c, Issues s c i ∧ P c := by
  unfold MeetsB at h
  split at h
  · rename_i c hc
    have := of_decide_eq_true h
    exact ⟨c, ⟨hc, this.1, this.2.1⟩, this.2.2⟩
  · cases h

/-- The word of the state decodes and issues. -/
noncomputable def issuesB (s : State) (w : Word) : Bool :=
  match decodeWord w with
  | .ok i => MeetsB s i fun _ => True
  | .error _ => false

/-! ## Ill-formed terms -/

/-- Sub-fields that the tables leave unassigned (R42, R43, R194, R200, R219, R369, R395). -/
theorem test_refuses_subfields : [Instr.atomAdd 6 0 0 8 12, .testb 3 0 1 2 0 0, .usrd 0 0 0x14, .uswr 0 0 0x0D, .bar 0 3 0 0,
    .bar 0 0 5 0, .fenceAr 0 7, .barrd 0 4 8 3, .vstat 0 4 8 4, .vstat 0 4 8 20, .tcopy 0 2 0 0 0 0 6, .tmcast 0 2 0 0 0 0 7 0,
    .launch 0 8 0 0 0 0 6, .oload 0 8 0 0 0 0 6, .ostop 0 8 0 0 0 0 6 0, .vnew 0 8 4 0 3 3 0, .vspawn 0 8 4 0 0 7 0 0,
    .vgive 0 8 4 0 0 7 0 1].all (fun i => !subfieldOk i && !WellFormed i) = true := by decide +kernel

/-- Fields reserved by others that are not zero (R167, R234, R269, R315, R349, R376, R380, R389). -/
theorem test_refuses_reserved : [Instr.cvt 1 1 0 0 8 12, .cvt 5 0 2 0 8 12, .mquery 0 4 8 1, .tcopy 0 2 4 1 0 0 0,
    .launch 0 8 4 1 0 0 0, .ostop 0 8 4 1 0 0 0 0, .vfree 0 8 4 1, .vborrow 0 8 4 1 0, .vnew 0 8 4 1 3 0 0, .vnew 0 8 4 0 3 1 2,
    .vgive 0 8 4 0 0 3 0 0].all (fun i => !reservedOk i && !WellFormed i) = true := by decide +kernel

/-- Registers that no allotment allows: a uniform register as a lane destination, odd pairs, quads and spans (R29, R190,
R193, R207, R269, R284, R358, R389, R393). -/
theorem test_refuses_registers : [Instr.add 0 96 0 0, .add64 0 9 12, .add64 0 8 13, .ld128 0 10 12 0, .ld32 0 8 13 0,
    .latomCas64 0 6 12, .ballot 0 0 97, .shflIdx 0 9 12 1, .uadd64 0 5 8 12, .ucmpI64 0 1 2 9 8 0, .uld32 0 4 9 0, .mtread 0 0 0 0 9,
    .tcopy 0 24 0 0 0 0 0, .tmcast 0 2 0 0 0 0 0 5, .launch 0 9 0 0 0 0 0, .obind 0 30 0 0 0 0 0, .odense 0 28 0 0 0 0 0,
    .otake 0 8 8 0, .vnew 0 9 4 0 3 1 0, .vspawn 0 30 4 0 0 3 0 0, .vsend 0 22 4 0 0 3 0 0, .vborrow 0 9 4 0 0,
    .qpop 0 23 8 0 0].all (fun i => !regsOk i && !WellFormed i) = true := by decide +kernel

/-- One destination predicate twice (R38, R42). -/
theorem test_refuses_predicates : [Instr.cmpI32 0 0 3 3 8 12, .testb 0 0 1 1 8 0, .ucmpI32 0 2 2 4 8 0, .ucmpi 0 4 0 1 1 5].all
    (fun i => !predsOk i && !WellFormed i) = true ∧ predsOk (.cmpI32 0 0 0 0 8 12) = true := by decide +kernel

/-- Near-bank fields that installation refuses (R409–R412). -/
theorem test_refuses_near : [Instr.nbSld 0 65 0, .nbSst 1 96 0, .nbKey 96 0 0, .nbMask 0 128 0, .nbCmp 3 0, .nbLoop 0].all
    (fun i => !nearOk i && !WellFormed i) = true ∧ nearOk (.nbKey 127 0 0) = true := by decide +kernel

/-- Words without a meaning are refused by name: an unassigned operation, a set bit that must be 0 (R50). -/
theorem test_decode_refuses : decodeOpcode 0x4FC00000 = none ∧ (∃ e, decodeWord 0x41000001 = .error e) ∧
    decodeNearWord 0xF8000000 = none := by
  refine ⟨by decide +kernel, ?_, by decide +kernel⟩
  exact ⟨_, rfl⟩

/-! ## Words of every row, written out from the tables of the chapters: fixed bits and one value in each field -/

/-- Each word decodes to the instruction beside it. -/
def Decodes (l : List (Word × Instr)) : Prop := l.map (fun x => decodeWord x.1) = l.map fun x => .ok x.2
def DecodesNear (l : List (Word × Instr)) : Prop := l.map (fun x => decodeNearWord x.1) = l.map fun x => some x.2

theorem test_decode_1 : Decodes [ -- ADD to FSUB32
    (0x00C20614, .add 6 8 0xc 0x14), (0x02C20614, .sub 6 8 0xc 0x14), (0x04C20614, .mul 6 8 0xc 0x14),
    (0x06C20614, .mulhi 6 8 0xc 0x14), (0x08C20614, .mulhn 6 8 0xc 0x14), (0x0AC20614, .and 6 8 0xc 0x14),
    (0x0CC20614, .or 6 8 0xc 0x14), (0x0EC20614, .xor 6 8 0xc 0x14), (0x10C20614, .shl 6 8 0xc 0x14),
    (0x12C20614, .shrn 6 8 0xc 0x14), (0x14C20614, .shri 6 8 0xc 0x14), (0x16C20614, .mini 6 8 0xc 0x14),
    (0x18C20614, .maxi 6 8 0xc 0x14), (0x1AC20614, .minn 6 8 0xc 0x14), (0x1CC20614, .maxn 6 8 0xc 0x14),
    (0x1EE20614, .sel 7 8 0xc 0x14), (0x20C20614, .fadd32 6 8 0xc 0x14), (0x22C20614, .fmul32 6 8 0xc 0x14),
    (0x24C20614, .ffma32 6 8 0xc 0x14), (0x26C20614, .fsub32 6 8 0xc 0x14)] := rfl

theorem test_decode_2 : Decodes [ -- FADD64 to BREV
    (0x28C20614, .fadd64 6 8 0xc 0x14), (0x2AC20614, .fmul64 6 8 0xc 0x14), (0x2CC20614, .ffma64 6 8 0xc 0x14),
    (0x2EC20614, .ffma2h 6 8 0xc 0x14), (0x30C2067D, .ld32 6 8 0xc 0x7d), (0x32C2067D, .ld64 6 8 0xc 0x7d),
    (0x34C2067D, .ld128 6 8 0xc 0x7d), (0x36C2067D, .st32 6 8 0xc 0x7d), (0x38C2067D, .st64 6 8 0xc 0x7d),
    (0x3AC2067D, .st128 6 8 0xc 0x7d), (0x3CC2067D, .lds 6 8 0xc 0x7d), (0x3EC2067D, .sts 6 8 0xc 0x7d),
    (0x4001840C, .mov 6 8 0xc), (0x4005840C, .not 6 8 0xc), (0x4009840C, .neg 6 8 0xc), (0x400D840C, .abs 6 8 0xc),
    (0x4011840C, .popc 6 8 0xc), (0x4015840C, .clz 6 8 0xc), (0x4019840C, .ctz 6 8 0xc), (0x401D840C, .brev 6 8 0xc)] := rfl

theorem test_decode_3 : Decodes [ -- SEXT8 to SHL64
    (0x4021840C, .sext8 6 8 0xc), (0x4025840C, .sext16 6 8 0xc), (0x4041840C, .andn 6 8 0xc), (0x4045840C, .orn 6 8 0xc),
    (0x4049840C, .rotl 6 8 0xc), (0x404D840C, .rotr 6 8 0xc), (0x4051840C, .addsi 6 8 0xc), (0x4055840C, .subsi 6 8 0xc),
    (0x4059840C, .addsn 6 8 0xc), (0x405D840C, .subsn 6 8 0xc), (0x4061840C, .bfxn 6 8 0xc), (0x4065840C, .bfxi 6 8 0xc),
    (0x4069840C, .bfi 6 8 0xc), (0x4081840C, .mov64 6 8 0xc), (0x4085840C, .neg64 6 8 0xc), (0x4089840C, .sext64 6 8 0xc),
    (0x4091840C, .add64 6 8 0xc), (0x4095840C, .sub64 6 8 0xc), (0x4099840C, .mul64 6 8 0xc), (0x40A1840C, .shl64 6 8 0xc)] := rfl

theorem test_decode_4 : Decodes [ -- SHRN64 to FDIV64
    (0x40A5840C, .shrn64 6 8 0xc), (0x40A9840C, .shri64 6 8 0xc), (0x40B1840C, .mini64 6 8 0xc),
    (0x40B5840C, .maxi64 6 8 0xc), (0x40B9840C, .minn64 6 8 0xc), (0x40BD840C, .maxn64 6 8 0xc),
    (0x40C1840C, .mulwi 6 8 0xc), (0x40C5840C, .mulwn 6 8 0xc), (0x40C9840C, .popc64 6 8 0xc), (0x40CD840C, .clz64 6 8 0xc),
    (0x41018000, .exit 6), (0x4105800C, .brr 6 0xc), (0x4109840C, .callr 6 8 0xc), (0x410D800C, .meetr 6 0xc),
    (0x4201840C, .fmin32 6 8 0xc), (0x4205840C, .fmax32 6 8 0xc), (0x4209840C, .fmin64 6 8 0xc),
    (0x420D840C, .fmax64 6 8 0xc), (0x4211840C, .fdiv32 6 8 0xc), (0x4215840C, .fdiv64 6 8 0xc)] := rfl

theorem test_decode_5 : Decodes [ -- FSQRT32 to LD16N
    (0x4219840C, .fsqrt32 6 8 0xc), (0x421D840C, .fsqrt64 6 8 0xc), (0x4221840C, .frsqrt32 6 8 0xc),
    (0x4225840C, .frsqrt64 6 8 0xc), (0x4229840C, .frcp32 6 8 0xc), (0x422D840C, .frcp64 6 8 0xc),
    (0x4231840C, .fexp2 6 8 0xc), (0x4235840C, .flog2 6 8 0xc), (0x4241840C, .fneg32 6 8 0xc),
    (0x4245840C, .fabs32 6 8 0xc), (0x4249840C, .fneg64 6 8 0xc), (0x424D840C, .fabs64 6 8 0xc),
    (0x4251840C, .ffma2b 6 8 0xc), (0x4261840C, .fclass32 6 8 0xc), (0x4265840C, .fclass64 6 8 0xc),
    (0x4269840C, .fclass16 6 8 0xc), (0x4419840C, .cvt 0 1 2 6 8 0xc), (0x4301840C, .ld8n 6 8 0xc),
    (0x4305840C, .ld8i 6 8 0xc), (0x4309840C, .ld16n 6 8 0xc)] := rfl

theorem test_decode_6 : Decodes [ -- LD16I to LATOM_ADD
    (0x430D840C, .ld16i 6 8 0xc), (0x4311840C, .st8 6 8 0xc), (0x4315840C, .st16 6 8 0xc), (0x4321840C, .lds8n 6 8 0xc),
    (0x4325840C, .lds8i 6 8 0xc), (0x4329840C, .lds16n 6 8 0xc), (0x432D840C, .lds16i 6 8 0xc), (0x4331840C, .sts8 6 8 0xc),
    (0x4335840C, .sts16 6 8 0xc), (0x4339840C, .lds64 6 8 0xc), (0x433D840C, .lds128 6 8 0xc), (0x4341840C, .sts64 6 8 0xc),
    (0x4345840C, .sts128 6 8 0xc), (0x4361840C, .gredAdd 6 8 0xc), (0x4365840C, .gredFadd32 6 8 0xc),
    (0x4369840C, .gredMini 6 8 0xc), (0x436D840C, .gredMaxi 6 8 0xc), (0x4371840C, .gredMinn 6 8 0xc),
    (0x4375840C, .gredMaxn 6 8 0xc), (0x4381840C, .latomAdd 6 8 0xc)] := rfl

theorem test_decode_7 : Decodes [ -- LATOM_AND to ATOM_MINN
    (0x4385840C, .latomAnd 6 8 0xc), (0x4389840C, .latomOr 6 8 0xc), (0x438D840C, .latomXor 6 8 0xc),
    (0x4391840C, .latomMini 6 8 0xc), (0x4395840C, .latomMaxi 6 8 0xc), (0x4399840C, .latomMinn 6 8 0xc),
    (0x439D840C, .latomMaxn 6 8 0xc), (0x43A1840C, .latomSwap 6 8 0xc), (0x43A5840C, .latomCas 6 8 0xc),
    (0x43A9840C, .latomAdd64 6 8 0xc), (0x43AD840C, .latomSwap64 6 8 0xc), (0x43B1840C, .latomCas64 6 8 0xc),
    (0x43B5840C, .latomFadd32 6 8 0xc), (0x4839840C, .atomAdd 3 2 6 8 0xc), (0x48B9840C, .atomAnd 3 2 6 8 0xc),
    (0x4939840C, .atomOr 3 2 6 8 0xc), (0x49B9840C, .atomXor 3 2 6 8 0xc), (0x4A39840C, .atomMini 3 2 6 8 0xc),
    (0x4AB9840C, .atomMaxi 3 2 6 8 0xc), (0x4B39840C, .atomMinn 3 2 6 8 0xc)] := rfl

theorem test_decode_8 : Decodes [ -- ATOM_MAXN to XORI
    (0x4BB9840C, .atomMaxn 3 2 6 8 0xc), (0x4C39840C, .atomSwap 3 2 6 8 0xc), (0x4CB9840C, .atomCas 3 2 6 8 0xc),
    (0x4D39840C, .atomAdd64 3 2 6 8 0xc), (0x4DB9840C, .atomSwap64 3 2 6 8 0xc), (0x4E39840C, .atomCas64 3 2 6 8 0xc),
    (0x4EB9840C, .atomFadd32 3 2 6 8 0xc), (0x50C54614, .cmpI32 1 4 2 5 0xc 0x14), (0x52C54614, .cmpN32 1 4 2 5 0xc 0x14),
    (0x54C54614, .cmpI64 1 4 2 5 0xc 0x14), (0x56C54614, .fcmpF32 1 4 2 5 0xc 0x14),
    (0x58C54614, .fcmpF64 1 4 2 5 0xc 0x14), (0x5AC54655, .cmpiI32 1 4 2 5 0xc 0x55),
    (0x5CC54614, .fcmpF16 1 4 2 5 0xc 0x14), (0x5EC54614, .testb 1 4 2 5 0xc 0x14), (0x60C22ABC, .movi 6 8 0x2abc),
    (0x62C22ABC, .addi 6 8 0x2abc), (0x64C22ABC, .andi 6 8 0x2abc), (0x66C22ABC, .ori 6 8 0x2abc),
    (0x68C22ABC, .xori 6 8 0x2abc)] := rfl

theorem test_decode_9 : Decodes [ -- BRL to UADD
    (0x6AC02ABC, .brl 6 0x2abc), (0x6CC22ABC, .meet 6 8 0x2abc), (0x6EC22ABC, .calll 6 8 0x2abc),
    (0x70628800, .ballot 3 5 8), (0x71628801, .vote 3 5 8 1), (0x72028819, .matchMembers 5 8 0xc 1),
    (0x73028819, .shflIdx 5 8 0xc 1), (0x74028819, .shflUp 5 8 0xc 1), (0x75028819, .shflDown 5 8 0xc 1),
    (0x76028819, .shflXor 5 8 0xc 1), (0x77028819, .reduceAdd 5 8 0xc 1), (0x78028819, .reduceMin 5 8 0xc 1),
    (0x79028819, .reduceMax 5 8 0xc 1), (0x7A028819, .reduceAnd 5 8 0xc 1), (0x7B028819, .reduceOr 5 8 0xc 1),
    (0x7C028819, .reduceXor 5 8 0xc 1), (0x7D028819, .scanAdd 5 8 0xc 1), (0x7E028819, .scanMin 5 8 0xc 1),
    (0x7F028819, .scanMax 5 8 0xc 1), (0x80522180, .uadd 5 4 8 0xc)] := rfl

theorem test_decode_10 : Decodes [ -- USUB to UST32
    (0x80D22180, .usub 5 4 8 0xc), (0x81522180, .umul 5 4 8 0xc), (0x81D22180, .umulhi 5 4 8 0xc),
    (0x82522180, .uand 5 4 8 0xc), (0x82D22180, .uor 5 4 8 0xc), (0x83522180, .uxor 5 4 8 0xc),
    (0x83D22180, .ushl 5 4 8 0xc), (0x84522180, .ushrn 5 4 8 0xc), (0x84D22180, .ushri 5 4 8 0xc),
    (0x85522180, .umini 5 4 8 0xc), (0x85D22180, .umaxi 5 4 8 0xc), (0x86522184, .usel 5 4 8 0xc 2 0),
    (0x86D22180, .uadd64 5 4 8 0xc), (0x87522180, .usub64 5 4 8 0xc), (0x88532181, .ucmpI32 5 1 2 8 0xc 1),
    (0x88D32181, .ucmpN32 5 1 2 8 0xc 1), (0x89532181, .ucmpI64 5 1 2 8 0xc 1), (0x89D2201B, .uld32 5 4 8 0x1b),
    (0x8A52201B, .uld64 5 4 8 0x1b), (0x8AD2201B, .ust32 5 4 8 0x1b)] := rfl

theorem test_decode_11 : Decodes [ -- UST64 to PREAD
    (0x8B52201B, .ust64 5 4 8 0x1b), (0x8BD2201B, .ulds 5 4 8 0x1b), (0x8C52201B, .usts 5 4 8 0x1b),
    (0x8CD2000E, .usrd 5 4 0xe), (0x8D50200E, .uswr 5 8 0xe), (0x8DD58009, .bar 5 1 3 9), (0x8E500000, .acquire 5),
    (0x8ED00000, .yield 5), (0x8F502000, .mwait 5 8), (0x8FD0200B, .trap 5 8 0xb), (0x90500003, .fenceNear 5 3),
    (0x90D00003, .fenceFar 5 3), (0x91500003, .fenceAcq 5 3), (0x91D00003, .fenceRel 5 3), (0x92500003, .fenceAr 5 3),
    (0x92D00003, .fenceSc 5 3), (0x93500001, .rtt 5 1), (0x93D22180, .lread 5 4 8 0xc), (0x94522180, .lwrite 5 4 8 0xc),
    (0x94D22000, .pread 5 4 8)] := rfl

theorem test_decode_12 : Decodes [ -- PWRITE to CLAUSE
    (0x95522000, .pwrite 5 4 8), (0x95D22001, .mread 5 4 8 1), (0x96522001, .mwrite 5 4 8 1), (0x96D22002, .barrd 5 4 8 2),
    (0x97522002, .barwr 5 4 8 2), (0x97D22180, .swait 5 4 8 0xc), (0x98520002, .mquery 5 4 0 2),
    (0x98D82001, .otake 5 0x10 8 1), (0x99522000, .owait 5 4 8), (0x99D2200B, .ostat 5 4 8 0xb),
    (0x9A522006, .qpop 5 4 8 1 2), (0x9AD22006, .vwaitq 5 4 8 1 2), (0x9B522011, .vstat 5 4 8 0x11),
    (0xA1495A5A, .umovi 5 4 0x15a5a), (0xA3495A5A, .ului 5 4 0x15a5a), (0xA5495A5A, .uaddi 5 4 0x15a5a),
    (0xA7495A5A, .uandi 5 4 0x15a5a), (0xA9495A5A, .uori 5 4 0x15a5a), (0xAB48B5A5, .ucmpi 5 4 1 1 2 0x5a5),
    (0xC07A5C59, .clause 7 0xa5c 5 9)] := rfl

theorem test_decode_13 : Decodes [ -- BRA to OBIND
    (0xC1BFFFF3, .bra 5 0x1ffff3), (0xC2BFFFF3, .call 5 0x1ffff3), (0xC3BFFFF3, .brx 5 0x1ffff3), (0xC4A00000, .ret 5),
    (0xE0AC8000, .cset 5 6 8), (0xE1ACD6B7, .mma 5 6 3 0x5a 0x1b 1), (0xE2A0D690, .mstat 5 3 0x5a 8),
    (0xE3A0D690, .munstat 5 3 0x5a 8), (0xE4A8D680, .mzero 5 4 3 0x5a), (0xE5A0D690, .scac 5 3 0x5a 8),
    (0xE6A8D690, .mtread 5 4 3 0x5a 8), (0xE8AA2360, .tcopy 5 0xa 4 0 1 1 3), (0xE9AA2360, .tstore 5 0xa 4 0 1 1 3),
    (0xEAAA236C, .tmcast 5 0xa 4 0 1 1 3 0xc), (0xEBAA2361, .tnotice 5 0xa 4 0 1 1 3 1), (0xECA86400, .sarm 5 8 0xc 1),
    (0xEDAA2360, .tpref 5 0xa 4 0 1 1 3), (0xEEA82360, .launch 5 8 4 0 1 1 3), (0xF0A82360, .oload 5 8 4 0 1 1 3),
    (0xF1A82360, .obind 5 8 4 0 1 1 3)] := rfl

theorem test_decode_14 : Decodes [ -- ORUN to VBORROW
    (0xF2A82360, .orun 5 8 4 0 1 1 3), (0xF3A82360, .ostep 5 8 4 0 1 1 3), (0xF4A82360, .odone 5 8 4 0 1 1 3),
    (0xF5A82360, .odense 5 8 4 0 1 1 3), (0xF6A82361, .ostop 5 8 4 0 1 1 3 1), (0xF7A82270, .vnew 5 8 4 1 3 2 0),
    (0xF8A82000, .vfree 5 8 4 0), (0xF9A82274, .vspawn 5 8 4 0 1 3 2 1), (0xFAA82274, .vsend 5 8 4 0 1 3 2 1),
    (0xFBA82274, .qpush 5 8 4 0 1 3 2 1), (0xFCA82274, .bsend 5 8 4 0 1 3 2 1), (0xFDA82174, .vgive 5 8 4 0 1 3 2 1),
    (0xFEA82010, .vborrow 5 8 4 0 2)] := rfl

theorem test_decode_near : DecodesNear [
    (0x0CD40600, .nbSld 1 0x35 3), (0x14D40400, .nbSst 1 0x35 2), (0x1C15465F, .nbKey 0x105 0xa3 0x5f),
    (0x2414465F, .nbMask 0x105 0x23 0x5f), (0x280C0000, .nbCmp 1 1), (0x30040000, .nbWr 1), (0x38040001, .nbTagand 1 0 1),
    (0x40040001, .nbTagor 1 0 1), (0x48040000, .nbTagnot 1 0), (0x500401FB, .nbTagsh 1 0 0x1fb),
    (0x5CB00000, .nbLoop 0x12c), (0x60000000, .nbEnd)] := rfl

/-! ## Every core word issues at the small state, those of a handler inside one -/

theorem test_issues_1 : [ -- ADD to CLZ64
    0x00020614, 0x02020614, 0x04020614, 0x06020614, 0x08020614, 0x0A020614, 0x0C020614, 0x0E020614, 0x10020614,
    0x12020614, 0x14020614, 0x16020614, 0x18020614, 0x1A020614, 0x1C020614, 0x1EE20614, 0x20020614, 0x22020614,
    0x24020614, 0x26020614, 0x28020614, 0x2A020614, 0x2C020614, 0x2E020614, 0x3002067D, 0x3202067D, 0x3402067D,
    0x3602067D, 0x3802067D, 0x3A02067D, 0x3C02067D, 0x3E02067D, 0x4000040C, 0x4004040C, 0x4008040C, 0x400C040C,
    0x4010040C, 0x4014040C, 0x4018040C, 0x401C040C, 0x4020040C, 0x4024040C, 0x4040040C, 0x4044040C, 0x4048040C,
    0x404C040C, 0x4050040C, 0x4054040C, 0x4058040C, 0x405C040C, 0x4060040C, 0x4064040C, 0x4068040C, 0x4080040C,
    0x4084040C, 0x4088040C, 0x4090040C, 0x4094040C, 0x4098040C, 0x40A0040C, 0x40A4040C, 0x40A8040C, 0x40B0040C,
    0x40B4040C, 0x40B8040C, 0x40BC040C, 0x40C0040C, 0x40C4040C, 0x40C8040C, 0x40CC040C].all (fun (w : Word) => issuesB (atWord w) w) = true := by decide +kernel

theorem test_issues_2 : [ -- EXIT to ATOM_MINN
    0x41000000, 0x4104000C, 0x4108040C, 0x410C000C, 0x4200040C, 0x4204040C, 0x4208040C, 0x420C040C, 0x4210040C,
    0x4214040C, 0x4218040C, 0x421C040C, 0x4220040C, 0x4224040C, 0x4228040C, 0x422C040C, 0x4230040C, 0x4234040C,
    0x4240040C, 0x4244040C, 0x4248040C, 0x424C040C, 0x4250040C, 0x4260040C, 0x4264040C, 0x4268040C, 0x4418040C,
    0x4300040C, 0x4304040C, 0x4308040C, 0x430C040C, 0x4310040C, 0x4314040C, 0x4320040C, 0x4324040C, 0x4328040C,
    0x432C040C, 0x4330040C, 0x4334040C, 0x4338040C, 0x433C040C, 0x4340040C, 0x4344040C, 0x4360040C, 0x4364040C,
    0x4368040C, 0x436C040C, 0x4370040C, 0x4374040C, 0x4380040C, 0x4384040C, 0x4388040C, 0x438C040C, 0x4390040C,
    0x4394040C, 0x4398040C, 0x439C040C, 0x43A0040C, 0x43A4040C, 0x43A8040C, 0x43AC040C, 0x43B0040C, 0x43B4040C,
    0x4838040C, 0x48B8040C, 0x4938040C, 0x49B8040C, 0x4A38040C, 0x4AB8040C, 0x4B38040C].all (fun (w : Word) => issuesB (atWord w) w) = true := by decide +kernel

theorem test_issues_3 : [ -- ATOM_MAXN to TRAP
    0x4BB8040C, 0x4C38040C, 0x4CB8040C, 0x4D38040C, 0x4DB8040C, 0x4E38040C, 0x4EB8040C, 0x50C54614, 0x52C54614,
    0x54C54614, 0x56C54614, 0x58C54614, 0x5AC54655, 0x5CC54614, 0x5EC54614, 0x60022ABC, 0x62022ABC, 0x64022ABC,
    0x66022ABC, 0x68022ABC, 0x6A002ABC, 0x6C022ABC, 0x6E022ABC, 0x70628800, 0x71628801, 0x72028819, 0x73028819,
    0x74028819, 0x75028819, 0x76028819, 0x77028819, 0x78028819, 0x79028819, 0x7A028819, 0x7B028819, 0x7C028819,
    0x7D028819, 0x7E028819, 0x7F028819, 0x80022180, 0x80822180, 0x81022180, 0x81822180, 0x82022180, 0x82822180,
    0x83022180, 0x83822180, 0x84022180, 0x84822180, 0x85022180, 0x85822180, 0x86022184, 0x86822180, 0x87022180,
    0x88032181, 0x88832181, 0x89032181, 0x8982201B, 0x8A02201B, 0x8A82201B, 0x8B02201B, 0x8B82201B, 0x8C02201B,
    0x8C82000E, 0x8D00200E, 0x8D840009, 0x8E000000, 0x8E800000, 0x8F002000, 0x8F80200B].all (fun (w : Word) => issuesB (atWord w) w) = true := by decide +kernel

theorem test_issues_4 : [ -- FENCE_NEAR to VBORROW
    0x90000003, 0x90800003, 0x91000003, 0x91800003, 0x92000003, 0x92800003, 0x97822180, 0x98020002, 0x98882001,
    0x99022000, 0x9982200B, 0x9A022006, 0x9A822006, 0x9B022011, 0xA0095A5A, 0xA2095A5A, 0xA4095A5A, 0xA6095A5A,
    0xA8095A5A, 0xAA08B5A5, 0xC07A5C59, 0xC11FFFF3, 0xC21FFFF3, 0xC31FFFF3, 0xC4000000, 0xE00C8000, 0xE10CD6B7,
    0xE200D690, 0xE300D690, 0xE408D680, 0xE500D690, 0xE608D690, 0xE80A2360, 0xE90A2360, 0xEA0A236C, 0xEB0A2361,
    0xEC086400, 0xED0A2360, 0xEE082360, 0xF0082360, 0xF1082360, 0xF2082360, 0xF3082360, 0xF4082360, 0xF5082360,
    0xF6082361, 0xF7082270, 0xF8082000, 0xF9082274, 0xFA082274, 0xFB082274, 0xFC082274, 0xFD082174, 0xFE082010].all (fun (w : Word) => issuesB (atWord w) w) = true := by decide +kernel

theorem test_issues_handler : [
    0x93000001, 0x93822180, 0x94022180, 0x94822000, 0x95022000, 0x95822001, 0x96022001, 0x96822002, 0x97022002].all (fun (w : Word) => issuesB (inHandler w) w) = true := by decide +kernel

/-! ## Words at issue that meet the statements' hypotheses -/

/-- The small state at an instruction. -/
noncomputable def atInstr (i : Instr) : State := atWord ((encodeCore i).getD 0)

/-- The same with registers of every lane, uniform registers and store-queue entries. -/
noncomputable def atRegs (i : Instr) (v s : Tab Word) (sq : List SQEntry := []) : State :=
  { atInstr i with warps := [{ warp0 with lanes := List.replicate 64 { v := v }, s := s, sq := sq }] }

/-- A reference into buffer 5, in a register pair. -/
def pair (r off : Nat) : Tab Word := [(r, BitVec.ofNat 32 off), (r + 1, 0x5000)]

/-- Sixteen store-queue entries. -/
def full16 : List SQEntry :=
  List.replicate 16 { id := 50, items := [⟨0, .mem, ref0 8, [1]⟩], fb := none, lanes := 1, word := 0, wordPc := 0 }

theorem witness_IntegerWords :
    (∃ f, lr32 (.add 0 8 12 20) = some f ∧ ∃ c, Issues (atInstr (.add 0 8 12 20)) c (.add 0 8 12 20) ∧ True) ∧
    (∃ f, li32 (.addi 0 8 0x3FFF) = some f ∧ ∃ c, Issues (atInstr (.addi 0 8 0x3FFF)) c (.addi 0 8 0x3FFF) ∧ True) ∧
    (∃ f, lx32 (.clz 0 95 127) = some f ∧ ∃ c, Issues (atInstr (.clz 0 95 127)) c (.clz 0 95 127) ∧ True) ∧
    (∃ f, lx64 (.mul64 0 94 126) = some f ∧ ∃ c, Issues (atInstr (.mul64 0 94 126)) c (.mul64 0 94 126) ∧ True) ∧
    ∃ c, Issues (atInstr (.sel 15 8 12 20)) c (.sel 15 8 12 20) ∧ True :=
  ⟨⟨_, rfl, meets (by decide +kernel)⟩, ⟨_, rfl, meets (by decide +kernel)⟩, ⟨_, rfl, meets (by decide +kernel)⟩,
    ⟨_, rfl, meets (by decide +kernel)⟩, meets (by decide +kernel)⟩

theorem witness_FloatWords :
    (∃ f, fp32 (.fadd32 0 8 12 20) = some f ∧ ∃ c, Issues (atInstr (.fadd32 0 8 12 20)) c (.fadd32 0 8 12 20) ∧ True) ∧
    (∃ f, fp64 (.ffma64 0 8 12 20) = some f ∧ ∃ c, Issues (atInstr (.ffma64 0 8 12 20)) c (.ffma64 0 8 12 20) ∧ True) ∧
    (∃ x, fpTracked (.fdiv32 0 8 12) = some x ∧ ∃ c, Issues (atInstr (.fdiv32 0 8 12)) c (.fdiv32 0 8 12) ∧
      c.guarded x.2.guard ≠ 0) ∧
    (∃ x, fpTracked (.fsqrt64 2 8 12) = some x ∧ ∃ c, Issues (atInstr (.fsqrt64 2 8 12)) c (.fsqrt64 2 8 12) ∧
      c.guarded x.2.guard = 0) ∧
    ∀ p : Fin 32, ∃ k, conversions[p.val]? = some k ∧ ∃ c,
      Issues (atInstr (.cvt (BitVec.ofNat 5 p.val) 0 0 0 8 12)) c (.cvt (BitVec.ofNat 5 p.val) 0 0 0 8 12) ∧ True :=
  ⟨⟨_, rfl, meets (by decide +kernel)⟩, ⟨_, rfl, meets (by decide +kernel)⟩, ⟨_, rfl, meets (by decide +kernel)⟩,
    ⟨_, rfl, meets (by decide +kernel)⟩, fun p => by
      have h : ∀ p : Fin 32, MeetsB (atInstr (.cvt (BitVec.ofNat 5 p.val) 0 0 0 8 12)) (.cvt (BitVec.ofNat 5 p.val) 0 0 0 8 12)
          (fun _ => True) = true := by decide +kernel
      exact ⟨_, List.getElem?_eq_getElem p.isLt, meets (h p)⟩⟩

theorem witness_CompareWords :
    (∃ f, compares (.cmpI32 1 4 1 2 12 20) = some f ∧
      ∃ c, Issues (atInstr (.cmpI32 1 4 1 2 12 20)) c (.cmpI32 1 4 1 2 12 20) ∧ True) ∧
    ((1 : BitVec 3) ≠ 0 ∧ (7 : BitVec 3) ≠ 0 ∧ (1 : BitVec 3) ≠ 7) :=
  ⟨⟨_, rfl, meets (by decide +kernel)⟩, by decide⟩

theorem witness_ZeroPredicates : 0 < 1 ∧ 1 < 8 ∧ 7 < 8 ∧ 0 < 3 ∧ 3 < 4 := by decide

theorem witness_GuardedLanes : ∃ c, Issues (atInstr (.add 2 8 12 20)) c (.add 2 8 12 20) ∧ c.w.lanes[63]? = some ({} : Lane) :=
  meets (by decide +kernel)

theorem witness_NumberFormats : (-3 : Int) < -2 ∧ isNaN (dec .f32 0x7F800001) = true ∧
    isNaN (dec .f64 0xFFF8000000000000) = true := by decide +kernel

/-- R161: the cases of minimum and maximum: two NaNs, one, an order, equal, the two zeros. -/
theorem witness_SignAndChoice :
    (∃ f, fp32 (.fneg32 0 8 12) = some f) ∧ (∃ f, fp32 (.fabs32 0 8 12) = some f) ∧ (∃ f, fp64 (.fneg64 0 8 12) = some f) ∧
    (∃ f, fp64 (.fabs64 0 8 12) = some f) ∧
    (let d := dec .f32
     isNaN (d 0x7FC00000) = true ∧ isNaN (d 0xFFFFFFFF) = true ∧ isNaN (d 0x7F800000) = false ∧
     fcond 1 (d 0xBF800000) (d 0) = true ∧ fcond 0 (d 0x80000000) (d 0) = true ∧ fcond 0 (d 0) (d 0) = true) :=
  ⟨⟨_, rfl⟩, ⟨_, rfl⟩, ⟨_, rfl⟩, ⟨_, rfl⟩, by decide +kernel⟩

theorem witness_LaneAccesses :
    (∃ f, loads (.ld32 0 8 12 0) = some f ∧ ∃ c, Issues (atInstr (.ld32 0 8 12 0)) c (.ld32 0 8 12 0) ∧
      (checkLanes (atInstr (.ld32 0 8 12 0)) c.grp f.space .load f.bytes (c.addrs f.guard f.addr)).isSome = true) ∧
    (∃ f, loads (.ld64 2 8 12 0) = some f ∧ ∃ c, Issues (atInstr (.ld64 2 8 12 0)) c (.ld64 2 8 12 0) ∧
      checkLanes (atInstr (.ld64 2 8 12 0)) c.grp f.space .load f.bytes (c.addrs f.guard f.addr) = none ∧
      c.guarded f.guard = 0) ∧
    (∃ f, loads (.lds 0 8 12 127) = some f ∧ ∃ c, Issues (atRegs (.lds 0 8 12 127) (pair 12 8) []) c (.lds 0 8 12 127) ∧
      checkLanes (atRegs (.lds 0 8 12 127) (pair 12 8) []) c.grp f.space .load f.bytes (c.addrs f.guard f.addr) = none ∧
      c.guarded f.guard ≠ 0) ∧
    (∃ f, stores (.st8 0 8 12) = some f ∧ ∃ c, Issues (atInstr (.st8 0 8 12)) c (.st8 0 8 12) ∧
      (checkLanes (atInstr (.st8 0 8 12)) c.grp f.space .store f.bytes (c.addrs f.guard f.addr)).isSome = true) ∧
    (∃ f, stores (.st32 2 8 12 0) = some f ∧ ∃ c, Issues (atInstr (.st32 2 8 12 0)) c (.st32 2 8 12 0) ∧
      checkLanes (atInstr (.st32 2 8 12 0)) c.grp f.space .store f.bytes (c.addrs f.guard f.addr) = none ∧
      c.guarded f.guard = 0) ∧
    (∃ f, stores (.st32 0 8 12 0) = some f ∧
      ∃ c, Issues (atRegs (.st32 0 8 12 0) (pair 12 8) [] full16) c (.st32 0 8 12 0) ∧
      checkLanes (atRegs (.st32 0 8 12 0) (pair 12 8) [] full16) c.grp f.space .store f.bytes (c.addrs f.guard f.addr) = none ∧
      c.guarded f.guard ≠ 0 ∧ 16 ≤ c.w.sq.length) ∧
    ∃ f, stores (.st128 0 8 12 0) = some f ∧
      ∃ c, Issues (atRegs (.st128 0 8 12 0) (pair 12 16) [] full16.tail) c (.st128 0 8 12 0) ∧
      checkLanes (atRegs (.st128 0 8 12 0) (pair 12 16) [] full16.tail) c.grp f.space .store f.bytes
        (c.addrs f.guard f.addr) = none ∧ c.guarded f.guard ≠ 0 ∧ c.w.sq.length < 16 :=
  ⟨⟨_, rfl, meets (by decide +kernel)⟩, ⟨_, rfl, meets (by decide +kernel)⟩, ⟨_, rfl, meets (by decide +kernel)⟩,
    ⟨_, rfl, meets (by decide +kernel)⟩, ⟨_, rfl, meets (by decide +kernel)⟩, ⟨_, rfl, meets (by decide +kernel)⟩,
    ⟨_, rfl, meets (by decide +kernel)⟩⟩

/-- The check of two lanes of which the second meets a row that the first does not: in the Lantern store an odd address, one
beyond the allocation and one in a stationary macro, in memory a buffer without the right; and no row. -/
theorem witness_LaneAccesses_check :
    let rows (s : State) (sp : Space) (need : AccNeed) (x y : Dword) : List (Option (Word × Dword × Dword)) :=
      [[(0, x)], [(0, x), (5, y)]].map fun as => (checkLanes s grp0 sp need 4 as).map fun t => (BitVec.ofNat 32 t.cause, t.lanes, t.addr)
    let marked : State := { base with quads := [(0, { marks := [1] })] }
    let noW : State := { base with bufs := [((1, 5), { buf0 with rights := 1 })] }
    rows base .lantern .load 8 6 = [none, some (2, 32, 6)] ∧ rows base .lantern .load 0x7FFC 0x8000 = [none, some (3, 32, 0x8000)] ∧
    rows base .mem .store (ref0 8) (ref0 0x1FFFE) = [none, some (3, 32, ref0 0x1FFFE)] ∧
    rows noW .mem .load (ref0 8) (ref0 8) = [none, none] ∧ rows noW .mem .store (ref0 8) (ref0 8) = [some (4, 1, ref0 8), some (4, 33, ref0 8)] ∧
    rows marked .lantern .store 0x3FFC 0x4000 = [none, some (5, 32, 0x4000)] := by
  and_intros <;> decide +kernel

theorem witness_LaneAtomics :
    (∃ f, atomics (.atomAdd 1 3 0 8 12) = some f ∧ ∃ c, Issues (atInstr (.atomAdd 1 3 0 8 12)) c (.atomAdd 1 3 0 8 12) ∧
      (checkLanes (atInstr (.atomAdd 1 3 0 8 12)) c.grp f.space .atomic f.bytes (c.addrs f.guard f.addr)).isSome = true) ∧
    (∃ f, atomics (.latomCas 2 8 12) = some f ∧ ∃ c, Issues (atInstr (.latomCas 2 8 12)) c (.latomCas 2 8 12) ∧
      checkLanes (atInstr (.latomCas 2 8 12)) c.grp f.space .atomic f.bytes (c.addrs f.guard f.addr) = none ∧
      c.guarded f.guard = 0) ∧
    ∃ f, atomics (.atomCas64 1 3 0 8 12) = some f ∧
      ∃ c, Issues (atRegs (.atomCas64 1 3 0 8 12) (pair 12 8) []) c (.atomCas64 1 3 0 8 12) ∧
      checkLanes (atRegs (.atomCas64 1 3 0 8 12) (pair 12 8) []) c.grp f.space .atomic f.bytes (c.addrs f.guard f.addr) = none ∧
      c.guarded f.guard ≠ 0 :=
  ⟨⟨_, rfl, meets (by decide +kernel)⟩, ⟨_, rfl, meets (by decide +kernel)⟩, ⟨_, rfl, meets (by decide +kernel)⟩⟩

theorem witness_GatherReduceWords :
    (∃ x, gathers (.gredAdd 0 8 12) = some x ∧ ∃ c, Issues (atInstr (.gredAdd 0 8 12)) c (.gredAdd 0 8 12) ∧
      (checkLanes (atInstr (.gredAdd 0 8 12)) c.grp .mem .gred 4 (c.addrs x.1 fun r => Rd.pair r (12 : BitVec 7).toNat)).isSome = true) ∧
    (∃ x, gathers (.gredMini 2 8 12) = some x ∧ ∃ c, Issues (atInstr (.gredMini 2 8 12)) c (.gredMini 2 8 12) ∧
      checkLanes (atInstr (.gredMini 2 8 12)) c.grp .mem .gred 4 (c.addrs x.1 fun r => Rd.pair r (12 : BitVec 7).toNat) = none ∧
      c.guarded x.1 = 0) ∧
    ∀ sq : Bool, let s := atRegs (.gredAdd 0 8 12) (pair 12 8) [] (if sq then full16 else [])
      ∃ x, gathers (.gredAdd 0 8 12) = some x ∧ ∃ c, Issues s c (.gredAdd 0 8 12) ∧
        checkLanes s c.grp .mem .gred 4 (c.addrs x.1 fun r => Rd.pair r (12 : BitVec 7).toNat) = none ∧ c.guarded x.1 ≠ 0 ∧
        s.storesDone c.w c.grp.coreId 3 = !sq :=
  ⟨⟨_, rfl, meets (by decide +kernel)⟩, ⟨_, rfl, meets (by decide +kernel)⟩, fun
    | false => ⟨_, rfl, meets (by decide +kernel)⟩
    | true => ⟨_, rfl, meets (by decide +kernel)⟩⟩

theorem witness_TransferWords :
    let last (c : Ctx) : Prop := c.g.rest.tail = [] ∧ c.g.wait = .none ∧ c.grp.abandoned = false
    (∃ c, Issues (atInstr (.brl 0 0x2000)) c (.brl 0 0x2000) ∧ last c) ∧
    (∃ c, Issues (atInstr (.calll 0 94 0x1FFF)) c (.calll 0 94 0x1FFF) ∧ last c) ∧
    (∃ c, Issues (atInstr (.brr 2 127)) c (.brr 2 127) ∧ last c) ∧
    (∃ c, Issues (atInstr (.callr 0 8 8)) c (.callr 0 8 8) ∧ last c) ∧
    (∃ c, Issues (atInstr (.exit 0)) c (.exit 0) ∧ last c) ∧
    (∃ c, Issues (atInstr (.meet 0 8 0x3FFF)) c (.meet 0 8 0x3FFF) ∧ last c) ∧
    (∃ c, Issues (atInstr (.meetr 0 8)) c (.meetr 0 8) ∧ last c) ∧
    (∃ c, Issues (atInstr (.bra 0 0x100000)) c (.bra 0 0x100000) ∧ last c) ∧
    (∃ c, Issues (atInstr (.call 2 0xFFFFF)) c (.call 2 0xFFFFF) ∧ last c) ∧
    (∃ c, Issues (atInstr (.brx 0 0)) c (.brx 0 0) ∧ last c) ∧
    ∃ c, Issues (atInstr (.ret 0)) c (.ret 0) ∧ last c := by
  and_intros <;> exact meets (by decide +kernel)

/-- BALLOT with the member pair v12, v13, by all lanes or by the lower half of them. -/
noncomputable def ballotAt (members : Word × Word) (lanes : Dword) : State :=
  let i := Instr.ballot 0 6 8
  { atRegs i [(12, members.1), (13, members.2)] [] with
    gangs := [{ gang0 ((encodeCore i).getD 0) with lanes := lanes }] }

/-- The upper half of the lanes parked at the BALLOT, with every lane as its members. -/
noncomputable def parkedOp : TOp :=
  { id := 50, fa := none, fb := none, lanes := ~~~0xFFFFFFFF, kind := .warpWide (~~~0xFFFFFFFF) []
    word := (encodeCore (.ballot 0 6 8)).getD 0, wordPc := (gang0 0).pc }
noncomputable def halfWarp : Warp :=
  let v : Tab Word := [(12, 0xFFFFFFFF), (13, 0xFFFFFFFF)]
  let up : Lane := { v := v, stat := .parked .warpWide, wmask := BitVec.allOnes 64 }
  { warp0 with lanes := List.replicate 32 { v := v } ++ List.replicate 32 up, ops := [parkedOp] }
noncomputable def halfParked : State :=
  { ballotAt (0xFFFFFFFF, 0xFFFFFFFF) 0xFFFFFFFF with warps := [halfWarp] }
noncomputable def halfCtx : Ctx :=
  ⟨{ gang0 ((encodeCore (.ballot 0 6 8)).getD 0) with lanes := 0xFFFFFFFF }, halfWarp, grp0, halfWarp⟩

/-- The parked operation holds no result yet, so what a word reads does not hang on which results it sees. -/
theorem halfParked_ctx : halfParked.ctx = some halfCtx := by
  have h : readView halfParked halfWarp = halfWarp := ite_self _
  show some (Ctx.mk _ halfWarp grp0 (readView halfParked halfWarp)) = _
  rw [h]
  rfl

theorem witness_WarpWideWords :
    let i := Instr.ballot 0 6 8
    let mask (c : Ctx) (l : Nat) : Dword := Rd.pair (c.rd l) 12
    (∃ f, wideWords i = some f ∧ 2 * f.mask.toNat = 12) ∧
    (∃ c, Issues (ballotAt (1, 0) (BitVec.allOnes 64)) c i ∧ encodeCore i = some c.g.word ∧
      memberFails c.w c.g.pc ((maskLanes c.g.lanes).map fun l => (l, mask c l)) ≠ []) ∧
    (∃ c, Issues (ballotAt (0xFFFFFFFF, 0xFFFFFFFF) (BitVec.allOnes 64)) c i ∧ encodeCore i = some c.g.word ∧
      (∀ l, l < 64 → inMask c.g.lanes l → mask c l = BitVec.allOnes 64 ∧ inMask (BitVec.allOnes 64) l) ∧ c.w.ops = [] ∧
      (∀ l, l < 64 → inMask (BitVec.allOnes 64) l → inMask c.w.live l → inMask c.g.lanes l) ∧ c.g.lanes &&& ~~~c.w.live = 0) ∧
    (∃ c, Issues (ballotAt (0xFFFFFFFF, 0xFFFFFFFF) 0xFFFFFFFF) c i ∧ encodeCore i = some c.g.word ∧
      (∀ l, l < 64 → inMask c.g.lanes l → mask c l = BitVec.allOnes 64 ∧ inMask (BitVec.allOnes 64) l) ∧ c.w.ops = [] ∧
      inMask c.w.live 63 ∧ ¬ inMask c.g.lanes 63) ∧
    ∃ c, Issues halfParked c i ∧ encodeCore i = some c.g.word ∧ c.w.ops = [parkedOp] ∧ parkedOp.wordPc = c.g.pc ∧
      parkedOp.word = c.g.word ∧
      (∀ l, l < 64 → inMask c.g.lanes l = true → mask c l = BitVec.allOnes 64) ∧
      (∀ l, l < 64 → inMask (~~~0xFFFFFFFF) l = true → (c.w.lane l).stat = .parked .warpWide ∧
        (c.w.lane l).wmask = BitVec.allOnes 64 ∧ inMask c.g.lanes l = false) ∧
      (∀ l, l < 64 → inMask c.w.live l = true → inMask c.g.lanes l = true ∨ inMask (~~~0xFFFFFFFF) l = true) ∧
      c.g.lanes &&& ~~~c.w.live = 0 :=
  ⟨⟨_, rfl, rfl⟩, meets (by decide +kernel), meets (by decide +kernel), meets (by decide +kernel),
    halfCtx, ⟨halfParked_ctx, by decide +kernel, by decide +kernel⟩, by decide +kernel⟩

theorem witness_UniformWords :
    (∃ f, uni32Form (.uadd 0 31 8 12) = some f ∧ ∃ c, Issues (atInstr (.uadd 0 31 8 12)) c (.uadd 0 31 8 12) ∧
      guardUni f.guard c.w = true) ∧
    (∃ f, uni64Form (.uadd64 2 30 8 12) = some f ∧ ∃ c, Issues (atInstr (.uadd64 2 30 8 12)) c (.uadd64 2 30 8 12) ∧
      guardUni f.guard c.w = false) ∧
    ∃ f, uniCompares (.ucmpI64 0 1 3 8 12 1) = some f ∧
      ∃ c, Issues (atInstr (.ucmpI64 0 1 3 8 12 1)) c (.ucmpI64 0 1 3 8 12 1) ∧ guardUni f.guard c.w = true :=
  ⟨⟨_, rfl, meets (by decide +kernel)⟩, ⟨_, rfl, meets (by decide +kernel)⟩, ⟨_, rfl, meets (by decide +kernel)⟩⟩

theorem witness_UniformAccesses :
    let i := Instr.uld32 0 4 8 0
    let j := Instr.ust64 0 4 8 0
    (∃ f, uniLoads (.uld32 2 4 8 0) = some f ∧ ∃ c, Issues (atInstr (.uld32 2 4 8 0)) c (.uld32 2 4 8 0) ∧
      guardUni f.guard c.w = false) ∧
    (∃ f, uniLoads i = some f ∧ ∃ c, Issues (atInstr i) c i ∧ guardUni f.guard c.w = true ∧
      (checkUni (atInstr i) c f.space .load f.bytes (f.addr c.rv)).isSome = true) ∧
    (∃ f, uniLoads i = some f ∧ ∃ c, Issues (atRegs i [] (pair 8 8)) c i ∧ guardUni f.guard c.w = true ∧
      checkUni (atRegs i [] (pair 8 8)) c f.space .load f.bytes (f.addr c.rv) = none) ∧
    (∃ f, uniStores (.ust64 2 4 8 0) = some f ∧ ∃ c, Issues (atInstr (.ust64 2 4 8 0)) c (.ust64 2 4 8 0) ∧
      guardUni f.guard c.w = false) ∧
    (∃ f, uniStores j = some f ∧ ∃ c, Issues (atInstr j) c j ∧ guardUni f.guard c.w = true ∧
      (checkUni (atInstr j) c f.space .store f.bytes (f.addr c.rv)).isSome = true) ∧
    (∃ f, uniStores j = some f ∧ ∃ c, Issues (atRegs j [] (pair 8 8) full16) c j ∧ guardUni f.guard c.w = true ∧
      checkUni (atRegs j [] (pair 8 8) full16) c f.space .store f.bytes (f.addr c.rv) = none ∧ 16 ≤ c.w.sq.length) ∧
    ∃ f, uniStores j = some f ∧ ∃ c, Issues (atRegs j [] (pair 8 8) full16.tail) c j ∧ guardUni f.guard c.w = true ∧
      checkUni (atRegs j [] (pair 8 8) full16.tail) c f.space .store f.bytes (f.addr c.rv) = none ∧ c.w.sq.length < 16 :=
  ⟨⟨_, rfl, meets (by decide +kernel)⟩, ⟨_, rfl, meets (by decide +kernel)⟩, ⟨_, rfl, meets (by decide +kernel)⟩,
    ⟨_, rfl, meets (by decide +kernel)⟩, ⟨_, rfl, meets (by decide +kernel)⟩, ⟨_, rfl, meets (by decide +kernel)⟩,
    ⟨_, rfl, meets (by decide +kernel)⟩⟩

/-- R194, R195: numbers at the ends of each range: 0x0F and 0x100, 0x10 and 0x13, 0x2D and 0x30. -/
theorem witness_SpecialRegisters :
    (∀ x ∈ [(0 : BitVec 3), 2], ∀ n ∈ [(0x00 : BitVec 10), 0x0C, 0x0F, 0x100, 0x101],
      MeetsB (atInstr (.usrd x 8 n)) (.usrd x 8 n) (fun c => guardUni x c.w = decide (x = 0)) = true) ∧
    (∀ n ∈ [(0x20 : BitVec 10), 0x2C], MeetsB (inHandler 0 []) (.usrd 0 8 n) (fun c => guardUni 0 c.w = true) = true) ∧
    (∀ x ∈ [(0 : BitVec 3), 2], ∀ n ∈ [(0x0E : BitVec 10), 0x10, 0x13],
      MeetsB (atInstr (.uswr x 8 n)) (.uswr x 8 n) (fun c => guardUni x c.w = decide (x = 0)) = true) ∧
    ∀ n ∈ [(0x21 : BitVec 10), 0x2D, 0x30], MeetsB (inHandler 0 []) (.uswr 0 8 n) (fun c => guardUni 0 c.w = true) = true := by
  decide +kernel

/-- A gang at the header of a clause whose words follow. -/
noncomputable def atClause (h : Word) (rest : List Word) (flags : Tab Nat) : State :=
  { base with gangs := [{ gang0 h with index := 0, rest := h :: rest }], cur := 4, warps := [{ warp0 with flags := flags }] }

/-- A header of one word on setb 4 that waits for f3: with sound framing, with a wrong length, and with f3 counting, or f4
full. -/
theorem witness_ClauseWord :
    let h : Word := 0xC0100F00 ||| (1 <<< (8 + 3)) ||| 0x0F4
    let w : Word := 0x6000FFFF
    let st : Word := 0x36C00000
    let at' (rest : List Word) (fl : Tab Nat) (P : Ctx → Prop) : Prop :=
      ∃ c, (atClause h rest fl).ctx = some c ∧ c.debugDue = none ∧ P c
    at' [w, w] [] (fun c => ¬ (framingOk c.g.word c.g.pc c.g.rest.tail = true ∧ (1 : BitVec 4).toNat = c.g.rest.tail.length)) ∧
    at' [st] [(3, 1)] (fun c => framingOk c.g.word c.g.pc c.g.rest.tail = true ∧ (1 : BitVec 4).toNat = c.g.rest.tail.length ∧
      ¬ c.w.flag 3 = 0) ∧
    at' [st] [(4, 63)] (fun c => framingOk c.g.word c.g.pc c.g.rest.tail = true ∧ c.w.flag 3 = 0 ∧
      ¬ c.w.flag 4 + countB c.g.rest.tail ≤ 63) ∧
    at' [st] [(4, 62)] (fun c => framingOk c.g.word c.g.pc c.g.rest.tail = true ∧ (1 : BitVec 4).toNat = c.g.rest.tail.length ∧
      c.w.flag 3 = 0 ∧ c.w.flag 4 + countB c.g.rest.tail = 63) :=
  ⟨⟨_, rfl, by decide +kernel⟩, ⟨_, rfl, by decide +kernel⟩, ⟨_, rfl, by decide +kernel⟩, ⟨_, rfl, by decide +kernel⟩⟩

/-- A launch of 40 groups, with what its block and descriptor give. -/
def launch0 : Launch :=
  { id := 90, ctx := 1, block := ref0 256, lflags := 4, groups := 40, iters := 0, itile := 0, prio := 3, qspan := 0, podkey := 0
    podgroups := 0, sload := 6, svals := List.replicate 32 7, save := 0, savestride := 0
    desc := { desc0 with lbytes := 4096, tiles := 2, entry := 0x40 }
    rem := [[⟨0, 0, 10⟩], [⟨1, 0, 10⟩], [⟨2, 0, 10⟩], []], known := [true, true, true, true], status := .nowhere, rel := none
    home := 0 }

/-- BAR at the last granted barrier of the group's scope, in its three modes, guarded out, held by an earlier store, and waiting
for a generation or not; BARRD and BARWR of a barrier granted, of one past the last, and of a pod barrier held elsewhere. -/
theorem witness_BarrierWords :
    let s (i : Instr) (last : Option Word) : State := { atInstr i with
      warps := [{ warp0 with bars := [{ WarpBar.blank 0 15 with last := last }] }] }
    let h (sel : Word) : State := (inHandler 0).updWarp 3 fun w => { w with s := [(8, sel)] }
    let away (s : State) : State := { s with launches := [{ launch0 with id := 1, podkey := 9 }] }
    let granted (c : Ctx) (scope index : Nat) : Bool := decide (index < c.grp.desc.barCount scope)
    (∃ c, Issues (atInstr (.bar 2 0 0 15)) c (.bar 2 0 0 15) ∧ guardUni 2 c.w = false) ∧
    (∃ c, Issues (s (.bar 0 2 0 15) (some 0)) c (.bar 0 2 0 15) ∧ guardUni 0 c.w = true ∧
      (c.w.bar 0 15).last = some ((s (.bar 0 2 0 15) (some 0)).getBar c.grp 0 15).gen) ∧
    (∀ x ∈ [none, some 7], ∃ c, Issues (s (.bar 0 2 0 15) x) c (.bar 0 2 0 15) ∧ guardUni 0 c.w = true ∧
      (c.w.bar 0 15).last ≠ some ((s (.bar 0 2 0 15) x).getBar c.grp 0 15).gen) ∧
    (∀ sq : Bool, ∃ c, Issues (atRegs (.bar 0 1 0 15) [] [] (if sq then full16 else [])) c (.bar 0 1 0 15) ∧
      guardUni 0 c.w = true ∧
      (atRegs (.bar 0 1 0 15) [] [] (if sq then full16 else [])).releaseReady c.w c.grp.coreId (0 : BitVec 3).toNat = !sq) ∧
    (∀ k ∈ [(0 : BitVec 3), 2], ∀ x ∈ [(0 : BitVec 2), 1, 2],
      MeetsB (h 0xF00) (.barrd k 4 8 x) (fun c => guardUni k c.w = decide (k = 0) ∧ granted c 0 15 = true) = true ∧
      MeetsB (h 0x401) (.barrd k 4 8 x) (fun c => granted c 1 4 = false) = true ∧
      MeetsB (away (h 0x304)) (.barrd k 4 8 x) (fun c => granted c 4 3 = true ∧ (away (h 0x304)).barAway c.grp 4 = true) = true ∧
      MeetsB (h 0xF00) (.barwr k 4 8 x) (fun c => guardUni k c.w = decide (k = 0) ∧ granted c 0 15 = true ∧
        (h 0xF00).releaseReady c.w c.grp.coreId 0 = true) = true) ∧
    ∃ c, Issues ((inHandler 0).updWarp 3 fun w => { w with sq := full16 }) c (.barwr 0 4 8 0) ∧
      ((inHandler 0).updWarp 3 fun w => { w with sq := full16 }).releaseReady c.w c.grp.coreId 0 = false := by
  intro s h away granted
  refine ⟨meets (by decide +kernel), meets (by decide +kernel), ?_, ?_, by decide +kernel, meets (by decide +kernel)⟩
  · intro x hx
    simp only [List.mem_cons, List.not_mem_nil, or_false] at hx
    obtain rfl | rfl := hx <;> exact meets (by decide +kernel)
  · rintro (_ | _) <;> exact meets (by decide +kernel)

theorem witness_SynchronisationWords :
    (∃ c, Issues (atInstr (.acquire 0)) c (.acquire 0) ∧ guardUni 0 c.w = true) ∧
    (∃ c, Issues (atInstr (.yield 2)) c (.yield 2) ∧ guardUni 2 c.w = false) ∧
    (∃ c, Issues (atInstr (.fenceNear 0 5)) c (.fenceNear 0 5) ∧ True) ∧
    (∀ x ∈ [(Instr.fenceFar 0 5, 1), (.fenceAcq 0 5, 2), (.fenceRel 0 5, 3), (.fenceAr 0 5, 4), (.fenceSc 0 5, 5)],
      MeetsB (atInstr x.1) x.1 (fun c => guardUni 0 c.w = true ∧
        (atInstr x.1).fenceReady c.w c.g.lanes c.grp.coreId x.2 (5 : BitVec 3).toNat = true) = true) ∧
    (∃ c, Issues (atRegs (.fenceRel 0 3) [] [] full16) c (.fenceRel 0 3) ∧ guardUni 0 c.w = true ∧
      (atRegs (.fenceRel 0 3) [] [] full16).fenceReady c.w c.g.lanes c.grp.coreId 3 (3 : BitVec 3).toNat = false) ∧
    ∃ c, Issues (atInstr (.fenceSc 2 0)) c (.fenceSc 2 0) ∧ guardUni 2 c.w = false :=
  ⟨meets (by decide +kernel), meets (by decide +kernel), meets (by decide +kernel), by decide +kernel,
    meets (by decide +kernel), meets (by decide +kernel)⟩

/-- A trap in a group with a handler, in one without, in one that is abandoned, and inside a handler. -/
theorem witness_TrapWords :
    (∀ k ∈ [(0 : BitVec 3), 2], MeetsB (atInstr (.trap k 8 31)) (.trap k 8 31) (fun c => guardUni k c.w = decide (k = 0)) = true) ∧
    (∃ c, (atWord 0x8D8D0000).ctx = some c ∧ c.debugDue = none ∧ issueFault (.bar 0 3 2 0) c = some 2) ∧
    (∃ c, (atWord 0x41010000).ctx = some c ∧ c.w.handler = none ∧ c.w.dbgPark = none ∧ c.grp.abandoned = false ∧
      c.grp.desc.handler ≠ 0xFFFFFFFF ∧ c.w.lanes[63]? ≠ none) ∧
    (∃ c, ({ atWord 0x41010000 with groups := [{ grp0 with desc := { desc0 with handler := 0xFFFFFFFF } }] } : State).ctx = some c ∧
      c.w.handler = none ∧ c.grp.desc.handler = 0xFFFFFFFF) ∧
    (∃ c, ({ atWord 0x41010000 with groups := [{ grp0 with abandoned := true }] } : State).ctx = some c ∧
      c.grp.abandoned = true) ∧
    ∃ c, (inHandler 0x41010000).ctx = some c ∧ c.grp.abandoned = false ∧ ∃ h, c.w.handler = some h ∧ c.g.lanes &&& ~~~h.lanes = 0 :=
  ⟨by decide +kernel, ⟨_, rfl, by decide +kernel⟩, ⟨_, rfl, by decide +kernel⟩, ⟨_, rfl, by decide +kernel⟩, ⟨_, rfl, rfl⟩,
    ⟨_, rfl, rfl, _, rfl, by decide +kernel⟩⟩

/-- In a handler: RTT at a header and inside a clause, with a false guard, and while another gang of the handler's lanes
runs; register words; MWRITE of a lane of the handler, and of one outside every clause. -/
theorem witness_HandlerWords :
    let i := Instr.rtt 0 1
    let s := inHandler 0
    let low : Dword := 0xFFFFFFFF
    let hand (m : Dword) : Handler := ⟨false, m, false, false, [], 0, 15, 15, [0x41010000, 0x41010000]⟩
    let inside : State := s.updWarp 3 fun w => { w with trap := ⟨0x30A, 0, 0, 0, 0, 0, 0, 0, 0, 0, [0, 0, 0, 0]⟩, handler := some (hand low) }
    let low1 : State := { inside with gangs := [{ gang0 0 with lanes := low }] }
    let busy : State := { s with gangs := [{ gang0 0 with lanes := low }, { gang0 0x41010000 with uid := 5, lanes := ~~~low }] }
    let part : State := low1.updWarp 3 fun w => { w with s := [(8, 63)] }
    let ready (s : State) (c : Ctx) : Prop := guardUni 0 c.w = true ∧ c.w.handler ≠ none ∧ c.w.pendTraps = [] ∧
      c.w.lanes.length ≤ 64 ∧ s.gang s.nextId = none ∧ c.w.lanes[63]? = some ({} : Lane)
    (∃ c, Issues s c i ∧ ready s c ∧ s.handlerBusy c = false ∧ c.w.trap.cause.extractLsb' 8 4 = 0) ∧
    (∃ c, Issues low1 c i ∧ ready low1 c ∧ low1.handlerBusy c = false ∧ c.w.trap.cause.extractLsb' 8 4 = 3) ∧
    (∃ c, Issues s c (.rtt 2 0) ∧ guardUni 2 c.w = false) ∧
    (∃ c, Issues busy c i ∧ guardUni 0 c.w = true ∧ c.w.handler ≠ none ∧ busy.handlerBusy c = true) ∧
    ((∃ c, Issues s c (.lread 0 4 8 12) ∧ True) ∧ (∃ c, Issues s c (.pread 0 4 8) ∧ True) ∧
      (∃ c, Issues s c (.mread 0 4 8 0) ∧ True) ∧ ∃ c, Issues s c (.mread 0 4 8 1) ∧ True) ∧
    (∃ c, Issues s c (.lwrite 0 4 8 12) ∧ (c.w.lane 63).stat ≠ .exited ∧ c.grp.allot = 96) ∧
    (∃ c, Issues s c (.pwrite 0 4 8) ∧ True) ∧
    (∃ c, Issues s c (.mwrite 0 4 8 0) ∧ ∃ h, c.w.handler = some h ∧ inMask h.lanes 0 = true) ∧
    ∃ c, Issues part c (.mwrite 0 4 8 0) ∧ (c.rv.getS 8).toNat % 64 = 63 ∧ c.w.handler = some (hand low) ∧
      inMask (hand low).lanes 63 = false ∧ part.inGang c.w.id 63 = false ∧ c.w.lanes[63]? = some ({} : Lane) := by
  intro i s low hand inside low1 busy part ready
  and_intros <;> exact meets (by decide +kernel)

theorem witness_EngineWaits :
    let i := Instr.swait 0 4 8 12
    let j := Instr.mwait 0 8
    let e : MEntry := { id := 40, group := 2, eop := 1, slot := 7, deps := [], tileDeps := [], block := [], regs := [], z := false }
    let busy : State := { atRegs j [] [(8, 0x80)] with quads := [(0, { entries := [e] })] }
    let now (s : State) (c : Ctx) : Word := BitVec.ofNat 32 ((s.quad c.grp.quad).word (c.grp.lbase + (c.rv.getS 8).toNat + 8))
    (∃ c, Issues (atInstr (.swait 2 4 8 12)) c (.swait 2 4 8 12) ∧ guardUni 2 c.w = false) ∧
    (∃ c, Issues (atRegs i [] [(8, 1)]) c i ∧ guardUni 0 c.w = true ∧
      (checkUni (atRegs i [] [(8, 1)]) c .lantern .load 16 1).isSome = true) ∧
    (∃ c, Issues (atRegs i [] [(12, 1)]) c i ∧ checkUni (atRegs i [] [(12, 1)]) c .lantern .load 16 0 = none ∧
      now (atRegs i [] [(12, 1)]) c ≠ c.rv.getS 12) ∧
    (∃ c, Issues (atRegs i [] [(8, 0x7FF0)]) c i ∧ checkUni (atRegs i [] [(8, 0x7FF0)]) c .lantern .load 16 0x7FF0 = none ∧
      now (atRegs i [] [(8, 0x7FF0)]) c = c.rv.getS 12) ∧
    (∃ c, Issues (atRegs j [] [(8, 0xFF)]) c j ∧ guardUni 0 c.w = true ∧
      (atRegs j [] [(8, 0xFF)]).mwaitDone c.grp c.w.id 0xFF (atRegs j [] [(8, 0xFF)]).nextId = true) ∧
    (∃ c, Issues busy c j ∧ guardUni 0 c.w = true ∧ busy.mwaitDone c.grp c.w.id 0x80 busy.nextId = false) ∧
    (∃ c, Issues (atInstr (.mwait 2 8)) c (.mwait 2 8) ∧ guardUni 2 c.w = false) ∧
    (∀ k ∈ [(0 : BitVec 3), 2], ∀ x ∈ [(0 : BitVec 2), 1, 2, 3], MeetsB (atInstr (.mquery k 4 0 x)) (.mquery k 4 0 x)
      (fun c => guardUni k c.w = decide (k = 0) ∧ (c.rv.getS 0).toNat % 8 < c.grp.desc.tiles) = true) ∧
    ∃ c, Issues { atRegs (.mquery 0 4 8 0) [] [(8, 7)] with groups := [{ grp0 with desc := { desc0 with tiles := 7 } }] } c
      (.mquery 0 4 8 0) ∧ guardUni 0 c.w = true ∧ c.grp.desc.tiles ≤ (c.rv.getS 8).toNat % 8 := by
  and_intros <;> first | exact meets (by decide +kernel) | decide +kernel

/-- An orbit of context 1 on die 0, idle. -/
def orbit0 (status : Nat) : Orbit := { newOrbit 0 1 (ref0 0x800) [] [] with status := status }
def onDie (s : State) (u : DieU) : State := { s with dieU := [u, {}, {}, {}] }

/-- No orbit, an orbit that runs, and one that does not; a waiter of OTAKE with nothing ready, and with a ready call that is
first in order, or behind one of another context. -/
theorem witness_OrreryWords :
    let i := Instr.owait 0 4 8
    let j (m : BitVec 1) := Instr.otake 0 16 8 m
    let call (id : Nat) : OCall := { id := id, kind := 1, desc := List.replicate 16 7 }
    let other : Orbit := { orbit0 0x17 with num := 1, ctx := 2, calls := [call 79] }
    let ready : State := onDie (atInstr (j 1)) { orbits := [{ orbit0 0x17 with calls := [call 80] }] }
    let behind : State := onDie (atInstr (j 1)) { orbits := [{ orbit0 0x17 with calls := [call 80] }, other] }
    let w : OWaiter := ⟨100, 4, 3, 2, 1, 0, 0, 16⟩
    let names (s : State) : List Nat := s.callsInOrder.map fun x => x.2.2.id
    (∃ c, Issues (atInstr (.owait 2 4 8)) c (.owait 2 4 8) ∧ guardUni 2 c.w = false) ∧
    (∃ c, Issues (atInstr i) c i ∧ guardUni 0 c.w = true ∧ (atInstr i).named c.grp.ctx 0 = none) ∧
    (∀ x ∈ [0x17, 0x13], MeetsB (onDie (atInstr i) { orbits := [orbit0 x] }) i (fun c => guardUni 0 c.w = true ∧
      (onDie (atInstr i) { orbits := [orbit0 x] }).named c.grp.ctx 0 = some (orbit0 x)) = true) ∧
    (∀ x ∈ [(0 : BitVec 4), 15], MeetsB (onDie (atInstr (.ostat 0 4 8 x)) { orbits := [orbit0 0] }) (.ostat 0 4 8 x)
      (fun c => guardUni 0 c.w = true ∧
        (onDie (atInstr (.ostat 0 4 8 x)) { orbits := [orbit0 0] }).named c.grp.ctx 0 = some (orbit0 0)) = true) ∧
    (∃ c, Issues (atInstr (.ostat 0 4 8 0)) c (.ostat 0 4 8 0) ∧ (atInstr (.ostat 0 4 8 0)).named c.grp.ctx 0 = none) ∧
    (∃ c, Issues (atInstr (j 0)) c (j 0) ∧ c.g.wait = .none ∧ guardUni 0 c.w = true) ∧
    (∃ c, Issues (atInstr (j 1)) c (j 1) ∧ c.g.wait = .none ∧ guardUni 0 c.w = true ∧
      ∀ die, die < 4 → ((atInstr (j 1)).readyCalls die).all (fun x => !w.fits die x.1) = true) ∧
    (∃ c, Issues ready c (j 1) ∧ c.g.wait = .none ∧ guardUni 0 c.w = true ∧ ready.waiters = [] ∧ names ready = [80] ∧
      ready.callsInOrder.all (fun x => w.fits x.1 x.2.1) = true) ∧
    ∃ c, Issues behind c (j 1) ∧ guardUni 0 c.w = true ∧ behind.waiters = [] ∧ names behind = [79, 80] ∧
      behind.callsInOrder.map (fun x => w.fits x.1 x.2.1) = [false, true] :=
  ⟨meets (by decide +kernel), meets (by decide +kernel), by decide +kernel, by decide +kernel, meets (by decide +kernel),
    meets (by decide +kernel), meets (by decide +kernel), meets (by decide +kernel), meets (by decide +kernel)⟩

/-- Vesper handles of this package's die 0, generation 1: vigil 0, queue 1, bin 2. -/
def vigilH : Nat := 2 ^ 20
def queueH : Nat := 2 ^ 20 + 2 ^ 18 + 1
def binH : Nat := 2 ^ 20 + 2 * 2 ^ 18 + 2
/-- A vigil of 8 lumens, pool of them at the root. -/
def vigil0 (pool : Nat) : VObj := { num := 0, gen := 1, kind := 0, ctx := 1, k := 3, pool := pool }
def queue0 (recs : List Rec) : VObj := { num := 1, gen := 1, kind := 1, ctx := 1, recs := recs }
def bin0 (recs : List Rec) : VObj :=
  { num := 2, gen := 1, kind := 2, ctx := 1, recs := recs, count := 4, vigil := vigilH, launch := ref0 256 }
def rec0 : Rec := { lumens := 2, vigil := vigilH, payload := [7] }
def withSlot (s : State) (x : LSlot) : State := { s with groups := [{ grp0 with slots := [x, {}, {}, {}] }] }

/-- An empty queue with n waiters, of a gang that is there. -/
def crowd (n : Nat) : VObj := { queue0 [] with waiters := List.replicate n ⟨4, 3, 2, 4, 0⟩ }

/-- QPOP of no queue, with a full slot, of a record, and of an empty queue in both forms, with the waiters full too. -/
theorem witness_VesperWords_qpop :
    let i (m : BitVec 1) := Instr.qpop 0 4 8 m 0
    let s (m : BitVec 1) (o : List VObj) : State := onDie (atRegs (i m) [] [(8, BitVec.ofNat 32 queueH)]) { vobjs := o }
    let ok (s : State) (c : Ctx) (free : Bool) (p : VObj → Prop) : Prop :=
      c.g.wait = .none ∧ guardUni 0 c.w = true ∧ (c.rv.getS 8).toNat % 2 ^ 24 = queueH ∧ (c.grp.lslot 0).free = free ∧
        ∃ o, s.vvalid c.grp.ctx queueH [1] = some o ∧ p o
    (∃ c, Issues (atInstr (.qpop 2 4 8 0 0)) c (.qpop 2 4 8 0 0) ∧ guardUni 2 c.w = false) ∧
    (∃ c, Issues (s 0 []) c (i 0) ∧ c.g.wait = .none ∧ guardUni 0 c.w = true ∧ (s 0 []).vvalid c.grp.ctx queueH [1] = none) ∧
    (∃ c, Issues (withSlot (s 0 [queue0 []]) ⟨vigilH, 1, false⟩) c (i 0) ∧
      ok (withSlot (s 0 [queue0 []]) ⟨vigilH, 1, false⟩) c false fun _ => True) ∧
    (∃ c, Issues (s 0 [queue0 [rec0]]) c (i 0) ∧ ok (s 0 [queue0 [rec0]]) c true fun o => o.recs = [rec0]) ∧
    (∃ c, Issues (s 1 [queue0 []]) c (i 1) ∧ ok (s 1 [queue0 []]) c true fun o => o.recs = []) ∧
    (∃ c, Issues (s 0 [queue0 []]) c (i 0) ∧ (s 0 [queue0 []]).vwaiters (hDie queueH) < 4096 ∧
      ok (s 0 [queue0 []]) c true fun o => o.recs = []) ∧
    ∃ c, Issues (s 0 [crowd 4096]) c (i 0) ∧ 4096 ≤ (s 0 [crowd 4096]).vwaiters (hDie queueH) ∧
      ok (s 0 [crowd 4096]) c true fun o => o.recs = [] := by
  intro i s ok
  refine ⟨meets (by decide +kernel), meets (by decide +kernel), ?_, ?_, ?_, ?_, ?_⟩
  all_goals first
    | exact ⟨_, ⟨rfl, by decide +kernel, by decide +kernel⟩, by decide +kernel,
        by decide +kernel, by decide +kernel, by decide +kernel, by decide +kernel, _, rfl, by trivial⟩
    | exact ⟨_, ⟨rfl, by decide +kernel, by decide +kernel⟩, by decide +kernel,
        by decide +kernel, by decide +kernel, by decide +kernel, _, rfl, by trivial⟩

/-- VWAITQ of a vigil that is quiet or not, with lumens of it held and given back or not, of no vigil, and of one of another
package in the same ways; a store not yet performed holds the give. -/
theorem witness_VesperWords_vwaitq :
    let i (g : BitVec 1) := Instr.vwaitq 0 4 8 g 0
    let s (h : Nat) (g : BitVec 1) (o : List VObj) (sl : LSlot) (sq : List SQEntry) : State :=
      withSlot (onDie (atRegs (i g) [] [(8, BitVec.ofNat 32 h)] sq) { vobjs := o }) sl
    let here (h : Nat) (g : BitVec 1) (o : List VObj) (sl : LSlot) (sq : List SQEntry) (P : State → Ctx → Prop)
        [∀ s, DecidablePred (P s)] : Bool :=
      MeetsB (s h g o sl sq) (i g) fun c => c.g.wait = .none ∧ guardUni 0 c.w = true ∧
        (c.rv.getS 8).toNat % 2 ^ 24 = h ∧ P (s h g o sl sq) c
    let held : LSlot := ⟨vigilH, 1, false⟩
    let valid (s : State) (c : Ctx) (pool : Nat) : Prop := s.vvalid c.grp.ctx vigilH [0] = some (vigil0 pool)
    let far : Nat := vigilH + 5 * 2 ^ 12
    let away : LSlot := ⟨far, 1, false⟩
    (∀ x ∈ [(1, ({} : LSlot), true), (0, away, true), (1, away, true), (1, away, false)],
      here far (BitVec.ofNat 1 x.1) [] x.2.1 (if x.2.2 then [] else full16) (fun s c => hPkg far ≠ s.pkg.pkgid ∧ far ≠ 0 ∧
        c.grp.lslot 0 = x.2.1 ∧ s.releaseReadyAt c.w c.grp.coreId 4 s.nextId = x.2.2) = true) ∧
    here vigilH 0 [] {} [] (fun s c => hPkg vigilH = s.pkg.pkgid ∧ s.vvalid c.grp.ctx vigilH [0] = none) = true ∧
    here 0 1 [] {} [] (fun s c => s.vvalid c.grp.ctx 0 [0] = none) = true ∧
    here vigilH 0 [vigil0 7] held [] (fun s c => valid s c 7) = true ∧
    here vigilH 1 [vigil0 7] held full16 (fun s c => valid s c 7 ∧
      s.releaseReadyAt c.w c.grp.coreId 3 s.nextId = false) = true ∧
    here vigilH 1 [vigil0 7] held [] (fun s c => valid s c 7 ∧ (vigil0 7).quiet = false ∧ s.vwaiters (hDie vigilH) < 4096 ∧
      s.releaseReadyAt c.w c.grp.coreId 3 s.nextId = true) = true ∧
    here vigilH 0 [vigil0 8] {} [] (fun s c => valid s c 8 ∧ (vigil0 8).quiet = true) = true ∧
    here vigilH 0 [vigil0 7] {} [] (fun s c => valid s c 7 ∧ (vigil0 7).quiet = false ∧
      s.vwaiters (hDie vigilH) < 4096) = true ∧
    here vigilH 0 [vigil0 7, crowd 4096] {} [] (fun s c => valid s c 7 ∧ 4096 ≤ s.vwaiters (hDie vigilH)) = true := by
  decide +kernel

theorem witness_VesperWords_vstat : ∀ k ∈ [(0 : BitVec 3), 2], ∀ x ∈ [(0 : BitVec 5), 3, 8, 19],
    MeetsB (onDie (atRegs (.vstat k 4 8 x) [] [(8, BitVec.ofNat 32 queueH)]) { vobjs := [queue0 []] }) (.vstat k 4 8 x)
      (fun c => c.g.wait = .none ∧ guardUni k c.w = decide (k = 0) ∧ hPkg ((c.rv.getS 8).toNat % 2 ^ 24) = 0) = true := by
  decide +kernel

/-- CSET and MMA at the last granted register; an expected warp alone, beside a collection, and beside one of another pc or
one whose time is over, and one not expected. -/
theorem witness_ConvergenceWords :
    let i (k : BitVec 3) := Instr.mma k 15 1 0x5A 4 1
    let s (q : Conv) : State := { atInstr (i 0) with groups := [{ grp0 with conv := listSet grp0.conv 15 q }] }
    let ok (c : Ctx) : Prop := (15 : BitVec 4).toNat < c.grp.desc.cvcount ∧ 1 ≤ c.grp.desc.tiles ∧ guardUni 0 c.w = true
    (∀ k ∈ [(0 : BitVec 3), 2], MeetsB (atInstr (.cset k 15 8)) (.cset k 15 8) (fun c =>
      (15 : BitVec 4).toNat < c.grp.desc.cvcount ∧ guardUni k c.w = decide (k = 0)) = true) ∧
    (∃ c, Issues (atInstr (i 2)) c (i 2) ∧ guardUni 2 c.w = false) ∧
    (∃ c, Issues (s { expect := 2 }) c (i 0) ∧ ok c ∧ (c.grp.convAt 15).expect.getLsbD c.w.num = false ∧ c.w.ops = []) ∧
    (∃ c, Issues (s { expect := 1 }) c (i 0) ∧ ok c ∧ c.w.num < 16 ∧ (c.grp.convAt 15).expect.getLsbD c.w.num = true ∧
      (c.grp.convAt 15).collecting = false) ∧
    (∀ n ∈ [(2 ^ 24 - 1, false), (2 ^ 24, true)], MeetsB (onDie (s { expect := 3, collecting := true, pc := 4 }) { clk := n.1 }) (i 0)
      (fun c => ok c ∧ (c.grp.convAt 15).expect.getLsbD c.w.num = true ∧ (c.grp.convAt 15).collecting = true ∧
        (c.grp.convAt 15).pc = c.g.pc ∧
        (onDie (s { expect := 3, collecting := true, pc := 4 }) { clk := n.1 }).convLate c.grp (c.grp.convAt 15) = n.2) = true) ∧
    ∃ c, Issues (s { expect := 3, collecting := true, pc := 8 }) c (i 0) ∧ ok c ∧
      (c.grp.convAt 15).expect.getLsbD c.w.num = true ∧ (c.grp.convAt 15).collecting = true ∧ (c.grp.convAt 15).pc ≠ c.g.pc :=
  ⟨by decide +kernel, meets (by decide +kernel), meets (by decide +kernel), meets (by decide +kernel),
    by decide +kernel, meets (by decide +kernel)⟩

def cmd0 (eop : Nat) (ebits : BitVec 21) (regs : List Word) : Cmd :=
  { id := 60, warp := 3, group := 2, ctx := 1, eop := eop, ebits := ebits, regs := regs, op := some 61, sop := some 62, lanes := 1 }

theorem witness_EngineCommands :
    (∃ f, commands (.tcopy 2 10 4 0 0 0 0) = some f ∧ ∃ c, Issues (atInstr (.tcopy 2 10 4 0 0 0 0)) c (.tcopy 2 10 4 0 0 0 0) ∧
      guardUni f.guard c.w = false) ∧
    (∃ f, commands (.launch 0 8 4 0 0 0 0) = some f ∧ ∃ c, Issues { atInstr (.launch 0 8 4 0 0 0 0) with
      cores := [(0, { cmds := List.replicate 8 (cmd0 12 0 []) })] } c (.launch 0 8 4 0 0 0 0) ∧ guardUni f.guard c.w = true ∧
      c.grp.coreId = 0) ∧
    ∃ f, commands (.vgive 0 8 4 0 0 3 3 1) = some f ∧ ∃ c, Issues { atInstr (.vgive 0 8 4 0 0 3 3 1) with
      cores := [(0, { cmds := List.replicate 7 (cmd0 12 0 []) })] } c (.vgive 0 8 4 0 0 3 3 1) ∧ guardUni f.guard c.w = true ∧
      c.grp.coreId = 0 :=
  ⟨⟨_, rfl, meets (by decide +kernel)⟩, ⟨_, rfl, meets (by decide +kernel)⟩, ⟨_, rfl, meets (by decide +kernel)⟩⟩

/-! ## Near-bank passes -/

/-- Bytes placed in buffer 5 of the small state. -/
def putAt (s : State) (off : Nat) (bs : List Byte) : State :=
  match s.physList 1 (ref0 off) bs.length with
  | .ok ps => { s with mem := (ps.zip bs).foldl (fun m x => m.write x.1 x.2) s.mem }
  | _ => s
def zeros (n : Nat) : List Byte := List.replicate n 0
def leRef (off : Nat) : List Byte := leBytes (ref0 off).toNat 8

/-- A kernel block of 128 bytes over the buffers at 0x2000, 0x4000 and 0x6000, its page list at 0x800 with one entry. -/
def nblk (kid cnt fl : Nat) : List Byte :=
  leBytes 1 4 ++ leBytes kid 2 ++ leBytes fl 2 ++ leBytes cnt 8 ++ leRef 0x2000 ++ leRef 0x4000 ++
    (if kid = 1 then zeros 8 else leRef 0x6000) ++ zeros 8 ++ leBytes 0x40000000 8 ++ leBytes 0x3F800000 8 ++ zeros 16 ++
    leRef 0x800 ++ leBytes 1 4 ++ leBytes 0xFFFFFFFF 4 ++ leBytes 1 4 ++ zeros 28
def kick0 : Kick := { ref := ref0 0x400, ctx := 1, group := 2 }
def kern (kid cnt fl : Nat) : NKernel :=
  { kick := kick0, block := nblk kid cnt fl, plist := [(5, 0, BitVec.ofNat 64 (2 ^ 62 + 3))] }
def running (r : NKernel) : State := { base with stackU := [(0, { running := some r })], curPass := (0, 0) }
def pass0 (loops : List (Nat × Nat × Nat)) (q : BitVec 2048) : Pass := { chunk := 0, pc := 5, loops := loops, q := q }
/-- A pass of an installed kernel. -/
def inPass (p : Pass) (fl : Nat := 12) : State := running { kern 0x100 3000 fl with passes := [p] }

/-- What the pass and its kernel satisfy. -/
def PassIs (s : State) (P : NKernel → Pass → Prop) : Prop := ∃ r p, s.pass = some (r, p) ∧ P r p

theorem witness_NearPassWords :
    let count (p : Pass) : Nat := match p.loops with | l :: _ => l.1 | [] => 0
    let named (p : Pass) (f : BitVec 9) (j : Nat) : Bool :=
      decide (f.toNat % 128 ≠ 127) && f.toNat % 128 + (if f.getLsbD 8 then count p else 0) == j
    PassIs (inPass (pass0 [(3, 32, 5)] 0)) (fun _ p => named p 0x15D 96 = true) ∧
    PassIs (inPass (pass0 [(3, 32, 5)] 0)) (fun _ p => ∀ f ∈ [(0x15C : BitVec 9), 0x1FF, 0x000], ∀ j, 96 ≤ j → named p f j = false) ∧
    ((2 : BitVec 2) ≠ 3) ∧
    PassIs (inPass (pass0 [] 0)) (fun _ p => p.loops = []) ∧
    PassIs (inPass (pass0 [(30, 32, 5)] 0)) (fun _ p => p.loops = [(30, 32, 5)] ∧ 30 + 1 < 32) ∧
    PassIs (inPass (pass0 [(31, 32, 5)] 0)) (fun _ p => p.loops = [(31, 32, 5)] ∧ ¬ 31 + 1 < 32) := by
  intro count named
  refine ⟨⟨_, _, rfl, by decide +kernel⟩, ⟨_, _, rfl, ?_⟩, by decide, ⟨_, _, rfl, rfl⟩, ⟨_, _, rfl, rfl, by decide⟩,
    ⟨_, _, rfl, rfl, by decide⟩⟩
  intro f hf j hj
  simp only [List.mem_cons, List.not_mem_nil, or_false] at hf
  obtain rfl | rfl | rfl := hf
  · show (true && ((0x5C + 3 : Nat) == j)) = false
    simp; omega
  · rfl
  · show (true && ((0 : Nat) == j)) = false
    simp; omega

/-- R415: bases at 65 and 64; a pass under the stop policy that has met poison, and one that has not. -/
theorem witness_NearMemoryWords :
    let s := inPass (pass0 [(3, 32, 5)] 0)
    let base (rel : BitVec 1) (z : BitVec 7) : Nat := z.toNat + if rel = 1 then 3 else 0
    PassIs s (fun _ p => p.loops = [(3, 32, 5)]) ∧ 64 < base 1 62 ∧ base 1 61 ≤ 64 ∧ base 0 64 ≤ 64 ∧
    s.migrations = [] ∧ s.latent = [] ∧
    PassIs s (fun r _ => naflags r.block % 2 ≠ 1) ∧ PassIs (inPass (pass0 [(3, 32, 5)] 0) 13) (fun r _ => naflags r.block % 2 = 1) ∧
    PassIs (inPass (pass0 [] 1) (12 + 32)) (fun r p => naflags r.block / 32 % 2 = 1 ∧ p.q ≠ 0) ∧
    PassIs s (fun r p => ¬ (naflags r.block / 32 % 2 = 1 ∧ p.q ≠ 0)) :=
  ⟨⟨_, _, rfl, rfl⟩, by decide, by decide, by decide, rfl, rfl, ⟨_, _, rfl, by decide +kernel⟩, ⟨_, _, rfl, by decide +kernel⟩,
    ⟨_, _, rfl, by decide +kernel⟩, ⟨_, _, rfl, by decide +kernel⟩⟩

theorem witness_FullAdder :
    PassIs (inPass (pass0 [(31, 32, 5)] 0)) fun _ p => p.loops = [(31, 32, 5)] ∧ 31 < 32 :=
  ⟨_, _, rfl, rfl, by decide⟩

/-! ## Events of cores and warps -/

/-- Code buffer 5, with a clause of one word at pc 0, and lane pcs at one address. -/
def codeAt (pc : Word) (h : Word) (rights : BitVec 8) : State :=
  { putAt base 0 (leBytes h.toNat 4 ++ leBytes 0x41010000 4) with
    code := [(1, 5)], bufs := [((1, 5), { buf0 with rights := rights })]
    warps := [{ warp0 with lanes := List.replicate 64 { pc := pc } }] }

def fetchKind : Fetch → Nat
  | .words _ => 0
  | .absent _ => 1
  | .execute => 2
  | .badTarget _ => 3
  | .framing _ => 4

/-- A fetch that finds a clause, an absent page, no right X, no clause word, and a length of zero. -/
theorem witness_ClauseFetch :
    let good := codeAt 0 0xC01000FF 0x1F
    let ok (s : State) (pc : Word) (k : Nat) : Prop :=
      (s.warp 3).any (fun w => s.gangAt w pc != 0 && decide (w.group = 2) && decide (w.cands = [])) = true ∧
        (s.group 2).any (fun g => decide (g.stat = .resident) && decide (g.die = 0) && decide (g.ctx = 1)) = true ∧
        fetchKind (s.fetchClause 0 1 pc) = k
    ok good 0 0 ∧ ok { good with pages := [] } 0 1 ∧ ok (codeAt 0 0xC01000FF 3) 0 2 ∧ ok (codeAt 4 0xC01000FF 0x1F) 4 3 ∧
    ok (codeAt 0 0xC00000FF 0x1F) 0 4 := by
  decide +kernel

def cand0 (since : Option Nat) (promoted : Bool) (words : List Word) : Cand := ⟨0, words, since, promoted⟩
def loadWords : List Word := [0xC01000FF, 0x30000000]

/-- R243: a first candidate, none, and a clause already started at the clk; demoted or not, held or not, at the bounds of
priority; promotion at 64 clk. -/
theorem witness_IssueOrder :
    let s : State := { base with warps := [{ warp0 with cands := [cand0 none false [0xC01000FF, 0x41010000]] }] }
    let debug (s : State) : State := ((s.warps.filter fun w => s.warpCore w == 0).map Warp.id).foldl State.loadDebug s
    let now (s : State) (w : Warp) : Warp := match s.group w.group with
      | some grp => if grp.coreId = 0 then s.refreshCands w grp (s.die 0).clk else w
      | none => w
    let ready (s : State) : State := { debug s with warps := (debug s).warps.map (now (debug s)) }
    let u := ready s
    let late : State := ready { s with cores := [(0, { startClk := 1 })] }
    let busy : Warp := { warp0 with ops := List.replicate 17 ⟨50, none, none, 1, .accesses [⟨0, .mem, 0, 4, 0, .load false⟩], 0, 0, []⟩ }
    let hold : State := onDie base { congested := [0] }
    let dem : Warp := { warp0 with demoted := [⟨0, BitVec.allOnes 64, none, 0, false⟩] }
    let demoted (w : Warp) (c : Cand) : Bool := maskSub (s.gangAt w c.pc) w.demotedLanes
    let old (clk : Nat) : State := onDie { base with warps := [{ warp0 with cands := [cand0 (some 100) false loadWords] }] } { clk := clk }
    ((u.candidates 0).length = 1 ∧ u.gang u.nextId = none ∧ u.warp 3 ≠ none ∧ u.group 2 ≠ none ∧ (u.core 0).startClk ≠ 0 + 1) ∧
    ((late.candidates 0).length = 1 ∧ (late.core 0).startClk = (late.die 0).clk + 1 ∧ (ready base).candidates 0 = []) ∧
    (demoted warp0 (cand0 none false []) = false ∧ demoted dem (cand0 none false []) = true) ∧
    (hold.held warp0 grp0 loadWords = false ∧ hold.held busy grp0 loadWords = true) ∧
    (0 < 7 ∧ 7 < 8 ∧ 0 < 2 ^ 70 - 1 ∧ warp0.slot < 16) ∧
    ∀ x ∈ [(163, false), (164, true)], ∃ w grp, (old x.1).warp 3 = some w ∧ (old x.1).group w.group = some grp ∧ grp.coreId = 0 ∧
      (w.cands.all fun c => (c.since.any fun t => decide (t + 64 ≤ ((old x.1).die grp.die).clk)) &&
        !(old x.1).held w grp c.words && !maskSub ((old x.1).gangAt w c.pc) w.demotedLanes) = x.2 := by
  intro s debug now ready u late busy hold dem demoted old
  refine ⟨by decide +kernel, by decide +kernel, by decide +kernel, by decide +kernel, by decide, ?_⟩
  intro x hx
  simp only [List.mem_cons, List.not_mem_nil, or_false] at hx
  obtain rfl | rfl := hx <;> exact ⟨_, _, rfl, rfl, by decide +kernel, by decide +kernel⟩

def poison0 (lanes : Dword) : PoisonRec := ⟨lanes, 0x1234, 0x44, [(1, ref0 8), (2, ref0 8)], 6⟩
def poisoned (p : PoisonRec) : State := { base with warps := [{ warp0 with poison := [p] }] }
def trap0 : TrapReq := ⟨BitVec.allOnes 64, ⟨0x180, 0, 0, 0, 0, 0, 0, 0, 0, 0, [0, 0, 0, 0]⟩, true, 0, 15, 15, [0x41010000], false⟩

/-- A record that a launch's debug block names, with its fields from word 4 on, and the block of one warp. -/
def dbgRec (enable : Word) (rest : List Word) : List Word := [enable, 0, 0, 0] ++ rest ++ List.replicate (60 - rest.length) 0
def dbgBlock (version warps group : Word) (r : List Word) : List Word :=
  [version, warps, group, if group = 0xFFFFFFFF then group else 0] ++ List.replicate 12 0 ++ r ++ List.replicate 960 0

/-- R134, R179, R214, R215: a demotion that a write ended and one whose time is over, with monitors; a poison record of no
lane, of lanes inside clauses, and one of lanes at two headers behind one of a lane inside a clause; blocks refused for each reason, and accepted; a record loaded at a
boundary, not inside a clause, and where a gang stands on a debug event. -/
theorem witness_WarpEvents :
    let mon (h : Word) : Monitor := ⟨h, 1, [7], true, 3, [], 5⟩
    let spin (clk : Nat) : State := onDie { base with warps := [{ warp0 with
      demoted := [⟨0x40, 1, some [7], 104, true⟩, ⟨0x40, 2, none, 105, false⟩, ⟨0x80, 4, none, 200, false⟩]
      mons := [mon 0x40, mon 0x80] }] } { clk := clk }
    let debug (w : Warp) : State := { base with pkg := { negotiated := 0x100 }, warps := [w] }
    let at' (b : List Word) (i : Nat) : Nat := ((b[i]?).getD 0).toNat
    let good := dbgBlock 1 1 0xFFFFFFFF (dbgRec 1 [])
    let two : State := { base with
      gangs := [{ gang0 0 with lanes := 1 }]
      warps := [{ warp0 with poison := [poison0 1, poison0 0x16], lanes := List.replicate 4 {} ++ List.replicate 60 { pc := 8 } }] }
    let held : Warp := { warp0 with dbgNext := some { step := true } }
    ((spin 4199).warp 3 ≠ none ∧ (spin 4199).group 2 ≠ none ∧ ((spin 4200).die 0).clk = 104 + 4096) ∧
    (∃ w p, (poisoned (poison0 0)).warp 3 = some w ∧ w.poison = [p] ∧
      w.lanesWhere (fun l ln => inMask p.lanes l && ln.stat != .exited) = 0) ∧
    (∃ w p, ({ poisoned (poison0 3) with gangs := [gang0 0] } : State).warp 3 = some w ∧ w.poison = [p] ∧
      w.lanesWhere (fun l ln => inMask p.lanes l && ln.stat != .exited) = 3 ∧
      ({ poisoned (poison0 3) with gangs := [gang0 0] } : State).inGang 3 0 = true ∧
      ({ poisoned (poison0 3) with gangs := [gang0 0] } : State).inGang 3 1 = true) ∧
    (∃ w p q, two.warp 3 = some w ∧ w.poison = [p, q] ∧
      w.lanesWhere (fun l ln => inMask p.lanes l && ln.stat != .exited) = 1 ∧
      w.lanesWhere (fun l ln => inMask q.lanes l && ln.stat != .exited) = 0x16 ∧ two.inGang 3 0 = true ∧ two.inGang 3 1 = false ∧
      w.lanesWhere (fun l ln => inMask (0x16 : Dword) l && !two.inGang 3 l && ln.pc == 0) = 6 ∧
      w.handler = none ∧ w.dbgPark = none ∧ grp0.desc.handler ≠ 0xFFFFFFFF ∧ grp0.abandoned = false ∧ p.cause = 6) ∧
    (base.pkg.negotiated.getLsbD 8 = false ∧ (debug warp0).pkg.negotiated.getLsbD 8 = true) ∧
    (at' (dbgBlock 2 1 0 []) 0 ≠ 1 ∧ 2 ^ 16 ≤ at' (dbgBlock 1 0x10000 0 []) 1 ∧
      at' ([1, 1, 0, 0] ++ List.replicate 11 0 ++ [1]) (4 + 11) ≠ 0 ∧ 2 ≤ at' (dbgRec 2 []) 0 ∧ at' (dbgRec 1 [0, 2]) (5 + 4 * 0) = 2 ∧
      at' (dbgRec 1 [2]) (4 + 4 * 0) % 4 ≠ 0 ∧ at' (dbgRec 1 (List.replicate 19 0 ++ [32])) 23 = 32 ∧
      (at' (dbgRec 1 (List.replicate 18 0 ++ [0, 1])) 23 % 2 = 1 ∧ at' (dbgRec 1 (List.replicate 18 0 ++ [0, 1])) 22 = 0) ∧
      at' (dbgRec 1 (List.replicate 59 0 ++ [1])) (52 + 11) ≠ 0) ∧
    (good.length = 1040 ∧ at' good 0 = 1 ∧ at' good 1 < 2 ^ 16 ∧ ((List.range 12).all fun i => at' good (4 + i) == 0) = true ∧
      ((List.range 16).all fun w => (at' good 1).testBit w == (w == 0)) = true ∧
      (let r := (good.drop (16 + 64 * 0)).take 64
       at' r 0 = 1 ∧ ((List.range 63).all fun i => at' r (i + 1) == 0) = true) ∧
      dword (at' good 2 + at' good 3 * 2 ^ 32) = BitVec.allOnes 64) ∧
    (grp0.launch = 1 ∧ warp0.num < 16 ∧ (at' good 1).testBit warp0.num = true ∧
      dword (at' (dbgBlock 1 1 0 []) 2 + at' (dbgBlock 1 1 0 []) 3 * 2 ^ 32) = grp0.index ∧ (debug warp0).warp 3 = some warp0) ∧
    ((debug held).warp 3 = some held ∧ (debug held).gangs = [] ∧ held.dbgPark = none ∧
      (∃ g ∈ ({ debug held with gangs := [gang0 0] } : State).gangs, g.warp = 3 ∧ g.wait = .none)) ∧
    ∃ w q, (debug { held with dbgPark := some trap0 }).warp 3 = some w ∧ w.dbgPark = some q ∧ w.pendTraps = [] ∧
      w.dbgNext = some { step := true } := by
  intro mon spin debug at' good two held
  exact ⟨by decide +kernel, ⟨_, _, rfl, rfl, by decide +kernel⟩, ⟨_, _, rfl, rfl, by decide +kernel⟩,
    ⟨_, _, _, rfl, rfl, by decide +kernel⟩, by decide +kernel, by decide +kernel, by decide +kernel, by decide +kernel,
    ⟨rfl, rfl, rfl, _, List.mem_singleton.2 rfl, rfl, rfl⟩, ⟨_, _, rfl, rfl, rfl, rfl⟩⟩

def entry0 (slot : Nat) : MEntry :=
  { id := 40, group := 2, eop := 1, slot := slot, deps := [], tileDeps := [], block := [], regs := [], z := false }
def convGroup : Group :=
  let q : Conv := ⟨1, BitVec.ofNat 21 (3 * 2 ^ 14 + 0x40 * 64 + 1), true, 4, 64, 0⟩
  { grp0 with conv := listSet grp0.conv 15 q }
/-- A gang signed in collection 15 of its group, at a clk. -/
def signed (clk : Nat) (entries : List MEntry) : State :=
  let g : Gang := { gang0 0x41010000 with index := 2, wait := .signed 15 0x77 50 }
  let w : Warp := { warp0 with ops := [⟨50, none, some 3, 1, .accept, 0, 0, []⟩], flags := [(3, 2)] }
  onDie { base with groups := [convGroup], quads := [(0, { entries := entries })], gangs := [g], warps := [w] } { clk := clk }

/-- R295, R296: a collection that is complete, one with the table full, one at its time limit and one a clk before it, and
one that another warp has not signed. -/
theorem witness_Collections :
    let s := signed 0 [entry0 6]
    let full : State := signed 0 (List.replicate 32 (entry0 6))
    let late := signed (2 ^ convGroup.desc.cvtime) []
    let early := signed (2 ^ convGroup.desc.cvtime - 1) []
    (s.group 2 = some convGroup ∧ (convGroup.convAt 15).collecting = true ∧ convGroup.stat = .resident ∧
      (∀ w ∈ s.warps, maskSub w.live (s.signedLanes w.id 15) = true) ∧ s.signStoresDone 2 15 = true ∧
      (s.quad 0).entries.length < 32 ∧ (∀ x ∈ (s.quad 0).entries, x.id ≠ s.nextId) ∧
      ¬ (convGroup.convAt 15).since + 2 ^ convGroup.desc.cvtime ≤ (s.die 0).clk) ∧
    (32 ≤ (full.quad 0).entries.length) ∧
    (let two : State := { s with warps := s.warps ++ [{ warp0 with id := 9 }] }
     (convGroup.convAt 15).expect.getLsbD 0 = true ∧ ∃ w ∈ two.warps, w.group = 2 ∧ w.ended = false ∧ w.num = 0 ∧
       maskSub w.live (two.signedLanes w.id 15) = false) ∧
    (late.group 2 = some convGroup ∧ (convGroup.convAt 15).since + 2 ^ convGroup.desc.cvtime ≤ (late.die 0).clk ∧
      late.gangs.length = 1 ∧ (∀ g ∈ late.gangs, g.wait = .signed 15 0x77 50 ∧ late.warp g.warp ≠ none) ∧
      warp0.handler = none ∧ warp0.dbgPark = none ∧ convGroup.desc.handler ≠ 0xFFFFFFFF) ∧
    (early.die 0).clk < (convGroup.convAt 15).since + 2 ^ convGroup.desc.cvtime := by
  decide +kernel

def cmdOp : TOp := ⟨61, none, some 3, 1, .accept, 0, 0, []⟩
/-- Commands in the buffer of core 0. -/
def buffered (cs : List Cmd) (sq : List SQEntry) : State :=
  { base with warps := [{ warp0 with ops := [cmdOp], flags := [(3, 1)], sq := sq }], cores := [(0, { cmds := cs })] }

/-- R12: an operation of a lane, one of a uniform register, and each overtaken by a handler's write; a command behind another of its engine, an acquire that waits,
one that its engine does not take, and one that it takes. -/
theorem witness_Completion :
    let done (r : RegWrite) (lost : List (Nat × Nat)) : TOp := ⟨50, some 2, some 3, 1, .done [r], 0, 0, lost⟩
    let s (r : RegWrite) (lost : List (Nat × Nat)) : State := { base with warps := [{ warp0 with ops := [done r lost] }] }
    let first (s : State) (id : Nat) : Bool := ((s.core 0).cmds.takeWhile fun x => x.id != id).all fun x =>
      engineOf x.eop != engineOf 12
    let acq : Cmd := { cmd0 8 0x200 [] with id := 60 }
    (∀ r ∈ [(⟨63, 95, 1⟩ : RegWrite), ⟨uniLane, 31, 1⟩], ∀ lost ∈ [[], [(r.lane, r.reg)]],
      ((s r lost).warp 3).map (fun w => lookupBy TOp.id w.ops 50) = some (some (done r lost))) ∧
    first (buffered [{ cmd0 12 0 [] with id := 59 }, cmd0 12 0 []] []) 60 = false ∧
    (first (buffered [acq] full16) 60 = true ∧ acq.ebits.getLsbD 9 = true ∧
      (buffered [acq] full16).releaseReadyAt { warp0 with sq := full16 } 0 (acq.ebits.extractLsb' 5 3).toNat 60 = false) ∧
    (let t : State := { buffered [cmd0 5 0 []] [] with quads := [(0, { entries := List.replicate 32 (entry0 1) })] }
     t.engineTake grp0 (cmd0 5 0 []) = none) ∧
    ((buffered [cmd0 12 0 [64, 5]] []).engineTake grp0 (cmd0 12 0 [64, 5])).isSome = true := by
  decide +kernel

/-- The operation 50 of the small warp: one access of lane 5, at the Lantern store or in buffer 5. -/
def accOp (sp : Space) (n : Nat) (k : AccKind) : TOp :=
  ⟨50, some 2, some 3, 1, .accesses [⟨5, sp, if sp = .mem then ref0 8 else 8, n, 7, k⟩], 0, 0, []⟩
def withOp (o : TOp) : State := { base with warps := [{ warp0 with ops := [o] }] }

/-- The bytes of n bytes of buffer 5 are present, and what they satisfy; an absent page instead. -/
def present (s : State) (n : Nat) (P : List Nat → Bool) : Bool :=
  match s.physList 1 (ref0 8) n with
  | .ok ps => P ps
  | .error _ => false
def pageAbsent (s : State) (n : Nat) : Bool :=
  match s.physList 1 (ref0 8) n with
  | .ok _ => false
  | .error _ => true

/-- A pinned buffer of 4 KiB pages in the host's memory. -/
def hostBuf : BufEntry := { buf0 with bflags := 0xB, ilv := 0, pgsz := 0, rights := 0x2F }

/-- What the accesses' statements ask of their operation and its page. -/
def accessReady (s : State) (o : TOp) (sp : Space) (n : Nat) (rt : Right) : Bool :=
  (s.findOp o.id).any (fun x => x.1.id == 3 && x.2.2 == o) &&
  (s.warp 3).any (fun w => firstPending w o.id && decide (w.sq = []) && decide (w.ops = [o])) &&
  !s.isParked o.id && !s.isKick 1 (if sp = .mem then ref0 8 else 8) && (sp != .mem || s.accessRow 1 (ref0 8) n rt == 0) &&
  decide ((s.core 0).wt = []) && decide ((s.quad 0).lpoison = []) && decide (s.l1 = [] ∧ s.copies = [] ∧ s.latent = [] ∧
    s.migrations = [])

/-- Loads of each size at both spaces, and on an absent page; atomics of each size at both spaces, and of the port form on the
host's memory, with and without AtomicOps. -/
theorem witness_AccessesPerformed :
    let ld (sp : Space) (n : Nat) : TOp := accOp sp n (.load true)
    let at' (sp : Space) (n op : Nat) : TOp := accOp sp n (.atomic op 1 0 5 0)
    let absent : State := { withOp (ld .mem 4) with pages := [] }
    let host (n op feat : Nat) : State :=
      { withOp (at' .mem n op) with bufs := [((1, 5), hostBuf)], pkg := { negotiated := BitVec.ofNat 128 feat } }
    let port (s : State) (n op : Nat) : Bool := s.portForm ⟨5, .mem, ref0 8, n, 7, .atomic op 1 0 5 0⟩
    (∀ n ∈ [1, 2, 4, 8, 16], accessReady (withOp (ld .lantern n)) (ld .lantern n) .lantern n .r = true ∧
      accessReady (withOp (ld .mem n)) (ld .mem n) .mem n .r = true ∧ base.portOp = none ∧
      present base n (fun ps => ps.length == n && ps.all fun p => !base.lineBad (p / 64)) = true) ∧
    (accessReady absent (ld .mem 4) .mem 4 .r = true ∧ pageAbsent absent 4 = true) ∧
    (∀ n ∈ [4, 8], accessReady (withOp (at' .lantern n 0)) (at' .lantern n 0) .lantern n .a = true ∧
      accessReady (withOp (at' .mem n 0)) (at' .mem n 0) .mem n .a = true ∧ 8 + n ≤ 2 ^ 32 ∧
      present base n (fun ps => decide ps.Nodup && ps.all fun p => !base.lineBad (p / 64) && decide (p < hostBase)) = true) ∧
    ∀ n ∈ [4, 8], ∀ x ∈ [(0, 0, true), (3, 1, true), (0, 1, false), (12, 1, false)],
      accessReady (host n x.1 x.2.1) (at' .mem n x.1) .mem n .a = true ∧ port (host n x.1 x.2.1) n x.1 = x.2.2 ∧
      present (host n x.1 x.2.1) n (fun ps => decide ps.Nodup && ps.all fun p => decide (hostBase ≤ p ∧ p < zoneBase)) = true := by
  decide +kernel

/-- A store at the head of the queue, to each space; one on an absent page; one on its way with another byte before it; and one
to the host's memory behind a store of its warp to device memory, and one of another warp to the host's. -/
theorem witness_StorePath :
    let e (sp : Space) : SQEntry := ⟨50, [⟨5, sp, if sp = .mem then ref0 8 else 8, [1, 2, 3, 4]⟩], some 3, 1, 0, 0⟩
    let s (sp : Space) (pages : List (PageKey × PageEntry)) : State :=
      { base with pages := pages, warps := [{ warp0 with sq := [e sp] }] }
    let good (s : State) (sp : Space) : Prop := s.isParked 50 = false ∧ s.isKick 1 (if sp = .mem then ref0 8 else 8) = false ∧
      (s.warp 3).map (fun w => (w.sq, w.ops)) = some ([e sp], []) ∧ (sp = .mem → s.accessRow 1 (ref0 8) 4 .w = 0) ∧
      (s.core 0).wt.all (fun y => y.id != 50) = true
    let wt (before : List WtStore) (a : Nat) : State :=
      { base with cores := [(0, { wt := before ++ [⟨50, 3, 0, [(a, 7), (a + 1, 8)]⟩] })] }
    let leaves (s : State) (a : Nat) : Prop := (s.findOp 50).isNone = true ∧
      (s.findWt 50).map (fun x => (x.1, x.2.cells)) = some (0, [(a, 7), (a + 1, 8)]) ∧ s.isParked 50 = false ∧
      [a, a + 1].all (fun p => (wtByte ((s.core 0).wt.takeWhile fun y => y.id != 50) p).isNone && !s.cutOff p) = true ∧
      (!atHost [a, a + 1] || ((s.core 0).wt.takeWhile fun y => y.id != 50).all fun y =>
        y.warp != 3 || !atHost (y.cells.map (·.1))) = true ∧
      tabRising none [(a, (7 : Byte)), (a + 1, 8)] = true ∧ s.migrations = [] ∧ s.latent = [] ∧ s.portOp = none
    good (s .lantern base.pages) .lantern ∧ good (s .mem base.pages) .mem ∧ good (s .mem []) .mem ∧
    pageAbsent (s .mem []) 4 = true ∧ present (s .mem base.pages) 4 (fun ps => decide (ps ≠ [] ∧ ps.Nodup)) = true ∧
    leaves (wt [⟨49, 3, 0, [(99, 1)]⟩] 100) 100 ∧ atHost [100, 101] = false ∧
    leaves (wt [⟨48, 9, 0, [(hostBase, 1)]⟩, ⟨49, 3, 0, [(99, 1)]⟩] (hostBase + 4)) (hostBase + 4) ∧
    atHost [hostBase + 4, hostBase + 5] = true := by
  intro e s good wt leaves
  and_intros <;> decide +kernel

/-- A warp that may end, as the last of its group or beside another, in a launch that releases or not; a group ready to be
saved or not; a saved group that fits, with no image, one on an absent page and one read back; a group parked on a debug
event. -/
theorem witness_GroupEvents :
    let gone : Warp := { warp0 with lanes := List.replicate 64 { stat := .exited }, ops := [⟨50, some 2, none, 1, .status 9, 0, 0, []⟩] }
    let s (ws : List Warp) : State := { base with warps := ws }
    let other : Warp := { warp0 with id := 9, num := 1 }
    let rel : Group := { grp0 with rel := some 3 }
    let lum : Group := { grp0 with slots := [⟨0, 1, false⟩] }
    let ends (s : State) (g : Group) : Prop := s.warp 3 = some gone ∧ s.group 2 = some g ∧ g.stat = .resident ∧ gone.ended = false ∧
      (∀ ln ∈ gone.lanes, ln.stat = .exited) ∧ s.gangs = [] ∧ gone.sq = [] ∧ s.cores = [] ∧
      ((∃ y ∈ s.warps, y.group = 2 ∧ y.id ≠ 3 ∧ y.ended = false) ∨ (g.rel = none ∧ ∀ l ∈ g.slots, l.balance = 0) ∨
        s.wtClear g.coreId = true)
    let mid (s : State) : State :=
      let u := s.updGroup 2 fun g => { g with stat := .saving }
      ((u.groupWarps 2).map Warp.id).foldl State.stepAtSave u
    let ready (s : State) (b : Bool) : Bool := ((mid s).group 2).any fun h =>
      h.stat == .saving && ((mid s).endPrefetches h).readyToSave h == b
    let saved : Group := { grp0 with stat := .saved }
    let l : Launch := { launch0 with id := 1, save := ref0 0x4000, rem := [[], [], [], []] }
    let image (b : List Byte) (pages : List (PageKey × PageEntry)) (ls : List Launch) : State :=
      (({ putAt base 0x4000 b with groups := [saved], warps := [], launches := ls, pages := pages } : State).noteWait 1).starve 1
    let head : List Byte := leBytes 1 4 ++ leBytes 1 4 ++ leBytes 256 8 ++ leBytes 0 8
    let kind (u : State) : Nat := match u.savedImage saved with | .none => 0 | .absent => 1 | .ok b => 2 + recField b 4 4
    let fits (u : State) : Prop := u.group 2 = some saved ∧ u.mayRestore 1 2 = true ∧
      (u.bestCore 1 (List.range 512) (u.savedNeed saved)).isSome = true ∧ saved.saveCmds.length ≤ 32 ∧ u.quads = []
    let parked : State := s [{ warp0 with dbgPark := some trap0 }]
    (ends (s [gone]) grp0 ∧ ∀ y ∈ (s [gone]).warps, y.group = 2 → y.id = 3 ∨ y.ended = true) ∧
    (ends (s [gone, other]) grp0 ∧ ∃ y ∈ (s [gone, other]).warps, y.group = 2 ∧ y.id ≠ 3 ∧ y.ended = false) ∧
    ends { s [gone] with groups := [rel] } rel ∧ ends { s [gone] with groups := [lum] } lum ∧ lum.slots = [⟨0, 1, false⟩] ∧
    (base.group 2 = some grp0 ∧ ready base true = true ∧ (mid base).gangs = [] ∧ (base.quad 0).tcmds = []) ∧
    ready (atWord 0x41010000) false = true ∧
    (∀ x ∈ [(image [] base.pages [], 0), (image head [] [l], 1), (image head base.pages [l], 3),
        (image (leBytes 2 4 ++ head.drop 4) base.pages [l], 0)], fits x.1 ∧ kind x.1 = x.2) ∧
    ∃ w ∈ parked.warps, w.group = 2 ∧ w.dbgPark = some trap0 ∧ ∀ v ∈ parked.warps, v.dbgPark = some trap0 := by
  and_intros <;> decide +kernel

def launching (ls : List Launch) : State := { base with launches := ls, groups := [], warps := [], pkg := { boot := { booted := true } } }

theorem witness_GroupAdmission :
    let u := ((launching [launch0]).noteWait 0).starve 0
    let starving (clk : Nat) : State := onDie (launching [launch0]) { clk := clk, waiting := some (90, 5) }
    ((u.admissible 0).find? (fun x => u.itemFits 0 x)).any (fun x => match x with | .fresh l => decide (l = launch0) | _ => false) = true ∧
    launch0.lflags / 2 % 2 = 0 ∧ popLow ((launch0.rem[0]?).getD []) = some (0, [⟨0, 1, 10⟩]) ∧
    (u.bestCore 0 (List.range 512) launch0.need).isSome = true ∧ u.groups = [] ∧ u.warps = [] ∧ u.launch 90 = some launch0 ∧
    launch0.lflags % 2 = 0 ∧ launch0.batch = [] ∧ 0 < launch0.desc.warps ∧
    ((starving 1048581).admitOrder 0).map AdmitItem.name = [90] ∧
    (0 < (starving 1048581).dieU.length ∧ ((starving 1048581).die 0).waiting = some (90, 5) ∧ 5 + 1048576 ≤ ((starving 1048581).die 0).clk) := by
  decide +kernel

/-- A launch block of 40 groups at 0x100 with its kernel descriptor at 0x200, and a queue at 0x400 whose entry names it. -/
def blocks : State :=
  putAt (putAt (putAt base 0x100 (leBytes 1 4 ++ leBytes 0 4 ++ leRef 0x200 ++ leBytes 40 8 ++ zeros 12 ++ leBytes 3 1 ++ zeros 219))
    0x200 (leBytes 0 4 ++ leBytes 0x40 4 ++ leBytes 0xFFFFFFFF 4 ++ leBytes 0xFFFFFFFF 4 ++ leBytes 16 1 ++ leBytes 32 1 ++ leBytes 2 1 ++
      leBytes 2 1 ++ leBytes 4096 4 ++ zeros 6 ++ leBytes 24 1 ++ zeros 33)) 0x400 (leRef 0x100 ++ zeros 24)
def launchKind : LaunchRead → Nat
  | .ok _ _ => 0
  | .hold => 1
  | .refused c => 2 + c

/-- R234, R235, R237, R242: a launch forwarded; a queue whose entry is accepted, and tail counts outside it; victims of one and
of two groups; a reply; a report to the die itself and to another; a sample before its time and at it. -/
theorem witness_LaunchSpread :
    let q : HQueue := { ctx := 1, base := ref0 0x400, size := 4, home := 2 }
    let s : State := { blocks with pkg := { queues := [(6, q)], boot := { booted := true } } }
    let thief (half : Seg) : State := { launching [{ launch0 with rem := [[half], [], [], []] }] with
      dieU := [{}, {}, {}, { reports := [(90, 0, 10)] }] }
    let reply : State := { launching [launch0] with dieU := [{}, {}, {}, { stolen := [(90, [⟨0, 5, 10⟩])] }] }
    let rung : State := { s with pkg := { s.pkg with queues := tabPut s.pkg.queues 6 { q with tail := 1 } } }
    let found := (rung.findSpan 2 1 (refAdd q.base (32 * (q.head % max 1 q.size : Nat))) 32).findLaunch 2 1 (ref0 0x100)
    (s.launch 90 = none ∧ (launching [launch0]).launch 90 = some launch0 ∧ 3 < launch0.known.length) ∧
    (tabFind s.pkg.queues 6 = some q ∧ s.pkg.boot.booted = true ∧ (q.head + q.size < 5 ∧ q.tail = q.head ∧ 1 ≤ q.size) ∧
      (s.engRead 1 (refAdd q.base (32 * (q.head % max 1 q.size : Nat))) 32).any (fun x => dword (recField x.1 0 8) = ref0 0x100) = true ∧
      launchKind (found.launchRead 1 (ref0 0x100)) = 0) ∧
    (∀ seg ∈ [(⟨0, 0, 2⟩ : Seg), ⟨0, 0, 1⟩], (∀ x ∈ (thief seg).launches, x.left 3 = 0) ∧ ((thief seg).die 3).stolen = [] ∧
      3 < (thief seg).dieU.length ∧ (thief seg).stealPick 3 = some (90, 0, 10) ∧ (thief seg).launch 90 ≠ none) ∧
    (reply.die 3).stolen = [(90, [⟨0, 5, 10⟩])] ∧
    (3 < base.dieU.length ∧ 0 ≠ 3 ∧ ∀ l ∈ (launching [launch0]).launches, l.known[3]? = some true) ∧
    ((onDie base { clk := 255 }).die 0).clk < ((onDie base { clk := 255 }).die 0).congDue ∧
    ((onDie base { clk := 256 }).die 0).congDue ≤ ((onDie base { clk := 256 }).die 0).clk := by
  decide +kernel

/-! ## Pages -/

def pageA : PageEntry := { page0 with accDies := 5, dirty := true }
def change0 (await inval : List Nat) : Change := ⟨70, key0, await, inval, []⟩
/-- The small state with one page entry, a buffer entry and a change. -/
def paged (e : BufEntry) (p : List (PageKey × PageEntry)) (cs : List Change) : State :=
  { base with bufs := [((1, 5), e)], pages := p, changes := cs }
def evictBuf : BufEntry := { buf0 with ilv := 0, rights := 0xF }

/-- R247, R250–R252, R434: dies with translations and none; a change announced, invalidated and acknowledged last; buffer
numbers at both ends; a bus page and an absent one. -/
theorem witness_PageChanges :
    let s := paged buf0 [(key0, pageA)] []
    let c (await inval : List Nat) : State := paged buf0 [(key0, pageA)] [change0 await inval]
    let h (p : List (PageKey × PageEntry)) : State := paged hostBuf p []
    let placed := paged buf0 [(key0, { pageA with place := some (0, 3), retire := true })] []
    let asked (s : State) : State := { s with pkg := { s.pkg with pageReqs := [key0] } }
    let words (dir : Nat) (flags : Nat) : List Dword := [dword dir, dword (2 ^ 17), dword (1 + 0x1F * 2 ^ 16 + 2 ^ 24 + 4 * 2 ^ 32 + flags * 2 ^ 40), 0]
    let new (dir flags : Nat) : BufEntry := bufEntryOf (words dir flags)
    let had (b : List ((Nat × Nat) × BufEntry)) : State := { s with bufs := b, tables := [(new 7 1, key0, pageA)] }
    let old (b : List ((Nat × Nat) × BufEntry)) : Option BufEntry := ((had b).bufs.find? fun e => e.1 == (1, 5)).map fun e => e.2
    (s.buf 1 5 = some buf0 ∧ 3 < 4 ∧ 63 < 64 ∧ 63 ≠ s.pkg.pkgid ∧ s.dieU.length = 4) ∧
    (s.changing key0 = false ∧ s.oldFrames key0 = [] ∧
      ((List.range 4).filter fun d => (s.page key0).accDies.getLsbD d || s.lampLists d key0 false) = [0, 2] ∧
      ((List.range 4).filter fun d => (base.page key0).accDies.getLsbD d || base.lampLists d key0 false) = [] ∧
      base.changing key0 = false ∧ (placed.page key0).place ≠ none ∧ placed.changing key0 = false ∧ placed.oldFrames key0 = [] ∧
      placed.buf 1 5 = some buf0 ∧ (placed.page key0).state = 1 ∧ (placed.page key0).retire = true) ∧
    (lookupBy Change.id (c [0, 2] []).changes 70 = some (change0 [0, 2] []) ∧ 2 ∈ [0, 2] ∧ 2 ∉ ([] : List Nat)) ∧
    (∀ x ∈ [[0, 2], [2]], lookupBy Change.id (c x [2]).changes 70 = some (change0 x [2]) ∧
      (c x [2]).oldStores key0 (fun core => core / 512 == 2) = false ∧ (c x [2]).lampLists 2 key0 true = false) ∧
    (let busy : State := { c [2] [2] with changes := [{ change0 [2] [2] with old := [(buf0, 0, 3)] }]
                                          cores := [(1024, { wt := [⟨50, 3, 1024, [(196608, 1)]⟩] })] }
     busy.oldStores key0 (fun core => core / 512 == 2) = true) ∧
    (0 < 1 ∧ 2 ^ 20 - 1 < 2 ^ 20 ∧ s.pkg.boot.recovery = false) ∧
    (old [((1, 5), new 6 1)] = some (new 6 1) ∧ (new 6 1).dir = 6 ∧ (new 6 1).bflags.getLsbD 0 = true ∧
      (new 6 0).bflags.getLsbD 0 = false ∧ (new 7 1).dir = 7 ∧ old [] = none ∧ key0.ctx = 1 ∧ key0.buf = 5) ∧
    ((h [(key0, pageA)]).buf 1 5 = some hostBuf ∧ hostBuf.bflags.getLsbD 3 = true ∧ (h [(key0, pageA)]).changing key0 = false ∧
      ((h [(key0, pageA)]).page key0).state = 1) ∧
    ((h []).changing key0 = false ∧ ((h []).page key0).state ≠ 1 ∧ (∀ u ∈ (h []).dieU, u.parking = [] ∧ u.missq = []) ∧
      (h []).pkg.queues = [] ∧ (h []).remote = [] ∧ key0 ∉ (h []).pkg.pageReqs ∧ key0 ∈ (asked (h [])).pkg.pageReqs ∧ refBuf (ref0 4095) = 5 ∧ refOff (ref0 4095) / pageBytes hostBuf.pgsz = 0 ∧
      refOff (ref0 4095) < hostBuf.size) := by
  decide +kernel

/-- R253–R258: a page in service with a frame free, and with none and none to free; a visit before its time, at it, and one that
moves a page to the die that alone uses it; an eviction when memory is not short and when it is, to the zone and to the tier; its
end; a migration and its switch. -/
theorem witness_PageMoves :
    let key1 : PageKey := ⟨1, 5, 1⟩
    let new : PageEntry := { state := 1, mig := false, stack := 0, frame := 9 }
    let ev : Eviction := ⟨key0, 4, true, 0, 3⟩
    let mg : Migration := ⟨key0, 0, 3, 0, 9, [], false⟩
    let s := paged evictBuf [(key0, pageA)] []
    let out : State := { paged evictBuf [(key0, { pageA with state := 2, frame := 4 })] [] with evictions := [ev] }
    let moving : State := { s with migrations := [mg] }
    let none' : State := { paged buf0 [] [] with wanted := [key1], dieU := List.replicate 4 { regs := { zonesize := 2 ^ 40 } } }
    let low : State := { s with dieU := List.replicate 4 { regs := { freelow := 2 ^ 31 } } }
    let due (n : Nat) : State := onDie s { clk := n }
    let own : PageEntry := { page0 with accDies := 2, visits := [2] }
    let near : BufEntry := { evictBuf with ilv := 3 }
    let loc : State := onDie (paged near [(key0, own)] []) { clk := 13000000, regs := { locmig := 1 } }
    (base.buf 1 5 = some buf0 ∧ (base.page key1).state = 0 ∧ buf0.bflags.getLsbD 2 = false ∧ buf0.bflags.getLsbD 3 = false ∧
      base.changing key1 = false ∧ base.oldFrames key1 = [] ∧ 1 * pageBytes buf0.pgsz < buf0.size ∧ base.frameOk buf0 0 9 = true ∧
      placeOk buf0 (base.page key1) 0 9 = true ∧ base.frameUsed buf0 new = false ∧
      (∀ u ∈ base.dieU, u.parking = [] ∧ u.missq = []) ∧ base.pkg.queues = [] ∧ base.remote = [] ∧ base.pkg.pkgid < 64) ∧
    ((none'.page key1).state = 0 ∧ none'.changing key1 = false ∧ none'.oldFrames key1 = [] ∧ none'.frameOk buf0 0 9 = false ∧
      none'.awaited key1 = true ∧ none'.shortOfFrames buf0 (none'.page key1) = true) ∧
    ((key0, pageA) ∈ s.pages ∧ (s.pages.map Prod.fst).Nodup ∧ s.buf 1 5 = some evictBuf ∧ pageA.state = 1 ∧
      evictBuf.evictable = true ∧ evictBuf.ilv ≤ 1 ∧ s.changing key0 = false ∧ ((due 12999999).die 0).clk < ((due 12999999).die 0).ageDue ∧
      ((due 13000000).die 0).ageDue ≤ ((due 13000000).die 0).clk ∧ ((due 13000000).die 0).regs.locmig = 0) ∧
    (near.evictable = true ∧ near.ilv ∈ [2, 3] ∧ own.stack / 3 = 0 ∧ (loc.die 0).ageDue ≤ (loc.die 0).clk ∧
      (loc.die 0).regs.locmig = 1 ∧ own.accDies = 1#4 <<< 1 ∧ own.visits.head? = some own.accDies ∧ own.mig = false ∧
      loc.changing key0 = false ∧ loc.oldFrames key0 = [] ∧ loc.freeFrame near own [3 * 1, 3 * 1 + 1, 3 * 1 + 2] = some (3, 0)) ∧
    ((s.page key0).mig = false ∧ s.oldFrames key0 = [] ∧
      (∀ n ∈ stacksOf evictBuf pageA.stack, (s.die (n / 3)).regs.freelow ≤ s.freeUnits n) ∧
      (∃ n ∈ stacksOf evictBuf pageA.stack, low.freeUnits n < (low.die (n / 3)).regs.freelow) ∧
      low.changing key0 = false ∧ low.oldFrames key0 = [] ∧ low.firstVictim evictBuf key0 = true ∧
      (∀ h ∈ [1, 8, 11 * 2 ^ 31 + 512 + 1], low.zoneOk evictBuf pageA.stack h = true) ∧
      (∀ x ∈ low.allPages, x.state = 3 → x.frame ≠ 4) ∧ low.evictions = []) ∧
    (out.buf 1 5 = some evictBuf ∧ (out.evictions.find? fun x => x.key == key0) = some ev ∧ out.changing key0 = false ∧
      out.oldStores key0 (fun _ => true) = false) ∧
    (s.frameOk evictBuf 0 9 = true ∧ placeOk evictBuf pageA 0 9 = true ∧ s.frameUsed evictBuf new = false ∧
      evictBuf.bflags.getLsbD 2 = false ∧ evictBuf.bflags.getLsbD 3 = false) ∧
    ((moving.migrations.find? fun x => x.key == key0) = some mg ∧ moving.changing key0 = false ∧
      moving.oldStores key0 (fun _ => true) = false) := by
  intro key1 new ev mg s out moving none' low due own near loc
  and_intros <;> decide +kernel

/-- R259, R260, R264: a stack to scrub before its time and at it, with a line in error; failed rows of banks with a spare row left
and with none; registers beside the listed ones, and the pools' bounds. -/
theorem witness_Upkeep :
    let s (clk : Nat) (st : StackU) : State := { onDie base { clk := clk } with stackU := [(0, st)] }
    let due := 86400 * 1000000 * 1300
    let row (used : Nat) : StackU := { failed := [(3, 9)], spareRows := [(3, used)] }
    let register (reg : Nat) : Prop := (reg < 0x40 ∧ reg % 8 = 0) ∨
      (∃ i ∈ List.range 4, ∃ c ∈ List.range 3, i < (base.die 0).pools.length ∧ (reg = 0x1000 + 0x100 * i + 0x10 * c ∨
        reg = 0x1000 + 0x100 * i + 0x10 * c + 8)) ∨ reg = 0x2000 ∨ reg = 0x3000 ∨ reg = 0x3008 ∨
      (0x4000 ≤ reg ∧ reg < 0x6000 ∧ reg % 8 = 0) ∨
      ∃ k ∈ [1, 2, 3, 4], k * 0x100000 ≤ reg ∧ reg < k * 0x100000 + 0x10000
    let mapped : State := { base with pkg := { base.pkg with ctxFn := [(1, 3)] } }
    let pool : Pool := ⟨96, [16, 32, 8], [64, 80, 16], [0, 0, 0]⟩
    (11 < 12 ∧ ((s (due - 1) {}).die 0).clk < ((s (due - 1) {}).stack 0).scrubDue ∧
      ((s due {}).stack 0).scrubDue ≤ ((s due {}).die 0).clk) ∧
    (64 * 10 < 2 ^ 60 ∧ physPkg (64 * 10) = base.pkg.pkgid ∧ physStack (64 * 10) = 0) ∧
    (∀ used ∈ [3, 4], ((s due (row used)).stack 0).scrubDue ≤ ((s due (row used)).die 0).clk ∧ (s due (row used)).latent = [] ∧
      ((s due (row used)).stack 0).cerr = [] ∧ ((s due (row used)).stack 0).failed = [(3, 9)] ∧
      tabGet 0 ((s due (row used)).stack 0).spareRows 3 = used ∧ ((s due (row used)).stack 0).remaps < 512) ∧
    (∀ reg ∈ [0x01, 0x40, 0x3E, 0xFFF, 0x1004, 0x1030, 0x1400, 0x2008, 0x3010, 0x3FFF, 0x4001, 0x6000, 0xFFFFF, 0x110000, 0x1FFFFF,
      0x210000, 0x410000], ¬ register reg) ∧
    (∀ reg ∈ [0x00, 0x38, 0x1000, 0x1028, 0x1328, 0x2000, 0x3000, 0x3008, 0x4000, 0x5FF8, 0x100000, 0x10FFFF, 0x200000, 0x20FFFF,
      0x300000, 0x40FFFF], register reg) ∧
    (base.pkg.boot.recovery = false ∧ base.buf 1 5 = some buf0 ∧ base.buf 1 6 = none ∧ tabFind base.pkg.ctxFn 1 = none ∧
      mapped.buf 1 5 = some buf0 ∧ tabFind mapped.pkg.ctxFn 1 = some 3 ∧ 524287 * 4096 + buf0.size ≤ 2 ^ 36 ∧
      2 ^ 36 < 2 ^ 24 * 4096 + buf0.size) ∧
    (base.groups ≠ [] ∧ State.reset.launches = [] ∧ State.reset.groups = [] ∧ 2 ^ (6 + 10) = 65536 ∧ 2 ^ (4 + 12) = 65536) ∧
    ((base.die 3).pools[0]? = some pool ∧ (listSet pool.mins 2 48).sum = pool.entries ∧ pool.entries < (listSet pool.mins 2 49).sum ∧
      base.replyReserve 3 0 ≤ ((listSet pool.mins 2 48)[1]?).getD 0) := by
  and_intros <;> decide +kernel

/-! ## Engines -/

def image0 : Memory := Memory.writeBytes [] 64 (leBytes 3 4 ++ leBytes 7 4 ++ leBytes 1 4 ++ leBytes 9 4)
def tcmdIdle : TCmd :=
  { id := 0, group := 2, warp := 3, ctx := 1, eop := 8, take := false, regs := [], mask := 0, sop := none, acq := none, rel := none }

/-- R276, R279, R295, R241: tables of 31 and 32 entries; a matrix command behind a Lantern store of its warp and with none,
behind an entry of the slot it names, checked and refused; a synchronisation word at the last place of the allocation and past
it; launches accepted, refused and held, with an entry of the pool granted and not. -/
theorem witness_EngineTakes :
    let quad (es : List MEntry) (ts : List TCmd) : State := { base with quads := [(0, { entries := es, tcmds := ts })] }
    let m (eop : Nat) (regs : List Word) (ebits : BitVec 21) : Cmd := cmd0 eop ebits regs
    let e (eop : Nat) (regs : List Word) : MEntry := { entry0 0 with id := 100, eop := eop, regs := regs }
    let stand (es : List MEntry) : Prop := (∀ x ∈ es, x.eop = 1) ∧ ∀ x ∈ es, x.id < base.nextId ∧ x.deps ++ x.tileDeps = []
    let dist (d : List Cmd) (held : List Nat) : State :=
      onDie blocks { dcmds := d, pools := [{ entries := 96, mins := [], caps := [] }, { entries := 256, mins := [], caps := [] },
        { entries := 512, mins := [], caps := [] }, ⟨64, [16, 16, 16], [40, 40, 32], held⟩] }
    (base.warp 3 = some warp0 ∧ warp0.sq = [] ∧ warp0.ops = [] ∧ base.group grp0.id = some grp0) ∧
    (stand (List.replicate 31 (entry0 1)) ∧ ((quad (List.replicate 31 (entry0 1)) []).quad 0).entries.length < 32 ∧
      32 ≤ ((quad (List.replicate 32 (entry0 1)) []).quad 0).entries.length) ∧
    ((entry0 1).slot = 1 ∧ (BitVec.extractLsb' 6 8 (0x80 : BitVec 21)).getLsbD 1 = true ∧
      ((quad [entry0 1] []).engineTake grp0 (m 4 [2] 0x80)).any (fun t => ((t.quad 0).entries.getLast?).any fun x =>
        x.id == 100 && !x.ready [entry0 1]) = true) ∧
    ((e 4 [2]).ready [entry0 1] = true ∧ checkEntry ((quad [entry0 1] []).quad 0) grp0 (e 4 [2]) = 0 ∧
      checkEntry ((quad [entry0 1] []).quad 0) grp0 { e 5 [0x40] with block := zeros 64 } ≠ 0) ∧
    (((quad [] (List.replicate 31 tcmdIdle)).quad 0).tcmds.length < 32 ∧
      32 ≤ ((quad [] (List.replicate 32 tcmdIdle)).quad 0).tcmds.length) ∧
    (0x7FF0 % 16 = 0 ∧ 0x7FF0 + 16 ≤ grp0.desc.lbytes ∧ grp0.desc.lbytes < 0x8000 + 16 ∧ 0x7FF1 % 16 ≠ 0) ∧
    ((blocks.die 0).dcmds = [] ∧ launchKind ((blocks.findLaunch 0 1 (ref0 0x100)).launchRead 1 (ref0 0x100)) = 0 ∧
      launchKind ((blocks.findLaunch 0 1 (ref0 0x101)).launchRead 1 (ref0 0x101)) = 2 + 2 ∧
      launchKind (({ blocks with pages := [] } : State).findLaunch 0 1 (ref0 0x100) |>.launchRead 1 (ref0 0x100)) = 1) ∧
    (((dist [cmd0 14 0 []] [0, 0, 0]).die 0).dcmds ≠ [] ∧ ∀ h ∈ [15, 31, 32], ∃ p,
      ((dist [cmd0 14 0 []] [0, 0, h]).die 0).pools[3]? = some p ∧
        decide (p.held.getD 2 0 < p.mins.getD 2 0 ∨ (p.held.getD 2 0 < p.caps.getD 2 0 ∧
          p.held.sum + (p.mins.getD 0 0 - p.held.getD 0 0) + (p.mins.getD 1 0 - p.held.getD 1 0) < p.entries)) = decide (h < 32)) := by
  intro quad m e stand dist
  and_intros <;> decide +kernel

/-- A Lantern store that waits in the queue: what was before the command at issue is not done; with none it is. -/
theorem witness_EngineTakes_lantern : LanternDone warp0 60 ∧
    ¬ LanternDone { warp0 with sq := [⟨50, [⟨0, .lantern, 8, [1]⟩], none, 1, 0, 0⟩] } 60 :=
  ⟨⟨fun _ h => absurd h (List.not_mem_nil), fun _ h => absurd h (List.not_mem_nil)⟩,
    fun h => h.1 _ (List.mem_singleton.2 rfl) (by decide) _ (List.mem_singleton.2 rfl) rfl⟩

/-- A record of one element of 4 bytes in a box of 128, its data at 0x800 of buffer 5. -/
def trec : List Byte :=
  leRef 0x800 ++ leBytes 3 1 ++ leBytes 1 1 ++ zeros 2 ++ leBytes 0xAABBCCDD 4 ++ leBytes 1 4 ++ zeros 32 ++ leBytes 128 2 ++ zeros 10
def tcmd0 (eop : Nat) : TCmd :=
  { tcmdIdle with id := 70, eop := eop, regs := [0x400, 0x5000, 0x200, 0xFFFFFFFF, 0, 0, 0, 0, 0, 0], sop := some 62, started := true
                  record := trec, sectors := 2 }
/-- The record at 0x400, tile commands in quad 0, and the operation of their status. -/
def tiling (ts : List TCmd) : State :=
  { putAt base 0x400 trec with quads := [(0, { tcmds := ts })], warps := [{ warp0 with ops := [⟨62, some 1, none, 1, .status 9, 0, 0, []⟩] }] }

/-- R271, R272, R281–R283: a command that is not first, with four that move, in a group being saved, and in one where a posted MSTAT waits for it; a record accepted and
refused; a copy restored with its record; notices accepted and refused; sectors of a buffer withdrawn, on an absent page, of a
prefetch that asks for one, and delivered; pages that the box reaches, resident and not, and one that it does not. -/
theorem witness_TileSectors :
    let fresh (eop : Nat) : TCmd := { tcmd0 eop with started := false, record := [], sectors := 0 }
    let t (eop : Nat) : TCmd := tcmd0 eop
    let s (eop : Nat) : State := tiling [t eop]
    let gone (eop : Nat) : State := { s eop with pages := [] }
    let saving (s : State) : State := { s with groups := [{ grp0 with stat := .saving }] }
    let undone (s : State) (x : TCmd) : Bool := ((s.group x.group).any fun g => g.stat == .saving) && !s.mstatWaits 0 x
    let first (s : State) (id : Nat) : Bool :=
      ((s.quad 0).tcmds.takeWhile fun x => x.id != id).all (fun x => x.started || undone s x) &&
      decide (((s.quad 0).tcmds.filter fun x => x.moving 0).length < 4) && (s.tcmd 0 id).any fun x => !undone s x
    let mstat : MEntry := { id := 80, group := 2, eop := 2, slot := 0, deps := [], tileDeps := [], block := [], regs := [0x100], z := false }
    let held : State := saving { tiling [] with quads := [(0, { tcmds := [fresh 8], entries := [mstat] })] }
    let four (n : Nat) : State := tiling ((List.replicate n { t 8 with id := 60 }) ++ [fresh 8])
    let again : TCmd := { t 8 with started := false, done := [0] }
    let note (take : Bool) (len : Word) : TCmd := { fresh 11 with take := take, regs := [1, 33, 0x200, 0xFFFFFFFF, len, 0, 0, 0, 0, 0] }
    let off (eop : Nat) : State := { s eop with bufs := [] }
    ((∀ e ∈ [8, 9, 10, 13], (tiling [fresh e]).tcmd 0 70 = some (fresh e) ∧ first (tiling [fresh e]) 70 = true) ∧
      (tiling [fresh 8]).group 2 = some grp0 ∧ ((tiling [fresh 8]).engRead 1 (fresh 8).recRef 64).map Prod.fst = some trec ∧
      (tiling [fresh 8]).engRow 1 (fresh 8).recRef 64 .r = 0 ∧
      tileCheck ((tiling [fresh 8]).findSpan 0 1 (fresh 8).recRef 64) 0 grp0 (fresh 8) trec = 0 ∧
      tileCheck (tiling [fresh 8]) 0 grp0 (fresh 8) (zeros 64) ≠ 0) ∧
    (let no : State := { tiling [fresh 8] with bufs := [] }
     no.tcmd 0 70 = some (fresh 8) ∧ first no 70 = true ∧ no.engRow 1 (fresh 8).recRef 64 .r ≠ 0) ∧
    (first (tiling [{ fresh 8 with id := 60 }, fresh 8]) 70 = false ∧ first (four 3) 70 = true ∧ first (four 4) 70 = false ∧
      first (saving (tiling [fresh 8])) 70 = false ∧ first held 70 = true) ∧
    (again.record ≠ [] ∧ again.done.length < again.sectors ∧ (tiling [again]).tcmd 0 70 = some again ∧ first (tiling [again]) 70 = true) ∧
    ((∀ x ∈ [false, true], first (tiling [note x 512]) 70 = true ∧ noticeCheck (tiling [note x 512]) 0 grp0 (note x 512) = 0) ∧
      noticeCheck (tiling [note false 100]) 0 grp0 (note false 100) ≠ 0) ∧
    (∀ e ∈ [8, 9, 13], (saving (s e)).tcmd 0 70 = some (t e) ∧ (t e).started = true ∧ undone (saving (s e)) (t e) = true ∧
      undone (s e) (t e) = false) ∧
    (∀ e ∈ [8, 9, 13], (off e).tcmd 0 70 = some (t e) ∧ (off e).sectorRow (t e) 0 ≠ 0) ∧
    (∀ e ∈ [8, 9], (gone e).sectorRow (t e) 0 = 0 ∧ (gone e).sectorAbsent (t e) 0 = some key0 ∧ 0 ∉ (t e).parked ∧
      (((gone e).quad 0).tcmds.map fun x => x.parked.length).sum < 16) ∧
    ((gone 13).sectorRow (t 13) 0 = 0 ∧ (sectorRefs (t 13) 0).length = 4 ∧
      (sectorRefs (t 13) 0).all (fun r => ((gone 13).phys 1 r).isNone && (pageKeyOf buf0 1 r == key0) &&
        ((gone 13).page (pageKeyOf buf0 1 r)).state == 0) = true) ∧
    (∀ e ∈ [8, 9, 13], ∀ k ∈ [0, 1], (s e).tcmd 0 70 = some (t e) ∧ (t e).started = true ∧ k < (t e).sectors ∧ k ∉ (t e).done ∧
      (t e).done.length + 1 < (t e).sectors ∧ (t e).sync = 0xFFFFFFFF ∧ (s e).sectorRow (t e) k = 0 ∧
      (s e).sectorAbsent (t e) k = none ∧ (s e).latent = []) ∧
    ((t 8).shape.swz ≤ 3 ∧ (s 9).migrations = [] ∧ (s 9).portOp = none ∧
      (sectorRefs (t 9) 0).all (fun r => ((s 9).phys 1 r).all fun p => !(s 9).cutOff p) = true ∧
      (t 9).shape.source (t 9).origin 7 = some 4103 ∧ (List.range 512).all (fun j => j == 7 ||
        ((t 9).shape.source (t 9).origin j).all fun mb => mb % 2 != 1 || (s 9).phys 1 ((t 9).shape.refAt (mb / 2)) !=
          (s 9).phys 1 ((t 9).shape.refAt 2051)) = true) ∧
    ((s 8).buf 1 (refBuf (t 8).shape.ref) = some buf0 ∧ ((s 8).page ⟨1, refBuf (t 8).shape.ref, 0⟩).state = 1 ∧
      ((gone 8).page ⟨1, refBuf (t 8).shape.ref, 0⟩).state = 0 ∧
      (sectorRefs (t 8) 0).any (fun r => refOff r / pageBytes buf0.pgsz == 0) = true ∧
      (List.range 2).all (fun k => (sectorRefs (t 8) k).all fun r => refOff r / pageBytes buf0.pgsz != 1) = true) := by
  and_intros <;> decide +kernel

def mcast (id : Nat) : TCmd := { tcmd0 10 with id := id, regs := [0x400, 0x5000, 0x200, 0xFFFFFFFF, 0, 0, 0, 0, 0, 33], mask := 3 }
def notice0 (len : Nat) : Notice := { tag := 33, quad := 0, cmd := 70, src := 0x200, len := len }
def post (id : Nat) (take placed acked : Bool) : TCmd :=
  { tcmd0 11 with id := id, take := take, placed := placed, acked := acked
                  regs := [1, 33, 0x200, if acked then 64 else 0xFFFFFFFF, 512, 0, 0, 0, 0, 0], sectors := if take then 2 else 0 }

/-- R276, R277: a ready message that sets a fourth command moving, one that would set a fifth and one that is behind another; a sector of the own slice,
gathered for a partner; one that arrives; a post that finds seven slots taken; takes of the same and of another length, with
three commands that move and with four, and in a group being saved; an acknowledgement. -/
theorem witness_TileMeetings :
    let two (a b : List TCmd) (ns : List Notice) : State := { tiling [] with quads := [(0, { tcmds := a }), (1, { tcmds := b, notices := ns })] }
    let move (n : Nat) : List TCmd := List.replicate n { tcmd0 8 with id := 60 }
    let m (n : Nat) := two [mcast 70] (move n ++ [{ mcast 71 with ready := [(0, 9)] }, mcast 72]) []
    let moving (s : State) (q : Nat) : Nat := ((s.quad q).tcmds.filter fun x => x.moving q).length
    let met : TCmd := { mcast 70 with ready := [(1, 72)] }
    let own := two [met] [mcast 72] []
    let got : TCmd := { mcast 70 with inbound := [(1, zeros 256, [false, false, false, false])] }
    let p := two [post 70 false false false] [] (List.replicate 7 { notice0 512 with tag := 5 })
    let t (n len : Nat) : State := two [post 70 false true false] (move n ++ [post 71 true false false]) [notice0 len]
    ((∀ x ∈ [(2, 3), (3, 4)], (m x.1).tcmd 0 70 = some (mcast 70) ∧ (m x.1).group 2 = some grp0 ∧ grp0.stat ≠ .saving ∧
      1 ∈ (mcast 70).named 0 ∧ 1 ∉ (mcast 70).sentReady ∧
      ((((m x.1).quad 1).tcmds.find? fun x => x.eop == 10 && x.started && x.tag == (mcast 70).tag && x.mask == (mcast 70).mask &&
        !x.ready.any fun r => r.1 == 0) = some (mcast 72)) ∧ (m x.1).tcmd 1 72 = some (mcast 72) ∧ moving (m x.1) 1 = x.2) ∧
      ({ mcast 72 with ready := [(0, 70)] } : TCmd).moving 1 = true) ∧
    (let twin := two [mcast 69, mcast 70] [mcast 72] []
     (twin.quad 0).tcmds.takeWhile (fun v => v.id != 70) = [mcast 69] ∧ (mcast 69).eop = 10 ∧ (mcast 69).started = true ∧
       (mcast 69).tag = (mcast 70).tag ∧ (mcast 69).mask = (mcast 70).mask ∧ 1 ∉ (mcast 69).sentReady ∧
       twin.group (mcast 69).group = some grp0 ∧ twin.tcmd 0 70 = some (mcast 70)) ∧
    (own.tcmd 0 70 = some met ∧ met.moving 0 = true ∧ 0 < met.sectors ∧ 0 ∉ met.done ∧ 0 ∉ met.fetched ∧ met.ownSlice 0 0 = true ∧
      own.sectorRow met 0 = 0 ∧ own.sectorAbsent met 0 = none ∧ own.latent = [] ∧ own.tcmd 1 72 = some (mcast 72)) ∧
    ((got.inbound.find? fun x => x.1 == 1) = some (1, zeros 256, [false, false, false, false]) ∧ 1 ∉ got.done ∧
      got.done.length + 1 < got.sectors) ∧
    (p.tcmd 0 70 = some (post 70 false false false) ∧ (p.quad 1).notices.length < 8 ∧ (∀ n ∈ (p.quad 1).notices, n.tag ≠ 33) ∧
      (post 70 false false false).tag = 33) ∧
    (∀ len ∈ [512, 256], ∀ n ∈ [3, 4], (t n len).tcmd 1 71 = some (post 71 true false false) ∧
      ((t n len).quad 1).notices.find? (fun n => n.tag == 33 && !n.matched) = some (notice0 len) ∧
      (((t n len).quad 1).tcmds.takeWhile (fun x => x.id != 71)).all (fun x => !x.isTake) = true ∧
      (t n len).tcmd 0 70 = some (post 70 false true false) ∧ moving (t n len) 1 = n) ∧
    ((post 71 true false false).reg 4 = 512 ∧ (notice0 256).quad ≠ 1 ∧ { grp0 with stat := .saving } ≠ grp0) ∧
    ((post 70 false true true).code = 0 ∧ (post 70 false true true).sync = 64 ∧ (post 70 false true true).rel = none) := by
  and_intros <;> decide +kernel

/-- An MMA block of shape M = 2, K = 4, one tile of width, data in the group's second macro. -/
def mmaBytes (fb : Nat) : List Byte :=
  leBytes 0x4000 4 ++ leBytes 16 4 ++ leBytes 2 1 ++ leBytes (6 + 8 * fb) 1 ++ leBytes 2 1 ++ leBytes 3 1 ++ leBytes 4 2 ++ zeros 50
def mma0 (fb : Nat) : MEntry :=
  { id := 70, group := 2, eop := 1, slot := 1, deps := [], tileDeps := [], block := mmaBytes fb, regs := [0x40], z := false }
def matrix (e : MEntry) : State := { base with quads := [(0, { entries := [e], marks := [0] })] }
def row0 (n : Nat) : List AccVal := List.replicate n (1, 0)

/-- R289, R292: an entry that passes its check at its first grant, and one that does not; a first row and the last one, for
one tile and for two. -/
theorem witness_MatrixRows :
    let e := mma0 6
    let q := (matrix e).quad 0
    let r (fb landed : Nat) : MEntry :=
      { mma0 fb with checked := true, granted := landed + 1, landed := landed, rows := [row0 (if fb = 0 then 256 else 128)] }
    (e ∈ passReady q.entries ∧ (∀ x ∈ passReady q.entries, x = e) ∧ (matrix e).entry 0 70 = some e ∧ (matrix e).group 2 = some grp0 ∧
      checkEntry q grp0 e = 0 ∧ e.checked = false) ∧
    (checkEntry ((matrix { e with block := zeros 64 }).quad 0) grp0 { e with block := zeros 64 } ≠ 0 ∧
      (∀ x ∈ ((matrix e).quad 0).entries.filter fun x => x.id != e.id, x.eop = 1)) ∧
    (∀ x ∈ [(6, 0), (6, 1), (0, 0)], (matrix (r x.1 x.2)).entry 0 70 = some (r x.1 x.2) ∧
      (∀ y ∈ ((matrix (r x.1 x.2)).quad 0).entries, y.id ∉ (r x.1 x.2).tileDeps) ∧
      (let b := mmaBlock (r x.1 x.2).block
       (row0 (if x.1 = 0 then 256 else 128)).length = 128 * b.nt ∧ b.r0 + x.2 < 32 ∧ b.m = 2 ∧
         (b.nt = 2 → grp0.quadTile b.tile ≠ grp0.quadTile (b.tile + 1)))) := by
  decide +kernel

/-- R289, R309–R313, R307: an entry of each kind, ready and checked; an MSTAT behind a Lantern store of its group's warps; an
SCAC behind another of its output and one alone; entries none of which is ready unchecked. -/
theorem witness_MatrixEntries :
    let x (eop : Nat) (regs : List Word) (blk : List Byte) : MEntry :=
      { mma0 6 with eop := eop, regs := regs, block := blk, checked := true }
    let scac := x 5 [0x40] (leBytes 2 1 ++ leBytes 3 1 ++ leBytes 1 1 ++ zeros 1 ++ leBytes 0x4000 4 ++ leBytes 0x4100 4 ++
      leBytes 0x4800 4 ++ leBytes 512 4 ++ leBytes 0x4A00 4 ++ leBytes 512 4 ++ zeros 36)
    let ok (e : MEntry) : Prop := (matrix e).entry 0 70 = some e ∧ (matrix e).group 2 = some grp0 ∧
      e.ready ((matrix e).quad 0).entries = true ∧ e.checked = true ∧ checkEntry ((matrix e).quad 0) grp0 e = 0
    let behind : State := { base with quads := [(0, { entries := [{ scac with id := 69 }, scac] })] }
    (∀ w ∈ base.warps, w.sq = [] ∧ w.ops = []) ∧ ((matrix (x 2 [0x101] [])).quad 0).tcmds = [] ∧
    ok (x 2 [0x101] []) ∧ ok (x 3 [0x100] []) ∧ ok (x 4 [2] []) ∧
    (ok scac ∧ (scacBlock scac.block).rows = 1 ∧ (scacBlock scac.block).bf16 = false ∧
      scac.behindScac ((matrix scac).quad 0).entries = false ∧ scac.behindScac (behind.quad 0).entries = true) ∧
    (ok (x 6 [0x4000, 0x103, 2] []) ∧ (mtreadRows (x 6 [0x4000, 0x103, 2] [])).2 = 1) ∧
    ((∀ y ∈ ((matrix (x 3 [0x100] [])).quad 0).entries, y.checked = true ∧ (matrix (x 3 [0x100] [])).group y.group ≠ none) ∧
      ∀ y ∈ ((matrix (x 3 [0x100] [])).quad 0).entries, y.group = 2 → y.id < 70 → y.passed = true) := by
  intro x scac ok behind
  and_intros <;> decide +kernel

/-- The event of a matrix engine answers a next state. -/
theorem witness_MatrixEntries_event : ∃ t, exec (.macroUnmark 0 70) (matrix { mma0 6 with eop := 3, regs := [0x100], checked := true }) =
    .next t ∧ Calm ((matrix { mma0 6 with eop := 3, regs := [0x100], checked := true }).quad 0).entries :=
  ⟨_, rfl, fun x h => .inr (.inl (by rw [List.mem_singleton.1 h]))⟩

/-- The record at 0x800 of buffer 5, its bytes that are not 0: an orbit of four FP64 elements in the group's Lantern store,
from 0 to 10 by steps of 0.5, with its tableau at 0x1000. -/
def recCells : Memory :=
  [(198657, 0x10), (198661, 0x50), (198673, 0x01), (198681, 0x04), (198688, 0xFC), (198689, 0xA9), (198690, 0xF1),
   (198691, 0xD2), (198692, 0x4D), (198693, 0x62), (198694, 0x50), (198695, 0x3F), (198696, 0x04), (198701, 0x01),
   (198718, 0x24), (198719, 0x40), (198726, 0xE0), (198727, 0x3F), (198728, 0x7B), (198729, 0x14), (198730, 0xAE),
   (198731, 0x47), (198732, 0xE1), (198733, 0x7A), (198734, 0x84), (198735, 0x3F), (198743, 0x40), (198744, 0xFC),
   (198745, 0xA9), (198746, 0xF1), (198747, 0xD2), (198748, 0x4D), (198749, 0x62), (198750, 0x50), (198751, 0x3F),
   (198762, 0x09), (198764, 0x40), (198768, 0x77), (198772, 0xFF), (198773, 0xFF), (198774, 0xFF), (198775, 0xFF),
   (198776, 0xFF), (198777, 0xFF), (198778, 0xFF), (198779, 0xFF), (198780, 0xFF), (198781, 0xFF), (198782, 0xFF),
   (198783, 0xFF)]
/-- The tableau: two explicit stages with an error estimate of order 1. -/
def tabCells : Memory :=
  [(200704, 0x01), (200709, 0x02), (200712, 0x01), (200782, 0xF0), (200783, 0x3F), (200902, 0xE0), (200903, 0x3F),
   (200910, 0xE0), (200911, 0x3F), (201030, 0xF0), (201031, 0x3F), (201166, 0xF0), (201167, 0x3F)]
def one64 : Nat := 0x3FF0000000000000
def half64 : Nat := 0x3FE0000000000000

theorem physList_linear (s : State) (base : Nat) : ∀ (n off : Nat),
    (∀ i, i < n → s.phys 1 (ref0 (off + i)) = some (base + (off + i)) ∧ refAdd (ref0 (off + i)) 1 = ref0 (off + i + 1)) →
    s.physList 1 (ref0 off) n = .ok (List.range' (base + off) n) := by
  intro n
  induction n with
  | zero => intros; rfl
  | succ n ih =>
    intro off h
    have h0 := h 0 (Nat.succ_pos n)
    have hs := ih (off + 1) fun i hi => by
      have := h (i + 1) (by omega)
      rwa [show off + (i + 1) = off + 1 + i by omega] at this
    unfold State.physList
    rw [show off = off + 0 from rfl, h0.1, h0.2]
    simp only [Nat.add_zero] at hs ⊢
    rw [hs]
    rfl

/-- The record of a LINREC orbit of four FP32 elements, ten steps in chunks of four, and its tableau. -/
def linCells : Memory :=
  [(198657, 0x10), (198661, 0x50), (198673, 0x01), (198681, 0x04), (198696, 0x04), (198700, 0x01), (198701, 0x01),
   (198718, 0x24), (198719, 0x40), (198726, 0x10), (198727, 0x40), (198734, 0xF0), (198735, 0x3F), (198742, 0x10),
   (198743, 0x40), (198764, 0x40), (198768, 0x77), (198772, 0xFF), (198773, 0xFF), (198774, 0xFF), (198775, 0xFF),
   (198776, 0xFF), (198777, 0xFF), (198778, 0xFF), (198779, 0xFF), (198780, 0xFF), (198781, 0xFF), (198782, 0xFF),
   (198783, 0xFF), (200704, 0x01), (200708, 0x04), (200709, 0x01), (200712, 0x02)]

/-- A memory that holds a record and a tableau, and what the Orrery reads there. -/
def orbitsAt (m : Memory) : State := { base with mem := m }
def recAt (m : Memory) : List Byte := (List.range' (196608 + 0x800) 256).map m.read
def tabAt (m : Memory) : List Byte := (List.range' (196608 + 0x1000) 4096).map m.read

def orbits0 : State := orbitsAt (recCells ++ tabCells)
def recRead : List Byte := recAt (recCells ++ tabCells)
def tabRead : List Byte := tabAt (recCells ++ tabCells)
def recLin : List Byte := recAt linCells
def tabLin : List Byte := tabAt linCells

theorem recAt_eq (m : Memory) : recAt m = (List.range' (196608 + 0x800) 256).map m.read := by rw [recAt]
theorem tabAt_eq (m : Memory) : tabAt m = (List.range' (196608 + 0x1000) 4096).map m.read := by rw [tabAt]

theorem read_beyond {m : Memory} {k : Nat} (h : m.all (fun c => decide (c.1 < k)) = true) (a : Nat) (ha : k ≤ a) : m.read a = 0 := by
  have : ∀ t : Memory, t.all (fun c => decide (c.1 < k)) = true → tabFind t a = none := by
    intro t
    induction t with
    | nil => intro _; rfl
    | cons c t ih =>
      intro h
      simp only [List.all_cons, Bool.and_eq_true, decide_eq_true_eq] at h
      have hne : c.1 ≠ a := by omega
      unfold tabFind
      rw [if_neg hne]
      exact ih h.2
  unfold Memory.read tabGet
  rw [this m h]
  rfl

/-- Zeros after the last byte change no field. -/
theorem recField_zeros (x : List Byte) (m off n : Nat) : recField (x ++ List.replicate m 0) off n = recField x off n := by
  have z : ∀ m, leNat (List.replicate m 0) = 0 := fun m => by
    induction m with
    | zero => rfl
    | succ m ih =>
      rw [List.replicate_succ]
      show (0 : Byte).toNat + 256 * leNat (List.replicate m 0) = 0
      rw [ih]
      rfl
  have h : ∀ (l : List Byte) (m n : Nat), leNat ((l ++ List.replicate m 0).take n) = leNat (l.take n) := by
    intro l
    induction l with
    | nil => intro m n; rw [List.nil_append, List.take_replicate, z]; simp [leNat]
    | cons b l ih =>
      intro m n
      cases n with
      | zero => rfl
      | succ n =>
        rw [List.cons_append, List.take_succ_cons, List.take_succ_cons, leNat, leNat, ih]
  unfold recField
  rw [List.drop_append, List.drop_replicate, h]

theorem tab_split {m : Memory} (h : m.all (fun c => decide (c.1 < 201176)) = true) :
    tabAt m = (List.range' 200704 472).map m.read ++ List.replicate 3624 0 := by
  have h : (List.range' (200704 + 1 * 472) 3624).map m.read = List.replicate 3624 0 := by
    rw [List.eq_replicate_iff]
    refine ⟨by rw [List.length_map, List.length_range'], ?_⟩
    intro b hb
    rw [List.mem_map] at hb
    obtain ⟨a, ha, rfl⟩ := hb
    rw [List.mem_range'_1] at ha
    exact read_beyond (k := 201176) h a (by omega)
  rw [← h, ← List.map_append, List.range'_append, tabAt]

/-- The tableaux' first 472 bytes. -/
def tabHead : List Byte :=
  [0x1] ++ (List.replicate 4 0 ++ ([0x2] ++ (List.replicate 2 0 ++ ([0x1] ++ (List.replicate 69 0 ++ ([0xf0, 0x3f] ++ (List.replicate 118 0 ++ ([0xe0, 0x3f] ++ (List.replicate 6 0 ++ ([0xe0, 0x3f] ++ (List.replicate 118 0 ++ ([0xf0, 0x3f] ++ (List.replicate 134 0 ++ ([0xf0, 0x3f] ++ (List.replicate 8 0)))))))))))))))
def linHead : List Byte := [1, 0, 0, 0, 4, 1, 0, 0, 2] ++ List.replicate 463 0

theorem tab_read : tabRead = tabHead ++ List.replicate 3624 0 := by
  rw [tabRead, tab_split (by decide +kernel), show (List.range' 200704 472).map (recCells ++ tabCells).read = tabHead by decide +kernel]
theorem lin_read : tabLin = linHead ++ List.replicate 3624 0 := by
  rw [tabLin, tab_split (by decide +kernel), show (List.range' 200704 472).map linCells.read = linHead by decide +kernel]

theorem tab_field {x h : List Byte} (hx : x = h ++ List.replicate 3624 0) (hl : h.length = 472) (off n : Nat) :
    recField x off n = if 472 ≤ off then 0 else recField h off n := by
  rw [hx, recField_zeros]
  split
  · rename_i ho
    unfold recField
    rw [List.drop_eq_nil_of_le (by rw [hl]; exact ho), List.take_nil, leNat]
  · rfl

theorem tab_a {x h : List Byte} (hx : x = h ++ List.replicate 3624 0) (hl : h.length = 472) :
    tA x = fun i j => if j ≤ i then if 472 ≤ 0x1C0 + 8 * (i * (i + 1) / 2 + j) then 0 else
      recField h (0x1C0 + 8 * (i * (i + 1) / 2 + j)) 8 else 0 := by
  funext i j
  rw [tA, tab_field hx hl]
theorem tab_aex {x h : List Byte} (hx : x = h ++ List.replicate 3624 0) (hl : h.length = 472) :
    tAex x = fun i j => if j < i then if 472 ≤ 0x600 + 8 * (i * (i - 1) / 2 + j) then 0 else
      recField h (0x600 + 8 * (i * (i - 1) / 2 + j)) 8 else 0 := by
  funext i j
  rw [tAex, tab_field hx hl]

theorem head_length : tabHead.length = 472 := by decide +kernel
theorem linHead_length : linHead.length = 472 := by decide +kernel
theorem lin_ok : tLinOk tabLin = true := by
  rw [lin_read]
  decide +kernel

theorem tab_ok : tabOk tabRead = true := by
  simp only [tabOk, tReserved, tCoefs, tPiOk, tKind, tStages, tFsal, tStage0, tDeg, tCtrl, tC, tB, tBhat, tDense,
    tImplicit, tImex, tab_a tab_read head_length, tab_aex tab_read head_length, tab_field tab_read head_length]
  decide +kernel

theorem lin_tab_ok : tabOk tabLin = true := by
  unfold tabOk
  rw [lin_ok]
  simp only [tReserved, tCoefs, tPiOk, tKind, tStages, tFsal, tStage0, tDeg, tCtrl, tC, tB, tBhat, tDense,
    tImplicit, tImex, tab_a lin_read linHead_length, tab_aex lin_read linHead_length, tab_field lin_read linHead_length]
  decide +kernel

theorem orbits_phys : ∀ k, k < 17 → ∀ i, i < 256 → let x := (if k = 0 then 0x800 else 0x1000 + 256 * (k - 1)) + i
    base.phys 1 (ref0 x) = some (196608 + x) ∧ refAdd (ref0 x) 1 = ref0 (x + 1) := by decide +kernel

theorem phys_orbits (m : Memory) (u : DieU) (ctx : Nat) (r : Dword) : (onDie (orbitsAt m) u).phys ctx r = base.phys ctx r := rfl

theorem mem_orbits (m : Memory) (u : DieU) : (onDie (orbitsAt m) u).mem = m := rfl

theorem engRead_of {s : State} {ctx n : Nat} {r : Dword} {ps : List Nat} (h : s.physList ctx r n = .ok ps) :
    ∃ b, s.engRead ctx r n = some (ps.map s.mem.read, b) := by
  unfold State.engRead
  rw [h]
  exact ⟨_, rfl⟩

/-- A record and a tableau that may be read and pass their checks. -/
theorem orbitRead_ok {s : State} {ctx : Nat} {ref : Dword} {r t : List Byte} {b c : Bool} {far : List Byte → Bool}
    {ext : List Byte → List Byte → Nat} (hf : far r = false)
    (hr : s.accessRow ctx ref 256 .r = 0) (hw : s.accessRow ctx ref 256 .w = 0) (hk : s.isKick ctx ref = false)
    (ha : ref.toNat % 256 = 0) (e1 : s.engRead ctx ref 256 = some (r, b)) (tr : s.accessRow ctx (oTab r) 4096 .r = 0)
    (tk : s.isKick ctx (oTab r) = false) (ta : (oTab r).toNat % 64 = 0) (e2 : s.engRead ctx (oTab r) 4096 = some (t, c))
    (hx : ext r t = 0) (ht : tabOk t = true) (ho : orbitOk s ctx r t = true) :
    s.orbitRead ctx ref far ext = .ok r t := by
  unfold State.orbitRead
  dsimp only
  rw [if_neg (by rw [hr, ha]; decide), if_neg (by rw [hr, hk]; decide), e1]
  dsimp only
  rw [if_neg (by rw [tr, ta, hf]; decide), if_neg (by rw [tr, tk]; decide), e2]
  dsimp only
  simp only [hx, hw, ht, ho, or_self, not_true_eq_false, ne_eq, if_false]
  rfl

/-- What stands at the record and the tableau is read there. -/
theorem orbits_read (m : Memory) (u : DieU) (far : List Byte → Bool) (ext : List Byte → List Byte → Nat)
    (tab : oTab (recAt m) = ref0 0x1000) (hf : far (recAt m) = false)
    (h : ext (recAt m) (tabAt m) = 0) (ht : tabOk (tabAt m) = true) (ho : orbitOk (onDie (orbitsAt m) u) 1 (recAt m) (tabAt m) = true) :
    (onDie (orbitsAt m) u).orbitRead 1 (ref0 0x800) far ext = .ok (recAt m) (tabAt m) := by
  have p1 : (onDie (orbitsAt m) u).physList 1 (ref0 0x800) 256 = .ok (List.range' (196608 + 0x800) 256) :=
    physList_linear _ 196608 256 0x800 fun i hi => by
      have h := orbits_phys 0 (by omega) i hi
      rw [phys_orbits]
      simpa only [if_true] using h
  have p2 : (onDie (orbitsAt m) u).physList 1 (ref0 0x1000) 4096 = .ok (List.range' (196608 + 0x1000) 4096) :=
    physList_linear _ 196608 4096 0x1000 fun i hi => by
      have h := orbits_phys (i / 256 + 1) (by omega) (i % 256) (by omega)
      simp only [Nat.add_one_ne_zero, if_false, Nat.add_sub_cancel] at h
      rw [show 0x1000 + 256 * (i / 256) + i % 256 = 0x1000 + i by omega] at h
      rw [phys_orbits]
      exact h
  have e1 := engRead_of p1
  have e2 := engRead_of p2
  rw [mem_orbits, ← recAt_eq] at e1
  rw [mem_orbits, ← tabAt_eq] at e2
  obtain ⟨b, e1⟩ := e1
  obtain ⟨c, e2⟩ := e2
  have a1 : base.accessRow 1 (ref0 0x800) 256 .r = 0 ∧ base.accessRow 1 (ref0 0x800) 256 .w = 0 ∧
      base.accessRow 1 (ref0 0x1000) 4096 .r = 0 ∧ base.isKick 1 (ref0 0x800) = false ∧ base.isKick 1 (ref0 0x1000) = false ∧
      (ref0 0x800).toNat % 256 = 0 ∧ (ref0 0x1000).toNat % 64 = 0 := by decide +kernel
  exact orbitRead_ok hf a1.1 a1.2.1 a1.2.2.2.1 a1.2.2.2.2.2.1 e1 (by rw [tab]; exact a1.2.2.1) (by rw [tab]; exact a1.2.2.2.2.1)
    (by rw [tab]; exact a1.2.2.2.2.2.2) (by rw [tab]; exact e2) h ht ho

theorem orbits0_read (u : DieU) (far : List Byte → Bool) (ext : List Byte → List Byte → Nat) (hf : far recRead = false)
    (h : ext recRead tabRead = 0) : (onDie orbits0 u).orbitRead 1 (ref0 0x800) far ext = .ok recRead tabRead :=
  orbits_read _ u far ext (by decide +kernel) hf h tab_ok (by decide +kernel : orbitOk orbits0 1 recRead tabRead = true)

theorem orbitsLin_read (u : DieU) (far : List Byte → Bool) (ext : List Byte → List Byte → Nat) (hf : far recLin = false)
    (h : ext recLin tabLin = 0) : (onDie (orbitsAt linCells) u).orbitRead 1 (ref0 0x800) far ext = .ok recLin tabLin :=
  orbits_read _ u far ext (by decide +kernel) hf h lin_tab_ok (by decide +kernel : orbitOk (orbitsAt linCells) 1 recLin tabLin = true)

def orb (ms : Nat) : Orbit :=
  let o := newOrbit 0 1 (ref0 0x800) recRead tabRead
  { o with bound := some 2, mstate := ms, status := if ms = 0 then 0 else 0x17, hatt := half64, tend := half64 }
def inOrbit (o : Orbit) : State := onDie orbits0 { orbits := [o] }
def call0 (token : Option Word) : OCall := { id := 80, kind := 1, desc := List.replicate 16 7, token := token, holder := some 2 }
def orbitKind : OrbitRead → Nat
  | .ok _ _ => 0
  | .hold => 1
  | .refused c => 2 + c

/-- OLOAD of a record that is refused, held and accepted, on a die with a handle free and with none, and behind another one. -/
theorem witness_OrreryCommands_load :
    let s := inOrbit (orb 0)
    let full : State := onDie orbits0 { orbits := (List.range 64).map fun n => { orb 0 with num := n } }
    let behind : State := onDie orbits0 { ocmds := [cmd0 16 0 []] }
    let read (s : State) (ref : Dword) : OrbitRead := (s.findOrbit 0 1 ref).orbitRead 1 ref (fun _ => false) fun _ _ => 0
    ((cmd0 16 0 []).ebits.getLsbD 8 = false ∧ s.group 2 = some grp0 ∧ (s.die 0).ocmds = [] ∧
      orbitKind (read { s with pages := [] } (ref0 0x800)) = 1 ∧ orbitKind (read s (ref0 0x801)) = 2 + 2 ∧
      (∀ n, n < 64 → (full.orbit 0 n).isSome = true) ∧ (s.orbit 0 1).isNone = true ∧ (s.orbit 0 0).isSome = true ∧
      0 < s.dieU.length ∧ (behind.die 0).ocmds.any (fun x => x.eop == 16 && x.warp == 3) = true) ∧
    read s (ref0 0x800) = .ok recRead tabRead ∧ read full (ref0 0x800) = .ok recRead tabRead := by
  intro s full behind read
  have q : ∀ u : DieU, ((onDie orbits0 u).findOrbit 0 1 (ref0 0x800)).orbitRead 1 (ref0 0x800) (fun _ => false) (fun _ _ => 0) =
      .ok recRead tabRead := fun u => by rw [findOrbit_quiet rfl rfl]; exact orbits0_read _ _ _ rfl rfl
  exact ⟨by decide +kernel, q _, q _⟩

/-- The orbit stands on its die under its handle and the Orrery is not held up. -/
def Named (o : Orbit) : Prop :=
  (inOrbit o).orbit 0 0 = some o ∧ o.ctx = 1 ∧ (inOrbit o).orbitPaused o = false ∧ ((inOrbit o).die 0).ocmds = []

theorem named_of {o : Orbit} (h0 : (inOrbit o).orbit 0 0 = some o)
    (h : (o.ctx == 1 && !(inOrbit o).orbitPaused o && decide (((inOrbit o).die 0).ocmds = [])) = true) : Named o := by
  simp only [Bool.and_eq_true, Bool.not_eq_true', beq_iff_eq, decide_eq_true_eq] at h
  exact ⟨h0, h.1.1, h.1.2, h.2⟩

/-- Commands behind another of their orbit, of no orbit, and of one that is paused or commits; OBIND and runs of idle and other
orbits; a stop of an orbit that runs and of one that does not; the answer to a call of each kind of stage. -/
theorem witness_OrreryCommands :
    let handed : Orbit := { orb 2 with calls := [call0 (some 0x100)] }
    let last : Orbit := { handed with stage := 1 }
    let implicit : Orbit := { handed with tableau := leBytes 1 4 ++ leBytes 1 1 ++ leBytes 2 1 ++ zeros 442 ++ leBytes half64 8 }
    let behind : State := onDie orbits0 { orbits := [orb 0], ocmds := [cmd0 18 0 [0]] }
    let paused : State := { inOrbit (orb 1) with pkg := { checkpointing := true } }
    (((inOrbit (orb 0)).orbit 1 0).isNone = true ∧ (inOrbit (orb 0)).listCode (cmd0 17 0 [64, 0, 0, 0]) = 0 ∧
      (cmd0 18 0 [0]).names 0 0 = true ∧ (behind.die 0).ocmds.any (fun x => x.names 0 0 && x.eop != 21) = true ∧
      paused.orbitPaused (orb 1) = true ∧ (paused.die 0).ocmds = [] ∧ (orb 11).mstate = 11) ∧
    (Named (orb 0) ∧ (orb 0).bound = some 2 ∧ (inOrbit (orb 0)).group 2 = some grp0 ∧
      extentCode (inOrbit (orb 0)) 1 recRead tabRead grp0.desc.lbytes [] = 0 ∧ (orb 0).plist = []) ∧
    (Named (orb 1) ∧ (orb 1).mstate ≠ 0 ∧ (orb 1).running = true) ∧ (orb 0).running = false ∧
    (Named handed ∧ (handed.calls.find? fun c => c.token == some 0x100) = some (call0 (some 0x100)) ∧ (call0 (some 0x100)).kind = 1 ∧
      handed.stopping = false ∧ tImplicit handed.tableau handed.stage = false ∧ handed.stage + 1 ≠ tStages handed.tableau) ∧
    (Named last ∧ tImplicit last.tableau last.stage = false ∧ last.stage + 1 = tStages last.tableau) ∧
    (Named implicit ∧ tImplicit implicit.tableau implicit.stage = true) ∧ (orb 1).calls = [] :=
  ⟨by decide +kernel, ⟨named_of rfl (by decide +kernel), by decide +kernel⟩,
    ⟨named_of rfl (by decide +kernel), by decide +kernel⟩, by decide +kernel,
    ⟨named_of rfl (by decide +kernel), by decide +kernel⟩, ⟨named_of rfl (by decide +kernel), by decide +kernel⟩,
    ⟨named_of rfl (by decide +kernel), by decide +kernel⟩, by decide +kernel⟩

/-- Answers to a SOLVE, an EVENT, a SCAN and a FIX call, in each phase of the event step and under a stop. -/
theorem witness_OrreryCommands_answers :
    let o (kind ms ev : Nat) (stop : Bool) : Orbit :=
      { orb ms with evPhase := ev, stopping := stop, calls := [{ call0 (some 0x100) with kind := kind }] }
    ∀ x ∈ [(2, 4, 0, false), (3, 9, 1, false), (3, 9, 2, false), (4, 2, 0, false), (5, 2, 0, false), (5, 2, 0, true)],
      Named (o x.1 x.2.1 x.2.2.1 x.2.2.2) ∧ (o x.1 x.2.1 x.2.2.1 x.2.2.2).freeing = false ∧
      ((o x.1 x.2.1 x.2.2.1 x.2.2.2).calls.find? fun c => c.token == some 0x100).map OCall.kind = some x.1 := by
  intro o x hx
  simp only [List.mem_cons, List.not_mem_nil, or_false] at hx
  obtain rfl | rfl | rfl | rfl | rfl | rfl := hx <;> exact ⟨named_of rfl (by decide +kernel), rfl, rfl⟩

/-- An OBIND that names a page list of one entry. -/
theorem witness_OrreryCommands_list :
    let s : State := { inOrbit (orb 0) with bufs := [((1, 5), { buf0 with size := 2 ^ 16 })] }
    let m : Cmd := cmd0 17 0 [0, 0, 0xFFF0, 0x5000]
    let at' : Dword := dword (0xFFF0 + 0x5000 * 2 ^ 32)
    s.listCode m = 0 ∧ at' = ref0 0xFFF0 ∧ s.buf 1 (refBuf at') = some { buf0 with size := 2 ^ 16 } ∧
    min 65536 ((2 ^ 16 - refOff at') / 16) = 1 ∧ (s.engRead 1 at' 16).map Prod.fst = some (zeros 16) ∧
    extentCode (s.findSpan 0 1 at' 16) 1 recRead tabRead grp0.desc.lbytes [(0, 0, 0)] = 0 ∧ s.orbitPaused (orb 0) = false ∧
    (s.die 0).ocmds = [] := by
  and_intros <;> decide +kernel

/-- An ODENSE at each end of the window, within it and outside it, onto the orbit's own state, and of a stalled orbit. -/
theorem witness_OrreryCommands_dense :
    let tab : List Byte := [1, 0, 0, 0, 1, 1, 0, 1] ++ zeros 2488 ++ leBytes one64 8
    let o : Orbit := { orb 0 with tableau := tab, window := true, t := one64, hw := one64 }
    let s := inOrbit o
    let m (tau out : Nat) : Cmd := cmd0 21 0 [0, 0, word (tau % 2 ^ 32), word (tau / 2 ^ 32), word out, 0]
    Named o ∧ Named { o with stalled := true } ∧ o.mstate ≠ 11 ∧ o.bound = some 2 ∧ oLantern o.record = true ∧ s.group 2 = some grp0 ∧
    s.denseCode o (m half64 0x6000) = 0 ∧ s.denseCode o (m one64 0x6000) = 0 ∧ s.denseCode o (m 0 0x6000) = 0 ∧
    s.denseCode o (m 0x4000000000000000 0x6000) ≠ 0 ∧ s.denseCode o (m half64 (loWord (oY recRead)).toNat) ≠ 0 ∧
    s.oStationary o (oAt o.record 0x6000 0) (oN o.record * oSize o.record) = false ∧ (s.oVec o o.y).2 = false ∧
    (s.oVec o (o.wv 5)).2 = false ∧ ((o.dTerms half64 o.tprev o.hw).all fun x => !(s.oVec o x.2).2) = true ∧
    (o.dTerms half64 o.tprev o.hw).map Prod.fst = [half64] ∧
    (inOrbit { o with stalled := true }).denseCode { o with stalled := true } (m half64 0x6000) = 0 := by
  intro tab o s m
  refine ⟨named_of rfl (by decide +kernel), named_of rfl (by decide +kernel), ?_⟩
  and_intros <;> decide +kernel

/-- ORUN of a stepped orbit and of a LINREC one, and of one whose record is on an absent page or misaligned. -/
theorem witness_OrreryCommands_run :
    let lin : Orbit := { newOrbit 0 1 (ref0 0x800) recLin tabLin with bound := some 2 }
    let s := inOrbit (orb 0)
    let t : State := onDie (orbitsAt linCells) { orbits := [lin] }
    let read (s : State) (ref : Dword) : OrbitRead :=
      let f := s.findOrbit 0 1 ref
      f.orbitRead 1 ref (extentFar f 1 grp0.desc.lbytes) fun r x => extentCode f 1 r x grp0.desc.lbytes []
    (read s (ref0 0x800) = .ok recRead tabRead ∧ tKind tabRead ≠ 4 ∧ fpEq (orb 0).t (oTend recRead) = false) ∧
    (t.orbit 0 0 = some lin ∧ lin.mstate = 0 ∧ t.group 2 = some grp0 ∧ read t (ref0 0x800) = .ok recLin tabLin ∧ tKind tabLin = 4) ∧
    orbitKind (read { s with pages := [] } (ref0 0x800)) = 1 ∧ orbitKind (read s (ref0 0x801)) = 2 + 2 := by
  intro lin s t read
  refine ⟨⟨?_, by decide +kernel⟩, ⟨rfl, rfl, by decide +kernel, ?_, by decide +kernel⟩, by decide +kernel⟩
  · show (State.findOrbit _ _ _ _).orbitRead _ _ _ _ = _
    rw [findOrbit_quiet rfl rfl]
    exact orbits0_read _ _ _ (by decide +kernel) (by decide +kernel)
  · show (State.findOrbit _ _ _ _).orbitRead _ _ _ _ = _
    rw [findOrbit_quiet rfl rfl]
    exact orbitsLin_read _ _ _ (by decide +kernel) (by decide +kernel)

/-- The orbit runs and may take its next transition. -/
def Live (o : Orbit) : Prop :=
  (inOrbit o).orbit 0 0 = some o ∧ o.running = true ∧ (inOrbit o).orbitPaused o = false ∧ o.stalled = false ∧ tKind o.tableau ≠ 4

theorem live_of {o : Orbit} (h0 : (inOrbit o).orbit 0 0 = some o)
    (h : (o.running && !(inOrbit o).orbitPaused o && !o.stalled && tKind o.tableau != 4) = true) : Live o := by
  simp only [Bool.and_eq_true, Bool.not_eq_true', bne_iff_ne, ne_eq] at h
  exact ⟨h0, h.1.1.1, h.1.1.2, h.1.2, h.2⟩

def oStop (calls : List OCall) : Orbit := { orb 3 with stopping := true, calls := calls }
def oForm : Orbit := { orb 1 with stage := 1 }
def oNorm (rho : Nat) : Orbit := { orb 6 with rho := rho, rhoprev := half64, m := 1 }
def oDec (err h : Nat) : Orbit := { orb 8 with err := err, h := h, hatt := h }

/-- R332: a stop with a call outstanding and without; form of stage 1; a norm within the limit, and one that fails; a step
rejected, halted and accepted. -/
theorem witness_Orbits_live : Live (oStop [call0 (some 0x100)]) ∧ Live (oStop []) ∧ Live oForm ∧ Live (oNorm 0) ∧
    Live (oNorm one64) ∧ Live (oDec 0x4014000000000000 half64) ∧ Live (oDec 0x4014000000000000 0x3F867A0F9096BB99) ∧
    Live (oDec half64 half64) :=
  ⟨live_of rfl (by decide +kernel), live_of rfl (by decide +kernel), live_of rfl (by decide +kernel),
    live_of rfl (by decide +kernel), live_of rfl (by decide +kernel), live_of rfl (by decide +kernel),
    live_of rfl (by decide +kernel), live_of rfl (by decide +kernel)⟩

theorem witness_Orbits :
    ((oStop [call0 (some 0x100)]).quiet = false ∧ (oStop []).quiet = true ∧ ((inOrbit (oStop [])).die 0).ocmds = []) ∧
    (oForm.bound = some 2 ∧ (inOrbit oForm).group 2 = some grp0 ∧ oForm.stage ≠ 0 ∧ tImplicit oForm.tableau 1 = false ∧
      oLantern oForm.record = true ∧
      (inOrbit oForm).oStationary oForm (oForm.wv 0) (oN oForm.record * oSize oForm.record) = false ∧
      ((inOrbit oForm).oVec oForm oForm.y).2 = false ∧
      ∀ x ∈ oForm.zTerms 1, x.1 ≠ 0 → ((inOrbit oForm).oVec oForm x.2).2 = false) ∧
    (fpLe 0 (oKappa recRead) = true ∧ fpLe one64 (oKappa recRead) = false ∧ fpLe half64 one64 = true) ∧
    (fpLt fpOne 0x4014000000000000 = true ∧ fpLt (rejectH (oDec 0x4014000000000000 half64) false) (oHmin recRead) = false ∧
      fpLt (rejectH (oDec 0x4014000000000000 0x3F867A0F9096BB99) false) (oHmin recRead) = true) ∧
    (fpNaN half64 = false ∧ fpLt fpOne half64 = false) := by
  decide +kernel

/-- A call ready, and a waiter of its context and tag whose gang waits, with a store of its core on its way or none. -/
theorem witness_Orbits_handoff :
    let w : OWaiter := ⟨77, 4, 3, 2, 1, 0, 9, 16⟩
    let g : Gang := { gang0 0x41010000 with wait := .otake 16 9 }
    let o : Orbit := { orb 2 with calls := [call0 none] }
    let s : State := { onDie base { orbits := [o], owaiters := [w] } with gangs := [g] }
    (s.nextHandoff 0 s.waiters).map (fun r => (r.1.num, r.2)) = some (o.num, call0 none, w) ∧ s.warp 3 = some warp0 ∧ s.gang 4 = some g ∧ g.wait ≠ .none ∧ g.rest ≠ [] ∧
    (call0 none).desc.length = 16 ∧ w.d ≤ 16 ∧ s.group w.group = some grp0 ∧ s.wtClear grp0.coreId = true ∧
    ({ s with cores := [(0, { wt := [⟨50, 9, 0, [(1, 1)]⟩] })] } : State).wtClear grp0.coreId = false ∧
    warp0.lanesWhere (fun l ln => inMask g.lanes l && ln.npc.isSome && ln.stat != .exited) = 0 := by
  decide +kernel

/-! ## Vesper commands and messages -/

/-- Group 2 with lumens of a slot, and a die of Vesper objects. -/
def grpS (x : LSlot) : Group := { grp0 with slots := [x, {}, {}, {}] }
def lumens (x : LSlot) (u : DieU) : State := withSlot (onDie base u) x
def held2 : LSlot := ⟨vigilH, 2, false⟩

/-- Descriptors at 0x800: of a queue, and of a bin of four records with a timer of 10 whose vigil and launch block it names. -/
def queueD (rsv : Nat) : List Byte := zeros 13 ++ leBytes rsv 1 ++ zeros 50
def binD : List Byte := zeros 12 ++ leBytes 4 1 ++ zeros 3 ++ leRef 0x100 ++ leBytes (mkHandle 1 0 0 1 0) 4 ++ leBytes 10 4 ++ zeros 32
/-- A descriptor with a launch block of that many groups, group 2 with a slot, the command in die 0's unit, a vigil on die 1. -/
def described (d : List Byte) (groups : Nat) (x : LSlot) (m : Cmd) : State :=
  { putAt (putAt blocks 0x110 (leBytes groups 8)) 0x800 d with
    groups := [grpS x], dieU := [{ vcmds := [m] }, { vobjs := [vigil0 8] }, {}, {}] }

/-- Group 2 with a slot, and die 0's unit with the command alone in its queue. -/
def vesperAt (x : LSlot) (u : DieU) (m : Cmd) : State := lumens x { u with vcmds := [m] }
/-- What every clause asks of the command and its group. -/
def vesperGood (s : State) (x : LSlot) (m : Cmd) : Bool :=
  decide (s.group m.group = some (grpS x) ∧ (grpS x).id = m.group ∧ (grpS x).die < s.dieU.length ∧ (grpS x).die < 4) &&
  decide (s.pkg.pkgid < 64 ∧ (grpS x).slots.length = 4 ∧ (s.core 0).cmds = [] ∧ (s.die 0).vcmds = [m]) &&
  (List.range 4).all fun d => decide ((s.die d).dcmds = [] ∧ (s.die d).ocmds = []) && (d == 0 || decide ((s.die d).vcmds = []))
def fullU : DieU := { vobjs := [vigil0 7, queue0 [], bin0 [rec0]], purses := [⟨vigilH, 1⟩] }
def vnew (e : BitVec 21) (k : Word) : Cmd := cmd0 23 e [k, 0x5000]
def vfree (h : Nat) : Cmd := cmd0 24 0 [word h]
def vspawn (e : BitVec 21) (x : Word) : Cmd := cmd0 25 e [0x100, 0x5000, x, 0]
def vgive : Cmd := cmd0 29 0x160 []
def vsendC (eop : Nat) (h : Nat) (n : Word) : Cmd := cmd0 eop 0 ([word h, n, 0, 0] ++ List.replicate 8 7)

/-- R380, R448: a VNEW of a vigil with a scope and a size refused, with its slot in use, and made. -/
theorem witness_VesperCommands :
    (∀ e ∈ [0x60, 0x80, 0x66], ∀ k ∈ [2, 3, 62], ∀ x ∈ [({} : LSlot), held2],
      vesperGood (vesperAt x {} (vnew (.ofNat 21 e) (.ofNat 32 k))) x (vnew (.ofNat 21 e) (.ofNat 32 k)) = true ∧
      ((BitVec.ofNat 21 e).extractLsb' 3 2).toNat = 0) ∧
    ((0x60 : BitVec 21).extractLsb' 5 3).toNat = 3 ∧ ((0x80 : BitVec 21).extractLsb' 5 3).toNat = 4 ∧
    ((0x66 : BitVec 21).extractLsb' 1 2).toNat = 3 ∧ base.pkg.negotiated.getLsbD 7 = false ∧
    (grpS held2).lslot 0 = held2 ∧ (grpS held2).lslot 3 = {} ∧ ((vesperAt held2 {} (vnew 0x66 3)).die 0).vobjs = [] := by
  decide +kernel

/-- R385, R386: descriptors of a queue and a bin accepted and refused, one that is misaligned and one without a right. -/
theorem witness_VesperCommands_new :
    let s (d : List Byte) (e : BitVec 21) := described d 1 {} (vnew e 0x800)
    let bare : State := { s binD 0x10 with bufs := [((1, 5), { buf0 with rights := 0 })] }
    (∀ x ∈ [(queueD 0, (0x8 : BitVec 21), 1, 0), (queueD 1, 0x8, 1, 0x10), (binD, 0x10, 2, 0), (queueD 0, 0x10, 2, 0x10)],
      vesperGood (s x.1 x.2.1) {} (vnew x.2.1 0x800) = true ∧ (x.2.1.extractLsb' 3 2).toNat = x.2.2.1 ∧
      (s x.1 x.2.1).engRow 1 (ref0 0x800) 64 .r = 0 ∧ ((s x.1 x.2.1).engRead 1 (ref0 0x800) 64).map Prod.fst = some x.1 ∧
      vdescCode ((s x.1 x.2.1).findSpan 0 1 (ref0 0x800) 64) 1 x.2.2.1 x.1 = x.2.2.2) ∧
    ((s binD 0x10).die 0).vobjs = [] ∧ launchKind ((s binD 0x10).launchRead 1 (ref0 0x100)) = 0 ∧
    ((s binD 0x10).engRead 1 (ref0 0x100) 256).map (fun x => (lblockOf x.1).groups) = some 1 ∧
    ((s binD 0x10).engRead 1 (ref0 0x200) 64).isSome = true ∧ 48 * 4 ≤ 4096 ∧ (0x801 : Nat) % 64 ≠ 0 ∧
    bare.engRow 1 (ref0 0x800) 64 .r = 3 := by
  decide +kernel

/-- R377: VFREE of no object, of a vigil with lumens out and with none, of a queue with a waiter, of a bin with a record and of
another package's object. -/
theorem witness_VesperCommands_free :
    let s := vesperAt {} fullU (vfree 0)
    let gated : State := { vesperAt {} { vobjs := [crowd 1] } (vfree queueH) with
      gangs := [{ gang0 0x41010000 with wait := .qpop 4 queueH 0 }] }
    (∀ h ∈ [0, vigilH, queueH, binH, mkHandle 1 0 5 0 0], vesperGood (vesperAt {} fullU (vfree h)) {} (vfree h) = true) ∧
    hPkg (mkHandle 1 0 5 0 0) ≠ base.pkg.pkgid ∧ hPkg vigilH = base.pkg.pkgid ∧
    (vesperAt {} {} (vfree vigilH)).vvalid 1 vigilH [0, 1, 2] = none ∧
    s.vvalid 1 vigilH [0, 1, 2] = some (vigil0 7) ∧ (vigil0 7).pool ≠ 2 ^ (vigil0 7).k ∧
    (vesperAt {} { vobjs := [vigil0 8] } (vfree vigilH)).vvalid 1 vigilH [0, 1, 2] = some (vigil0 8) ∧
    (vigil0 8).pool = 2 ^ (vigil0 8).k ∧ s.vvalid 1 binH [0, 1, 2] = some (bin0 [rec0]) ∧ (bin0 [rec0]).waiters = [] ∧ rec0.lumens ≠ 0 ∧
    gated.vvalid 1 queueH [0, 1, 2] = some (crowd 1) ∧ (crowd 1).waiters = [⟨4, 3, 2, 4, 0⟩] ∧
    (gated.gang 4).map Gang.wait = some (.qpop 4 queueH 0) ∧ gated.warp 3 = some warp0 ∧
    warp0.lanesWhere (fun l ln => inMask (BitVec.allOnes 64) l && ln.npc.isSome && ln.stat != .exited) = 0 := by
  decide +kernel

/-- R380, R381, R387, R448: commands without lumens; spawns of each mode; a give that may go, one that a store holds, and a command
behind it; a borrow. -/
theorem witness_VesperCommands_slot :
    let s (m : Cmd) := described (queueD 0) 1 held2 m
    let stored (s : State) : State := { s with warps := [{ warp0 with sq := full16 }] }
    let behind : State := stored (lumens held2 { vcmds := [vgive, cmd0 30 0 []] })
    let ready (s : State) (m : Cmd) : Bool := !m.ebits.getLsbD 8 || (s.warp m.warp).all fun w =>
      s.releaseReadyAt w 0 (m.ebits.extractLsb' 5 3).toNat m.id
    (((grpS {}).lslot 0).balance = 0 ∧ held2.balance ≠ 0 ∧ held2.reserved = false) ∧
    (∀ e ∈ [0, 4], vesperGood (s (vspawn (.ofNat 21 e) 1)) held2 (vspawn (.ofNat 21 e) 1) = true) ∧
    (s (vspawn 4 1)).blockGroups 1 (ref0 0x100) = some 1 ∧ launchKind ((s (vspawn 4 1)).launchRead 1 (ref0 0x100)) = 0 ∧
    1 < held2.balance ∧ 2 * 1 ≤ held2.balance ∧ launchKind ((s (vspawn 0 1)).launchRead 1 (ref0 0x101)) = 2 + 2 ∧
    (∀ m ∈ [vgive, cmd0 29 4 [2, 0], cmd0 29 4 [3, 0], cmd0 30 0 [1, 0], cmd0 30 0 [0, 257]],
      vesperGood (vesperAt held2 fullU m) held2 m = true) ∧
    ready (vesperAt held2 fullU vgive) vgive = true ∧ ready (stored (vesperAt held2 fullU vgive)) vgive = false ∧
    vgive.ebits.getLsbD 2 = false ∧ (4 : BitVec 21).getLsbD 2 = true ∧ held2.balance < 3 ∧
    (vesperAt held2 fullU vgive).purse 0 vigilH = some ⟨vigilH, 1⟩ ∧
    (behind.die 0).vcmds = [vgive, cmd0 30 0 []] ∧ ready behind vgive = false := by
  decide +kernel

/-- R388, R390, R391: sends of a payload too long, to no target, to a queue, a full one, a bin and a bin of another vigil. -/
theorem witness_VesperCommands_send :
    let to' (u : DieU) (eop h : Nat) (n : Word) : State := vesperAt held2 u (vsendC eop h n)
    let fullQ : DieU := { vobjs := [queue0 (List.replicate 32 rec0)] }
    let other : DieU := { vobjs := [{ bin0 [] with vigil := 0 }] }
    (∀ x ∈ [(26, binH, (8 : Word)), (27, queueH, 9), (28, binH, 0)], vesperGood (to' fullU x.1 x.2.1 x.2.2) held2 (vsendC x.1 x.2.1 x.2.2) = true) ∧
    8 < (9 : Word).toNat % 16 ∧ (8 : Word).toNat % 16 ≤ 8 ∧ 2 ≤ held2.balance ∧ (to' {} 27 queueH 1).vvalid 1 queueH [1] = none ∧
    (to' fullU 27 queueH 1).vvalid 1 queueH [1] = some (queue0 []) ∧ (to' fullU 28 binH 1).vvalid 1 binH [2] = some (bin0 [rec0]) ∧
    (bin0 [rec0]).vigil = held2.vigil ∧ (bin0 [rec0]).recs.length + 1 < (bin0 [rec0]).count ∧
    (to' other 28 binH 1).vvalid 1 binH [2] = some { bin0 [] with vigil := 0 } ∧
    (to' fullQ 27 queueH 1).vvalid 1 queueH [1] = some (queue0 (List.replicate 32 rec0)) := by
  decide +kernel

theorem vcmds_none {s : State} (h : s.dieU.all (fun u => decide (u.vcmds = [])) = true) (die : Nat) : (s.die die).vcmds = [] := by
  unfold State.die
  rw [List.all_eq_true] at h
  cases e : s.dieU[die]? with
  | none => rfl
  | some u => exact of_decide_eq_true (h u (List.mem_of_getElem? e))

/-- R23, R25, R380–R391: a message behind an earlier one of its unit, and one of another class; a return that completes a vigil
with a waiter, and one that does not; draws to a die with a purse; a recall; a record sent to no target, to a bin of another
vigil, to a full queue, to a queue, to a bin and to its last place; a bin timer that has run out, one that has not and one that
is off. -/
theorem witness_VesperMessages :
    let g : Gang := { gang0 0x41010000 with wait := .vwaitq 9 vigilH }
    let o (pool : Nat) : VObj := { vigil0 pool with waiters := [⟨4, 3, 2, 9, 0⟩] }
    let fly (m : VMsg) : VFlight := ⟨50, 1, 0, m⟩
    let s (o : List VObj) (m : VMsg) : State :=
      { onDie base { vobjs := o, purses := [⟨vigilH, 1⟩] } with gangs := [g], vflights := [fly m] }
    let there (o : List VObj) (m : VMsg) : Prop := lookupBy VFlight.id (s o m).vflights 50 = some (fly m) ∧
      (s o m).flightDue (fly m) = true ∧ (s o m).dieU.length = 4 ∧ (∀ g ∈ (s o m).groups, g.stat ≠ .ended) ∧
      ((s o m).die 0).vcmds = [] ∧ ((s o m).die 0).purses.length < 1024
    let after (m : VMsg) : State := { base with vflights := [⟨49, 1, 0, m⟩, fly (.draw vigilH 2)] }
    let op : TOp := ⟨62, some 1, none, 1, .status 9, 0, 0, []⟩
    let w : Warp := { warp0 with ops := [op] }
    let bin (n clk timer : Nat) : State :=
      onDie base { vobjs := [{ bin0 (List.replicate n rec0) with since := some 5, timer := timer }], clk := clk }
    (lookupBy VFlight.id (after (.draw vigilH 1)).vflights 50 = some (fly (.draw vigilH 2)) ∧
      (((after (.draw vigilH 1)).vflights.takeWhile fun e => e.id != 50).any fun e =>
        e.src == 1 && e.die == 0 && e.msg.cls == (VMsg.draw vigilH 2).cls) = true ∧
      (after (.vsend queueH 1 rec0 3 none 9)).flightDue (fly (.draw vigilH 2)) = true) ∧
    (∀ amt ∈ [2, 3], there [o 5] (.ret vigilH amt false) ∧ (s [o 5] (.ret vigilH amt false)).vobj vigilH = some (o 5) ∧
      (s [o 5] (.ret vigilH amt false)).gang 4 = some g ∧ (s [o 5] (.ret vigilH amt false)).warp 3 = some warp0 ∧
      g.wait ≠ .none ∧ g.rest ≠ [] ∧ g.warp = 3 ∧ (o 5).aband < 2 ^ 24 ∧ (o 5).k = 3 ∧
      (s [o 5] (.ret vigilH amt false)).dieU.all (fun u => decide (u.vcmds = [])) = true ∧
      warp0.lanesWhere (fun l ln => inMask g.lanes l && ln.npc.isSome && ln.stat != .exited) = 0 ∧
      (s [o 5] (.ret vigilH amt false)).group 2 = some grp0 ∧ (s [o 5] (.ret vigilH amt false)).wtClear grp0.coreId = true) ∧
    (∀ wd ∈ [false, true], there [{ vigil0 5 with watched := wd }] (.draw vigilH 2) ∧
      (s [{ vigil0 5 with watched := wd }] (.draw vigilH 2)).vobj vigilH = some { vigil0 5 with watched := wd } ∧
      (s [{ vigil0 5 with watched := wd }] (.draw vigilH 2)).purse 0 vigilH = some ⟨vigilH, 1⟩) ∧
    ((s [{ vigil0 5 with recalled := true }] (.draw vigilH 2)).vobj vigilH = some { vigil0 5 with recalled := true }) ∧
    (let m (h : Nat) : VMsg := .vsend h 1 rec0 3 (some 62) 9
     there [] (m queueH) ∧ (s [] (m queueH)).vvalid 1 queueH [1, 2] = none ∧
      (s [{ bin0 [] with vigil := 0 }] (m binH)).vvalid 1 binH [1, 2] = some { bin0 [] with vigil := 0 } ∧ rec0.vigil ≠ 0 ∧
      (∀ n ∈ [31, 32], (s [queue0 (List.replicate n rec0)] (m queueH)).vvalid 1 queueH [1, 2] =
        some (queue0 (List.replicate n rec0))) ∧
      (∀ n ∈ [2, 3], (s [bin0 (List.replicate n rec0)] (m binH)).vvalid 1 binH [1, 2] = some (bin0 (List.replicate n rec0))) ∧
      (bin0 []).vigil = rec0.vigil ∧ (bin0 []).count = 3 + 1 ∧ lookupBy TOp.id w.ops 62 = some op) ∧
    (∀ clk ∈ [14, 15], ∀ timer ∈ [0, 10], (bin 1 clk timer).vobj binH =
        some { bin0 [rec0] with since := some 5, timer := timer } ∧ ((bin 1 clk timer).die (hDie binH)).clk = clk) := by
  intro g o fly s there after op w bin
  and_intros <;> decide +kernel

/-! ## The Lamplighter -/

/-- The bytes at a reference of context 1 are wholly resident, no byte twice and none cut off, and no host atomic is half done. -/
def onePlace (s : State) (r : Dword) (n : Nat) : Bool :=
  match s.physList 1 r n with
  | .ok ps => decide ps.Nodup && ps.all (fun p => !s.cutOff p) && s.portOp.isNone
  | _ => false
/-- A block of SCALE32 on the buffer at 0x2000, its list at 0x800. -/
def scale (cnt : Nat) : List Byte :=
  leBytes 1 4 ++ leBytes 2 2 ++ leBytes 12 2 ++ leBytes cnt 8 ++ leRef 0x2000 ++ zeros 24 ++ leBytes 0x40000000 8 ++ zeros 24 ++
    leRef 0x800 ++ leBytes 1 4 ++ leBytes 0xFFFFFFFF 4 ++ leBytes 1 4 ++ zeros 28
/-- The block and its list, whose entry is for the buffer's page or for another, placed; and the stack's unit. -/
def lamp (b : List Byte) (page : Nat) (u : StackU) : State :=
  { putAt (putAt base 0x400 b) 0x800 (leBytes 5 4 ++ leBytes page 4 ++ leBytes (2 ^ 62 + 3) 8) with stackU := [(0, u)] }
def scaled : NKernel := { kick := kick0, block := scale 5, plist := [(5, 0, BitVec.ofNat 64 (2 ^ 62 + 3))] }

/-- R412, R416–R421: an install accepted and refused; a kick with a place in the queue and with none; a refresh with a kernel
running and with none; starts that fault, are refused by the block and by the list, and succeed. -/
theorem witness_NearKernels :
    let feat : State := { base with pkg := { negotiated := 0x20 } }
    let again : Kick := { kick0 with ref := kick0.ref + 1 }
    let full : StackU := { arriving := [kick0], queue := List.replicate 64 kick0 }
    let fresh : StackU := { arriving := [again], running := some { scaled with plist := [], stale := true } }
    let s (cnt page : Nat) (u : StackU) : State := lamp (scale cnt) page u
    let start : StackU := { queue := [kick0] }
    let stray : Kick := { kick0 with ref := ref0 0x403 }
    let list (s : State) : Option (List Byte) := (s.engRead 1 (ref0 0x800) 16).map Prod.fst
    let entry (page : Nat) : List (Nat × Nat × Dword) := [(5, page, BitVec.ofNat 64 (2 ^ 62 + 3))]
    let used : List Nat := (feat.kernelUse 0 1 2).elim [] NUse.all
    (11 < 12 ∧ feat.pkg.negotiated.getLsbD 5 = true ∧ nearProgOk [0x60000000] = true ∧ nearProgOk [] = false) ∧
    (kick0.ref.getLsbD 0 = false ∧ (base.stack 0).queue.length < 64 ∧ 64 ≤ ((s 5 0 full).stack 0).queue.length ∧
      ((s 5 0 full).stack 0).arriving = [kick0] ∧ (s 5 0 full).blockRow kick0 = true ∧
      ((s 5 0 full).engRead 1 (ref0 0x400) 128).isSome = true ∧ onePlace (s 5 0 full) (ref0 0x478) 4 = true ∧
      (s 5 0 full).migrations = []) ∧
    (again.ref.getLsbD 0 = true ∧ again.ref - 1 = kick0.ref ∧ ((s 5 0 fresh).stack 0).arriving = [again] ∧
      ((s 5 0 fresh).engRead 1 (ref0 0x450) 12).map Prod.fst = some (leRef 0x800 ++ leBytes 1 4) ∧
      (s 5 0 fresh).blockRow { again with ref := again.ref - 1 } = true ∧ again.ctx = kick0.ctx ∧ (1 ≤ 1 ∧ 1 ≤ 65536) ∧
      (s 5 0 fresh).engRow 1 (ref0 0x800) (16 * 1) .r = 0 ∧ (list (s 5 0 fresh)).map (plistOf · 1) = some (entry 0) ∧
      (s 5 0 fresh).listOk 0 kick0 (scale 5) used (entry 0) = true) ∧
    ((list (s 5 1 fresh)).map (plistOf · 1) = some (entry 1) ∧ (s 5 1 fresh).listOk 0 kick0 (scale 5) used (entry 1) = false ∧
      scaled.passes = [] ∧ (s 5 1 fresh).latent = [] ∧ (s 5 1 fresh).migrations = [] ∧ onePlace (s 5 1 fresh) (ref0 0x478) 4 = true) ∧
    (stray.ref.getLsbD 0 = true ∧ base.blockRow { stray with ref := stray.ref - 1 } = false) ∧
    ((s 5 0 { queue := [{ kick0 with gone := true }] }).blockRow { kick0 with gone := true } = true) ∧
    (base.blockRow { kick0 with ref := ref0 0x401 } = false) ∧
    (∀ x ∈ [(5, 0), (5, 1), (40000, 0)], (s x.1 x.2 start).blockRow kick0 = true ∧
      ((s x.1 x.2 start).engRead 1 (ref0 0x400) 128).map Prod.fst = some (scale x.1) ∧
      (s x.1 x.2 start).blockCode 0 kick0 (scale x.1) = (if x.1 = 5 then 0 else 2) ∧
      (list (s x.1 x.2 start)).map (plistOf · 1) = some (entry x.2) ∧
      (s x.1 x.2 start).listOk 0 kick0 (scale x.1) used (entry x.2) = decide (x.1 = 5 ∧ x.2 = 0) ∧
      onePlace (s x.1 x.2 start) (ref0 0x478) 4 = true ∧ (s x.1 x.2 start).latent = []) := by
  and_intros <;> decide +kernel

/-- R419, R420, R422, R425: the first of two chunks due for each library kernel; passes of an installed kernel that end badly,
with a chunk left, and as the last; a context destroyed with its kernel running, and with another's. -/
theorem witness_KernelPasses :
    let due (kid : Nat) : State := running (kern kid 3000 12)
    let last (bad : Bool) : Pass := { pass0 [] 0 with ended := true, bad := bad }
    let inst (cnt : Nat) (bad : Bool) : NKernel := { kern 0x100 cnt 12 with passes := [last bad] }
    let other : NKernel := { kern 2 3000 12 with kick := { kick0 with ctx := 2 } }
    (∀ cnt ∈ [2000, 3000], (running (inst cnt false)).engRow 1 (refAdd kick0.ref 0x78) 4 .w = 0 ∧ (inst cnt false).stopping = false) ∧
    ((∀ kid ∈ [1, 2, 3, 4], ((due kid).stack 0).running = some (kern kid 3000 12) ∧ (due kid).passDue 0 (kern kid 3000 12) 0 = true ∧
        (kern kid 3000 12).chunks.length + 1 < nchunks (kern kid 3000 12).block ∧ nkid (kern kid 3000 12).block = kid ∧
        (due kid).migrations = []) ∧
      (∀ cnt ∈ [2000, 3000], ∀ bad ∈ [false, true], ((running (inst cnt bad)).stack 0).running = some (inst cnt bad) ∧
        nkid (inst cnt bad).block = 0x100 ∧ (last bad).ended = true ∧ (last bad).q = 0 ∧ (inst cnt bad).code = 0 ∧
        (inst cnt bad).poisoned = 0 ∧ nchunks (inst cnt bad).block = (if cnt = 2000 then 1 else 2) ∧
        onePlace (running (inst cnt bad)) (refAdd kick0.ref 0x78) 4 = true) ∧
      ((running other).stack 0).running = some other ∧ other.passes = [] ∧ other.kick.ctx ≠ 1 ∧ kick0.ctx = 1) ∧
    (∀ kid l, (due kid).lineBad l = false) ∧ ∀ die, (((due 1).die die).orbits.map Orbit.num).Nodup := by
  refine ⟨by decide +kernel, by decide +kernel, fun _ _ => by simp [State.lineBad, State.cutOff, running, base], fun die => ?_⟩
  match die with
  | 0 | 1 | 2 | 3 => exact List.nodup_nil
  | n + 4 => exact List.nodup_nil

/-! ## Host and management -/

/-- A pod barrier of index 1 and key k, a count sent to its home, and the state that holds it. -/
def netBar (k exp arr sent : Nat) : NetBar :=
  { scope := 4, index := 1, key := k, part := 0, bar := { exp := BitVec.ofNat 32 exp, arr := BitVec.ofNat 32 arr }, sent := sent }
def inPod (bs : List NetBar) : State := { base with groups := [], bars := bs, pkg := { pod := [7], negotiated := 0x8 } }
/-- Group 2 in a launch of pod key 64. -/
def podGroup : State :=
  { base with launches := [{ launch0 with id := 1, podkey := 64 }], bars := [netBar 64 3 3 0] }
/-- Buffer 5 at an offset of the BAR2 window of its context's function, in a package of a pod that has booted. -/
def hosted (s : State) (off : Nat) : State :=
  { s with pkg := { pod := [3], negotiated := 0x8, boot := { booted := true }, ctxFn := [(1, 2)], bar2 := [(1, 5, off)] } }
def sound (s : State) (off n : Nat) : Bool :=
  onePlace s (ref0 off) n && match s.physList 1 (ref0 off) n with | .ok ps => ps.all fun p => !s.lineBad (p / 64) | _ => false

/-- R433–R440, R109: host writes inside and outside the window, to a resident page, to one that is not and at the end of a
buffer; atomics of both widths; a read of the own package; a remote access of each kind, refused, waiting and performed; pod
barriers that are made, held, not held, due or not, at home and away, with a group and with none; a failed port. -/
theorem witness_Outside :
    let data := hosted (putAt base 64 (leBytes 0xFFFFFFFF00000005 8)) 0
    let gone := hosted { base with pages := [] } 0
    let paused : State := { data with pkg := { data.pkg with checkpointing := true } }
    let due (b : NetBar) : Bool := if b.key % 64 = 0 then decide (b.bar.arr ≠ 0 ∧ b.bar.exp.toNat ≤ b.bar.arr.toNat) else b.key % 64 == 7
    (data.buf 1 (refBuf (ref0 30)) = some buf0 ∧ refOff (ref0 0x1FFFF) + 1 ≤ buf0.size ∧ sound data 30 5 = true ∧
      onePlace gone (ref0 30) 5 = false ∧ gone.buf 1 (refBuf (ref0 30)) = some buf0 ∧ data.migrations = [] ∧ data.latent = [] ∧
      (gone.page key0).state = 0) ∧
    (data.inBar2 1 (ref0 30) 5 = true ∧ gone.inBar2 1 (ref0 30) 5 = true ∧ base.inBar2 1 (ref0 30) 5 = false ∧
      (hosted base (2 ^ 36 - 35)).inBar2 1 (ref0 30) 5 = true ∧ (hosted base (2 ^ 36 - 34)).inBar2 1 (ref0 30) 5 = false) ∧
    ((ref0 68).toNat % 4 = 0 ∧ (ref0 64).toNat % 8 = 0 ∧ refOff (ref0 64) + 8 ≤ buf0.size ∧ sound data 64 8 = true ∧
      sound data 68 4 = true ∧ data.inBar2 1 (ref0 64) 8 = true ∧ data.inBar2 1 (ref0 68) 4 = true) ∧
    (3 ∈ data.pkg.pod ∧ 3 ≠ data.pkg.pkgid ∧ 4 ∉ data.pkg.pod ∧ data.pkg.negotiated.getLsbD 3 = true ∧ data.pkg.boot.booted = true ∧
      data.pkg.checkpointing = false ∧ paused.pkg.checkpointing = true ∧ gone.accessRow 1 (ref0 64) 8 .r = 0 ∧
      data.accessRow 1 (ref0 0x1FFFF) 8 .r = 2 ∧ data.accessRow 1 (ref0 64) 8 .r = 0 ∧ data.accessRow 1 (ref0 64) 8 .w = 0 ∧
      data.accessRow 1 (ref0 64) 8 .a = 0 ∧ data.accessRow 1 (ref0 64) 4 .a = 0) ∧
    (∀ bs ∈ [[], [netBar 64 0 0 0]], (inPod bs).bars.all (fun b => !isNetBar 4 1 64 0 b || b.bar.exp == 0) = true ∧
      64 % 64 = (inPod bs).pkg.pkgid ∧ (inPod bs).pkg.pod ≠ [] ∧ (inPod bs).pkg.negotiated.getLsbD 3 = true) ∧
    (∀ x ∈ [1, 17, 97, 113], x % 16 = 1 ∧ (x / 32 = 0 ∨ x / 32 = 3) ∧ (x / 16 % 2 = 1 ↔ x = 17 ∨ x = 113)) ∧
    ((inPod [netBar 64 3 0 0]).bars.any (fun b => isNetBar 4 1 64 0 b && b.bar.exp != 0) = true) ∧
    (∀ x ∈ [(0, 2), (0, 3), (7, 0), (9, 0)], (inPod [netBar x.1 3 x.2 0]).bars.find? (isNetBar 4 1 x.1 0) = some (netBar x.1 3 x.2 0) ∧
      due (netBar x.1 3 x.2 0) = decide (x = (0, 3) ∨ x = (7, 0))) ∧
    ((podGroup.groups.find? fun g => g.stat != .ended && barUnit podGroup g 4 == (64, 0) && decide (1 < g.desc.odbars)) = some grp0 ∧
      podGroup.bars.find? (isNetBar 4 1 64 0) = some (netBar 64 3 3 0)) ∧
    (31 ∉ (base.die 3).failedPorts ∧ 3 < base.dieU.length ∧ 5 ∈ ((onDie base { failedPorts := [5] }).die 0).failedPorts ∧
      3 ∉ base.pkg.unreachable ∧ 3 ≠ base.pkg.pkgid) := by
  and_intros <;> decide +kernel

/-- An image of a byte of device memory, with nothing that runs. -/
def image1 : Image :=
  { negotiated := 0x7FF, mem := [(64, 7)], poison := [], bufs := [((1, 5), buf0)], pages := [(key0, page0)], tables := [], kickidx := []
    code := [], launches := [], groups := [{ grp0 with stat := .saved }], warps := [], gangs := [], bars := []
    dieU := [{ orbits := [orb 0], vobjs := [vigil0 8] }, {}, {}, {}], stackU := [], vflights := [], nextId := 100 }

/-- R441–R446: a checkpoint refused, waiting and taken; a restore without an image, of another feature word, while a gang runs
and done; boots and reports; power steps near the limit and away from it; a sample, throttling and shutdown. -/
theorem witness_Management :
    let feats (s : State) : State := { s with pkg := { s.pkg with negotiated := 0x7FF } }
    let idle : State := feats { base with groups := [], warps := [], gangs := [] }
    let tier (s : State) : State := { s with safeTier := some image1 }
    let boot (b : BootU) : State := { State.reset with pkg := { negotiated := 0x7FF, boot := b } }
    let at' (mhz : Nat) : State := onDie base { mhz := mhz }
    let hot (x : Nat) : State := { base with pkg := { monitors := [(0, { clk := 5, temps := [40, x] })] } }
    (base.pkg.negotiated.getLsbD 9 = false ∧ (feats base).pkg.negotiated.getLsbD 9 = true ∧ idle.pkg.checkpointing = false ∧
      idle.groups = [] ∧ idle.moving = false ∧ idle.remote = [] ∧ (∀ d ∈ List.range 4, (idle.die d).ocmds = []) ∧
      ({ idle with pkg := { idle.pkg with checkpointing := true } } : State).pkg.checkpointing = true) ∧
    (base.safeTier = none ∧ (tier idle).safeTier = some image1 ∧ (tier (feats base)).moving = true ∧ image1.negotiated = idle.pkg.negotiated ∧
      image1.negotiated ≠ (tier base).pkg.negotiated ∧ image1.mem.wf ∧ (tier idle).mem.wf ∧
      (∀ c ∈ image1.mem, deviceByte idle.pkg.pkgid c.1 = true) ∧ ∀ u ∈ image1.dieU, u.ocmds = []) ∧
    ((boot { booted := true }).pkg.boot.booted = true ∧ (boot {}).launches = [] ∧ (boot {}).groups = [] ∧ (boot {}).pkg.boot.recovery = false ∧
      (boot { minVersion := 3 }).pkg.boot.booted = false ∧ (boot { minVersion := 3 }).pkg.boot.minVersion ≤ 3 ∧
      ¬ (boot { minVersion := 3 }).pkg.boot.minVersion ≤ 2) ∧
    (State.reset.pkg.negotiated.getLsbD 10 = false ∧ (boot { booted := true }).pkg.negotiated.getLsbD 10 = true ∧
      ∀ x ∈ [(1023, true), (1024, true), (0, false)],
        let b : BootU := { booted := true, fuseLeaf := 1, sessLeaf := x.1, session := x.2 }
        (boot b).pkg.boot = b ∧ b.fuseLeaf < 2 ^ 15) ∧
    (∀ m ∈ [650, 675, 676, 1274, 1275, 1300], 0 < (at' m).dieU.length ∧ ((at' m).die 0).mhz = m) ∧
    (3 < 4 ∧ (List.replicate 64 50).length = 64 ∧ [750].length = Config.supplyRails ∧ [900].length = Config.ringMonitors) ∧
    (∀ x ∈ [104, 105, 114, 115], tabFind (hot x).pkg.monitors 0 = some { clk := 5, temps := [40, x] } ∧ 0 < (hot x).dieU.length) := by
  refine ⟨?_, ⟨?_, rfl, ?_⟩, ?_⟩ <;> and_intros <;> decide +kernel

/-- A power limit near the drawn power, and one away from it, on a die whose clock is in its range. -/
theorem witness_Management_power :
    let s (w : Nat) : State := { base with pkg := { powerLimit := w, monitors := [(0, { clk := 5, temps := [40, 41] })] } }
    (s 0).pkg.powerLimit ≤ Config.drawn (s 0).free + Config.powerMargin ∧
    (let w := Config.drawn base.free + Config.powerMargin + 1
     ¬ (s w).pkg.powerLimit ≤ Config.drawn (s w).free + Config.powerMargin) ∧
    650 ≤ ((s 0).die 0).mhz ∧ ((s 0).die 0).mhz ≤ 1300 ∧ ¬ ∃ c ∈ [40, 41], 105 ≤ c :=
  ⟨Nat.zero_le _, Nat.not_succ_le_self _, by decide, by decide, by decide⟩

/-! ## The machine as a whole -/

theorem base_inv : base.Inv := ⟨by decide +kernel, rfl⟩

/-- A word of a program and an event that answer and write nothing of the driver's. -/
theorem witness_DriverState : (∃ t, exec (.monitorSample 0 [40] []) base = .next t) ∧
    ∃ t, exec (.add 0 8 12 20) (atWord 0x00020614) = .next t := ⟨⟨_, rfl⟩, ⟨_, rfl⟩⟩

/-- A state with the invariant, and its step. -/
theorem witness_StepKeepsInvariant : ∃ t, ({ base with turns := [.tick 2 5] } : State).Inv ∧
    step { base with turns := [.tick 2 5] } = .next t := ⟨_, ⟨by decide +kernel, rfl⟩, rfl⟩

def turn (s : State) (x : Turn) : State := { s with turns := [x] }
def issueAt (w : Word) : State := turn (atWord w) (.issue 4)
def firstPass : NKernel := { kern 0x100 3000 12 with passes := [{ pass0 [] 0 with pc := 0 }] }
def passAt : State :=
  turn { base with stackU := [(0, { running := some firstPass, table := [⟨1, 0x100, [0x60000000]⟩] })] } (.nbu 0 0)

theorem issueAt_is (w : Word) : (issueAt w).turns = [.issue 4] ∧ (issueAt w).gang 4 = some (gang0 w) ∧
    (gang0 w).wait = .none ∧ (gang0 w).rest = [w] ∧ (issueAt w).pkg.stopped = false := ⟨rfl, rfl, rfl, rfl, rfl⟩
theorem passAt_next : passAt.passNext 0 0 = some 0x60000000 := by decide +kernel
theorem word_add : decodeWord 0x00C20614 = .ok (.add 6 8 0xc 0x14) := rfl
theorem word_none : decodeOpcode 0x4FC00000 = none := by decide +kernel
theorem word_end : decodeNear 0x60000000 = some .nbEnd := rfl

/-- A turn of the gang at a word that decodes, and at one that has no opcode; one whose pipe is taken, and one behind a gang
that could issue; a pass at its first word; a line to invalidate; a clk of a die with no row failed. -/
theorem witness_StepRunsDecoded :
    ((issueAt 0x00C20614).turns = [.issue 4] ∧ (issueAt 0x00C20614).gang 4 = some (gang0 0x00C20614) ∧
      (gang0 0x00C20614).wait = .none ∧ (gang0 0x00C20614).rest = [0x00C20614] ∧ (issueAt 0x00C20614).pkg.stopped = false ∧
      (issueAt 0x00C20614).gangs.takeWhile (fun x => x.uid != 4) = [] ∧
      ((issueAt 0x00C20614).core 0).laneClk ≠ ((issueAt 0x00C20614).die 0).clk + 1) ∧
    decodeWord 0x00C20614 = .ok (.add 6 8 0xc 0x14) ∧
    (((issueAt 0x4FC00000).gang 4 = some (gang0 0x4FC00000)) ∧ decodeOpcode 0x4FC00000 = none ∧
      (({ issueAt 0x4FC00000 with turns := [], cur := 4 } : State).ctx).any (fun c => c.debugDue.isNone) = true) ∧
    (∀ x ∈ [(0, true), (1, false)], ({ issueAt 0x00C20614 with cores := [(0, { laneClk := x.1 })] } : State).pipeFree 0 0x00C20614 = x.2) ∧
    (passAt.turns = [.nbu 0 0] ∧ passAt.passNext 0 0 = some 0x60000000 ∧ decodeNear 0x60000000 = some .nbEnd) ∧
    ((2, 7) ∈ ({ turn base (.inval 2 7) with invals := [(1, 7), (2, 7)] } : State).invals) ∧
    (2 < (turn base (.tick 2 5)).dieU.length ∧ (∀ k ∈ [6, 7, 8], ((turn base (.tick 2 5)).stack k).failed = []) ∧
      ({ base with pkg := { stopped := true } } : State).pkg.stopped = true) :=
  ⟨⟨rfl, rfl, rfl, rfl, rfl, rfl, by decide +kernel⟩, word_add, ⟨rfl, word_none, by decide +kernel⟩, by decide +kernel,
    ⟨rfl, passAt_next, word_end⟩, by decide, ⟨by decide, by decide +kernel, rfl⟩⟩

/-- A gang that started earlier and could issue: its word is an unassigned one, which traps. -/
theorem witness_StepRunsDecoded_order :
    let s : State := { atWord 0x41010000 with gangs := [{ gang0 0x4FC00000 with uid := 3, lanes := 1 }, { gang0 0x41010000 with lanes := 2 }] }
    (∃ x ∈ s.gangs.takeWhile fun x => x.uid != 4, s.gangCore x = 0 ∧ couldIssue s x = true) ∧ s.gang 4 ≠ none := by
  decide +kernel

theorem well_add : WellFormed (.add 6 8 0xc 0x14) = true := rfl
theorem enc_add : encodeCore (.add 6 8 0xc 0x14) = some 0x00C20614 := rfl
theorem near_end : decodeNearWord 0x60000000 = some .nbEnd := rfl
theorem enc_end : encodeNear .nbEnd = some 0x60000000 := rfl

theorem witness_EncodeDecode :
    (WellFormed (.add 6 8 0xc 0x14) = true ∧ encodeCore (.add 6 8 0xc 0x14) = some 0x00C20614 ∧
      decodeWord 0x00C20614 = .ok (.add 6 8 0xc 0x14)) ∧
    WellFormed .nbEnd = true ∧ encodeNear .nbEnd = some 0x60000000 ∧ decodeNearWord 0x60000000 = some .nbEnd :=
  ⟨⟨well_add, enc_add, word_add⟩, rfl, enc_end, near_end⟩

end Sys2Proof.Tests
end

section
/-! SUPPORT. The words of 02_encoding.md: every instruction's word decodes to it and back (R27, R33–R35, R50, R408–R412),
predicates and guards (R30, R31, R38), float words and compares (R156–R168), the checks and words of accesses (R171–R182,
R189–R193), and traps (R50, R208–R214). -/

namespace Sys2Proof.WordProofs
open Sys2Proof Sys2Proof.Laws Sys2Proof.Machine

/-! ## Encoding: one statement for every instruction -/

/-- The decoder reads the word of every instruction as that instruction: the lemma of each constructor, in the order of
`Instr`. -/
theorem encoding_all (i : Instr) : Encoding.Statement i :=
  Instr.casesOn (motive := Encoding.Statement) i
    Encoding.add Encoding.sub Encoding.mul Encoding.mulhi Encoding.mulhn Encoding.and Encoding.or Encoding.xor
    Encoding.shl Encoding.shrn Encoding.shri Encoding.mini Encoding.maxi Encoding.minn Encoding.maxn Encoding.sel
    Encoding.fadd32 Encoding.fmul32 Encoding.ffma32 Encoding.fsub32 Encoding.fadd64 Encoding.fmul64 Encoding.ffma64
    Encoding.ffma2h Encoding.ld32 Encoding.ld64 Encoding.ld128 Encoding.st32 Encoding.st64 Encoding.st128
    Encoding.lds Encoding.sts Encoding.mov Encoding.not Encoding.neg Encoding.abs Encoding.popc Encoding.clz
    Encoding.ctz Encoding.brev Encoding.sext8 Encoding.sext16 Encoding.andn Encoding.orn Encoding.rotl Encoding.rotr
    Encoding.addsi Encoding.subsi Encoding.addsn Encoding.subsn Encoding.bfxn Encoding.bfxi Encoding.bfi
    Encoding.mov64 Encoding.neg64 Encoding.sext64 Encoding.add64 Encoding.sub64 Encoding.mul64 Encoding.shl64
    Encoding.shrn64 Encoding.shri64 Encoding.mini64 Encoding.maxi64 Encoding.minn64 Encoding.maxn64 Encoding.mulwi
    Encoding.mulwn Encoding.popc64 Encoding.clz64 Encoding.exit Encoding.brr Encoding.callr Encoding.meetr
    Encoding.fmin32 Encoding.fmax32 Encoding.fmin64 Encoding.fmax64 Encoding.fdiv32 Encoding.fdiv64 Encoding.fsqrt32
    Encoding.fsqrt64 Encoding.frsqrt32 Encoding.frsqrt64 Encoding.frcp32 Encoding.frcp64 Encoding.fexp2
    Encoding.flog2 Encoding.fneg32 Encoding.fabs32 Encoding.fneg64 Encoding.fabs64 Encoding.ffma2b Encoding.fclass32
    Encoding.fclass64 Encoding.fclass16 Encoding.cvt Encoding.ld8n Encoding.ld8i Encoding.ld16n Encoding.ld16i
    Encoding.st8 Encoding.st16 Encoding.lds8n Encoding.lds8i Encoding.lds16n Encoding.lds16i Encoding.sts8
    Encoding.sts16 Encoding.lds64 Encoding.lds128 Encoding.sts64 Encoding.sts128 Encoding.gredAdd Encoding.gredFadd32
    Encoding.gredMini Encoding.gredMaxi Encoding.gredMinn Encoding.gredMaxn Encoding.latomAdd Encoding.latomAnd
    Encoding.latomOr Encoding.latomXor Encoding.latomMini Encoding.latomMaxi Encoding.latomMinn Encoding.latomMaxn
    Encoding.latomSwap Encoding.latomCas Encoding.latomAdd64 Encoding.latomSwap64 Encoding.latomCas64
    Encoding.latomFadd32 Encoding.atomAdd Encoding.atomAnd Encoding.atomOr Encoding.atomXor Encoding.atomMini
    Encoding.atomMaxi Encoding.atomMinn Encoding.atomMaxn Encoding.atomSwap Encoding.atomCas Encoding.atomAdd64
    Encoding.atomSwap64 Encoding.atomCas64 Encoding.atomFadd32 Encoding.cmpI32 Encoding.cmpN32 Encoding.cmpI64
    Encoding.fcmpF32 Encoding.fcmpF64 Encoding.cmpiI32 Encoding.fcmpF16 Encoding.testb Encoding.movi Encoding.addi
    Encoding.andi Encoding.ori Encoding.xori Encoding.brl Encoding.meet Encoding.calll Encoding.ballot Encoding.vote
    Encoding.matchMembers Encoding.shflIdx Encoding.shflUp Encoding.shflDown Encoding.shflXor Encoding.reduceAdd
    Encoding.reduceMin Encoding.reduceMax Encoding.reduceAnd Encoding.reduceOr Encoding.reduceXor Encoding.scanAdd
    Encoding.scanMin Encoding.scanMax Encoding.uadd Encoding.usub Encoding.umul Encoding.umulhi Encoding.uand
    Encoding.uor Encoding.uxor Encoding.ushl Encoding.ushrn Encoding.ushri Encoding.umini Encoding.umaxi
    Encoding.usel Encoding.uadd64 Encoding.usub64 Encoding.ucmpI32 Encoding.ucmpN32 Encoding.ucmpI64 Encoding.uld32
    Encoding.uld64 Encoding.ust32 Encoding.ust64 Encoding.ulds Encoding.usts Encoding.usrd Encoding.uswr Encoding.bar
    Encoding.acquire Encoding.yield Encoding.mwait Encoding.trap Encoding.fenceNear Encoding.fenceFar
    Encoding.fenceAcq Encoding.fenceRel Encoding.fenceAr Encoding.fenceSc Encoding.rtt Encoding.lread Encoding.lwrite
    Encoding.pread Encoding.pwrite Encoding.mread Encoding.mwrite Encoding.barrd Encoding.barwr Encoding.swait
    Encoding.mquery Encoding.otake Encoding.owait Encoding.ostat Encoding.qpop Encoding.vwaitq Encoding.vstat
    Encoding.umovi Encoding.ului Encoding.uaddi Encoding.uandi Encoding.uori Encoding.ucmpi Encoding.clause
    Encoding.bra Encoding.call Encoding.brx Encoding.ret Encoding.cset Encoding.mma Encoding.mstat Encoding.munstat
    Encoding.mzero Encoding.scac Encoding.mtread Encoding.tcopy Encoding.tstore Encoding.tmcast Encoding.tnotice
    Encoding.sarm Encoding.tpref Encoding.launch Encoding.oload Encoding.obind Encoding.orun Encoding.ostep
    Encoding.odone Encoding.odense Encoding.ostop Encoding.vnew Encoding.vfree Encoding.vspawn Encoding.vsend
    Encoding.qpush Encoding.bsend Encoding.vgive Encoding.vborrow Encoding.nbSld Encoding.nbSst Encoding.nbKey
    Encoding.nbMask Encoding.nbCmp Encoding.nbWr Encoding.nbTagand Encoding.nbTagor Encoding.nbTagnot
    Encoding.nbTagsh Encoding.nbLoop Encoding.nbEnd Encoding.clauseFetch Encoding.issueChoice Encoding.gangPromotion
    Encoding.engineCommandAccept Encoding.trackedOpComplete Encoding.storeQueueLeave Encoding.spinDemotionEnd
    Encoding.spinDemotionTimeout Encoding.warpEnd Encoding.poisonTrap Encoding.debugConfigPost
    Encoding.collectionPost Encoding.convergenceTimeout Encoding.preemptionRequest Encoding.groupRestore
    Encoding.groupAdmit Encoding.admissionStarvation Encoding.launchForward Encoding.hostQueueDoorbell
    Encoding.stealRequest Encoding.stealReply Encoding.remainderReport Encoding.congestionSample
    Encoding.memoryRequest Encoding.pageServiceComplete Encoding.walkerFill Encoding.pageEntryChange
    Encoding.translationInvalidation Encoding.invalidationAck Encoding.bufferShootdown Encoding.agingVisit
    Encoding.pageEviction Encoding.pageMigration Encoding.migrationSwitch Encoding.scrub Encoding.rowCopyComplete
    Encoding.registerWrite Encoding.tileCommandStart Encoding.walkAheadFill Encoding.sectorDeliver
    Encoding.tmcastReady Encoding.tmcastSector Encoding.noticePostPlace Encoding.noticeMatch Encoding.noticeAck
    Encoding.matrixPassGrant Encoding.matrixRowResult Encoding.macroMark Encoding.macroUnmark
    Encoding.orreryCombinationDone Encoding.callHandoff Encoding.lumenReturn Encoding.purseDraw Encoding.purseRecall
    Encoding.vsendMessage Encoding.binTimer Encoding.kick Encoding.nbuKernelStart Encoding.nbuPassEnd
    Encoding.listRefresh Encoding.nbuInstall Encoding.contextDestroy Encoding.hostWrite Encoding.atsInvalidation
    Encoding.pageRequestResponse Encoding.remoteAccess Encoding.podBarrierArrival Encoding.podBarrierAdvance
    Encoding.meridianPortFailure Encoding.checkpoint Encoding.checkpointRestore Encoding.featureWordWrite
    Encoding.boot Encoding.attestationRequest Encoding.monitorSample Encoding.powerLimitWrite Encoding.powerClockStep
    Encoding.thermalThrottle Encoding.thermalShutdown Encoding.hostEndGroup Encoding.hostAtomicop
    Encoding.evictionComplete Encoding.matrixEntryComplete

theorem decodeOpcode_encode {i : Instr} {w : Word} (h : encodeCore i = some w) : decodeOpcode w = some i :=
  (encoding_all i).1 w h

theorem decodeNear_encode {i : Instr} {w : Word} (h : encodeNear i = some w) : decodeNear w = some i :=
  (encoding_all i).2 w h

/-! ## Well-formed words -/

/-- A core word meets the rules of near-bank words, which say nothing of it. -/
theorem nearOk_of_core {i : Instr} {w : Word} (h : encodeCore i = some w) : nearOk i = true := by
  unfold nearOk
  split
  case h_7 => rfl
  all_goals exact nomatch h

/-- A near-bank word meets the rules of core words, which say nothing of it. -/
theorem coreRules_of_near {i : Instr} {w : Word} (h : encodeNear i = some w) :
    subfieldOk i = true ∧ reservedOk i = true ∧ regsOk i = true ∧ predsOk i = true := by
  cases i
  case nbSld | nbSst | nbKey | nbMask | nbCmp | nbWr | nbTagand | nbTagor | nbTagnot | nbTagsh | nbLoop | nbEnd =>
    exact ⟨rfl, rfl, rfl, rfl⟩
  all_goals exact nomatch h

theorem wellFormed_iff (i : Instr) : WellFormed i = true ↔
    subfieldOk i = true ∧ reservedOk i = true ∧ regsOk i = true ∧ predsOk i = true ∧ nearOk i = true := by
  simp only [WellFormed, Bool.and_eq_true, and_assoc]

/-- A well-formed instruction's word decodes to it. -/
theorem decodeWord_encode {i : Instr} {w : Word} (hi : WellFormed i = true) (h : encodeCore i = some w) :
    decodeWord w = .ok i := by
  obtain ⟨hs, hr, hg, hp, -⟩ := (wellFormed_iff i).1 hi
  simp [decodeWord, decodeOpcode_encode h, hs, h, hr, hg, hp]

theorem decodeNearWord_encode {i : Instr} {w : Word} (hi : WellFormed i = true) (h : encodeNear i = some w) :
    decodeNearWord w = some i := by
  obtain ⟨-, -, -, -, hn⟩ := (wellFormed_iff i).1 hi
  simp [decodeNearWord, decodeNear_encode h, h, hn]

/-- What the core's decoder reads has passed its checks in the order of R50, the word being its encoding. -/
theorem encode_decodeWord {i : Instr} {w : Word} (h : decodeWord w = .ok i) :
    WellFormed i = true ∧ encodeCore i = some w := by
  unfold decodeWord at h
  split at h
  · cases h
  split at h
  · cases h
  split at h
  · cases h
  split at h
  · cases h
  split at h
  · cases h
  rename_i hs he hr hp
  cases h
  obtain ⟨henc, hres⟩ : encodeCore i = some w ∧ reservedOk i = true := by simpa using he
  exact ⟨(wellFormed_iff i).2 ⟨by simpa using hs, hres, by simpa using hr, by simpa using hp, nearOk_of_core henc⟩, henc⟩

/-- What the Lamplighter accepts is well-formed, the word being its encoding. -/
theorem encode_decodeNearWord {i : Instr} {w : Word} (h : decodeNearWord w = some i) :
    WellFormed i = true ∧ encodeNear i = some w := by
  unfold decodeNearWord at h
  split at h
  · cases h
  split at h
  · rename_i hok
    cases h
    obtain ⟨he, hn⟩ : encodeNear i = some w ∧ nearOk i = true := by simpa using hok
    obtain ⟨hs, hr, hg, hp⟩ := coreRules_of_near he
    exact ⟨(wellFormed_iff i).2 ⟨hs, hr, hg, hp, hn⟩, he⟩
  · cases h

/-! ## Bytes (R27) -/

/-- The four bytes of a word, highest first, are the word. -/
theorem word_of_bytes (w : Word) :
    w.extractLsb' 24 8 ++ w.extractLsb' 16 8 ++ w.extractLsb' 8 8 ++ w.extractLsb' 0 8 = w := by
  apply BitVec.eq_of_toNat_eq
  have := w.isLt
  simp only [append_toNat, BitVec.extractLsb'_toNat, Nat.shiftRight_eq_div_pow]
  omega

theorem decode_bytes {i : Instr} {w : Word} (rest : List Byte) (h : decodeWord w = .ok i) :
    decode (w.extractLsb' 0 8 :: w.extractLsb' 8 8 :: w.extractLsb' 16 8 :: w.extractLsb' 24 8 :: rest) = .ok (i, rest) := by
  simp only [decode, word_of_bytes, h]

/-- Settles O58: every instruction's word is read as that instruction, and each check of the decoder is a rule of
well-formedness. -/
theorem encodeDecode : Obligations.EncodeDecode :=
  ⟨fun _ _ rest hi h => decode_bytes rest (decodeWord_encode hi h), fun _ _ => decodeNearWord_encode,
    fun _ _ => encode_decodeWord, fun _ _ => encode_decodeNearWord⟩

/-! ## Words of the manual's tables -/

/-- Settles O59: each instruction is well-formed and the word beside it is its encoding. -/
theorem decodedWords : Obligations.DecodedWords := by
  refine ⟨fun x hx => ?_, fun x hx => ?_⟩
  · obtain ⟨hwell, henc⟩ : WellFormed x.2 = true ∧ encodeCore x.2 = some x.1 := by revert x; decide
    exact decodeWord_encode hwell henc
  · obtain ⟨hwell, henc⟩ : WellFormed x.2 = true ∧ encodeNear x.2 = some x.1 := by revert x; decide
    exact decodeNearWord_encode hwell henc

/-! ## Bits, masks and lanes -/

/-- The bits of a word with one bit set. -/
theorem getLsbD_one_shiftLeft (w n m : Nat) : (1#w <<< n).getLsbD m = (decide (n < w) && decide (n = m)) := by
  rw [← BitVec.twoPow_eq, BitVec.getLsbD_twoPow]

/-- One bit of a register written, whatever its width. -/
theorem getLsbD_putBit {w : Nat} (p : BitVec w) (n m : Nat) (b : Bool) (hn : n < w) :
    ((p &&& ~~~(1#w <<< n)) ||| (if b then 1#w <<< n else 0#w)).getLsbD m = if m = n then b else p.getLsbD m := by
  have hbit : (1#w <<< n).getLsbD m = decide (m = n) := by
    rw [getLsbD_one_shiftLeft, decide_eq_true hn, Bool.true_and]
    exact decide_eq_decide.2 eq_comm
  have hset : (if b then 1#w <<< n else 0#w).getLsbD m = (b && decide (m = n)) := by
    cases b
    · exact BitVec.getLsbD_zero
    · exact hbit.trans (Bool.true_and _).symm
  rw [BitVec.getLsbD_or, BitVec.getLsbD_and, BitVec.getLsbD_not, hbit, hset]
  by_cases hm : m = n
  · simp [hm]
  · by_cases hw : m < w
    · simp [hm, hw]
    · simp [hm, BitVec.getLsbD_of_ge p m (Nat.le_of_not_lt hw)]

/-- No lane below the first is in the mask. -/
theorem getLsbD_maskFrom_below (f : Nat → Lane → Bool) (k l : Nat) (lanes : List Lane) (hk : l < k) :
    (maskFrom f k lanes).getLsbD l = false := by
  induction lanes generalizing k with
  | nil => simp [maskFrom]
  | cons ln t ih =>
    rw [maskFrom, BitVec.getLsbD_or, ih (k + 1) (by omega)]
    split <;> simp [hk]

/-- A bit of the mask of lanes that meet a condition. -/
theorem getLsbD_maskFrom (f : Nat → Lane → Bool) (k l : Nat) (lanes : List Lane) (hl : l < 64) (hk : k ≤ l) :
    (maskFrom f k lanes).getLsbD l = (lanes[l - k]?).any (f l) := by
  induction lanes generalizing k with
  | nil => simp [maskFrom]
  | cons ln t ih =>
    have hbit : (1#64 <<< k).getLsbD l = decide (k = l) := by
      rw [getLsbD_one_shiftLeft, decide_eq_true (by omega), Bool.true_and]
    rw [maskFrom, BitVec.getLsbD_or]
    by_cases he : l = k
    · subst he
      have hrest : (maskFrom f (l + 1) t).getLsbD l = false := getLsbD_maskFrom_below f (l + 1) l t (by omega)
      rw [hrest, Nat.sub_self, List.getElem?_cons_zero]
      cases hf : f l ln <;> simp [hf, hbit]
    · rw [ih (k + 1) (by omega), show l - k = l - (k + 1) + 1 by omega, List.getElem?_cons_succ]
      split <;> simp [hbit, Ne.symm he]

theorem inMask_lanesWhere {w : Warp} {l : Nat} {ln : Lane} (f : Nat → Lane → Bool) (h : w.lanes[l]? = some ln) (hl : l < 64) :
    inMask (w.lanesWhere f) l = f l ln := by
  rw [inMask, Warp.lanesWhere, getLsbD_maskFrom f 0 l w.lanes hl (Nat.zero_le l), Nat.sub_zero, h, Option.any_some]

/-- A bit of the mask of a list of lanes. -/
theorem inMask_maskOf {ls : List Nat} {l : Nat} (hl : l < 64) : inMask (maskOf ls) l = true ↔ l ∈ ls := by
  have hbit : ∀ i : Nat, (1#64 <<< i).getLsbD l = decide (i = l) := fun i => by
    rw [getLsbD_one_shiftLeft, Bool.eq_iff_iff]
    simp only [Bool.and_eq_true, decide_eq_true_eq]
    omega
  have hfold : ∀ (ls : List Nat) (m : Dword),
      (ls.foldl (fun m i => m ||| (1#64 <<< i)) m).getLsbD l = true ↔ m.getLsbD l = true ∨ l ∈ ls := by
    intro ls
    induction ls with
    | nil => simp
    | cons i t ih =>
      intro m
      rw [List.foldl_cons, ih, BitVec.getLsbD_or, hbit, Bool.or_eq_true, decide_eq_true_eq, List.mem_cons, or_assoc,
        @eq_comm _ i l]
  rw [inMask, maskOf, hfold]
  simp

theorem getElem?_mapLanes (w : Warp) (m : Dword) (f : Nat → Lane → Lane) (l : Nat) :
    (w.mapLanes m f).lanes[l]? = w.lanes[l]?.map fun ln => if inMask m l then f l ln else ln := by
  rw [Warp.mapLanes, getElem?_mapFrom, Nat.zero_add]

/-- Changed lanes of a mask, lane by lane. -/
theorem mapLanes_lane {w : Warp} {l : Nat} {ln : Lane} (m : Dword) (f : Lane → Lane) (h : w.lanes[l]? = some ln) :
    (w.mapLanes m fun _ => f).lanes[l]? = some (if inMask m l then f ln else ln) := by
  rw [getElem?_mapLanes, h, Option.map_some]

/-! ## Predicates (R30) -/

theorem predBit_zero (p : BitVec 8) : predBit p 0 = true := rfl

theorem setPred_zero (p : BitVec 8) (b : Bool) : setPred p 0 b = p := rfl

/-- A predicate read after a write: p0 stays true, the others hold what was written. -/
theorem predBit_setPred (p : BitVec 8) (n m : Nat) (b : Bool) (hn : n < 8) :
    predBit (setPred p n b) m = if m = n then n == 0 || b else predBit p m := by
  unfold setPred
  by_cases h0 : n = 0
  · subst h0
    by_cases hm : m = 0 <;> simp [hm, predBit]
  · rw [if_neg h0, predBit, getLsbD_putBit p n m b hn]
    by_cases hm : m = n
    · simp [hm]
    · simp [hm, predBit]

/-- A uniform predicate read after a write. -/
theorem kBit_setK (k : BitVec 4) (n m : Nat) (b : Bool) (hn : n < 4) :
    kBit (setK k n b) m = if m = n then n == 0 || b else kBit k m := by
  unfold setK
  by_cases h0 : n = 0
  · subst h0
    by_cases hm : m = 0 <;> simp [hm, kBit]
  · rw [if_neg h0, kBit, getLsbD_putBit k n m b hn]
    by_cases hm : m = n
    · simp [hm]
    · simp [hm, kBit]

/-- Settles O4: p0 and k0 by definition, the other predicates by the bit that a write changes. -/
theorem zeroPredicates : Obligations.ZeroPredicates := by
  refine ⟨predBit_zero, setPred_zero, fun p n m b h0 hn _ => ?_, fun _ => rfl, fun _ _ => rfl, fun k n m b h0 hn _ => ?_⟩
  · rw [predBit_setPred p n m b hn, beq_false_of_ne (Nat.ne_of_gt h0), Bool.false_or]
  · rw [kBit_setK k n m b hn, beq_false_of_ne (Nat.ne_of_gt h0), Bool.false_or]

/-! ## Compares (R38) -/

/-- The new value of pd1 by combining type. -/
theorem ctypeVals_fst (t : BitVec 3) (c u old : Bool) : (ctypeVals t c u old).1 = match t.toNat with
    | 0 => c
    | 1 => c && !u
    | 2 => old && c
    | 3 => old || c
    | 4 => old && !c
    | 5 => old || !c
    | 6 => c
    | _ => old != c := by
  revert t c u old; decide

/-- The new value of pd2 by combining type: the complement of q1 for those that use it. -/
theorem ctypeVals_snd (t : BitVec 3) (c u old z : Bool) :
    ((ctypeVals t c u old).2 && !(usesQ1 t && z)) = match t.toNat with
    | 0 => !c
    | 1 => !c && !u
    | 6 => old
    | _ => !(z || (ctypeVals t c u old).1) := by
  revert t c u old z; decide

/-- Each predicate after a compare with two destinations. -/
theorem predBit_comparePreds {t x y : BitVec 3} (c u : Bool) (p : BitVec 8) (h : x ≠ y) (n : Nat) :
    predBit (comparePreds t x y c u p) n =
      if n = x.toNat then x == 0 || (ctypeVals t c u (predBit p x.toNat)).1
      else if n = y.toNat then
        y == 0 || ((ctypeVals t c u (predBit p x.toNat)).2 && !(usesQ1 t && x == 0))
      else predBit p n := by
  have hne : x.toNat ≠ y.toNat := fun e => h (BitVec.eq_of_toNat_eq e)
  have hz : ∀ a : BitVec 3, (a.toNat == 0) = (a == 0) := by decide
  simp only [comparePreds, predBit_setPred _ _ _ _ x.isLt, predBit_setPred _ _ _ _ y.isLt, hz]
  by_cases hx : n = x.toNat
  · simp [hx, hne]
  · by_cases hy : n = y.toNat <;> simp [hx, hy, hne.symm]

/-- The sub-fields of a word at issue are assigned: the first check of R50. -/
theorem subfieldOk_of_issues {s : State} {c : Ctx} {i : Instr} (h : Issues s c i) : subfieldOk i = true := by
  have hsound := h.sound
  unfold issueFault at hsound
  cases hsub : subfieldOk i with
  | true => rfl
  | false =>
    rw [if_pos (Or.inl hsub)] at hsound
    cases hsound

/-- Settles O3: each compare of the table writes through `comparePreds`, whose two values are read off by type. -/
theorem compareWords : Obligations.CompareWords := by
  refine ⟨fun s c i f hf hi => ?_, fun t x y c u p hxy => ?_⟩
  · exact compare_completes f.ctype f.pd1 f.pd2 hi (compares_exec s hf (subfieldOk_of_issues hi))
  · have hne : y.toNat ≠ x.toNat := fun e => hxy (BitVec.eq_of_toNat_eq e).symm
    have hq1 := predBit_comparePreds (t := t) c u p hxy x.toNat
    rw [if_pos rfl] at hq1
    have hq2 := predBit_comparePreds (t := t) c u p hxy y.toNat
    rw [if_neg hne, if_pos rfl, ctypeVals_snd, ← hq1] at hq2
    refine ⟨fun hx => ?_, fun hx => ?_, fun hy => ?_, fun n hnx hny => ?_⟩
    · rw [hq1, hx]; rfl
    · rw [beq_false_of_ne hx, Bool.false_or, ctypeVals_fst] at hq1
      exact hq1
    · rw [beq_false_of_ne hy, Bool.false_or] at hq2
      exact hq2
    · rw [predBit_comparePreds c u p hxy, if_neg hnx, if_neg hny]

/-! ## Guarded lanes (R31) -/

/-- A lane guard, by the number that its field is. -/
theorem guardLane_iff (g : BitVec 4) (ln : Lane) :
    guardLane g ln = true ↔ predBit ln.preds (g.toNat / 2) = decide (g.toNat % 2 = 0) := by
  have h1 : ∀ g : BitVec 4, (g.extractLsb' 1 3).toNat = g.toNat / 2 := by decide
  have h2 : ∀ g : BitVec 4, g.getLsbD 0 = !decide (g.toNat % 2 = 0) := by decide
  rw [guardLane, h1, h2]
  cases predBit ln.preds (g.toNat / 2) <;> cases decide (g.toNat % 2 = 0) <;> decide

theorem inMask_guarded {c : Ctx} {l : Nat} {ln : Lane} (g : BitVec 4) (h : c.w.lanes[l]? = some ln) (hl : l < 64) :
    inMask (c.guarded g) l = true ↔
      inMask c.g.lanes l = true ∧ predBit ln.preds (g.toNat / 2) = decide (g.toNat % 2 = 0) := by
  rw [Ctx.guarded, inMask_lanesWhere _ h hl, Bool.and_eq_true, guardLane_iff]

/-- Settles O5: the guarded lanes are those of the gang whose guard predicate is true, and only they change. -/
theorem guardedLanes : Obligations.GuardedLanes := by
  intro c g f l ln h hl
  rw [Ctx.mapGuarded, getElem?_mapLanes, h, Option.map_some]
  simp only [inMask_guarded g h hl]

/-! ## Float words (R156–R168) -/

theorem conversions_eq (p : BitVec 5) : conversions[p.toNat]? = some (cvtKinds p.toNat) := by
  revert p; decide

theorem cvtDstPair_eq (p : BitVec 5) : cvtDstPair p.toNat = (cvtKinds p.toNat).1.wide := by
  revert p; decide

theorem cvtSrcPair_eq (p : BitVec 5) : cvtSrcPair p.toNat = (cvtKinds p.toNat).2.wide := by
  revert p; decide

theorem kindBits_eq (k : Kind) : kindBits k = k.bits := by cases k <;> rfl

/-- The value of a conversion word is the conversion of the table's source format to its target format. -/
theorem cvtValue_eq (p : BitVec 5) (t : BitVec 1) (r : BitVec 2) (a : BitVec 7) (rd : Rd) :
    cvtValue p.toNat t.toNat r.toNat (if cvtSrcPair p.toNat then rd.f64 a else rd.f32 a) =
      convertBits (cvtKinds p.toNat).1 (cvtKinds p.toNat).2 t r (rd.bits (cvtKinds p.toNat).2 a) := by
  have ht : ∀ t : BitVec 1, decide (t.toNat = 1) = decide (t = 1) := by decide
  simp only [cvtValue, convertBits, Rd.bits, kindBits_eq, cvtSrcPair_eq, ht]

/-- CVT writes the converted value, a pair where the target format takes one. -/
theorem cvt_completes {s : State} {c : Ctx} {p : BitVec 5} {t : BitVec 1} {r : BitVec 2} {g : BitVec 4} {d a : BitVec 7}
    {dst src : Kind} (hk : conversions[p.toNat]? = some (dst, src)) (h : Issues s c (.cvt p t r g d a)) :
    Completes s c (.cvt p t r g d a)
      (if dst.wide then s.putPairs c g d fun x => dword (convertBits dst src t r (x.bits src a))
       else s.putLanes c g d fun x => word (convertBits dst src t r (x.bits src a))) := by
  have hkinds : cvtKinds p.toNat = (dst, src) := Option.some.inj ((conversions_eq p).symm.trans hk)
  refine h.completes (eff := fun c s => .go (s.setWarp (c.mapGuarded g fun rd ln =>
    let y := cvtValue p.toNat t.toNat r.toNat (if cvtSrcPair p.toNat then rd.f64 a else rd.f32 a)
    if cvtDstPair p.toNat then ln.putPair d.toNat (w64 y) else ln.put d.toNat (w32 y))) []) rfl ?_
  simp only [cvtValue_eq, cvtDstPair_eq, hkinds]
  split <;> rfl

/-- Settles O2: each word of the float tables is the shape of word its table says. -/
theorem floatWords : Obligations.FloatWords :=
  ⟨fun s _ _ f hf h => lane32_completes f.guard f.dest h (fp32_exec s hf),
    fun s _ _ f hf h => lane64_completes f.guard f.dest h (fp64_exec s hf),
    fun s _ _ _ _ hf h => ⟨tracked_go h (fpTracked_exec s hf), tracked_none h (fpTracked_exec s hf)⟩,
    fun _ _ _ _ _ _ _ _ _ _ hk h => cvt_completes hk h⟩

/-! ## The rows of R172 -/

section Rows
variable (s : State) (grp : Group) (sp : Space) (need : AccNeed) (n : Nat)

/-- The entry lacks the right that an access needs. -/
def Lacks (need : AccNeed) (e : BufEntry) : Prop :=
  match need with
  | .load => e.rights.getLsbD 0 = false
  | .store => e.rights.getLsbD 1 = false
  | .atomic => e.rights.getLsbD 2 = false
  | .gred => ¬ (e.rights.getLsbD 0 = true ∧ e.rights.getLsbD 4 = true ∧ e.ilv = 4)

theorem lacks_iff (e : BufEntry) : Lacks need e ↔ hasRight e need.right = false := by
  cases need
  case gred => simp only [Lacks, AccNeed.right, hasRight, ← Bool.not_eq_true, Bool.and_eq_true, beq_iff_eq, and_assoc]
  all_goals exact Iff.rfl

theorem checkMeets_align (a : Dword) : checkMeets s grp sp need n a 1 = true ↔
    (sp = .lantern ∨ need = .atomic ∨ need = .gred) ∧ a.toNat % n ≠ 0 := by
  cases sp <;> simp [checkMeets]

/-- An access out of bounds: past the allocation, or past or outside every valid buffer. -/
theorem checkMeets_bounds (a : Dword) : checkMeets s grp sp need n a 2 = true ↔
    (sp = .lantern ∧ grp.desc.lbytes < a.toNat + n) ∨ (sp = .mem ∧ s.isKick grp.ctx a = false ∧
      (refBuf a = 0 ∨ s.buf grp.ctx (refBuf a) = none ∨
        ∃ e, s.buf grp.ctx (refBuf a) = some e ∧ e.size < refOff a + n)) := by
  cases sp
  case lantern => simp [checkMeets]
  case mem =>
    have h0 : refBuf a = 0 → s.buf grp.ctx (refBuf a) = none := fun h => by rw [State.buf, if_pos h]
    cases hb : s.buf grp.ctx (refBuf a) with
    | none => simp [checkMeets, hb]
    | some e =>
      have hne : refBuf a ≠ 0 := fun h => by rw [h0 h] at hb; cases hb
      simp [checkMeets, hb, hne]

theorem checkMeets_rights (a : Dword) : checkMeets s grp sp need n a 3 = true ↔
    sp = .mem ∧ s.isKick grp.ctx a = false ∧
      ∃ e, s.buf grp.ctx (refBuf a) = some e ∧ (e.ctx ≠ grp.ctx ∨ Lacks need e) := by
  cases sp
  case lantern => simp [checkMeets]
  case mem => cases hb : s.buf grp.ctx (refBuf a) <;> simp [checkMeets, hb, lacks_iff]

theorem checkMeets_stationary (a : Dword) : checkMeets s grp sp need n a 4 = true ↔
    sp = .lantern ∧ need ≠ .load ∧ (s.quad grp.quad).stationary (grp.lbase + a.toNat) n = true := by
  cases sp <;> simp [checkMeets]

/-! ## The trap of a row -/

theorem mem_rows {row : Nat} : row ∈ [1, 2, 3, 4] ↔ 1 ≤ row ∧ row ≤ 4 := by
  simp only [List.mem_cons, List.not_mem_nil, or_false]
  omega

/-- The trap of one row of R172: the lanes that meet it and the address of the first of them. -/
def rowTrap (as : List (Nat × Dword)) (row : Nat) : Option TrapSpec :=
  match as.filter fun x => checkMeets s grp sp need n x.2 row with
  | [] => none
  | x :: t => some { cause := row + 1, lanes := maskOf ((x :: t).map (·.1)), addr := x.2 }

/-- The check takes the rows in order. -/
theorem checkLanes_eq (as : List (Nat × Dword)) : checkLanes s grp sp need n as =
    (rowTrap s grp sp need n as 1).or ((rowTrap s grp sp need n as 2).or
      ((rowTrap s grp sp need n as 3).or (rowTrap s grp sp need n as 4))) := rfl

theorem rowTrap_none_iff (as : List (Nat × Dword)) (row : Nat) : rowTrap s grp sp need n as row = none ↔
    ∀ x ∈ as, checkMeets s grp sp need n x.2 row = false := by
  unfold rowTrap
  cases hf : as.filter fun x => checkMeets s grp sp need n x.2 row with
  | nil => simpa [List.filter_eq_nil_iff] using hf
  | cons x t =>
    have hx := List.mem_filter.1 (hf ▸ List.mem_cons_self .. : x ∈ as.filter _)
    refine iff_of_false nofun fun hnone => ?_
    rw [hnone x hx.1] at hx
    exact nomatch hx.2

variable {s grp sp need n}

/-- A row's trap names an address of the access. -/
theorem rowTrap_addr {as : List (Nat × Dword)} {row : Nat} {t : TrapSpec} (h : rowTrap s grp sp need n as row = some t) :
    ∃ x ∈ as, t.addr = x.2 := by
  unfold rowTrap at h
  cases hf : as.filter fun x => checkMeets s grp sp need n x.2 row with
  | nil => rw [hf] at h; cases h
  | cons x l =>
    rw [hf] at h
    cases h
    exact ⟨x, (List.mem_filter.1 (hf ▸ List.mem_cons_self .. : x ∈ as.filter _)).1, rfl⟩

/-- The trap of the check names an address of the access. -/
theorem checkLanes_addr {as : List (Nat × Dword)} {t : TrapSpec} (h : checkLanes s grp sp need n as = some t) :
    ∃ x ∈ as, t.addr = x.2 := by
  simp only [checkLanes_eq, Option.or_eq_some_iff] at h
  rcases h with h | ⟨-, h | ⟨-, h | ⟨-, h⟩⟩⟩ <;> exact rowTrap_addr h

/-- The trap of a row is at the first lane that meets it, with every lane that meets it. -/
theorem rowTrap_first {before after : List (Nat × Dword)} {y : Nat × Dword} {row : Nat}
    (hy : checkMeets s grp sp need n y.2 row = true)
    (hb : ∀ x ∈ before, checkMeets s grp sp need n x.2 row = false) :
    ∃ t, rowTrap s grp sp need n (before ++ y :: after) row = some t ∧ t.cause = row + 1 ∧ t.addr = y.2 ∧
      ∀ l, l < 64 → (inMask t.lanes l = true ↔
        ∃ x ∈ before ++ y :: after, x.1 = l ∧ checkMeets s grp sp need n x.2 row = true) := by
  have hnil : before.filter (fun x => checkMeets s grp sp need n x.2 row) = [] :=
    List.filter_eq_nil_iff.2 fun x hx => by simp [hb x hx]
  have hf : (before ++ y :: after).filter (fun x => checkMeets s grp sp need n x.2 row) =
      y :: after.filter (fun x => checkMeets s grp sp need n x.2 row) := by
    rw [List.filter_append, hnil, List.nil_append]
    exact List.filter_cons_of_pos hy
  refine ⟨_, by rw [rowTrap, hf], rfl, rfl, fun l hl => ?_⟩
  rw [inMask_maskOf hl, ← hf, List.mem_map]
  simp only [List.mem_filter]
  exact ⟨fun ⟨x, ⟨hx, hm⟩, he⟩ => ⟨x, hx, he, hm⟩, fun ⟨x, hx, he, hm⟩ => ⟨x, ⟨hx, hm⟩, he⟩⟩

/-- The check finds nothing when no lane meets a row. -/
theorem checkLanes_none_iff {as : List (Nat × Dword)} : checkLanes s grp sp need n as = none ↔
    ∀ x ∈ as, ∀ row ∈ [1, 2, 3, 4], checkMeets s grp sp need n x.2 row = false := by
  simp only [checkLanes_eq, Option.or_eq_none_iff, rowTrap_none_iff, List.forall_mem_cons, List.not_mem_nil,
    false_imp_iff, implies_true, and_true, imp_and, forall_and]

/-- The check gives the trap of the first row that any lane meets. -/
theorem checkLanes_row {as : List (Nat × Dword)} {row : Nat} {t : TrapSpec} (hr : row ∈ [1, 2, 3, 4])
    (ht : rowTrap s grp sp need n as row = some t)
    (hbefore : ∀ x ∈ as, ∀ r, 1 ≤ r → r < row → checkMeets s grp sp need n x.2 r = false) :
    checkLanes s grp sp need n as = some t := by
  have hnone : ∀ r, 1 ≤ r → r < row → rowTrap s grp sp need n as r = none := fun r h1 h2 =>
    (rowTrap_none_iff s grp sp need n as r).2 fun x hx => hbefore x hx r h1 h2
  rw [checkLanes_eq]
  simp only [List.mem_cons, List.not_mem_nil, or_false] at hr
  rcases hr with rfl | rfl | rfl | rfl
  · rw [ht, Option.some_or]
  · rw [hnone 1 (by omega) (by omega), Option.none_or, ht, Option.some_or]
  · rw [hnone 1 (by omega) (by omega), hnone 2 (by omega) (by omega), Option.none_or, Option.none_or, ht, Option.some_or]
  · rw [hnone 1 (by omega) (by omega), hnone 2 (by omega) (by omega), hnone 3 (by omega) (by omega), Option.none_or,
      Option.none_or, Option.none_or, ht]

end Rows

/-! ## Loads and stores (R174–R176) -/

/-- Settles O8: the rows of R172 are those of `checkMeets`, and each word of the tables is a load or store of its shape. -/
theorem laneAccesses : Obligations.LaneAccesses := by
  refine ⟨fun s grp sp need n as => ?_, fun s c i f hf h => ?_, fun s c i f hf h => ?_⟩
  · intro entry lacks meets
    have hmeets : ∀ row ∈ [1, 2, 3, 4], ∀ a, meets row a ↔ checkMeets s grp sp need n a row = true := by
      simp only [List.forall_mem_cons, List.not_mem_nil, false_imp_iff, implies_true, and_true]
      exact ⟨fun a => (checkMeets_align s grp sp need n a).symm, fun a => (checkMeets_bounds s grp sp need n a).symm,
        fun a => (checkMeets_rights s grp sp need n a).symm, fun a => (checkMeets_stationary s grp sp need n a).symm⟩
    have hnot : ∀ row ∈ [1, 2, 3, 4], ∀ a, ¬ meets row a ↔ checkMeets s grp sp need n a row = false :=
      fun row hr a => by rw [hmeets row hr a, Bool.not_eq_true]
    constructor
    · rw [checkLanes_none_iff]
      exact forall₄_congr fun x _ row hr => (hnot row hr x.2).symm
    · rintro row hr before y after rfl hy hb hlow
      obtain ⟨t, ht, hcause, haddr, hlanes⟩ := rowTrap_first (after := after) ((hmeets row hr y.2).1 hy)
        fun x hx => (hnot row hr x.2).1 (hb x hx)
      have hlower : ∀ r, 1 ≤ r → r < row → r ∈ [1, 2, 3, 4] := fun r h1 h2 =>
        mem_rows.2 ⟨h1, Nat.le_of_lt (Nat.lt_of_lt_of_le h2 (mem_rows.1 hr).2)⟩
      refine ⟨t, checkLanes_row hr ht fun x hx r h1 h2 => (hnot r (hlower r h1 h2) x.2).1 (hlow x hx r h1 h2), hcause,
        haddr, fun l hl => ?_⟩
      rw [hlanes l hl]
      simp only [hmeets row hr]
  · have he := loads_exec s hf
    exact ⟨fun t ht => load_trap h he ht, fun ht hg => load_none h he ht hg, fun ht hg => load_acc h he ht hg⟩
  · have he := stores_exec s hf
    exact ⟨fun t ht => store_trap h he ht, fun ht hg => store_none h he ht hg, fun ht hg hq => store_full h he ht hg hq,
      fun ht hg hq => store_acc h he ht hg hq (stores_bytes hf)⟩

/-! ## Atomics (R180) -/

theorem setWidth_dword (x : Word) : (dword x.toNat).setWidth 32 = x := by
  rw [dword_zext]
  exact BitVec.setWidth_setWidth_of_le x (by decide) |>.trans (BitVec.setWidth_eq x)

/-- The new value of a 32-bit atomic whose operation gives y. -/
theorem some_dword {x y : Word} (h : x = y) : some (x.setWidth 64) = some (dword y.toNat) := by
  rw [h, dword_zext]

theorem atomNew_word (x a : Word) (b : Dword) :
    let new (op : Nat) := atomNew op (dword x.toNat) (dword a.toNat) b
    let is (y : Word) : Option Dword := some (dword y.toNat)
    new 0 = is (word (x.toNat + a.toNat)) ∧
    new 1 = is (wordBits fun j => x.getLsbD j && a.getLsbD j) ∧
    new 2 = is (wordBits fun j => x.getLsbD j || a.getLsbD j) ∧
    new 3 = is (wordBits fun j => x.getLsbD j != a.getLsbD j) ∧
    new 4 = is (wordI (min x.toInt a.toInt)) ∧ new 5 = is (wordI (max x.toInt a.toInt)) ∧
    new 6 = is (word (min x.toNat a.toNat)) ∧ new 7 = is (word (max x.toNat a.toNat)) ∧
    new 8 = is a ∧ (new 13 = is (word (fadd .f32 x.toNat a.toNat))) := by
  intro new is
  simp only [new, is, atomNew, setWidth_dword]
  refine ⟨some_dword (word_add x a).symm, some_dword (eq_wordBits fun j _ => (BitVec.getLsbD_and ..).symm),
    some_dword (eq_wordBits fun j _ => (BitVec.getLsbD_or ..).symm),
    some_dword (eq_wordBits fun j _ => ?_), some_dword (mini_eq x a).symm,
    some_dword (maxi_eq x a).symm, some_dword (minn_eq x a).symm, some_dword (maxn_eq x a).symm, some_dword rfl,
    some_dword rfl⟩
  rw [BitVec.getLsbD_xor]

/-- Settles O9: each atomic of the table is one of the atomic shape, with the operands and values of R180. -/
theorem laneAtomics : Obligations.LaneAtomics := by
  refine ⟨fun s c i f hf h => ?_, atomNew_word, fun x a b => ?_, fun x a b => ⟨?_, rfl, rfl⟩⟩
  · have he := atomics_exec s hf
    simp only [atom_bytes, atom_addr, atom_operands]
    exact ⟨fun t ht => atomic_trap h he ht, fun ht hg => atomic_none h he ht hg, fun ht hg => atomic_acc h he ht hg⟩
  · simp only [atomNew, setWidth_dword]
    rw [dword_zext]
  · exact congrArg some (dword_add x a).symm

/-! ## Gather-reduce (R181, R182) -/

/-- Settles O10: each gather-reduce of the table is one of the gather-reduce shape. -/
theorem gatherReduceWords : Obligations.GatherReduceWords := by
  intro s c i g op d a hf h
  have he := gathers_exec s hf
  exact ⟨fun t ht => gred_trap h he ht, fun ht hg => gred_none h he ht hg, fun ht hg hs => gred_held h he ht hg hs,
    fun ht hg hs => gred_acc h he ht hg hs⟩

/-! ## Uniform words (R189–R193) -/

/-- Settles O13: each uniform word of the tables is one of the uniform shapes. -/
theorem uniformWords : Obligations.UniformWords :=
  ⟨⟨fun s _ _ f hf h => uni32_completes f.guard f.dest h (uni32_exec s hf),
    fun s _ _ f hf h => uni64_completes f.guard f.dest h (uni64_exec s hf)⟩,
    fun s _ _ f hf h => uniCompare_completes f.guard f.kd1 f.kd2 h (uniCompares_exec s hf)⟩

/-- Settles O14: the uniform check is the lanes' check of one address. -/
theorem uniformAccesses : Obligations.UniformAccesses := by
  refine ⟨fun s c sp need n a => ⟨?_, fun t ht => ⟨?_, ?_⟩⟩, fun s c i f hf h => ?_, fun s c i f hf h => ?_⟩
  · rw [checkUni, Option.map_eq_none_iff]
  · rw [checkUni, ht, Option.map_some]
  · obtain ⟨x, hx, haddr⟩ := checkLanes_addr ht
    rw [List.mem_singleton] at hx
    rw [haddr, hx]
  · have he := uniLoads_exec s hf
    exact ⟨uniLoad_off h he, fun hg t ht => uniLoad_trap h he hg ht, uniLoad_acc h he⟩
  · have he := uniStores_exec s hf
    exact ⟨uniStore_off h he, fun hg t ht => uniStore_trap h he hg ht, uniStore_full h he,
      fun hg ht hq => uniStore_acc h he hg ht hq (uniStores_bytes hf)⟩

/-! ## Every core word but a header is issued under the checks of R50 -/

/-- The word is issued: the checks of R50, then an effect. -/
def Issued (i : Instr) : Prop := ∀ s : State, ∃ eff, exec i s = issue (issueFault i) eff s

/-- A word issued under checks that are those of R50. -/
theorem Issued.of_checks {i : Instr} {chk : Ctx → Option Nat} {eff : Ctx → State → Eff} (hk : ∀ c, issueFault i c = chk c)
    (he : ∀ s, exec i s = issue chk eff s) : Issued i := fun s => ⟨eff, by rw [he, ← funext hk]⟩

/-- An engine command of the table is issued. -/
theorem Issued.of_command {i : Instr} {f : CmdForm} (h : commands i = some f) : Issued i := fun s => by
  obtain ⟨chk, hk, he⟩ := commands_exec s h
  exact ⟨_, by rw [he, ← funext hk]; rfl⟩

theorem issued_mma (k : BitVec 3) (cv : BitVec 4) (sl : BitVec 3) (w : BitVec 8) (ob : BitVec 5) (z : BitVec 1) :
    Issued (.mma k cv sl w ob z) :=
  .of_checks (fun c => checks_eq _ true true true
    (fun c => decide (1 ≤ c.grp.desc.tiles) && decide (cv.toNat < c.grp.desc.cvcount)) c rfl rfl rfl rfl rfl rfl rfl (by
      simp only [grantBeyond]
      rw [Bool.eq_iff_iff]; simp)) fun _ => rfl

theorem issued_cset (k : BitVec 3) (cv : BitVec 4) (a : BitVec 5) : Issued (.cset k cv a) :=
  .of_checks (fun c => checks_eq _ true true true (fun c => decide (cv.toNat < c.grp.desc.cvcount)) c rfl rfl rfl rfl rfl rfl
    rfl (by
      simp only [grantBeyond]
      rw [Bool.eq_iff_iff]; simp)) fun _ => rfl

/-- Every core word but a header is issued: by the shape its meaning is written in, or as an engine command. -/
theorem issued_of_core {i : Instr} {w : Word} (he : encodeCore i = some w) (hi : ∀ l m a b, i ≠ .clause l m a b) :
    Issued i := by
  cases i
  case clause l m a b => exact absurd rfl (hi l m a b)
  case mma => exact issued_mma _ _ _ _ _ _
  case cset => exact issued_cset _ _ _
  case mstat | munstat | mzero | scac | mtread | tcopy | tstore | tmcast | tnotice | sarm | tpref | launch
    | oload | obind | orun | ostep | odone | odense | ostop | vnew | vfree | vspawn | vsend | qpush
    | bsend | vgive | vborrow =>
    exact .of_command rfl
  case nbSld | nbSst | nbKey | nbMask | nbCmp | nbWr | nbTagand | nbTagor | nbTagnot | nbTagsh | nbLoop
    | nbEnd | clauseFetch | issueChoice | gangPromotion | engineCommandAccept | trackedOpComplete
    | storeQueueLeave | spinDemotionEnd | spinDemotionTimeout | warpEnd | poisonTrap | debugConfigPost
    | collectionPost | convergenceTimeout | preemptionRequest | groupRestore | groupAdmit | admissionStarvation
    | launchForward | hostQueueDoorbell | stealRequest | stealReply | remainderReport | congestionSample
    | memoryRequest | pageServiceComplete | walkerFill | pageEntryChange | translationInvalidation
    | invalidationAck | bufferShootdown | agingVisit | pageEviction | pageMigration | migrationSwitch | scrub
    | rowCopyComplete | registerWrite | tileCommandStart | walkAheadFill | sectorDeliver | tmcastReady
    | tmcastSector | noticePostPlace | noticeMatch | noticeAck | matrixPassGrant | matrixRowResult | macroMark
    | macroUnmark | orreryCombinationDone | callHandoff | lumenReturn | purseDraw | purseRecall | vsendMessage
    | binTimer | kick | nbuKernelStart | nbuPassEnd | listRefresh | nbuInstall | contextDestroy | hostWrite
    | atsInvalidation | pageRequestResponse | remoteAccess | podBarrierArrival | podBarrierAdvance
    | meridianPortFailure | checkpoint | checkpointRestore | featureWordWrite | boot | attestationRequest
    | monitorSample | powerLimitWrite | powerClockStep | thermalThrottle | thermalShutdown | hostEndGroup
    | hostAtomicop | evictionComplete | matrixEntryComplete =>
    exact nomatch he
  all_goals exact fun _ => ⟨_, rfl⟩

/-! ## The trap word (R212) and illegal encodings (R50) -/

/-- The effect of the trap word. -/
def trapEff (k : BitVec 3) (a : BitVec 5) (c : Ctx) (s : State) : Eff :=
  if guardUni k c.w then
    .trap { cause := causeSoftware, lanes := c.g.lanes, aux := (c.rv.getS a.toNat).setWidth 64 }
  else .go s []

theorem exec_trap (k : BitVec 3) (a x : BitVec 5) (s : State) :
    exec (.trap k a x) s = issue (issueFault (.trap k a x)) (trapEff k a) s := rfl

theorem trap_traps {s : State} {c : Ctx} {k : BitVec 3} {a x : BitVec 5} (h : Issues s c (.trap k a x))
    (hg : guardUni k c.w = true) :
    Traps s c (.trap k a x) { cause := 10, lanes := c.g.lanes, aux := dword (c.rv.getS a.toNat).toNat } := by
  rw [Traps, exec_trap, dword_zext]
  exact issue_trap h.ctx h.quiet h.sound (if_pos hg)

theorem trap_off {s : State} {c : Ctx} {k : BitVec 3} {a x : BitVec 5} (h : Issues s c (.trap k a x))
    (hg : guardUni k c.w = false) : Completes s c (.trap k a x) s :=
  h.completes (exec_trap k a x s) (if_neg (by rw [hg]; decide))

/-- A core word that fails a check of R50 raises the illegal-encoding trap. -/
theorem illegal_traps {s : State} {c : Ctx} {i : Instr} {w : Word} {n : Nat} (he : encodeCore i = some w)
    (hi : ∀ l m a b, i ≠ .clause l m a b) (hc : s.ctx = some c) (hq : c.debugDue = none) (hn : issueFault i c = some n) :
    Traps s c i { cause := 1, lanes := c.g.lanes, aux := dword n } := by
  obtain ⟨eff, hx⟩ := issued_of_core he hi s
  unfold Traps
  rw [hx]
  exact issue_illegal hc hq hn

/-! ## Taking a trap (R208–R210, R214) -/

/-- What the issuing gang hands over when it takes a trap. -/
def trapReq (c : Ctx) (t : TrapSpec) : TrapReq :=
  { lanes := c.g.lanes, regs := trapRegsAt c.g.pc c.g.word c.g.index false t, debug := false, hdr := c.g.hdr,
    seta := c.g.seta, setb := c.g.setb, rest := c.g.rest, yield := c.g.yield }

/-- The trap registers after a trap of the gang: the handler scratch registers stay. -/
def trapRegs (c : Ctx) (t : TrapSpec) : TrapRegs :=
  { trapRegsAt c.g.pc c.g.word c.g.index false t with hscr := c.w.trap.hscr }

theorem trapRegs_eq (c : Ctx) (t : TrapSpec) :
    let f := wordFields c.g.word
    trapRegs c t = { cause := word (t.cause % 256 + 256 * (c.g.index % 16)), pc := c.g.pc, word := c.g.word, d := f.d, a := f.a,
                     b := f.b, imm := f.imm, lanes := t.lanes, addr := t.addr,
                     aux := if t.cause = 1 then t.aux ||| f.aux else t.aux, hscr := c.w.trap.hscr } := rfl

section Taken
variable {s : State} {c : Ctx} (t : TrapSpec)

theorem trapHere_eq (hc : s.ctx = some c) :
    s.trapHere c false t = (s.delGang c.g.uid).deliver c.w.id (trapReq c t) := by
  obtain ⟨-, -, -, -, hw⟩ := ctx_facts hc
  rw [← hw]; rfl

/-- The end of the gang keeps its warp and its group. -/
theorem delGang_warp (hc : s.ctx = some c) : (s.delGang c.g.uid).warp c.w.id = some c.w := by
  have h : s.warp c.w.id = some c.w := ctx_warp hc
  exact h

theorem delGang_group (hc : s.ctx = some c) : (s.delGang c.g.uid).group c.w.group = some c.grp := by
  obtain ⟨-, -, h, -, -⟩ := ctx_facts hc
  exact h

/-- The warp of a gang whose lanes have exited. -/
def exitedWarp (c : Ctx) (w : Warp) : Warp :=
  w.mapLanes c.g.lanes fun _ ln => { ln with stat := .exited, exiting := false, npc := none, xfer := none }

/-- In a group that has ended the lanes of the gang exit. -/
theorem trapHere_abandoned (hc : s.ctx = some c) (ha : c.grp.abandoned = true) :
    s.trapHere c false t = (s.delGang c.g.uid).updWarp c.w.id (exitedWarp c) := by
  have hw := delGang_warp hc
  have hg := delGang_group hc
  rw [trapHere_eq t hc]
  simp only [State.deliver, hw, hg, ha, if_true]
  rfl

/-- The warp of a gang that has entered the trap handler. -/
def enteredWarp (c : Ctx) (t : TrapSpec) (w : Warp) : Warp :=
  { (w.mapLanes c.g.lanes fun _ ln =>
      { ln with pc := c.grp.desc.handler, npc := none, xfer := none, stat := .ready, released := false }).interrupted
        c.g.lanes with
    trap := trapRegs c t
    handler := some { debug := false, lanes := c.g.lanes, hdr := c.g.hdr, seta := c.g.seta, setb := c.g.setb,
                      rest := c.g.rest, yield := c.g.yield } }

/-- Outside a handler the gang enters the group's trap handler. -/
theorem trapHere_enters (hc : s.ctx = some c) (ha : c.grp.abandoned = false) (hh : c.w.handler = none)
    (hp : c.w.dbgPark = none) (he : c.grp.desc.handler ≠ 0xFFFFFFFF) :
    s.trapHere c false t = (s.delGang c.g.uid).updWarp c.w.id (enteredWarp c t) := by
  have hw := delGang_warp hc
  have hg := delGang_group hc
  rw [trapHere_eq t hc]
  simp only [State.deliver, hw, hg, ha, hh, hp, trapReq, Bool.false_eq_true, if_false, he]
  rfl

/-- A trap that no handler takes: none is named, or the lanes are inside one. -/
def NoHandler (c : Ctx) : Prop :=
  (c.w.handler = none ∧ c.w.dbgPark = none ∧ c.grp.desc.handler = 0xFFFFFFFF) ∨
    ∃ h, c.w.handler = some h ∧ c.g.lanes &&& ~~~h.lanes = 0

/-- A trap that no handler takes ends the group. -/
theorem trapHere_fault (hc : s.ctx = some c) (ha : c.grp.abandoned = false) (hn : NoHandler c) :
    s.trapHere c false t = (s.delGang c.g.uid).endGroupFault c.w.group (trapRegs c t) := by
  have hw := delGang_warp hc
  have hg := delGang_group hc
  rw [trapHere_eq t hc]
  rcases hn with ⟨hh, hp, he⟩ | ⟨h, hh, hl⟩
  · simp only [State.deliver, hw, hg, ha, hh, hp, he, trapReq, Bool.false_eq_true, if_false, if_true]
    rfl
  · have hsub : maskSub c.g.lanes h.lanes = true := by simp [maskSub, hl]
    simp only [State.deliver, hw, hg, ha, hh, trapReq, Bool.false_eq_true, if_false, hsub, if_true]
    rfl

end Taken

/-- A warp found after an update of it by a gang that has ended. -/
theorem updWarp_delGang_warp {s : State} {c : Ctx} (hc : s.ctx = some c) {f : Warp → Warp} (hf : ∀ w, (f w).id = w.id) :
    ((s.delGang c.g.uid).updWarp c.w.id f).warp c.w.id = some (f c.w) := by
  rw [State.updWarp_warp _ _ _ _ fun w h => (hf w).trans h, if_pos rfl, delGang_warp hc, Option.map_some]

theorem delGang_gang_self (s : State) (n : Nat) : (s.delGang n).gang n = none := by
  rw [State.delGang_gang, if_pos rfl]

/-! ## The end of a group (R214) -/

section GroupEnd
variable (s : State) (gid : Nat) (regs : TrapRegs)

theorem endGroupFault_group {g : Group} (h : s.group gid = some g) :
    (s.endGroupFault gid regs).group gid = some { g with abandoned := true } := by
  unfold State.endGroupFault
  refine (State.updGroup_group _ gid gid (fun g => { g with abandoned := true }) fun _ h => h).trans ?_
  rw [if_pos rfl]
  exact congrArg (Option.map _) h

/-- The host receives a record of the trap registers. -/
theorem endGroupFault_events :
    (s.endGroupFault gid regs).pkg.events = s.pkg.events ++ [⟨"group-fault", gid :: regs.toVals⟩] := rfl

/-- A warp of a group that has ended so: no handler, and every lane outside a clause has exited. -/
theorem endGroupFault_warp {n : Nat} {w : Warp} (h : s.warp n = some w) (hg : w.group = gid) :
    ∃ x, (s.endGroupFault gid regs).warp n = some x ∧ x.handler = none ∧
      ∀ (l : Nat) (ln : Lane), x.lanes[l]? = some ln →
        (∀ g ∈ (s.endGroupFault gid regs).gangs, g.warp = n → inMask g.lanes l = false) → ln.stat = .exited := by
  have hid : w.id = n := State.warp_id h
  unfold State.endGroupFault
  refine ⟨_, (lookupBy_map _ (fun x => ?_) s.warps n).trans (congrArg (Option.map _) h), ?_, fun l ln hl hout => ?_⟩
  · split <;> rfl
  · dsimp only
    rw [if_pos hg]
  · simp only [if_pos hg, getElem?_mapFrom, Nat.zero_add, Option.map_eq_some_iff] at hl
    obtain ⟨lm, -, hlm⟩ := hl
    split at hlm
    · rename_i hfly
      obtain ⟨g, hg, hon⟩ := List.any_eq_true.1 hfly
      simp only [Bool.and_eq_true, beq_iff_eq] at hon
      exact absurd hon.2 (by rw [hout g hg (hon.1.trans hid)]; decide)
    · rw [← hlm]

end GroupEnd

/-- Settles O19: the trap word, the checks of R50, and the three outcomes of a trap: the lanes enter the handler, the lanes
exit, or the group ends. -/
theorem trapWords : Obligations.TrapWords := by
  refine ⟨fun s c => ⟨fun k a x h => ⟨trap_traps h, trap_off h⟩, fun w i n he hi hc hq hn => illegal_traps he hi hc hq hn⟩,
    fun s c t hc hh hp he ha => ?_, fun s c t hc ha => ?_, fun s c t hc ha hn => ?_⟩
  · have hu := trapHere_enters t hc ha hh hp he
    refine ⟨by rw [hu]; exact delGang_gang_self s _, trapHere_watched s c false t, enteredWarp c t c.w,
      by rw [hu]; exact updWarp_delGang_warp hc fun _ => rfl, trapRegs_eq c t, rfl, fun l ln hl => ?_⟩
    exact mapLanes_lane c.g.lanes _ hl
  · have hu := trapHere_abandoned t hc ha
    refine ⟨by rw [hu]; exact delGang_gang_self s _, by rw [hu]; rfl, trapHere_watched s c false t, exitedWarp c c.w,
      by rw [hu]; exact updWarp_delGang_warp hc fun _ => rfl, rfl, fun l ln hl => ?_⟩
    exact mapLanes_lane c.g.lanes _ hl
  · simp only [trapHere_fault t hc ha hn]
    exact ⟨⟨_, endGroupFault_group _ _ _ (delGang_group hc), rfl⟩,
      ⟨_, by rw [endGroupFault_events, List.getLast?_concat], rfl, rfl⟩, endGroupFault_warp _ _ _ (delGang_warp hc) rfl⟩

end Sys2Proof.WordProofs
end

section
/-! SUPPORT. Rounding to a multiple of 2^q (R75), and NaN operands of sums, products, divisions and roots (R70, R157). -/

namespace Sys2Proof.NumberProofs
open Sys2Proof Sys2Proof.Machine

/-! ## Rounding an exact magnitude (R75) -/

section Rounding
variable (s : Bool) (m : Nat) {e q : Int} (h : e < q)

/-- The neighbour above, where the magnitude is not a multiple itself. -/
theorem add_pred_div_eq (m d : Nat) (hd : 0 < d) : (m + d - 1) / d = if m % d = 0 then m / d else m / d + 1 := by
  have hm := Nat.div_add_mod m d
  have hlt := Nat.mod_lt m hd
  split
  · exact Nat.div_eq_of_lt_le (by rw [Nat.mul_comm]; omega) (by rw [Nat.succ_mul, Nat.mul_comm]; omega)
  · exact Nat.div_eq_of_lt_le (by rw [Nat.succ_mul, Nat.mul_comm]; omega)
      (by rw [Nat.succ_mul, Nat.succ_mul, Nat.mul_comm]; omega)

include h

/-- To nearest: up past the half, and at the half from an odd multiple. -/
theorem roundQ_nearest : roundQ 0 s m e q false =
    let d := 2 ^ (q - e).toNat
    if d < 2 * (m % d) ∨ (2 * (m % d) = d ∧ m / d % 2 = 1) then m / d + 1 else m / d := by
  simp [roundQ, Int.not_le.2 h]

theorem roundQ_toward_zero : roundQ 1 s m e q false = m / 2 ^ (q - e).toNat := by
  simp [roundQ, Int.not_le.2 h]

theorem roundQ_up : roundQ 2 s m e q false =
    if s then m / 2 ^ (q - e).toNat else (m + 2 ^ (q - e).toNat - 1) / 2 ^ (q - e).toNat := by
  rw [add_pred_div_eq m _ (Nat.two_pow_pos _)]
  have hrest (t : Nat) : 2 * t = 0 ↔ t = 0 := by omega
  cases s <;> simp [roundQ, Int.not_le.2 h, hrest]

theorem roundQ_down : roundQ 3 s m e q false =
    if s then (m + 2 ^ (q - e).toNat - 1) / 2 ^ (q - e).toNat else m / 2 ^ (q - e).toNat := by
  rw [add_pred_div_eq m _ (Nat.two_pow_pos _)]
  have hrest (t : Nat) : 2 * t = 0 ↔ t = 0 := by omega
  cases s <;> simp [roundQ, Int.not_le.2 h, hrest]

/-- The nearest multiple is within half a unit, and even where two are. -/
theorem roundQ_nearest_bounds :
    let d := 2 ^ (q - e).toNat
    let near := roundQ 0 s m e q false
    (2 * (near * d) ≤ 2 * m + d ∧ 2 * m ≤ 2 * (near * d) + d) ∧
      ((2 * (near * d) = 2 * m + d ∨ 2 * m = 2 * (near * d) + d) → near % 2 = 0) := by
  rw [roundQ_nearest s m h]
  dsimp only
  have hd : 0 < 2 ^ (q - e).toNat := Nat.two_pow_pos _
  generalize 2 ^ (q - e).toNat = d at *
  have hlt : m % d < d := Nat.mod_lt m hd
  have hm : m / d * d + m % d = m := Nat.div_add_mod' m d
  generalize m / d = lo at *
  generalize m % d = t at *
  split
  case isTrue hup => rw [Nat.add_one_mul lo d]; omega
  case isFalse hlo => omega

end Rounding

/-! ## NaN operands (R70, R157) -/

section NaN
variable {x : FVal} (hx : isNaN x = true) (y : FVal)
include hx

theorem exists_eq_nan : ∃ s man mb, x = .nan s man mb := by
  cases x with
  | nan s man mb => exact ⟨s, man, mb, rfl⟩
  | _ => cases hx

theorem isNaN_addF_left : isNaN (addF x y) = true := by
  obtain ⟨_, _, _, rfl⟩ := exists_eq_nan hx
  rfl

theorem isNaN_addF_right : isNaN (addF y x) = true := by
  obtain ⟨_, _, _, rfl⟩ := exists_eq_nan hx
  cases y <;> rfl

theorem isNaN_mulF_left : isNaN (mulF x y) = true := by
  obtain ⟨_, _, _, rfl⟩ := exists_eq_nan hx
  rfl

theorem isNaN_mulF_right : isNaN (mulF y x) = true := by
  obtain ⟨_, _, _, rfl⟩ := exists_eq_nan hx
  cases y <;> rfl

theorem isNaN_negF : isNaN (negF x) = true := by
  obtain ⟨_, _, _, rfl⟩ := exists_eq_nan hx
  rfl

variable (k : Kind)

theorem fres_of_isNaN : fres k x = k.fmt.canon := by
  obtain ⟨_, _, _, rfl⟩ := exists_eq_nan hx
  rfl

theorem fdivF_of_isNaN_left : fdivF k x y = k.fmt.canon := by
  obtain ⟨_, _, _, rfl⟩ := exists_eq_nan hx
  rfl

theorem fdivF_of_isNaN_right : fdivF k y x = k.fmt.canon := by
  obtain ⟨_, _, _, rfl⟩ := exists_eq_nan hx
  cases y <;> rfl

theorem fsqrtF_of_isNaN : fsqrtF k x = k.fmt.canon := by
  obtain ⟨_, _, _, rfl⟩ := exists_eq_nan hx
  rfl

theorem frsqrtF_of_isNaN : frsqrtF k x = k.fmt.canon := by
  obtain ⟨_, _, _, rfl⟩ := exists_eq_nan hx
  rfl

end NaN

/-- Settles O6: a magnitude is split at the unit 2^q into its multiple below and the rest, and each sum and product of a NaN
is a NaN, whose code is the canonical one. -/
theorem numberFormats : Obligations.NumberFormats := by
  refine ⟨fun s m e q h => ?_, fun k _ a b d ha => ?_⟩
  · obtain ⟨hhalf, heven⟩ := roundQ_nearest_bounds s m h
    exact ⟨hhalf, heven, roundQ_toward_zero s m h, roundQ_up s m h, roundQ_down s m h⟩
  · exact ⟨fres_of_isNaN (isNaN_addF_left ha _) k, fres_of_isNaN (isNaN_addF_right ha _) k,
      fres_of_isNaN (isNaN_addF_left ha _) k, fres_of_isNaN (isNaN_addF_right (isNaN_negF ha) _) k,
      fres_of_isNaN (isNaN_mulF_left ha _) k, fres_of_isNaN (isNaN_mulF_right ha _) k,
      fres_of_isNaN (isNaN_addF_left (isNaN_mulF_left ha _) _) k,
      fres_of_isNaN (isNaN_addF_left (isNaN_mulF_right ha _) _) k, fres_of_isNaN (isNaN_addF_right ha _) k,
      fdivF_of_isNaN_left ha _ k, fdivF_of_isNaN_right ha _ k, fsqrtF_of_isNaN ha k, frsqrtF_of_isNaN ha k,
      fdivF_of_isNaN_right ha _ k⟩

end Sys2Proof.NumberProofs
end

section
/-! SUPPORT. The matrix engine's arbiter, the entries of its reservation table and the rows that reach its tiles
(R82, R83, R291, R292, R297, R298, R306, R307, R315). -/

namespace Sys2Proof.MatrixProofs
open Sys2Proof Sys2Proof.Machine

/-! ## The arbiter's order (R298) -/

theorem arbBefore_asymm {x y : MEntry} (h : arbBefore x y = true) : arbBefore y x = false := by
  unfold arbBefore at h ⊢
  by_cases hp : x.promoted = y.promoted
  · by_cases hq : y.promoted = true
    · simp only [hp, hq, bne_self_eq_false, Bool.false_eq_true, if_false, if_true, decide_eq_true_eq,
        decide_eq_false_iff_not] at h ⊢
      omega
    · by_cases hr : x.prio = y.prio
      · simp only [hp, hq, hr, bne_self_eq_false, Bool.false_eq_true, if_false, ne_eq, not_true_eq_false, decide_eq_true_eq,
          decide_eq_false_iff_not] at h ⊢
        omega
      · simp only [hp, hq, hr, Ne.symm hr, bne_self_eq_false, Bool.false_eq_true, if_false, ne_eq, not_false_eq_true, if_true,
          decide_eq_true_eq, decide_eq_false_iff_not] at h ⊢
        omega
  · simp only [bne_iff_ne.2 hp, bne_iff_ne.2 (Ne.symm hp), if_true] at h ⊢
    exact Bool.eq_false_iff.2 fun hy => hp (h.trans hy.symm)

/-- A fold that keeps the first of two entries ends at the one that is before all others. -/
theorem foldl_arbBefore_eq {e : MEntry} (t : List MEntry) (b : MEntry) (he : e ∈ b :: t)
    (h : ∀ x ∈ b :: t, x = e ∨ arbBefore e x = true) :
    t.foldl (fun b x => if arbBefore x b then x else b) b = e := by
  induction t generalizing b with
  | nil => exact (List.mem_singleton.1 he).symm
  | cons x t ih =>
    obtain ⟨hb, hx, ht⟩ := List.forall_mem_cons.1 h |>.imp_right List.forall_mem_cons.1
    refine ih _ ?_ (List.forall_mem_cons.2 ⟨by dsimp only; split <;> assumption, ht⟩)
    rcases hb with rfl | hb
    · rcases hx with rfl | hx
      · simp
      · simp [arbBefore_asymm hx]
    · rcases hx with rfl | hx
      · simp [hb]
      · have hmem : e ∈ t := by
          have hirr {y : MEntry} (hy : arbBefore e y = true) : e ≠ y := fun h => by
            subst h; exact absurd hy (by rw [arbBefore_asymm hy]; decide)
          simpa [hirr hb, hirr hx] using he
        exact List.mem_cons_of_mem _ hmem

theorem arbPick_eq {e : MEntry} {l : List MEntry} (he : e ∈ l) (h : ∀ x ∈ l, x = e ∨ arbBefore e x = true) :
    arbPick l = some e := by
  cases l with
  | nil => cases he
  | cons b t => exact congrArg some (foldl_arbBefore_eq t b he h)

/-! ## The group's error word (R315) -/

section ErrorWord
variable (g : Group) (code eop : Nat)

theorem noteRefusal_first : ((g.noteRefusal code eop).merr.1, (g.noteRefusal code eop).merr.2.1) =
    if g.merr.2.2 = 0 then (code, eop) else (g.merr.1, g.merr.2.1) := by
  simp only [Group.noteRefusal]
  split <;> rfl

theorem noteRefusal_count : (g.noteRefusal code eop).merr.2.2 = min (g.merr.2.2 + 1) 0xFFFF := by
  simp only [Group.noteRefusal]
  split
  case isTrue h => rw [h]; rfl
  case isFalse => rfl

/-- The error word holds the first refusal c, and the count has reached n. -/
def ErrorSince (c : Nat × Nat) (n : Nat) (g : Group) : Prop := (g.merr.1, g.merr.2.1) = c ∧ n ≤ g.merr.2.2

/-- A later refusal leaves the first one's code and command, and the count saturates. -/
theorem errorSince_noteRefusal {c : Nat × Nat} {n : Nat} (h0 : 0 < n) (hn : n ≤ 0xFFFF) (h : ErrorSince c n g) :
    ErrorSince c n (g.noteRefusal code eop) := by
  obtain ⟨hc, hle⟩ := h
  refine ⟨?_, by rw [noteRefusal_count]; omega⟩
  rw [noteRefusal_first, if_neg (by omega), hc]

end ErrorWord

/-! ## An entry leaves the table (R297, R307) -/

section Leaving
variable (s : State) (quad id : Nat)

@[simp] theorem dropEntry_entries :
    ((s.dropEntry quad id).quad quad).entries = removeBy MEntry.id id (s.quad quad).entries := by
  simp [State.dropEntry, State.refreshMarks, State.settleMarks, State.updQuad_quad]

@[simp] theorem dropEntry_acc : ((s.dropEntry quad id).quad quad).acc = (s.quad quad).acc := by
  simp [State.dropEntry, State.refreshMarks, State.settleMarks, State.updQuad_quad]

@[simp] theorem dropEntry_lantern : ((s.dropEntry quad id).quad quad).lantern = (s.quad quad).lantern := by
  simp [State.dropEntry, State.refreshMarks, State.settleMarks, State.updQuad_quad]

@[simp] theorem dropEntry_group (n : Nat) : (s.dropEntry quad id).group n = s.group n := rfl

theorem dropEntry_entry (n : Nat) :
    (s.dropEntry quad id).entry quad n = if n = id then none else s.entry quad n := by
  rw [State.entry, dropEntry_entries]
  exact lookupBy_remove _ id n

theorem updEntry_entry (n : Nat) (f : MEntry → MEntry) (hf : ∀ e, e.id = id → (f e).id = id) :
    (s.updEntry quad id f).entry quad n = if n = id then (s.entry quad n).map f else s.entry quad n := by
  simp only [State.entry, State.updEntry, State.updQuad_quad, if_true]
  exact lookupBy_update f _ id n hf

@[simp] theorem updEntry_acc (f : MEntry → MEntry) : ((s.updEntry quad id f).quad quad).acc = (s.quad quad).acc := by
  simp [State.updEntry, State.updQuad_quad]

@[simp] theorem updEntry_lantern (f : MEntry → MEntry) :
    ((s.updEntry quad id f).quad quad).lantern = (s.quad quad).lantern := by
  simp [State.updEntry, State.updQuad_quad]

@[simp] theorem updGroup_quad (f : Group → Group) (n : Nat) : (s.updGroup id f).quad n = s.quad n := rfl

@[simp] theorem updGroup_entry (gid : Nat) (f : Group → Group) : (s.updGroup gid f).entry quad id = s.entry quad id := rfl

end Leaving

section Checking
variable {s : State} {quad : Nat}

/-- What a passed check and a refusal keep, the checks of ready entries keep. -/
theorem checkReady_keeps {P : State → Prop}
    (hpass : ∀ (s : State) (e : MEntry), P s → P (s.updEntry quad e.id fun e => { e with checked := true }))
    (hrefuse : ∀ (s : State) (e : MEntry) (code : Nat), P s →
      P ((s.dropEntry quad e.id).updGroup e.group fun g => g.noteRefusal code e.eop))
    (n : Nat) (hs : P s) : P (s.checkReady quad n) := by
  induction n generalizing s with
  | zero => exact hs
  | succ n ih =>
    simp only [State.checkReady]
    split
    · exact hs
    · split
      · exact hs
      · split
        · exact ih (hpass _ _ hs)
        · exact ih (hrefuse _ _ _ hs)

/-- No entry is ready and unchecked: none is checked. -/
theorem checkReady_of_calm (h : Calm (s.quad quad).entries) (n : Nat) : s.checkReady quad n = s := by
  cases n with
  | zero => rfl
  | succ n =>
    have hnone : ((s.quad quad).entries.find? fun e =>
        e.eop != 1 && !e.checked && e.ready (s.quad quad).entries) = none := by
      refine List.find?_eq_none.2 fun x hx => ?_
      rcases h x hx with h | h | h <;> simp [h]
    simp only [State.checkReady, hnone]

theorem checkReady_tiles (n : Nat) : ((s.checkReady quad n).quad quad).acc = (s.quad quad).acc ∧
    ((s.checkReady quad n).quad quad).lantern = (s.quad quad).lantern :=
  checkReady_keeps (P := fun u => (u.quad quad).acc = (s.quad quad).acc ∧ (u.quad quad).lantern = (s.quad quad).lantern)
    (fun _ _ h => by simpa using h) (fun _ _ _ h => by simpa using h) n ⟨rfl, rfl⟩

theorem checkReady_entry_none {id : Nat} (n : Nat) (h : s.entry quad id = none) :
    (s.checkReady quad n).entry quad id = none := by
  refine checkReady_keeps (P := fun u => u.entry quad id = none) (fun u e hu => ?_) (fun u e code hu => ?_) n h
  · rw [updEntry_entry, hu]
    · exact ite_self _
    · exact fun _ h => h
  · rw [updGroup_entry, dropEntry_entry, hu]
    exact ite_self _

/-- Refusals among the entries checked raise a group's count and leave its first refusal. -/
theorem checkReady_error {gid c m} (h0 : 0 < m) (hm : m ≤ 0xFFFF) (n : Nat)
    (h : ∃ g, s.group gid = some g ∧ ErrorSince c m g) :
    ∃ g, (s.checkReady quad n).group gid = some g ∧ ErrorSince c m g := by
  refine checkReady_keeps (P := fun u => ∃ g, u.group gid = some g ∧ ErrorSince c m g) (fun _ _ hu => hu)
    (fun u e code hu => ?_) n h
  obtain ⟨g, hg, he⟩ := hu
  have hgroup := State.updGroup_group (u.dropEntry quad e.id) e.group gid (fun g => g.noteRefusal code e.eop) fun _ h => h
  rw [dropEntry_group, hg] at hgroup
  by_cases hid : gid = e.group
  · exact ⟨_, hgroup.trans (if_pos hid), errorSince_noteRefusal g code e.eop h0 hm he⟩
  · exact ⟨g, hgroup.trans (if_neg hid), he⟩

end Checking

section Done
variable (s : State) (quad id : Nat)

theorem entryDone_entry : (s.entryDone quad id).entry quad id = none :=
  checkReady_entry_none _ ((dropEntry_entry s quad id id).trans (if_pos rfl))

theorem entryDone_acc : ((s.entryDone quad id).quad quad).acc = (s.quad quad).acc :=
  (checkReady_tiles _).1.trans (dropEntry_acc s quad id)

theorem entryDone_lantern : ((s.entryDone quad id).quad quad).lantern = (s.quad quad).lantern :=
  (checkReady_tiles _).2.trans (dropEntry_lantern s quad id)

variable {s quad}

/-- A refused entry's code stands in the error word if it is the first, and the count rises with it and with the entries
that its completion makes ready. -/
theorem refuse_error {e : MEntry} {g : Group} (code : Nat) (hg : s.group e.group = some g) :
    ∃ h, (s.refuse quad e code).group e.group = some h ∧
      ErrorSince (if g.merr.2.2 = 0 then (code, e.eop) else (g.merr.1, g.merr.2.1)) (min (g.merr.2.2 + 1) 0xFFFF) h ∧
      (Calm ((s.quad quad).entries.filter fun x => x.id != e.id) → h.merr.2.2 = min (g.merr.2.2 + 1) 0xFFFF) := by
  have hnoted : (s.updGroup e.group fun g => g.noteRefusal code e.eop).group e.group = some (g.noteRefusal code e.eop) := by
    refine (State.updGroup_group s _ _ (fun g => g.noteRefusal code e.eop) fun _ h => h).trans ?_
    rw [if_pos rfl, hg]
    rfl
  have hcount := noteRefusal_count g code e.eop
  obtain ⟨h, hh, herr⟩ := checkReady_error (quad := quad)
    (s := (s.updGroup e.group fun g => g.noteRefusal code e.eop).dropEntry quad e.id)
    (c := if g.merr.2.2 = 0 then (code, e.eop) else (g.merr.1, g.merr.2.1)) (by omega) (Nat.min_le_right _ _) _
    ⟨_, hnoted, noteRefusal_first g code e.eop, Nat.le_of_eq hcount.symm⟩
  refine ⟨h, hh, herr, fun hcalm => ?_⟩
  rw [checkReady_of_calm (by rw [dropEntry_entries]; exact hcalm)] at hh
  rw [Option.some.inj (hh.symm.trans hnoted), hcount]

end Done

/-! ## Row passes (R291, R298, R306) -/

theorem rowPass_length (q : QuadU) (g : Group) (b : MmaBlock) (i : Nat) : (rowPass q g b i).length = 128 * b.nt := by
  rw [rowPass, List.length_map, List.length_range]

theorem rowPass_getElem? (q : QuadU) (g : Group) (b : MmaBlock) (i : Nat) {n : Nat} (hn : n < 128 * b.nt) :
    (rowPass q g b i)[n]? = some ((List.range b.k).foldl (fun acc k =>
      accAdd acc (accMul (aElem q g b i k) (bElem q g b k n))) (0, 0)) := by
  rw [rowPass, List.getElem?_map, List.getElem?_range hn]
  rfl

/-- An entry after a grant to e of the pass whose row is given: e itself, the others that were ready, and the rest. -/
def afterGrant (e : MEntry) (row : List AccVal) (ready : List Nat) (x : MEntry) : MEntry :=
  if x.id = e.id then
    { x with checked := true, granted := x.granted + 1, rows := x.rows ++ [row], waited := 0, promoted := false }
  else if ready.contains x.id then
    { x with waited := x.waited + 1, promoted := x.promoted || decide (64 ≤ x.waited + 1) }
  else x

theorem afterGrant_id (e : MEntry) (row : List AccVal) (ready : List Nat) (x : MEntry) :
    (afterGrant e row ready x).id = x.id := by
  unfold afterGrant
  split
  · rfl
  · split <;> rfl

theorem afterGrant_self (e : MEntry) (row : List AccVal) (ready : List Nat) : afterGrant e row ready e =
    { e with checked := true, granted := e.granted + 1, rows := e.rows ++ [row], waited := 0, promoted := false } :=
  if_pos rfl

section Grant
variable {s : State} {quad : Nat} {e : MEntry} {g : Group} (hpick : arbPick (passReady (s.quad quad).entries) = some e)
  (hg : s.group e.group = some g)
include hpick hg

theorem matrixPassGrant_granted (hok : e.checked = true ∨ checkEntry (s.quad quad) g e = 0) :
    exec (.matrixPassGrant quad) s = .next (s.updQuad quad fun q => { q with entries := q.entries.map (afterGrant e
      (rowPass (s.quad quad) g (mmaBlock e.block) e.granted) ((passReady (s.quad quad).entries).map MEntry.id)) }) := by
  have hcode : (if e.checked then 0 else checkEntry (s.quad quad) g e) = 0 := by
    rcases hok with h | h <;> simp [h]
  change execMatrixPassGrant quad s = _
  simp only [execMatrixPassGrant, hpick, hg, hcode, ne_eq, not_true_eq_false, if_false]
  rfl

theorem matrixPassGrant_refused (hnew : e.checked = false) (hbad : checkEntry (s.quad quad) g e ≠ 0) :
    exec (.matrixPassGrant quad) s = .next (s.refuse quad e (checkEntry (s.quad quad) g e)) := by
  change execMatrixPassGrant quad s = _
  simp [execMatrixPassGrant, hpick, hg, hnew, hbad]

end Grant

/-! ## Rows that reach the tiles (R82, R83, R292) -/

/-- Rows and columns of a tile have their own places in the table of accumulators. -/
theorem accKey_inj {t i n t' i' n' : Nat} (hi : i < 32) (hn : n < 128) (hi' : i' < 32) (hn' : n' < 128) :
    accKey t i n = accKey t' i' n' ↔ t = t' ∧ i = i' ∧ n = n' := by
  unfold accKey accCols
  omega

/-- An accumulator x after a contribution p, zeroed first or not. -/
def accSum (z : Bool) (x : BitVec 96 × BitVec 2) (p : AccVal) : BitVec 96 × BitVec 2 :=
  let old := if z then (0, 0) else x
  (BitVec.ofInt 96 (old.1.toInt + p.1), old.2 ||| p.2)

/-- A contribution changes its own accumulator only. -/
theorem accPut_accAt (q : QuadU) {tile r c t i n : Nat} (z : Bool) (p : AccVal) (hr : r < 32) (hc : c < 128) (hi : i < 32)
    (hn : n < 128) :
    (q.accPut tile r c z p).accAt t i n = 
      if t = tile ∧ i = r ∧ n = c then accSum z (q.accAt tile r c) p else q.accAt t i n := by
  simp only [← accKey_inj hi hn hr hc]
  exact tabGet_set ..

/-- The contributions of a row from its n-th on, each to the column of its tile. -/
def landRow (tile : Nat → Nat) (r : Nat) (z : Bool) (n : Nat) (row : List AccVal) (q : QuadU) : QuadU :=
  (mapFrom (fun n v => (n, v)) n row).foldl (fun q x => q.accPut (tile (x.1 / 128)) r (x.1 % 128) z x.2) q

section Landing
variable {tile : Nat → Nat} {r : Nat} {z : Bool}

theorem landRow_entries (n : Nat) (row : List AccVal) (q : QuadU) : (landRow tile r z n row q).entries = q.entries := by
  induction row generalizing n q with
  | nil => rfl
  | cons v row ih => exact ih (n + 1) (q.accPut (tile (n / 128)) r (n % 128) z v)

variable (hr : r < 32)
include hr

/-- An accumulator that no column of the row names stays as it was. -/
theorem landRow_accAt_other {t i c : Nat} (hi : i < 32) (hc : c < 128) (n : Nat) (row : List AccVal) (q : QuadU)
    (h : ∀ m, n ≤ m → m < n + row.length → ¬ (t = tile (m / 128) ∧ i = r ∧ c = m % 128)) :
    (landRow tile r z n row q).accAt t i c = q.accAt t i c := by
  induction row generalizing n q with
  | nil => rfl
  | cons v row ih =>
    have htail := ih (n + 1) (q.accPut (tile (n / 128)) r (n % 128) z v) fun m hm hlt =>
      h m (by omega) (by rw [List.length_cons]; omega)
    refine htail.trans ?_
    rw [accPut_accAt q z v hr (Nat.mod_lt _ (by decide)) hi hc, if_neg (h n (Nat.le_refl n) (by simp))]

/-- Each column of the row gets its own contribution, where no two columns name one accumulator. -/
theorem landRow_accAt_same {N : Nat}
    (hinj : ∀ m m', m < N → m' < N → tile (m / 128) = tile (m' / 128) → m % 128 = m' % 128 → m = m')
    (n : Nat) (row : List AccVal) (q : QuadU) (hN : n + row.length ≤ N) {j : Nat} {v : AccVal} (hv : row[j]? = some v) :
    (landRow tile r z n row q).accAt (tile ((n + j) / 128)) r ((n + j) % 128) =
      accSum z (q.accAt (tile ((n + j) / 128)) r ((n + j) % 128)) v := by
  have hmod (m : Nat) : m % 128 < 128 := Nat.mod_lt m (by decide)
  induction row generalizing n q j with
  | nil => cases hv
  | cons x row ih =>
    rw [List.length_cons] at hN
    cases j with
    | zero =>
      obtain rfl : x = v := by simpa using hv
      have hrest := landRow_accAt_other (z := z) hr hr (hmod n) (n + 1) row (q.accPut (tile (n / 128)) r (n % 128) z x)
        fun m hm hlt ⟨ht, _, hc⟩ => absurd (hinj n m (by omega) (by omega) ht hc) (by omega)
      refine hrest.trans ?_
      rw [accPut_accAt q z x hr (hmod n) hr (hmod n), if_pos ⟨rfl, rfl, rfl⟩]
      rfl
    | succ j =>
      have hj : j < row.length := Nat.lt_of_succ_lt_succ (List.getElem?_eq_some_iff.1 hv).1
      have hput := accPut_accAt q z x hr (hmod n) hr (hmod (n + (j + 1))) (tile := tile (n / 128))
        (t := tile ((n + (j + 1)) / 128))
      rw [if_neg fun ⟨ht, _, hc⟩ => absurd (hinj _ n (by omega) (by omega) ht hc) (by omega)] at hput
      have htail := ih (n + 1) (q.accPut (tile (n / 128)) r (n % 128) z x) (by omega) hv
      rw [show n + 1 + j = n + (j + 1) by omega, hput] at htail
      exact htail

end Landing

theorem nt_cases (b : MmaBlock) : b.nt = 1 ∨ b.nt = 2 := by
  unfold MmaBlock.nt
  split
  · exact .inr rfl
  · exact .inl rfl

/-- Two columns of a row name two accumulators, when a row of 256 columns goes to two tiles. -/
theorem rowColumns_inj (g : Group) (b : MmaBlock) (h : b.nt = 2 → g.quadTile b.tile ≠ g.quadTile (b.tile + 1)) (m m' : Nat)
    (hm : m < 128 * b.nt) (hm' : m' < 128 * b.nt)
    (ht : g.quadTile (b.tile + m / 128) = g.quadTile (b.tile + m' / 128)) (hc : m % 128 = m' % 128) : m = m' := by
  rcases nt_cases b with hnt | hnt <;> rw [hnt] at hm hm'
  · omega
  · have hne := h hnt
    have hlo : m / 128 = 0 ∨ m / 128 = 1 := by omega
    have hlo' : m' / 128 = 0 ∨ m' / 128 = 1 := by omega
    rcases hlo with h1 | h1 <;> rcases hlo' with h2 | h2 <;> rw [h1, h2] at ht
    · omega
    · exact absurd ht hne
    · exact absurd ht.symm hne
    · omega

/-- A whole tile written anew by e loses its overflow flag before its first row lands. -/
def rowCleared (g : Group) (e : MEntry) (q : QuadU) : QuadU :=
  let b := mmaBlock e.block
  let tiles := (List.range b.nt).map fun j => g.quadTile (b.tile + j)
  { q with ovf := if e.z && e.landed == 0 && b.r0 == 0 && b.m == 32 then q.ovf.filter fun t => !tiles.contains t else q.ovf }

/-- The quad after the oldest row of e has reached the tiles. -/
def rowLanded (g : Group) (e : MEntry) (row : List AccVal) (q : QuadU) : QuadU :=
  let b := mmaBlock e.block
  landRow (fun j => g.quadTile (b.tile + j)) (b.r0 + e.landed) e.z 0 row (rowCleared g e q)

section Landed
variable {g : Group} {e : MEntry} {row : List AccVal} (q : QuadU) (hr : (mmaBlock e.block).r0 + e.landed < 32)
  (hlen : row.length = 128 * (mmaBlock e.block).nt)
include hr hlen

theorem rowLanded_accAt_same (htiles : (mmaBlock e.block).nt = 2 →
      g.quadTile (mmaBlock e.block).tile ≠ g.quadTile ((mmaBlock e.block).tile + 1))
    {n : Nat} {v : AccVal} (hv : row[n]? = some v) :
    let tile := g.quadTile ((mmaBlock e.block).tile + n / 128)
    let r := (mmaBlock e.block).r0 + e.landed
    (rowLanded g e row q).accAt tile r (n % 128) = accSum e.z (q.accAt tile r (n % 128)) v := by
  have hsame := landRow_accAt_same (tile := fun j => g.quadTile ((mmaBlock e.block).tile + j)) (z := e.z) hr
    (rowColumns_inj g _ htiles) 0 row (rowCleared g e q) (by omega) hv
  rwa [Nat.zero_add] at hsame

theorem rowLanded_accAt_other {tile i n : Nat} (hi : i < 32) (hn : n < 128)
    (hout : i ≠ (mmaBlock e.block).r0 + e.landed ∨
      ∀ j, j < (mmaBlock e.block).nt → tile ≠ g.quadTile ((mmaBlock e.block).tile + j)) :
    (rowLanded g e row q).accAt tile i n = q.accAt tile i n := by
  refine landRow_accAt_other (tile := fun j => g.quadTile ((mmaBlock e.block).tile + j)) hr hi hn 0 row (rowCleared g e q)
    fun m _ hm ⟨ht, hir, _⟩ => ?_
  rcases hout with hne | hne
  · exact hne hir
  · exact hne (m / 128) (Nat.div_lt_of_lt_mul (by rwa [Nat.zero_add, hlen] at hm)) ht

end Landed

/-- The state after the oldest row of e has reached the tiles, before e may complete. -/
def stateLanded (s : State) (quad : Nat) (g : Group) (e : MEntry) (row : List AccVal) (rest : List (List AccVal)) : State :=
  (s.updQuad quad (rowLanded g e row)).updEntry quad e.id fun e => { e with rows := rest, landed := e.landed + 1 }

/-- The last row of e completes it. -/
def afterRow (s : State) (quad : Nat) (g : Group) (e : MEntry) (row : List AccVal) (rest : List (List AccVal)) : State :=
  if e.landed + 1 = (mmaBlock e.block).m then (stateLanded s quad g e row rest).entryDone quad e.id
  else stateLanded s quad g e row rest

section RowResult
variable {s : State} {quad : Nat} {e : MEntry} {g : Group} {row : List AccVal} {rest : List (List AccVal)}

theorem matrixRowResult_lands (he : s.entry quad e.id = some e) (hg : s.group e.group = some g) (hrow : e.rows = row :: rest)
    (hfree : ∀ x ∈ (s.quad quad).entries, x.id ∉ e.tileDeps) :
    exec (.matrixRowResult quad e.id) s = .next (afterRow s quad g e row rest) := by
  have hany : ((s.quad quad).entries.any fun x => e.tileDeps.contains x.id) = false := by
    simpa using hfree
  change execMatrixRowResult quad e.id s = _
  simp only [execMatrixRowResult, he, hg, hrow, hany]
  rfl

theorem stateLanded_entry (he : s.entry quad e.id = some e) :
    (stateLanded s quad g e row rest).entry quad e.id = some { e with rows := rest, landed := e.landed + 1 } := by
  have hput : (s.updQuad quad (rowLanded g e row)).entry quad e.id = some e := by
    rw [State.entry, State.updQuad_quad, if_pos rfl, rowLanded, landRow_entries]
    exact he
  refine (updEntry_entry _ quad e.id e.id (fun e => { e with rows := rest, landed := e.landed + 1 }) fun _ h => h).trans ?_
  rw [if_pos rfl, hput]
  rfl

theorem stateLanded_acc :
    ((stateLanded s quad g e row rest).quad quad).acc = (rowLanded g e row (s.quad quad)).acc := by
  rw [stateLanded, updEntry_acc, State.updQuad_quad, if_pos rfl]

theorem afterRow_entry (he : s.entry quad e.id = some e) : (afterRow s quad g e row rest).entry quad e.id =
    if e.landed + 1 = (mmaBlock e.block).m then none else some { e with rows := rest, landed := e.landed + 1 } := by
  unfold afterRow
  split
  · exact entryDone_entry _ quad e.id
  · exact stateLanded_entry he

theorem afterRow_accAt (tile i n : Nat) :
    ((afterRow s quad g e row rest).quad quad).accAt tile i n = (rowLanded g e row (s.quad quad)).accAt tile i n := by
  refine congrArg (tabGet (0, 0) · (accKey tile i n)) ?_
  unfold afterRow
  split
  · exact (entryDone_acc _ quad e.id).trans stateLanded_acc
  · exact stateLanded_acc

end RowResult

/-- Settles O45: the arbiter's first entry is the one it picks; its grant adds the row of exact sums and its refusal the
group's error; a row that lands changes the accumulators it names, each by its own contribution. -/
theorem matrixRows : Obligations.MatrixRows := by
  refine ⟨fun s quad e g => ?_, fun s quad e g row rest he hg hrow => ?_⟩
  · intro q b left hready hfirst he hg
    have hpick := arbPick_eq hready hfirst
    refine ⟨fun hok => ?_, fun hnew hbad => ?_⟩
    · refine ⟨_, afterGrant e (rowPass q g b e.granted) ((passReady q.entries).map MEntry.id) e, rowPass q g b e.granted,
        matrixPassGrant_granted hpick hg hok, ?_, ?_⟩
      · rw [State.entry, State.updQuad_quad, if_pos rfl]
        exact (lookupBy_map _ (afterGrant_id _ _ _) _ _).trans (congrArg (Option.map _) he)
      · rw [afterGrant_self, State.updQuad_quad, if_pos rfl]
        exact ⟨rfl, rfl, rfl, rowPass_length q g b _, fun n hn => rowPass_getElem? q g b _ hn, rfl, rfl⟩
    · obtain ⟨h, hh, ⟨hcode, hcount⟩, hcalm⟩ := refuse_error (quad := quad) (checkEntry q g e) hg
      exact ⟨_, h, matrixPassGrant_refused hpick hg hnew hbad, entryDone_entry _ quad e.id, hh, hcode, hcount, hcalm,
        entryDone_acc _ quad e.id, entryDone_lantern _ quad e.id⟩
  · intro q b r hfree hlen hr htiles
    exact ⟨_, matrixRowResult_lands he hg hrow hfree, afterRow_entry he,
      fun n v hv => (afterRow_accAt _ r _).trans (rowLanded_accAt_same q hr hlen htiles hv),
      fun tile i n hi hn hout => (afterRow_accAt tile i n).trans (rowLanded_accAt_other q hr hlen hi hn hout)⟩

end Sys2Proof.MatrixProofs
end

section
/-! SUPPORT. Transfers of lanes and of whole gangs, EXIT, and the words of the meeting register (R150–R154, R197, R198). -/

namespace Sys2Proof.TransferProofs
open Sys2Proof Sys2Proof.Machine

/-! ## The meanings of the words, by shape -/

section Meanings
variable (g : BitVec 4) (k : BitVec 3) (d a : BitVec 7) (s : State)

theorem exec_brl (m : BitVec 14) :
    exec (.brl g m) s = laneTransfer (.brl g m) g (fun c _ => c.disp m) (fun _ ln => ln) s := rfl

theorem exec_calll (m : BitVec 14) :
    exec (.calll g d m) s = laneTransfer (.calll g d m) g (fun c _ => c.disp m) (fun c ln => c.link d ln) s := rfl

theorem exec_brr :
    exec (.brr g a) s = laneTransfer (.brr g a) g (fun _ rd => rd a.toNat) (fun _ ln => ln) s := rfl

theorem exec_callr :
    exec (.callr g d a) s = laneTransfer (.callr g d a) g (fun _ rd => rd a.toNat) (fun c ln => c.link d ln) s := rfl

theorem exec_exit : exec (.exit g) s = laneWord (.exit g) g (fun _ ln => { ln with exiting := true }) s := rfl

theorem exec_meet (m : BitVec 14) :
    exec (.meet g d m) s =
      meetWord (.meet g d m) g (fun c _ ln => { ln.put d.toNat ln.meet with meet := c.disp m }) s := rfl

theorem exec_meetr :
    exec (.meetr g a) s = meetWord (.meetr g a) g (fun _ rd ln => { ln with meet := rd a.toNat }) s := rfl

theorem exec_bra (m : BitVec 21) :
    exec (.bra k m) s = uniTransfer (.bra k m) k (fun c => c.disp m) (fun _ w => w) s := rfl

theorem exec_call (m : BitVec 21) :
    exec (.call k m) s = uniTransfer (.call k m) k (fun c => c.disp m)
      (fun c w => ((w.putS 30 (c.g.pc + 4)).putS 31 c.g.pc).unquiet) s := rfl

theorem exec_brx (m : BitVec 21) :
    exec (.brx k m) s = uniTransfer (.brx k m) k (fun c => c.disp m + c.rv.getS 29) (fun _ w => w) s := rfl

theorem exec_ret :
    exec (.ret k) s = uniTransfer (.ret k) k (fun c => c.rv.getS 30) (fun _ w => w) s := rfl

end Meanings

/-! ## What each shape answers -/

section Shapes
variable {s : State} {c : Ctx} {i : Instr}

/-- The guarded lanes are sent to their targets and link; where the clause ends, they depart. -/
theorem laneTransfer_transfers {g : BitVec 4} {target : Ctx → Rd → Word} {link : Ctx → Lane → Lane} (h : Issues s c i)
    (he : exec i s = laneTransfer i g target link s) :
    Transfers s c i (s.setWarp (c.mapGuarded g fun rd ln => link c (c.take (target c rd) ln))) :=
  transfers_setWarp h he h.sound rfl rfl rfl

theorem laneWord_transfers {g : BitVec 4} {f : Rd → Lane → Lane} (h : Issues s c i) (he : exec i s = laneWord i g f s) :
    Transfers s c i (s.setWarp (c.mapGuarded g f)) :=
  transfers_setWarp h he h.sound rfl rfl rfl

/-- Lanes released at their meeting are progress and no effect of the word. -/
theorem setWarp_meetRelease_moved (s : State) (w : Warp) : Moved (s.setWarp w) (s.setWarp w.meetRelease) :=
  updWarps_moved s w.id _ _ (fun _ _ => rfl) (fun _ _ => rfl) fun _ _ => meetRelease_kept w

theorem meetWord_completes {g : BitVec 4} {f : Ctx → Rd → Lane → Lane} (h : Issues s c i)
    (he : exec i s = meetWord i g f s) : Completes s c i (s.setWarp (c.mapGuarded g (f c))) :=
  h.completes_moved he rfl (setWarp_meetRelease_moved s _) rfl

/-- The active lanes are sent to the target where the guard is true; where the clause ends, they depart either way. -/
theorem uniTransfer_transfers {k : BitVec 3} {target : Ctx → Word} {link : Ctx → Warp → Warp} (h : Issues s c i)
    (he : exec i s = uniTransfer i k target link s) (hid : ∀ w, (link c w).id = w.id)
    (hgroup : ∀ w, (link c w).group = w.group) :
    Transfers s c i
      (if guardUni k c.w then s.setWarp (link c (c.mapActive fun _ ln => c.take (target c) ln)) else s) := by
  cases hk : guardUni k c.w
  case false => exact transfers_none h he h.sound (congrArg (Eff.go · []) (if_neg (by rw [hk]; decide)))
  case true => exact transfers_setWarp h he h.sound (congrArg (Eff.go · []) (if_pos hk)) (hid _) (hgroup _)

/-- That iterations are no longer quiet is progress and no effect of the word. -/
theorem transfers_unquiet_if {p : Bool} {w : Warp} (h : Transfers s c i (if p then s.setWarp w.unquiet else s)) :
    Transfers s c i (if p then s.setWarp w else s) := by
  cases p
  case false => exact h
  case true => exact transfers_unquiet h

end Shapes

/-- A displacement from the word and a register's value, added as integers. -/
theorem wordI_disp_add {n : Nat} (c : Ctx) (m : BitVec n) (hn : n ≤ 32) (x : Word) :
    wordI (c.g.pc.toInt + 4 * m.toInt + x.toNat) = c.disp m + x := by
  rw [disp_eq c m hn, wordI, BitVec.ofInt_add, BitVec.ofInt_natCast, BitVec.ofNat_toNat, BitVec.setWidth_eq, wordI]

/-- Settles O11: each word is of its shape, and its displacement counts words from the word itself. -/
theorem transferWords : Obligations.TransferWords := by
  refine ⟨fun s c => ⟨fun g m h => ?_, fun g d m h => ?_, fun g a h => ?_, fun g d a h => ?_, fun g h => ?_⟩,
    fun s c => ⟨fun g d m h => ?_, fun g a h => ?_⟩,
    fun s c => ⟨fun k m h => ?_, fun k m h => ?_, fun k m h => ?_, fun k h => ?_⟩⟩
  · rw [← disp_eq c m (by decide)]
    exact laneTransfer_transfers h (exec_brl g s m)
  · rw [← disp_eq c m (by decide)]
    exact laneTransfer_transfers h (exec_calll g d s m)
  · exact laneTransfer_transfers h (exec_brr g a s)
  · exact laneTransfer_transfers h (exec_callr g d a s)
  · exact laneWord_transfers h (exec_exit g s)
  · rw [← disp_eq c m (by decide)]
    exact meetWord_completes h (exec_meet g d s m)
  · exact meetWord_completes h (exec_meetr g a s)
  · rw [← disp_eq c m (by decide)]
    exact uniTransfer_transfers h (exec_bra k s m) (fun _ => rfl) fun _ => rfl
  · rw [← disp_eq c m (by decide)]
    exact transfers_unquiet_if (uniTransfer_transfers h (exec_call k s m) (fun _ => rfl) fun _ => rfl)
  · rw [wordI_disp_add c m (by decide)]
    exact uniTransfer_transfers h (exec_brx k s m) (fun _ => rfl) fun _ => rfl
  · exact uniTransfer_transfers h (exec_ret k s) (fun _ => rfl) fun _ => rfl

end Sys2Proof.TransferProofs
end

section
/-! SUPPORT. The sign words of the float forms (R165), the order of the codes of a format, and the lesser and the greater of
two operands (R161). -/

namespace Sys2Proof.FloatChoiceProofs
open Sys2Proof Sys2Proof.Machine

/-! ## The codes of a format (R69)

A code is its value's sign, exponent and significand packed together, so two codes of one value are one code. -/

section Codes
variable {f : Fmt} {a b m n : Nat} {s t : Bool} {e g : Int}

/-- What a code of a format names besides a sign: a significand whose leading bit is set unless the exponent is the least
one. -/
structure Represents (f : Fmt) (m : Nat) (e : Int) : Prop where
  bounded : m < 2 ^ (f.mb + 1)
  least_le : 1 - (f.bias : Int) - f.mb ≤ e
  normal : 1 - (f.bias : Int) - f.mb < e → 2 ^ f.mb ≤ m

/-- A code below 2^(eb + mb + 1) is made of its sign bit, its exponent field and its mantissa field. -/
theorem code_fields (f : Fmt) (ha : a < 2 ^ (f.eb + f.mb + 1)) :
    (if decide (a / 2 ^ (f.eb + f.mb) % 2 = 1) then 2 ^ (f.eb + f.mb) else 0) + a / 2 ^ f.mb % 2 ^ f.eb * 2 ^ f.mb +
      a % 2 ^ f.mb = a := by
  have hlow := Nat.div_add_mod' a (2 ^ f.mb)
  have hhigh := Nat.div_add_mod' (a / 2 ^ f.mb) (2 ^ f.eb)
  have hsplit : 2 ^ (f.eb + f.mb) = 2 ^ f.eb * 2 ^ f.mb := Nat.pow_add ..
  have hsign : a / 2 ^ (f.eb + f.mb) < 2 := Nat.div_lt_of_lt_mul (by rwa [← Nat.pow_succ])
  rw [Nat.div_div_eq_div_mul, Nat.mul_comm (2 ^ f.mb), ← hsplit] at hhigh
  have hbit : (if decide (a / 2 ^ (f.eb + f.mb) % 2 = 1) then 2 ^ (f.eb + f.mb) else 0) =
      a / 2 ^ (f.eb + f.mb) * 2 ^ f.eb * 2 ^ f.mb := by
    rw [Nat.mul_assoc, ← hsplit]
    obtain h | h := Nat.le_one_iff_eq_zero_or_eq_one.1 (Nat.le_of_lt_succ hsign) <;> simp [h]
  rw [hbit, ← Nat.add_mul, hhigh, hlow]

/-- A finite code is subnormal, with the exponent field 0, or has a leading bit that it does not store. -/
theorem decFloat_fin (h : decFloat f a = .fin s m e) :
    s = decide (a / 2 ^ (f.eb + f.mb) % 2 = 1) ∧
      ((a / 2 ^ f.mb % 2 ^ f.eb = 0 ∧ m = a % 2 ^ f.mb ∧ e = 1 - (f.bias : Int) - f.mb) ∨
        (a / 2 ^ f.mb % 2 ^ f.eb ≠ 0 ∧ m = 2 ^ f.mb + a % 2 ^ f.mb ∧
          e = (a / 2 ^ f.mb % 2 ^ f.eb : Nat) - (f.bias : Int) - f.mb)) := by
  unfold decFloat at h
  dsimp only at h
  split at h
  · split at h <;> cases h
  · split at h
    case isTrue h0 => cases h; exact ⟨rfl, .inl ⟨h0, rfl, rfl⟩⟩
    case isFalse h0 => cases h; exact ⟨rfl, .inr ⟨h0, rfl, rfl⟩⟩

theorem represents_of_decFloat (h : decFloat f a = .fin s m e) : Represents f m e := by
  have hman : a % 2 ^ f.mb < 2 ^ f.mb := Nat.mod_lt _ (Nat.two_pow_pos _)
  have hdouble : 2 ^ (f.mb + 1) = 2 ^ f.mb * 2 := Nat.pow_succ ..
  obtain ⟨-, ⟨-, rfl, rfl⟩ | ⟨hef, rfl, rfl⟩⟩ := decFloat_fin h
  · exact ⟨by omega, Int.le_refl _, fun h => absurd h (Int.lt_irrefl _)⟩
  · exact ⟨by omega, by omega, fun _ => Nat.le_add_right ..⟩

/-- Encoding the value of a finite code gives the code back. -/
theorem encFin_of_decFloat (h : decFloat f a = .fin s m e) (ha : a < 2 ^ (f.eb + f.mb + 1)) : encFin f s m e = a := by
  have hman : a % 2 ^ f.mb < 2 ^ f.mb := Nat.mod_lt _ (Nat.two_pow_pos _)
  have hcode := code_fields f ha
  obtain ⟨rfl, ⟨h0, rfl, rfl⟩ | ⟨-, rfl, rfl⟩⟩ := decFloat_fin h
  · rw [h0, Nat.zero_mul, Nat.add_zero] at hcode
    rw [encFin, if_pos hman]
    exact hcode
  · have hexp (x : Nat) : ((x : Int) - f.bias - f.mb + f.mb + f.bias).toNat = x := by omega
    have hcarry : 2 ^ f.mb + a % 2 ^ f.mb ≠ 2 ^ (f.mb + 1) := by rw [Nat.pow_succ]; omega
    rw [encFin, if_neg (by omega), if_neg hcarry]
    dsimp only
    rw [hexp, Nat.add_sub_cancel_left]
    exact hcode

theorem encInf_of_decFloat (h : decFloat f a = .inf s) (ha : a < 2 ^ (f.eb + f.mb + 1)) : encInf f s = a := by
  have hcode := code_fields f ha
  unfold decFloat at h
  dsimp only at h
  split at h
  case isTrue hspecial =>
    simp only [Bool.and_eq_true, decide_eq_true_eq] at hspecial
    obtain ⟨-, hef⟩ := hspecial
    split at h
    case isTrue hman => cases h; rwa [hef, hman, Nat.add_zero] at hcode
    case isFalse => cases h
  case isFalse => split at h <;> cases h

theorem encFin_zero (f : Fmt) (s : Bool) (e : Int) : encFin f s 0 e = if s then 2 ^ (f.eb + f.mb) else 0 := by
  rw [encFin, if_pos (Nat.two_pow_pos _), Nat.add_zero]

theorem eq_of_decFloat_eq (ha : a < 2 ^ (f.eb + f.mb + 1)) (hb : b < 2 ^ (f.eb + f.mb + 1))
    (hn : isNaN (decFloat f a) = false) (h : decFloat f a = decFloat f b) : a = b := by
  cases hx : decFloat f a with
  | nan => rw [hx] at hn; cases hn
  | inf s => exact (encInf_of_decFloat hx ha).symm.trans (encInf_of_decFloat (h ▸ hx) hb)
  | fin s m e => exact (encFin_of_decFloat hx ha).symm.trans (encFin_of_decFloat (h ▸ hx) hb)

/-- A smaller exponent cannot be made up for: the significand would not fit. -/
theorem exponent_le_of_magnitude_eq (hm : Represents f m e) (hn : Represents f n g) {q : Int} (hqe : q ≤ e)
    (h : m * 2 ^ (e - q).toNat = n * 2 ^ (g - q).toNat) : g ≤ e := by
  refine Int.not_lt.1 fun hlt => ?_
  obtain ⟨k, hk⟩ : ∃ k, (g - q).toNat = k + 1 + (e - q).toNat := ⟨(g - e).toNat - 1, by omega⟩
  rw [hk, Nat.pow_add, ← Nat.mul_assoc] at h
  have hmn : m = n * 2 ^ (k + 1) := Nat.eq_of_mul_eq_mul_right (Nat.two_pow_pos _) h
  have hlead : 2 ^ f.mb ≤ n := hn.normal (by have := hm.least_le; omega)
  have hfit : 2 ^ (f.mb + 1) ≤ m := calc
    2 ^ (f.mb + 1) = 2 ^ f.mb * 2 := Nat.pow_succ ..
    _ ≤ n * 2 ^ (k + 1) := Nat.mul_le_mul hlead (Nat.le_self_pow (Nat.succ_ne_zero k) 2)
    _ = m := hmn.symm
  exact absurd hm.bounded (Nat.not_lt.2 hfit)

theorem eq_of_magnitude_eq (hm : Represents f m e) (hn : Represents f n g) {q : Int} (hqe : q ≤ e) (hqg : q ≤ g)
    (h : m * 2 ^ (e - q).toNat = n * 2 ^ (g - q).toNat) : m = n ∧ e = g := by
  obtain rfl : e = g :=
    Int.le_antisymm (exponent_le_of_magnitude_eq hn hm hqg h.symm) (exponent_le_of_magnitude_eq hm hn hqe h)
  exact ⟨Nat.eq_of_mul_eq_mul_right (Nat.two_pow_pos _) h, rfl⟩

end Codes

/-! ## The order of values -/

section Order
variable {zeros : Bool} {x y : FVal}

theorem scaled_eq (s : Bool) (m : Nat) (e q : Int) :
    scaled s m e q = if s then -((m * 2 ^ (e - q).toNat : Nat) : Int) else ((m * 2 ^ (e - q).toNat : Nat) : Int) := by
  simp [scaled]

/-- Finite values that are not both zero are ordered as their multiples of the lesser unit. -/
theorem fless_fin {s t : Bool} {m n : Nat} (e g : Int) (h : ¬(m = 0 ∧ n = 0)) :
    fless zeros (.fin s m e) (.fin t n g) = decide (scaled s m e (min e g) < scaled t n g (min e g)) := by
  simp [fless, h]

theorem isNaN_eq_false_of_fless (h : fless zeros x y = true) : isNaN x = false ∧ isNaN y = false := by
  cases x with
  | nan => cases h
  | inf s =>
    cases y with
    | nan => cases h
    | _ => exact ⟨rfl, rfl⟩
  | fin s m e =>
    cases y with
    | nan => cases h
    | _ => exact ⟨rfl, rfl⟩

theorem fless_asymm (h : fless zeros x y = true) : fless zeros y x = false := by
  have hsigns : ∀ z s t : Bool, (z && s && !t) = true → (z && t && !s) = false := by decide
  cases x with
  | nan => cases h
  | inf s =>
    cases y with
    | nan => rfl
    | inf t => exact hsigns true s t h
    | fin t n g => exact congrArg (! ·) (h : s = true)
  | fin s m e =>
    cases y with
    | nan => rfl
    | inf t => exact Bool.not_inj (y := false) h
    | fin t n g =>
      by_cases hz : m = 0 ∧ n = 0
      · obtain ⟨rfl, rfl⟩ := hz
        exact hsigns zeros s t h
      · rw [fless_fin e g hz, decide_eq_true_eq] at h
        rw [fless_fin g e (mt And.symm hz), Int.min_comm]
        exact decide_eq_false (Int.lt_asymm h)

/-- What is less is less also where −0 is less than +0. -/
theorem fless_zeros (h : fless false x y = true) : fless true x y = true := by
  cases x with
  | nan => cases h
  | inf s => cases y <;> exact h
  | fin s m e =>
    cases y with
    | nan => cases h
    | inf t => exact h
    | fin t n g =>
      by_cases hz : m = 0 ∧ n = 0
      · obtain ⟨rfl, rfl⟩ := hz
        cases h
      · rwa [fless_fin e g hz] at h ⊢

/-- Of two equal multiples the magnitudes are equal, and the signs too unless both are zero. -/
theorem magnitude_eq_of_scaled_eq {s t : Bool} {m n : Nat} {e g q : Int} (h : scaled s m e q = scaled t n g q) :
    m * 2 ^ (e - q).toNat = n * 2 ^ (g - q).toNat ∧ (s = t ∨ (m = 0 ∧ n = 0)) := by
  have hzero (n k : Nat) : n * 2 ^ k = 0 → n = 0 := fun h =>
    (Nat.mul_eq_zero.1 h).resolve_right (Nat.ne_of_gt (Nat.two_pow_pos k))
  have hm := hzero m (e - q).toNat
  have hn := hzero n (g - q).toNat
  rw [scaled_eq, scaled_eq] at h
  generalize m * 2 ^ (e - q).toNat = u at *
  generalize n * 2 ^ (g - q).toNat = v at *
  have hopposite (h : (u : Int) = -(v : Int)) : u = v ∧ m = 0 ∧ n = 0 := by
    obtain ⟨hu, hv⟩ : u = 0 ∧ v = 0 := by omega
    exact ⟨hu.trans hv.symm, hm hu, hn hv⟩
  cases s with
  | false =>
    cases t with
    | false => exact ⟨Int.ofNat_inj.1 h, .inl rfl⟩
    | true => exact (hopposite h).imp_right .inr
  | true =>
    cases t with
    | false => exact (hopposite (Int.neg_eq_comm.1 h).symm).imp_right .inr
    | true => exact ⟨Int.ofNat_inj.1 (Int.neg_inj.1 h), .inl rfl⟩

theorem fless_of_fcond_lt (h : fcond 1 x y = true) : fless false x y = true := by
  have h : (if isNaN x || isNaN y then false else fless false x y) = true := h
  split at h
  · cases h
  · exact h

theorem not_fless_of_fcond_eq (h : fcond 0 x y = true) :
    isNaN x = false ∧ isNaN y = false ∧ fless false x y = false ∧ fless false y x = false := by
  have h : (if isNaN x || isNaN y then false else !fless false x y && !fless false y x) = true := h
  simpa [and_assoc] using h

theorem eq_of_not_fless_fin {f : Fmt} {s t : Bool} {m n : Nat} {e g : Int} (hm : Represents f m e)
    (hn : Represents f n g) (hxy : fless false (.fin s m e) (.fin t n g) = false)
    (hyx : fless false (.fin t n g) (.fin s m e) = false) : m = n ∧ e = g ∧ (s = t ∨ m = 0) := by
  have heq := eq_of_magnitude_eq hm hn (Int.min_le_left e g) (Int.min_le_right e g)
  by_cases hz : m = 0 ∧ n = 0
  · obtain ⟨rfl, rfl⟩ := hz
    obtain ⟨-, he⟩ := heq (by rw [Nat.zero_mul, Nat.zero_mul])
    exact ⟨rfl, he, .inr rfl⟩
  · rw [fless_fin e g hz, decide_eq_false_iff_not] at hxy
    rw [fless_fin g e (mt And.symm hz), Int.min_comm, decide_eq_false_iff_not] at hyx
    obtain ⟨hmag, hsign⟩ := magnitude_eq_of_scaled_eq (Int.le_antisymm (Int.not_lt.1 hyx) (Int.not_lt.1 hxy))
    obtain ⟨hmn, he⟩ := heq hmag
    exact ⟨hmn, he, .inl (hsign.resolve_right hz)⟩

/-- Numerically equal values of a format are one value or two zeros of unlike signs. -/
theorem eq_or_zeros_of_fcond_eq {f : Fmt} (hx : ∀ s m e, x = .fin s m e → Represents f m e)
    (hy : ∀ s m e, y = .fin s m e → Represents f m e) (h : fcond 0 x y = true) :
    x = y ∨ ∃ s e, x = .fin s 0 e ∧ y = .fin (!s) 0 e := by
  obtain ⟨hnx, hny, hxy, hyx⟩ := not_fless_of_fcond_eq h
  cases x with
  | nan => cases hnx
  | inf s =>
    cases y with
    | nan => cases hny
    | inf t =>
      have hsigns : ∀ s t : Bool, (s && !t) = false → (t && !s) = false → s = t := by decide
      exact .inl (congrArg FVal.inf (hsigns s t hxy hyx))
    | fin t n g =>
      obtain rfl : s = false := hxy
      cases hyx
  | fin s m e =>
    cases y with
    | nan => cases hny
    | inf t =>
      obtain rfl : t = false := hyx
      cases hxy
    | fin t n g =>
      obtain ⟨rfl, rfl, hst⟩ := eq_of_not_fless_fin (hx s m e rfl) (hy t n g rfl) hxy hyx
      by_cases hs : s = t
      · exact .inl (by rw [hs])
      · obtain rfl := hst.resolve_left hs
        exact .inr ⟨s, e, rfl, by rw [Bool.eq_not.2 (Ne.symm hs)]⟩

end Order

/-! ## Minimum and maximum (R161) -/

section Choice
variable {k : Kind} {a b : Nat} (mx : Bool)

theorem fminmax_of_fless (h : fless true (dec k a) (dec k b) = true) : fminmax k mx a b = if mx then b else a := by
  obtain ⟨ha, hb⟩ := isNaN_eq_false_of_fless h
  simp [fminmax, ha, hb, h]

theorem fminmax_of_fless_swap (h : fless true (dec k b) (dec k a) = true) : fminmax k mx a b = if mx then a else b := by
  obtain ⟨hb, ha⟩ := isNaN_eq_false_of_fless h
  simp [fminmax, ha, hb, h, fless_asymm h]

theorem fminmax_nan_nan (ha : isNaN (dec k a) = true) (hb : isNaN (dec k b) = true) :
    fminmax k mx a b = k.fmt.canon := by
  simp [fminmax, ha, hb]

theorem fminmax_nan_left (ha : isNaN (dec k a) = true) (hb : isNaN (dec k b) = false) : fminmax k mx a b = b := by
  simp [fminmax, ha, hb]

theorem fminmax_nan_right (ha : isNaN (dec k a) = false) (hb : isNaN (dec k b) = true) : fminmax k mx a b = a := by
  simp [fminmax, ha, hb]

theorem fminmax_self (ha : isNaN (dec k a) = false) : fminmax k mx a a = a := by
  simp [fminmax, ha]

/-- Of the two zeros the lesser is the code with the sign bit alone, in either order. -/
theorem fminmax_zeros {s : Bool} {e : Int} (hk : dec k = decFloat k.fmt) (ha : a < 2 ^ (k.fmt.eb + k.fmt.mb + 1))
    (hb : b < 2 ^ (k.fmt.eb + k.fmt.mb + 1)) (hx : dec k a = .fin s 0 e) (hy : dec k b = .fin (!s) 0 e) :
    fminmax k mx a b = if mx then 0 else 2 ^ (k.fmt.eb + k.fmt.mb) := by
  have hacode : (if s then 2 ^ (k.fmt.eb + k.fmt.mb) else 0) = a := by
    rw [← encFin_zero _ s e]
    exact encFin_of_decFloat (hk ▸ hx) ha
  have hbcode : (if !s then 2 ^ (k.fmt.eb + k.fmt.mb) else 0) = b := by
    rw [← encFin_zero _ _ e]
    exact encFin_of_decFloat (hk ▸ hy) hb
  cases s with
  | true => rw [fminmax_of_fless mx (by rw [hx, hy]; rfl), ← hacode, ← hbcode]; rfl
  | false => rw [fminmax_of_fless_swap mx (by rw [hx, hy]; rfl), ← hacode, ← hbcode]; rfl

theorem fminmax_of_fcond_eq_of_ne (hk : dec k = decFloat k.fmt) (ha : a < 2 ^ (k.fmt.eb + k.fmt.mb + 1))
    (hb : b < 2 ^ (k.fmt.eb + k.fmt.mb + 1)) (h : fcond 0 (dec k a) (dec k b) = true) (hab : a ≠ b) :
    fminmax k mx a b = if mx then 0 else 2 ^ (k.fmt.eb + k.fmt.mb) := by
  have hrep (c : Nat) : ∀ s m e, dec k c = .fin s m e → Represents k.fmt m e := fun s m e hc =>
    represents_of_decFloat (hk ▸ hc)
  obtain heq | ⟨s, e, hx, hy⟩ := eq_or_zeros_of_fcond_eq (hrep a) (hrep b) h
  · obtain ⟨hn, -⟩ := not_fless_of_fcond_eq h
    rw [hk] at heq hn
    exact absurd (eq_of_decFloat_eq ha hb hn heq) hab
  · exact fminmax_zeros mx hk ha hb hx hy

end Choice

/-! ## The sign words (R165) -/

section Sign
variable (r : Rd) (g : BitVec 4) (d a : BitVec 7) {n : Nat}

/-- The low bits of a register, the rest 0. -/
theorem ofNat_mod_bit {w : Nat} (x : BitVec w) (m : Nat) (hn : n < w) :
    (BitVec.ofNat w (x.toNat % 2 ^ m)).getLsbD n = (x.getLsbD n && decide (n < m)) := by
  rw [BitVec.getLsbD_ofNat, Nat.testBit_mod_two_pow, BitVec.testBit_toNat, decide_eq_true hn, Bool.true_and, Bool.and_comm]

theorem fneg32_bit {f : LaneForm Word} (h : fp32 (.fneg32 g d a) = some f) (hn : n < 32) :
    (f.value r).getLsbD n = ((r a.toNat).getLsbD n != decide (n = 31)) := by
  obtain rfl := Option.some.inj h
  exact wordBits_bit _ n hn

theorem fabs32_bit {f : LaneForm Word} (h : fp32 (.fabs32 g d a) = some f) (hn : n < 32) :
    (f.value r).getLsbD n = ((r a.toNat).getLsbD n && decide (n ≠ 31)) := by
  obtain rfl := Option.some.inj h
  rw [show decide (n ≠ 31) = decide (n < 31) from decide_eq_decide.2 (by omega)]
  exact ofNat_mod_bit (r a.toNat) 31 hn

theorem fneg64_bit {f : LaneForm Dword} (h : fp64 (.fneg64 g d a) = some f) :
    (f.value r).getLsbD n = ((Rd.pair r a.toNat).getLsbD n != decide (n = 63)) := by
  obtain rfl := Option.some.inj h
  have hsign : (BitVec.twoPow 64 63).getLsbD n = decide (n = 63) :=
    (BitVec.getLsbD_twoPow ..).trans (decide_eq_decide.2 eq_comm)
  rw [← hsign]
  exact (congrArg (BitVec.getLsbD · n) (fneg64_eq _)).trans BitVec.getLsbD_xor

theorem fabs64_bit {f : LaneForm Dword} (h : fp64 (.fabs64 g d a) = some f) (hn : n < 64) :
    (f.value r).getLsbD n = ((Rd.pair r a.toNat).getLsbD n && decide (n ≠ 63)) := by
  obtain rfl := Option.some.inj h
  rw [show decide (n ≠ 63) = decide (n < 63) from decide_eq_decide.2 (by omega)]
  exact ofNat_mod_bit (Rd.pair r a.toNat) 63 hn

end Sign

/-- FP32 and FP64 are formats of their whole width. -/
theorem wide_kind {k : Kind} {bits : Nat} (h : (k, bits) ∈ [(Kind.f32, 32), (Kind.f64, 64)]) :
    dec k = decFloat k.fmt ∧ bits = k.fmt.eb + k.fmt.mb + 1 := by
  cases h with
  | head => exact ⟨rfl, rfl⟩
  | tail _ h =>
    cases h with
    | head => exact ⟨rfl, rfl⟩
    | tail _ h => cases h

/-- Settles O7: a sign word is its operand but for one bit; minimum and maximum follow the order of the operands, and two
codes that neither order puts first are one code or the two zeros. -/
theorem signAndChoice : Obligations.SignAndChoice := by
  refine ⟨fun r g d a n => ⟨fun _ => fneg32_bit r g d a, fun _ => fabs32_bit r g d a, fun _ h _ => fneg64_bit r g d a h,
    fun _ => fabs64_bit r g d a⟩, fun k bits a b hk ha hb => ?_⟩
  obtain ⟨hdec, rfl⟩ := wide_kind hk
  refine ⟨fun hx hy => ⟨fminmax_nan_nan _ hx hy, fminmax_nan_nan _ hx hy⟩,
    fun hx hy => ⟨fminmax_nan_left _ hx hy, fminmax_nan_left _ hx hy⟩,
    fun hx hy => ⟨fminmax_nan_right _ hx hy, fminmax_nan_right _ hx hy⟩, fun hx _ => ⟨fun h => ?_, fun h => ?_, ?_, ?_⟩⟩
  · have hless := fless_zeros (fless_of_fcond_lt h)
    exact ⟨fminmax_of_fless false hless, fminmax_of_fless true hless⟩
  · have hless := fless_zeros (fless_of_fcond_lt h)
    exact ⟨fminmax_of_fless_swap false hless, fminmax_of_fless_swap true hless⟩
  · rintro - rfl
    exact ⟨fminmax_self _ hx, fminmax_self _ hx⟩
  · intro h hab
    exact ⟨fminmax_of_fcond_eq_of_ne false hdec ha hb h hab, fminmax_of_fcond_eq_of_ne true hdec ha hb h hab⟩

end Sys2Proof.FloatChoiceProofs
end

section
/-! SUPPORT. Warp-wide words (R183–R186) of a gang that holds no lane: no lane parks, so the gang is not set waiting. -/

namespace Sys2Proof.WarpWideProofs
open Sys2Proof Sys2Proof.Machine

/-! ## What the gang waits for after its word -/

/-- The gang that a change names is changed. -/
theorem updGang_gang_self {s : State} {n : Nat} {g : Gang} {f : Gang → Gang} (hg : s.gang n = some g)
    (hf : ∀ g, (f g).uid = g.uid := by exact fun _ => rfl) : (s.updGang n f).gang n = some (f g) := by
  rw [State.updGang_gang s n n f fun g h => (hf g).trans h, if_pos rfl, hg, Option.map_some]

section AfterWord
variable {s s' t : State} {c : Ctx} {i : Instr} {g x : Gang}

/-- A gang with another word left in its clause stays, and waits for what the word's effect has set. -/
theorem retire_gang_wait (hg : s.gang c.g.uid = some g) (hr : g.rest.tail ≠ []) :
    ∃ x, (s.retire c []).gang c.g.uid = some x ∧ x.wait = g.wait := by
  have hpop : (s.popWord c).gang c.g.uid = some { g with index := g.index + 1, rest := g.rest.tail } :=
    updGang_gang_self hg
  have hstay : (s.popWord c).finish c.g.uid = s.popWord c := by
    simp only [State.finish, hpop]
    rw [List.isEmpty_eq_false_iff.2 hr]
    rfl
  rw [State.retire, takeWatch_nil, hstay]
  exact ⟨_, hpop, rfl⟩

/-- Where a word completes as a state and its gang stays, the gang waits for what that state says. -/
theorem completes_gang_wait (h : Completes s c i s') (ht : exec i s = .next t) (hg : s'.gang c.g.uid = some g)
    (hx : t.gang c.g.uid = some x) : x.wait = g.wait := by
  obtain ⟨u, hu, hret⟩ := h
  obtain rfl : t = u := by
    rw [ht] at hu
    injection hu
  rw [hret.next g x hg hx]

end AfterWord

/-! ## A gang without lanes -/

section NoLanes
variable {s : State} {c : Ctx} {i : Instr} {m : BitVec 6}

/-- A warp-wide word of a gang without lanes traps in none, and leaves the gang as it is. -/
theorem warpWideEff_noLanes (hg : s.gang c.g.uid = some c.g) (hl : c.g.lanes = 0) :
    ∃ t, warpWideEff m c s = .go t [] ∧ t.gang c.g.uid = some c.g := by
  have hnone : maskLanes c.g.lanes = [] := by rw [hl]; rfl
  have hsound : memberFails c.w c.g.pc [] = [] := rfl
  simp only [warpWideEff, hnone, List.map_nil, hsound, List.any_nil, Bool.false_eq_true, if_false]
  exact ⟨_, rfl, updGang_gang_self hg⟩

/-- A gang without lanes that waits for nothing does not wait after a warp-wide word, whatever the members that are
missing. -/
theorem noLanes_not_parked (h : Issues s c i) (he : exec i s = warpWideWord i m s) (hl : c.g.lanes = 0)
    (hw : c.g.wait = .none) (hr : c.g.rest.tail ≠ []) :
    ¬ Completes s c i ((s.track c c.g.fa none (.warpWide c.g.lanes [])).updGang c.g.uid fun g =>
      { g with wait := .lanes false }) := by
  intro hc
  obtain ⟨hgang, -⟩ := ctx_facts h.ctx
  obtain ⟨u, hu, hug⟩ := warpWideEff_noLanes (m := m) hgang hl
  obtain ⟨x, hx, hxw⟩ := retire_gang_wait hug hr
  have hexec : exec i s = .next (u.retire c []) := by
    rw [he]
    simp only [warpWideWord, issue, h.ctx, issueIn, h.quiet, h.sound, hu]
  have hset : ((s.track c c.g.fa none (.warpWide c.g.lanes [])).updGang c.g.uid fun g =>
      { g with wait := .lanes false }).gang c.g.uid = some { c.g with wait := .lanes false } :=
    updGang_gang_self hgang
  have hwait : x.wait = .lanes false := completes_gang_wait hc hexec hset hx
  rw [hxw, hw] at hwait
  cases hwait

end NoLanes

/-! ## A state with such a gang -/

/-- BALLOT of p0 into v8, v9 with the member mask in v6, v7 (R184). -/
def emptyBallot : Instr := .ballot 0 3 8

/-- Its word. -/
def emptyBallotWord : Word := 0x70018800

/-- A gang without lanes at the word, which another word follows. -/
def emptyGang : Gang :=
  { uid := 1, warp := 1, lanes := 0, hdr := 0, index := 1, rest := [emptyBallotWord, emptyBallotWord] }

/-- Its warp: 64 lanes, none of which has exited. -/
def fullWarp : Warp := { id := 1, group := 1, num := 0, slot := 0, lanes := List.replicate 64 {} }

/-- The warp's group, past its ACQUIRE, with registers enough for the word. -/
def ballotGroup : Group :=
  { id := 1, launch := 1, index := 0, ctx := 1, desc := { full := 96 }, die := 0, core := 0, quad := 0, acquired := true, lbase := 0 }

/-- The gang at issue. -/
def emptyBallotState : State :=
  { gangs := [emptyGang], warps := [fullWarp], groups := [ballotGroup], cur := 1, nextId := 2 }

/-- What the word reads: no operation of the warp holds a result. -/
def emptyBallotCtx : Ctx := ⟨emptyGang, fullWarp, ballotGroup, fullWarp⟩

theorem emptyBallot_issues : Issues emptyBallotState emptyBallotCtx emptyBallot :=
  ⟨rfl, rfl, by decide⟩

theorem emptyBallot_encodes : encodeCore emptyBallot = some emptyBallotCtx.g.word := rfl

/-- Refutes O12: its clause for a missing member sets the issuing gang waiting whatever lanes the gang holds. A gang that
holds none meets the hypotheses on the active lanes, but no lane of it parks and the model lets it go on. -/
theorem not_warpWideWords : ¬ Obligations.WarpWideWords := by
  intro h
  obtain ⟨harrive, -⟩ := h
  obtain ⟨-, hmask⟩ := harrive emptyBallotState emptyBallotCtx emptyBallot _ rfl emptyBallot_issues emptyBallot_encodes
  have hactive : ∀ l, ¬ inMask emptyBallotCtx.g.lanes l = true := fun l hl => by
    rw [show inMask emptyBallotCtx.g.lanes l = false from BitVec.getLsbD_zero] at hl
    cases hl
  have hmissing : ∃ l, l < 64 ∧ inMask 1 l = true ∧ inMask emptyBallotCtx.w.live l = true ∧
      ¬ inMask emptyBallotCtx.g.lanes l = true := ⟨0, by decide, by decide, by decide, hactive 0⟩
  obtain ⟨-, hpark⟩ := hmask 1 (fun l _ hl => absurd hl (hactive l)) (fun _ ho => absurd ho List.not_mem_nil)
  exact noLanes_not_parked emptyBallot_issues rfl rfl rfl (List.cons_ne_nil _ _) (hpark hmissing)

end Sys2Proof.WarpWideProofs
end

section
/-! SUPPORT. USRD and USWR (R194–R196, R209): the values of the special registers, and what each of the two words does. -/

namespace Sys2Proof.SpecialRegisterProofs
open Sys2Proof Sys2Proof.Machine

/-! ## The values read -/

/-- The special registers of the tables of R194 and R209 whose value the statement gives:
number and value. -/
def srTable (s : State) (c : Ctx) : List (Nat × Word) :=
  [(0x00, word c.w.num), (0x01, word c.grp.desc.warps), (0x02, loWord c.grp.index), (0x03, hiWord c.grp.index),
    (0x04, loWord c.g.lanes), (0x05, hiWord c.g.lanes), (0x06, loWord c.w.live), (0x07, hiWord c.w.live),
    (0x08, word (c.grp.die * 512 + c.grp.core)), (0x09, word (c.grp.die * 128 + c.grp.core / 4)),
    (0x0A, word s.pkg.pkgid), (0x0B, word c.grp.allot), (0x0C, word (s.die c.grp.die).clk), (0x0D, hiWord c.w.clkCap),
    (0x0E, word c.w.prio), (0x0F, word c.grp.desc.lbytes), (0x20, c.w.trap.cause), (0x21, c.w.trap.pc),
    (0x22, c.w.trap.word), (0x23, c.w.trap.d), (0x24, c.w.trap.a), (0x25, c.w.trap.b), (0x26, c.w.trap.imm),
    (0x27, loWord c.w.trap.lanes), (0x28, hiWord c.w.trap.lanes), (0x29, loWord c.w.trap.addr),
    (0x2A, hiWord c.w.trap.addr), (0x2B, loWord c.w.trap.aux), (0x2C, hiWord c.w.trap.aux)]

theorem srTable_eq_map (s : State) (c : Ctx) : srTable s c = (srTable s c).map fun x => (x.1, srValue s c x.1) := rfl

theorem srValue_of_mem_srTable {s : State} {c : Ctx} {x : Nat × Word} (hx : x ∈ srTable s c) : srValue s c x.1 = x.2 := by
  rw [srTable_eq_map, List.mem_map] at hx
  obtain ⟨y, -, rfl⟩ := hx
  rfl

/-! ## What the words complete as -/

/-- A word counted on no flag leaves every count as it is. -/
theorem fallNow_none (s : State) (n : Nat) : s.fallNow n none none = s := by
  have hmap : updateBy Warp.id n (fun w => w) s.warps = s.warps := by
    simp only [updateBy, ite_self, List.map_id']
  show { s with warps := updateBy Warp.id n (fun w => w) s.warps } = s
  rw [hmap]

section Usrd
variable {s : State} {c : Ctx} {k : BitVec 3} {d : BitVec 5} {n : BitVec 10}

/-- With a false guard only a tracked read's count falls. -/
theorem usrd_guardedOut (h : Issues s c (.usrd k d n)) (hk : guardUni k c.w = false) :
    Completes s c (.usrd k d n) (if n.toNat < 0x100 then s else s.fallNow c.w.id c.g.fa none) := by
  have hgo := h.completes rfl (if_pos hk)
  by_cases hn : n.toNat < 0x100
  · rw [if_neg (Nat.not_le.2 hn), fallNow_none] at hgo
    rwa [if_pos hn]
  · rw [if_pos (Nat.not_lt.1 hn)] at hgo
    rwa [if_neg hn]

/-- Below 0x100 the register is written at once. -/
theorem usrd_untracked (h : Issues s c (.usrd k d n)) (hk : guardUni k c.w = true) (hn : n.toNat < 0x100) (hclk : n ≠ 0x0C) :
    Completes s c (.usrd k d n) (s.setWarp (c.w.putS d.toNat (srValue s c n.toNat))) := by
  refine h.completes_moved rfl ((if_neg (ne_false_of_eq_true hk)).trans (if_neg (Nat.not_le.2 hn))) ?_ rfl
  rw [if_neg hclk]
  exact unquiet_moved s _

/-- A read of clklo captures the whole count as well. -/
theorem usrd_clklo (h : Issues s c (.usrd k d n)) (hk : guardUni k c.w = true) (hclk : n = 0x0C) :
    Completes s c (.usrd k d n) (s.setWarp { c.w.putS d.toNat (srValue s c n.toNat) with
      clkCap := dword (s.die c.grp.die).clk }) := by
  have hn : ¬ 0x100 ≤ n.toNat := by rw [hclk]; decide
  refine h.completes_moved rfl ((if_neg (ne_false_of_eq_true hk)).trans (if_neg hn)) ?_ rfl
  rw [if_pos hclk]
  exact unquiet_moved s _

/-- From 0x100 on the value is that of an operation tracked on seta. -/
theorem usrd_tracked (h : Issues s c (.usrd k d n)) (hk : guardUni k c.w = true) (hn : 0x100 ≤ n.toNat) :
    Completes s c (.usrd k d n) (s.track c c.g.fa none (.done [⟨uniLane, d.toNat, srValue s c n.toNat⟩])) := by
  refine h.completes_moved rfl ((if_neg (ne_false_of_eq_true hk)).trans (if_pos hn)) ?_ rfl
  rw [if_pos hn]
  exact updWarp_moved _ c.w.id _ (fun _ h => h) fun w _ => unquiet_kept w

end Usrd

section Uswr
variable {s : State} {c : Ctx} {k : BitVec 3} {a : BitVec 5} {n : BitVec 10}

theorem uswr_guardedOut (h : Issues s c (.uswr k a n)) (hk : guardUni k c.w = false) : Completes s c (.uswr k a n) s :=
  h.completes rfl (if_pos hk)

theorem uswr_prio (h : Issues s c (.uswr k a n)) (hk : guardUni k c.w = true) (hn : n = 0x0E) :
    Completes s c (.uswr k a n)
      (s.updWarp c.w.id fun w => { w with prio := min ((c.rv.getS a.toNat).toNat % 8) c.grp.prio }) :=
  h.completes rfl ((if_neg (ne_false_of_eq_true hk)).trans (if_pos hn))

/-- The numbers of the group words are below 0x14, and none of them is prio's. -/
theorem uswr_groupWord (h : Issues s c (.uswr k a n)) (hk : guardUni k c.w = true) (hlo : 0x10 ≤ n.toNat)
    (hhi : n.toNat < 0x14) :
    Completes s c (.uswr k a n)
      (s.updGroup c.grp.id fun g => { g with gwords := tabSet 0 g.gwords (n.toNat - 0x10) (c.rv.getS a.toNat) }) :=
  have hprio : n ≠ 0x0E := by bv_omega
  h.completes rfl ((if_neg (ne_false_of_eq_true hk)).trans ((if_neg hprio).trans (if_pos hhi)))

theorem uswr_trapPc (h : Issues s c (.uswr k a n)) (hk : guardUni k c.w = true) (hn : n = 0x21) :
    Completes s c (.uswr k a n)
      (s.updWarp c.w.id fun w => { w with
        trap := { w.trap with pc := c.rv.getS a.toNat }
        handler := w.handler.map fun h => { h with wrotePc := true } }) :=
  have hprio : n ≠ 0x0E := by bv_omega
  have hgroup : ¬ n.toNat < 0x14 := by bv_omega
  h.completes rfl ((if_neg (ne_false_of_eq_true hk)).trans ((if_neg hprio).trans ((if_neg hgroup).trans (if_pos hn))))

/-- Past TRAP_PC only the handler scratch registers are left. -/
theorem uswr_scratch (h : Issues s c (.uswr k a n)) (hk : guardUni k c.w = true) (hlo : 0x2D ≤ n.toNat) :
    Completes s c (.uswr k a n)
      (s.updWarp c.w.id fun w =>
        { w with trap := { w.trap with hscr := listSet w.trap.hscr (n.toNat - 0x2D) (c.rv.getS a.toNat) } }) :=
  have hprio : n ≠ 0x0E := by bv_omega
  have hgroup : ¬ n.toNat < 0x14 := by omega
  have hpc : n ≠ 0x21 := by bv_omega
  h.completes rfl ((if_neg (ne_false_of_eq_true hk)).trans ((if_neg hprio).trans ((if_neg hgroup).trans (if_neg hpc))))

end Uswr

/-- Settles O15: the register tables give the values read, and each class of register number takes its own branch of USRD and
of USWR. -/
theorem specialRegisters : Obligations.SpecialRegisters := by
  refine ⟨fun s c k d n h => ⟨usrd_guardedOut h, usrd_untracked h, usrd_clklo h, usrd_tracked h, fun x hx hn => ?_⟩,
    fun s c k a n h => ⟨uswr_guardedOut h, uswr_prio h, uswr_groupWord h, uswr_trapPc h,
      fun hk hlo _ => uswr_scratch h hk hlo⟩⟩
  rw [hn]
  exact srValue_of_mem_srTable hx

end Sys2Proof.SpecialRegisterProofs
end

section
/-! SUPPORT. RTT and the accessors of a handler (R213, R219, R220): the state that the return of a handler's lanes leaves, the
values that the accessors read, and what each of them writes. -/

namespace Sys2Proof.HandlerProofs
open Sys2Proof Sys2Proof.Machine Sys2Proof.WordProofs Sys2Proof.TransferProofs

/-! ## Lists -/

section Lists
variable {α β : Type}

/-- Two lists with one list of projections, element by element. -/
theorem exists_getElem?_of_map_eq {p : α → β} {xs ys : List α} {n : Nat} {x : α} (h : xs.map p = ys.map p)
    (hx : xs[n]? = some x) : ∃ y, ys[n]? = some y ∧ p y = p x := by
  have hn : (ys.map p)[n]? = some (p x) := by rw [← h, List.getElem?_map, hx, Option.map_some]
  rwa [List.getElem?_map, Option.map_eq_some_iff] at hn

/-- Two changes of one element that agree under a projection. -/
theorem map_listModify_congr {p : α → β} {f g : α → α} (h : ∀ x, p (f x) = p (g x)) (l : List α) (n : Nat) :
    (listModify f l n).map p = (listModify g l n).map p := by
  induction l generalizing n with
  | nil => rfl
  | cons x t ih => cases n <;> simp [listModify, h, ih]

theorem lookupBy_eq_find? (key : α → Nat) (l : List α) (n : Nat) : lookupBy key l n = l.find? fun x => key x == n := by
  induction l with
  | nil => rfl
  | cons x t ih => by_cases h : key x = n <;> simp [lookupBy, h, ih]

theorem lookupBy_none_of_sublist {key : α → Nat} {l m : List α} {n : Nat} (h : l.Sublist m) (hm : lookupBy key m n = none) :
    lookupBy key l n = none := by
  rw [lookupBy_eq_find?, List.find?_eq_none] at hm ⊢
  exact fun x hx => hm x (h.mem hx)

/-- A new name is found at the end of the list. -/
theorem lookupBy_concat_new {key : α → Nat} {l : List α} {n : Nat} {x : α} (hl : lookupBy key l n = none) (hx : key x = n) :
    lookupBy key (l ++ [x]) n = some x := by
  rw [lookupBy_eq_find?] at hl ⊢
  simp [List.find?_append, hl, hx]

end Lists

/-! ## A warp put in the place of another -/

theorem setWarp_moved {a b : Warp} (s : State) (h : WarpKept a b) : Moved (s.setWarp a) (s.setWarp b) := by
  unfold State.setWarp
  rw [h.id]
  exact updWarps_moved s a.id _ _ (fun _ _ => rfl) (fun _ _ => h.id) fun _ _ => h

theorem setWarp_warp {s : State} {n : Nat} {w : Warp} (x : Warp) (hs : s.warp n = some w) (hx : x.id = n) :
    (s.setWarp x).warp n = some x := by
  unfold State.setWarp
  rw [hx, State.updWarp_warp s n n _ fun _ _ => hx, if_pos rfl, hs, Option.map_some]

/-! ## Words at issue -/

section Exec
variable {s u : State} {c : Ctx} {i : Instr} {eff : Ctx → State → Eff} (h : Issues s c i)
  (he : exec i s = issue (issueFault i) eff s)
include h he

theorem exec_of_go (hf : eff c s = .go u []) : exec i s = .next (u.retire c []) := by
  rw [he]
  simp only [issue, h.ctx, issueIn, h.quiet, h.sound, hf]

theorem exec_of_jump (hf : eff c s = .jump u) : exec i s = .next u.draw :=
  he.trans (issue_jump h.ctx h.quiet h.sound hf)

end Exec

/-! ## Accessors that read (R219, R220) -/

theorem reachable_iff (c : Ctx) (l code : Nat) :
    reachable c l code = true ↔ (c.w.lane l).stat ≠ .exited ∧ (96 ≤ code ∨ code < c.grp.allot) := by
  simp only [reachable, Bool.and_eq_true, Bool.or_eq_true, bne_iff_ne, decide_eq_true_eq]

/-- Predicate 0 reads as 1. -/
theorem setWidth_preds_or_one (p : BitVec 8) : (p ||| 1).setWidth 32 = word (p.toNat / 2 * 2 + 1) := by
  revert p
  decide

section Reads
variable {s : State} {c : Ctx} {k : BitVec 3} {d a : BitVec 5}

theorem lread_completes {b : BitVec 5} (h : Issues s c (.lread k d a b)) :
    let l := selLane c.rv a
    let code := selCode c.rv b
    Completes s c (.lread k d a b) (s.putUni c k d (if reachable c l code then readCode c.rv l code else 0)) :=
  h.putUni rfl rfl

theorem pread_completes (h : Issues s c (.pread k d a)) :
    let ln := c.w.lane (selLane c.rv a)
    Completes s c (.pread k d a) (s.putUni c k d
      (if ln.stat = .exited then 0 else word (ln.preds.toNat / 2 * 2 + 1))) := by
  intro ln
  rw [← setWidth_preds_or_one]
  exact h.putUni rfl rfl

theorem mread_completes {x : BitVec 1} (h : Issues s c (.mread k d a x)) :
    let l := selLane c.rv a
    Completes s c (.mread k d a x) (s.putUni c k d
      (if (c.w.lane l).stat = .exited then 0 else if x = 0 then lanePc c.w l else (c.w.lane l).meet)) :=
  h.putUni rfl rfl

end Reads

/-! ## Writes of registers and predicates (R220) -/

section Writes
variable {s : State} {c : Ctx} {k : BitVec 3} {d a : BitVec 5}

section Lwrite
variable {b : BitVec 5} (h : Issues s c (.lwrite k d a b))
include h

theorem lwrite_discarded
    (hno : guardUni k c.w = true → ¬ reachable c (selLane c.rv a) (selCode c.rv b) = true) :
    Completes s c (.lwrite k d a b) s :=
  h.completes rfl (if_neg fun hyes => hno (Bool.and_eq_true_iff.1 hyes).1 (Bool.and_eq_true_iff.1 hyes).2)

variable (hk : guardUni k c.w = true) (hr : reachable c (selLane c.rv a) (selCode c.rv b) = true)
include hk hr

theorem lwrite_lane (hv : selCode c.rv b < 96) :
    Completes s c (.lwrite k d a b) (s.setWarp { s.overwrite c.w (selLane c.rv a) (selCode c.rv b) with
      lanes := listModify (fun ln => ln.put (selCode c.rv b) (c.rv.getS d.toNat)) c.w.lanes (selLane c.rv a) }) := by
  refine h.completes rfl ((if_pos (Bool.and_eq_true_iff.2 ⟨hk, hr⟩)).trans ?_)
  dsimp only
  rw [if_pos hv]

theorem lwrite_uniform (hs : 96 ≤ selCode c.rv b) :
    Completes s c (.lwrite k d a b) (s.setWarp
      ((s.overwrite c.w uniLane (selCode c.rv b - 96)).putS (selCode c.rv b - 96) (c.rv.getS d.toNat))) := by
  refine h.completes_moved rfl (if_pos (Bool.and_eq_true_iff.2 ⟨hk, hr⟩)) ?_ rfl
  rw [if_neg (Nat.not_lt.2 hs)]
  exact unquiet_moved s _

end Lwrite

/-- The warp after a write of one lane, which an exited lane discards. -/
def writeLane (w : Warp) (l : Nat) (f : Lane → Lane) : Warp :=
  { w with lanes := listModify (fun ln => if ln.stat = .exited then ln else f ln) w.lanes l }

theorem pwrite_completes (h : Issues s c (.pwrite k d a)) :
    Completes s c (.pwrite k d a) (if guardUni k c.w then
      s.setWarp (writeLane c.w (selLane c.rv a) fun ln =>
        { ln with preds := ((c.rv.getS d.toNat).setWidth 8 &&& 0xFE) ||| (ln.preds &&& 1) }) else s) := by
  by_cases hk : guardUni k c.w = true
  · rw [if_pos hk]
    exact h.completes rfl (if_pos hk)
  · rw [if_neg hk]
    exact h.completes rfl (if_neg hk)

/-! ## Writes of the meeting register (R220) -/

/-- The meeting register is written at once; where the lane then parks or stands ready is its progress. -/
theorem writeMeet_kept (s : State) (grp : Group) (w : Warp) (l : Nat) (v : Word) :
    WarpKept (writeLane w l fun ln => { ln with meet := v }) (writeMeet s grp w l v) := by
  refine ⟨rfl, map_listModify_congr (fun ln => ?_) w.lanes l, fun _ o ho => ⟨o, ho, .refl o⟩⟩
  dsimp only
  split <;> rfl

theorem mwrite_guardedOut {x : BitVec 1} (h : Issues s c (.mwrite k d a x)) (hk : guardUni k c.w = false) :
    Completes s c (.mwrite k d a x) s :=
  h.completes rfl (if_neg (by rw [hk]; decide))

theorem mwrite_meet (h : Issues s c (.mwrite k d a 1)) (hk : guardUni k c.w = true) :
    Completes s c (.mwrite k d a 1)
      (s.setWarp (writeLane c.w (selLane c.rv a) fun ln => { ln with meet := c.rv.getS d.toNat })) :=
  h.completes_moved rfl (if_pos hk)
    (setWarp_moved s ((writeMeet_kept s c.grp c.w _ _).trans (meetRelease_kept _))) rfl

/-! ## Writes of the pc (R220) -/

/-- A lane of the handler takes a written pc where it resumes. -/
theorem writePc_handlerLane {w : Warp} {h : Handler} {l : Nat} (s : State) (grp : Group) (v : Word)
    (hh : w.handler = some h) (hl : inMask h.lanes l = true) :
    writePc s grp w l v = { w with handler := some { h with resume := tabPut h.resume l v } } := by
  simp only [writePc, hh, hl, if_true, Option.map_some]

theorem mwrite_pc_handlerLane (h : Issues s c (.mwrite k d a 0)) (hk : guardUni k c.w = true) {hd : Handler}
    (hh : c.w.handler = some hd) (hl : inMask hd.lanes (selLane c.rv a) = true) :
    Completes s c (.mwrite k d a 0)
      (s.setWarp { c.w with handler := some { hd with resume := tabPut hd.resume (selLane c.rv a) (c.rv.getS d.toNat) } }) := by
  refine h.completes_moved rfl (if_pos hk) ?_ rfl
  rw [if_pos rfl, writePc_handlerLane s c.grp _ hh hl]
  exact setWarp_meetRelease_moved s _

end Writes

/-- A lane outside every clause and outside the handler takes a written pc at once. -/
theorem writePc_outside {s : State} {w : Warp} {l : Nat} (grp : Group) (v : Word)
    (hh : ∀ h, w.handler = some h → inMask h.lanes l = false) (hg : s.inGang w.id l = false) :
    ∃ f, writePc s grp w l v = writeLane w l f ∧ ∀ ln, (f ln).pc = v ∧ (f ln).regs = ln.regs := by
  unfold writePc
  dsimp only
  rw [if_neg]
  · simp only [hg, Bool.false_eq_true, if_false]
    exact ⟨_, rfl, fun _ => ⟨rfl, rfl⟩⟩
  · cases hw : w.handler with
    | none => exact Bool.false_ne_true
    | some h => exact ne_true_of_eq_false (hh h hw)

theorem writeLane_lane {w : Warp} {l : Nat} {ln : Lane} (f : Lane → Lane) (hln : w.lanes[l]? = some ln)
    (hs : ln.stat ≠ .exited) : (writeLane w l f).lanes[l]? = some (f ln) := by
  rw [writeLane, getElem?_listModify, if_pos rfl, hln, Option.map_some, if_neg hs]

/-! ## Lanes outside the gang of a word that retires -/

/-- Lane l of the warp n stands at p. -/
def LaneAt (s : State) (n l : Nat) (p : Word × Bool) : Prop :=
  ∃ w ln, s.warp n = some w ∧ w.lanes[l]? = some ln ∧ ln.stand = p

section LaneAt
variable {s t : State} {n l : Nat} {p : Word × Bool}

theorem LaneAt.of_allStand (h : LaneAt s n l p) (hst : AllStand s t) : LaneAt t n l p := by
  obtain ⟨w, ln, hw, hln, rfl⟩ := h
  obtain ⟨x, hx, hwx⟩ := hst n w hw
  obtain ⟨lm, hlm, hstand⟩ := exists_getElem?_of_map_eq hwx.lanes.symm hln
  exact ⟨x, lm, hx, hlm, hstand⟩

/-- An update of a warp that leaves lane l where it stands. -/
theorem LaneAt.updWarp (h : LaneAt s n l p) (m : Nat) (f : Warp → Warp) (hid : ∀ w, w.id = m → (f w).id = m)
    (hf : ∀ w ln, s.warp m = some w → w.lanes[l]? = some ln → ∃ lm, (f w).lanes[l]? = some lm ∧ lm.stand = ln.stand) :
    LaneAt (s.updWarp m f) n l p := by
  obtain ⟨w, ln, hw, hln, rfl⟩ := h
  by_cases hn : n = m
  · subst hn
    obtain ⟨lm, hlm, hstand⟩ := hf w ln hw hln
    exact ⟨f w, lm, by rw [State.updWarp_warp s n n f hid, if_pos rfl, hw, Option.map_some], hlm, hstand⟩
  · exact ⟨w, ln, by rw [State.updWarp_warp s m n f hid, if_neg hn, hw], hln, rfl⟩

theorem LaneAt.popWord {c : Ctx} (h : LaneAt s n l p) (hl : inMask c.g.lanes l = false) : LaneAt (s.popWord c) n l p := by
  unfold State.popWord
  refine LaneAt.of_allStand ?_ (.of_warps (State.updGang_warps _ _ _))
  refine LaneAt.updWarp h c.w.id _ (fun _ h => h) fun w ln _ hln => ⟨ln, ?_, rfl⟩
  refine (getElem?_mapLanes w c.g.lanes _ l).trans ?_
  rw [hln, Option.map_some, if_neg (by rw [hl]; decide)]

/-- The end of a gang's clause leaves a lane outside the gang where it stands. -/
theorem leave_outside {w : Warp} {g : Gang} {ln : Lane} (grp : Group) (clk : Nat) (sees : Nat → Bool) (meets : Word → Bool)
    (hl : inMask g.lanes l = false) (hln : w.lanes[l]? = some ln) :
    ∃ lm, (w.leave g grp clk sees meets).lanes[l]? = some lm ∧ lm.stand = ln.stand := by
  have hmon : ((backTargets w g.lanes).foldl (fun w h => w.assignMonitor h clk) w).lanes = w.lanes :=
    foldl_keeps (fun a b : Warp => b.lanes = a.lanes) (fun _ => rfl) (fun _ _ _ h h' => h'.trans h) _
      (fun w h => assignMonitor_lanes w h clk) _ w
  have hrelease (x : Warp) (hx : x.lanes[l]? = some ln) :
      ∃ lm, ((x.meetRelease.wwEval sees).keepDemoted).lanes[l]? = some lm ∧ lm.stand = ln.stand :=
    exists_getElem?_of_map_eq ((meetRelease_stand x).trans (wwEval_stand sees _)).lanes.symm hx
  have hstay (f : Nat → Lane → Lane) :
      (((backTargets w g.lanes).foldl (fun w h => w.assignMonitor h clk) w).mapLanes g.lanes f).lanes[l]? = some ln := by
    rw [getElem?_mapLanes, hmon, hln, Option.map_some, if_neg (by rw [hl]; decide)]
  refine hrelease _ ?_
  split <;> exact hstay _

theorem LaneAt.endClause (h : LaneAt s n l p) (uid : Nat) (hl : ∀ g, s.gang uid = some g → inMask g.lanes l = false) :
    LaneAt (s.endClause uid) n l p := by
  unfold State.endClause
  split
  next => exact h
  next g hg =>
    have hdel : LaneAt (s.delGang uid) n l p := h
    split
    next => exact hdel
    next w hw =>
      split
      next => exact hdel
      next grp _ =>
        refine LaneAt.of_allStand ?_ (barPoll_stand _ _)
        refine hdel.updWarp g.warp _ (fun _ _ => (leave_kept w g grp _ _ _).id.trans (State.warp_id hw)) fun x ln hx hln => ?_
        obtain rfl : w = x := Option.some.inj (hw.symm.trans hx)
        exact leave_outside grp _ _ _ (hl g hg) hln

theorem LaneAt.finish (h : LaneAt s n l p) (uid : Nat) (hl : ∀ g, s.gang uid = some g → inMask g.lanes l = false) :
    LaneAt (s.finish uid) n l p := by
  unfold State.finish
  split
  next => exact h
  next =>
    split
    · exact h.endClause uid hl
    · exact h

/-- A word that retires leaves a lane outside its gang where it stands. -/
theorem LaneAt.retire {c : Ctx} (h : LaneAt s n l p) (hg : s.gang c.g.uid = some c.g) (hl : inMask c.g.lanes l = false) :
    LaneAt (s.retire c []) n l p := by
  unfold State.retire
  rw [takeWatch_nil]
  refine LaneAt.of_allStand ?_ (.of_warps (State.draw_warps _))
  refine (h.popWord hl).finish c.g.uid fun g hpop => ?_
  have hmoved : (s.popWord c).gang c.g.uid = some { c.g with index := c.g.index + 1, rest := c.g.rest.tail } :=
    WarpWideProofs.updGang_gang_self hg
  obtain rfl := Option.some.inj (hmoved.symm.trans hpop)
  exact hl

end LaneAt

theorem not_inMask_of_not_inGang {s : State} {c : Ctx} {l : Nat} (hc : s.ctx = some c) (hg : s.inGang c.w.id l = false) :
    inMask c.g.lanes l = false := by
  obtain ⟨hgang, -, -, -, hw⟩ := ctx_facts hc
  have hout := List.any_eq_false.1 hg c.g (lookupBy_mem hgang)
  simpa [hw] using hout

/-- MWRITE of the pc of a lane outside every clause and outside the handler: the lane stands there, its registers kept. -/
theorem mwrite_pc_outside {s : State} {c : Ctx} {k : BitVec 3} {d a : BitVec 5} {ln : Lane} (h : Issues s c (.mwrite k d a 0))
    (hk : guardUni k c.w = true) (hh : ∀ h, c.w.handler = some h → inMask h.lanes (selLane c.rv a) = false)
    (hg : s.inGang c.w.id (selLane c.rv a) = false) (hln : c.w.lanes[selLane c.rv a]? = some ln) (hs : ln.stat ≠ .exited) :
    ∃ t v lm, exec (.mwrite k d a 0) s = .next t ∧ t.warp c.w.id = some v ∧ v.lanes[selLane c.rv a]? = some lm ∧
      lm.pc = c.rv.getS d.toNat ∧ lm.regs = ln.regs := by
  obtain ⟨f, hf, hput⟩ := writePc_outside c.grp (c.rv.getS d.toNat) hh hg
  obtain ⟨hpc, hregs⟩ := hput ln
  let u := s.setWarp (writeLane c.w (selLane c.rv a) f).meetRelease
  have hexec : exec (.mwrite k d a 0) s = .next (u.retire c []) :=
    exec_of_go h rfl ((if_pos hk).trans (by dsimp only; rw [if_pos rfl, hf]))
  have hu : u.warp c.w.id = some (writeLane c.w (selLane c.rv a) f).meetRelease := setWarp_warp _ (ctx_warp h.ctx) rfl
  have hwritten := writeLane_lane f hln hs
  obtain ⟨lw, hlw, hstand⟩ := exists_getElem?_of_map_eq (meetRelease_stand _).lanes.symm hwritten
  obtain ⟨hgang, -⟩ := ctx_facts h.ctx
  have hat : LaneAt u c.w.id (selLane c.rv a) (f ln).stand := ⟨_, lw, hu, hlw, hstand⟩
  obtain ⟨v, lm, hv, hlm, hlmstand⟩ := hat.retire hgang (not_inMask_of_not_inGang h.ctx hg)
  obtain ⟨x, hx, hkept⟩ := (retire_retired u c).warps _ _ hu
  obtain rfl : v = x := Option.some.inj (hv.symm.trans hx)
  obtain ⟨ly, hly, hlyregs⟩ := exists_getElem?_of_map_eq ((meetRelease_kept _).trans hkept).lanes.symm hwritten
  obtain rfl : lm = ly := Option.some.inj (hlm.symm.trans hly)
  exact ⟨_, v, lm, hexec, hv, hlm, (congrArg Prod.fst hlmstand).trans hpc, hlyregs.trans hregs⟩

/-! ## The return of a handler's lanes (R213) -/

/-- The handler's gangs end; nothing else changes. -/
theorem endHandlerGangs_eq (s : State) (c : Ctx) :
    ∃ gs : List Gang, gs.Sublist s.gangs ∧ s.endHandlerGangs c = { s with gangs := gs } := by
  unfold State.endHandlerGangs
  split <;> exact ⟨_, List.filter_sublist, rfl⟩

theorem lower_eq (w : Warp) (f n : Nat) : ∃ fl, w.lower f n = { w with flags := fl } := by
  unfold Warp.lower
  split <;> exact ⟨_, rfl⟩

/-- Counts that fall and a path that is demoted change only flags and demotions. -/
theorem lowerFor_demote_eq (w : Warp) (a b : Nat) (ws : List Word) (p : Bool) (m : Dword) (clk : Nat) :
    ∃ fl dm, (if p then (w.lowerFor a b ws).demote m clk else w.lowerFor a b ws) = { w with flags := fl, demoted := dm } := by
  obtain ⟨fa, ha⟩ := lower_eq w a (countA ws)
  obtain ⟨fb, hb⟩ := lower_eq { w with flags := fa } b (countB ws)
  rw [Warp.lowerFor, ha, hb]
  split <;> exact ⟨_, _, rfl⟩

/-- The gang in which the lanes of a handler go on inside their clause. -/
def resumedGang (s : State) (w : Warp) (h : Handler) (skip : Bool) : Gang :=
  { uid := s.nextId, warp := w.id, lanes := w.together h, hdr := h.hdr, rest := h.left w.trap skip, seta := h.seta,
    setb := h.setb, yield := h.yield, index := if skip then h.index w.trap + 1 else h.index w.trap }

/-- The state with that gang, where some lanes go on. -/
def withResumed (s : State) (w : Warp) (h : Handler) (skip : Bool) : State :=
  if h.inside w.trap skip && w.together h != 0 then
    { s with nextId := s.nextId + 1, gangs := s.gangs ++ [resumedGang s w h skip] }
  else s

/-- The handler's lanes resume where no other event waits for the handler. -/
theorem resume_calm {s : State} {w : Warp} {h : Handler} {grp : Group} (skip : Bool) (rtt : Xfer)
    (hw : s.warp w.id = some w) (hh : w.handler = some h) (hg : s.group w.group = some grp) (hp : w.pendTraps = []) :
    ∃ fl dm, s.resume w.id skip rtt = (withResumed s w h skip).setWarp
      { w.resumed h skip rtt (s.meets grp) with flags := fl, demoted := dm } := by
  obtain ⟨fl, dm, hlow⟩ := lowerFor_demote_eq (w.resumed h skip rtt (s.meets grp)) h.seta h.setb
    (h.dropped w.trap skip (h.inside w.trap skip && w.together h != 0))
    (h.yield && !(h.inside w.trap skip && w.together h != 0) && w.together h != 0) (w.together h) (s.die grp.die).clk
  have hpend : (w.resumed h skip rtt (s.meets grp)).pendTraps = [] := hp
  refine ⟨fl, dm, ?_⟩
  simp only [State.resume, hw, hh, hg, hlow, hpend]
  rfl

section WithResumed
variable (s : State) (w : Warp) (h : Handler) (skip : Bool)

theorem withResumed_warp (n : Nat) : (withResumed s w h skip).warp n = s.warp n := by
  unfold withResumed
  split <;> rfl

theorem withResumed_mem : (withResumed s w h skip).mem = s.mem := by
  unfold withResumed
  split <;> rfl

end WithResumed

/-- The gang in which lanes go on is found by its name, which is new. -/
theorem withResumed_gang {s : State} {w : Warp} {h : Handler} {skip : Bool} (hnew : s.gang s.nextId = none)
    (hin : h.inside w.trap skip = true) (hsome : w.together h ≠ 0) :
    (withResumed s w h skip).gang s.nextId = some (resumedGang s w h skip) := by
  have hon : (h.inside w.trap skip && w.together h != 0) = true :=
    Bool.and_eq_true_iff.2 ⟨hin, bne_iff_ne.2 hsome⟩
  rw [withResumed, if_pos hon]
  exact lookupBy_concat_new hnew rfl

/-- The lanes that resume are those of the handler that have not exited. -/
theorem resuming_eq (w : Warp) (h : Handler) : w.resuming h = h.lanes &&& w.live := by
  apply BitVec.eq_of_getLsbD_eq
  intro l hl
  rw [BitVec.getLsbD_and, Warp.resuming, Warp.live, Warp.lanesWhere, Warp.lanesWhere,
    getLsbD_maskFrom _ 0 l w.lanes hl (Nat.zero_le l), getLsbD_maskFrom _ 0 l w.lanes hl (Nat.zero_le l)]
  cases w.lanes[l - 0]? <;> simp [inMask]

/-- Where MWRITE has set no pc the lanes that resume stay together. -/
theorem together_eq (w : Warp) {h : Handler} (hr : h.resume = []) : w.together h = h.lanes &&& w.live := by
  rw [← resuming_eq]
  simp [Warp.together, Warp.resuming, hr, tabFind]

/-- A lane that resumes stands at the handler's target. -/
theorem resumed_pc {w : Warp} {h : Handler} {skip : Bool} {rtt : Xfer} {meets : Word → Bool} {l : Nat} {ln : Lane}
    (hr : h.resume = []) (hln : (w.resumed h skip rtt meets).lanes[l]? = some ln) (hl : inMask (w.resuming h) l = true) :
    ln.pc = h.target w.trap skip := by
  have hmap : (w.mapLanes (w.resuming h) (h.place w.trap skip rtt meets)).lanes[l]? = some ln := hln
  rw [getElem?_mapLanes, Option.map_eq_some_iff] at hmap
  obtain ⟨lm, -, rfl⟩ := hmap
  rw [if_pos hl]
  simp only [Handler.place, hr, tabFind, Option.getD_none]

/-- Registers stay as they were. -/
theorem resumed_regs (w : Warp) (h : Handler) (skip : Bool) (rtt : Xfer) (meets : Word → Bool) :
    (w.resumed h skip rtt meets).lanes.map Lane.regs = w.lanes.map Lane.regs :=
  (mapLanes_kept w (w.resuming h) (h.place w.trap skip rtt meets) fun _ _ => rfl).lanes

section Rtt
variable {s : State} {c : Ctx} {k : BitVec 3} {m : BitVec 1} (h : Issues s c (.rtt k m))
include h

theorem rtt_guardedOut (hk : guardUni k c.w = false) : Completes s c (.rtt k m) s := h.completes rfl (if_pos hk)

theorem rtt_stalls (hk : guardUni k c.w = true) (hb : s.handlerBusy c = true) : Stalls s (.rtt k m) :=
  h.stalls rfl ((if_neg (by rw [hk]; decide)).trans (if_pos hb))

/-- RTT ends the handler and its gangs; its lanes resume and go on as one gang where they resume inside their clause. -/
theorem rtt_returns {hd : Handler} (hh : c.w.handler = some hd) (hk : guardUni k c.w = true) (hb : s.handlerBusy c = false)
    (hp : c.w.pendTraps = []) (hr : hd.resume = []) (hnew : s.gang s.nextId = none) :
    ∃ t x, exec (.rtt k m) s = .next t ∧ t.warp c.w.id = some x ∧ x.handler = none ∧ t.mem = s.mem ∧
      x.lanes.map Lane.regs = c.w.lanes.map Lane.regs ∧
      (∀ (l : Nat) (ln : Lane), x.lanes[l]? = some ln → inMask (hd.lanes &&& c.w.live) l →
        ln.pc = hd.target c.w.trap (m == 1)) ∧
      (hd.inside c.w.trap (m == 1) = true → hd.lanes &&& c.w.live ≠ 0 →
        t.gang s.nextId = some (resumedGang s c.w hd (m == 1))) := by
  obtain ⟨-, -, hgrp, -, -⟩ := ctx_facts h.ctx
  have hw : s.warp c.w.id = some c.w := ctx_warp h.ctx
  obtain ⟨gs, hsub, hend⟩ := endHandlerGangs_eq s c
  let rtt : Xfer := { pc := c.g.pc, word := c.g.word, index := c.g.index }
  obtain ⟨fl, dm, hres⟩ := resume_calm (s := { s with gangs := gs }) (m == 1) rtt hw hh hgrp hp
  let v : Warp := { c.w.resumed hd (m == 1) rtt (State.meets { s with gangs := gs } c.grp) with flags := fl, demoted := dm }
  let u : State := (withResumed { s with gangs := gs } c.w hd (m == 1)).setWarp v
  have hexec : exec (.rtt k m) s = .next (u.updWarp c.w.id Warp.meetRelease).draw :=
    exec_of_jump h rfl ((if_neg (by rw [hk]; decide)).trans ((if_neg (by rw [hb]; decide)).trans (by dsimp only; rw [hend, hres])))
  have hu : u.warp c.w.id = some v := setWarp_warp v ((withResumed_warp _ _ _ _ _).trans hw) rfl
  have hx : (u.updWarp c.w.id Warp.meetRelease).draw.warp c.w.id = some v.meetRelease := by
    refine (State.updWarp_warp u _ _ Warp.meetRelease fun _ h => h).trans ?_
    rw [if_pos rfl, hu, Option.map_some]
  refine ⟨_, _, hexec, hx, rfl, withResumed_mem { s with gangs := gs } c.w hd _,
    (meetRelease_kept v).lanes.trans (resumed_regs c.w hd _ rtt _), fun l ln hln hl => ?_, fun hin hsome => ?_⟩
  · obtain ⟨lm, hlm, hstand⟩ := exists_getElem?_of_map_eq (meetRelease_stand v).lanes hln
    rw [← resuming_eq] at hl
    exact (congrArg Prod.fst hstand).symm.trans (resumed_pc hr hlm hl)
  · rw [← together_eq c.w hr] at hsome
    exact withResumed_gang (s := { s with gangs := gs }) (lookupBy_none_of_sublist hsub hnew) hin hsome

end Rtt

section Handler
variable {h : Handler} {t : TrapRegs}

theorem index_of_not_wrotePc (hw : h.wrotePc = false) : h.index t = (t.cause.extractLsb' 8 4).toNat := by
  rw [Handler.index, if_neg (by rw [hw]; decide)]

theorem left_of_index_ne_zero (skip : Bool) (hi : h.index t ≠ 0) :
    h.left t skip = if skip = true then h.rest.tail else h.rest := by
  simp [Handler.left, hi]

theorem target_of_index_eq_zero (skip : Bool) (hi : h.index t = 0) : h.target t skip = t.pc := if_pos hi

theorem inside_of_left_ne_nil (skip : Bool) (hi : h.index t ≠ 0) (hl : h.left t skip ≠ []) : h.inside t skip = true := by
  simp [Handler.inside, hi, hl]

end Handler

theorem ite_eq_one_add (m : BitVec 1) (n : Nat) : (if (m == 1) = true then n + 1 else n) = n + m.toNat := by
  rcases BitVec.eq_zero_or_eq_one m with rfl | rfl <;> rfl

/-- Settles O20: RTT leaves the warp without its handler, each lane of it at the handler's target or in the gang that goes on;
the accessors read one lane, or write one lane, and a lane outside the issuing gang stands still while the word retires. -/
theorem handlerWords : Obligations.HandlerWords := by
  refine ⟨fun s c k m hd h hh => ?_, fun s c => ⟨fun k d a b h => ?_, fun k d a h => ?_, fun k d a h => ?_⟩,
    fun s c => ⟨fun k d a b h => ?_, fun k d a h => pwrite_completes h, fun k d a h => ?_⟩⟩
  · intro live index left
    refine ⟨rtt_guardedOut h, rtt_stalls h, fun hk hb hp hr hwrote _ hnew => ?_⟩
    obtain ⟨t, x, hexec, hx, hnone, hmem, hregs, hpc, hgang⟩ := rtt_returns h hh hk hb hp hr hnew
    obtain ⟨-, -, -, -, hwarp⟩ := ctx_facts h.ctx
    have hindex : hd.index c.w.trap = index := index_of_not_wrotePc hwrote
    refine ⟨t, x, hexec, hx, hnone, hmem, hregs, fun hi l ln hln hl => ?_, fun hi hleft hlive => ?_⟩
    · exact (hpc l ln hln hl).trans (target_of_index_eq_zero _ (hindex.trans hi))
    · have hi' : hd.index c.w.trap ≠ 0 := hindex ▸ hi
      have hrest : hd.left c.w.trap (m == 1) = left := by
        rw [left_of_index_ne_zero _ hi']
        simp only [beq_iff_eq, left]
      rw [hgang (inside_of_left_ne_nil _ hi' (hrest ▸ hleft)) hlive]
      simp only [resumedGang, hrest, hindex, ite_eq_one_add, together_eq c.w hr, hwarp, live]
  · have hread := lread_completes h
    simp only [reachable_iff] at hread
    simp only [beq_eq_false_iff_ne]
    exact hread
  · simp only [beq_iff_eq]
    exact pread_completes h
  · simp only [beq_iff_eq]
    exact ⟨mread_completes (h 0), mread_completes (h 1)⟩
  · intro code x reach
    exact ⟨fun hno => lwrite_discarded h fun hk hr => hno ⟨hk, (reachable_iff ..).1 hr⟩,
      fun hk hr hv => lwrite_lane h hk ((reachable_iff ..).2 hr) hv,
      fun hk hr hs => lwrite_uniform h hk ((reachable_iff ..).2 hr) hs⟩
  · intro x
    exact ⟨fun hk b => mwrite_guardedOut (h b) hk, mwrite_meet (h 1), fun hk hd hh hl => mwrite_pc_handlerLane (h 0) hk hh hl,
      fun hk hh hg ln hln hs => mwrite_pc_outside (h 0) hk hh hg hln hs⟩

end Sys2Proof.HandlerProofs
end
